-- ==== Sys2Proof/Word.lean ====
section
/-! DEFINITION. The word types of the device (R9, R16, R92): a 64-bit instruction word, a 32-bit
register word, a byte, and the plainest arithmetic on them. -/

namespace Sys2Proof

/-- A byte of memory (R9). -/
abbrev Byte := BitVec 8

/-- The contents of one register name, 32 bits (R92). -/
abbrev Word := BitVec 32

/-- A 64-bit value: an instruction word (R16), a register pair (R92), an address before it is
checked (R330). -/
abbrev DWord := BitVec 64

/-- A register name x0 to x255 (R92). -/
abbrev Reg := BitVec 8

end Sys2Proof
end

