-- ==== Sys2Proof/Syntax.lean ====
section
/-! DEFINITION. The abstract syntax: one constructor of Instr for each row of spec/opcode_table.json,
the instructions of R42 to R51, the slots of a pair word (R28) and the device's own events
(spec/95_what_each_step_holds.md). Thread, core, job and access numbers name instances in State. -/

namespace Sys2Proof

/-- The fields that every full instruction carries beside its operands (R17): G, GN, H, K, RU and
MOD[8]. A field that an opcode does not use must be zero (WellFormed). -/
structure Ctl where
  g  : BitVec 4
  gn : Bool
  h  : BitVec 2
  k  : Bool
  ru : BitVec 2
  fl : Bool
  deriving DecidableEq, Repr

/-- An immediate: the 8-bit C field, or bits [61:0] of a literal word (R33). -/
inductive Imm where
  | c8 (v : BitVec 8)
  | lit (v : BitVec 62)
  deriving DecidableEq, Repr

/-- The second operand of a form marked I (R137). -/
inductive Src2 where
  | reg (r : Reg)
  | imm (i : Imm)
  deriving DecidableEq, Repr

/-- The operand of a pair slot (R25): I = 0 computes D := D op S, I = 1 computes D := S op imm. -/
inductive PairSrc where
  | reg (s : Reg)
  | imm (s : Reg) (v : BitVec 8)
  deriving DecidableEq, Repr

/-- A clause header (R29). `set0` is none when S0V = 0. `mark` is none when MK = 0. -/
structure Header where
  wait : BitVec 12
  set0 : Option (BitVec 4)
  set1 : Option (BitVec 4)
  len  : BitVec 6
  y    : Bool
  r    : Bool
  mark : Option (BitVec 14)
  deriving DecidableEq, Repr

/-- An address space (R330, R358): its number, its page-table root and its PASID. -/
structure AddrSpace where
  asn   : BitVec 16
  root  : Nat
  pasid : Nat
  deriving DecidableEq, Repr

/-- The answer to an ATS Translation Request (R340): the translated 64 KiB page and the
permissions that the host gives. -/
structure AtsResult where
  page : Nat
  r    : Bool
  w    : Bool
  deriving DecidableEq, Repr

/-- Firmware's default policy as the configuration record holds it (R366, R369): a rank for the launches of
each queue pair (lower goes first, R244), the deadline of each DCLASS, the PRI and remote access timeouts,
times in nanoseconds, and PLIM in watts. -/
structure DefaultPolicy where
  prio     : List (Nat × Nat)
  deadline : List (Nat × Nat)
  pri      : Nat
  remote   : Nat
  plim     : Nat
  deriving DecidableEq, Repr

/-- The parts of the configuration record that act on the machine (R358, R369): whether its
signature is valid, the module number, the enabled dies and cores, the queue pairs granted at bring-up,
firmware's default policy, what it does with an escalated team (R349), and the record's digest. -/
structure ConfigRecord where
  signed   : Bool
  moduleNo : Nat
  dies     : BitVec 4
  cores    : List Nat
  queues   : List (Nat × AddrSpace)
  policy   : DefaultPolicy
  saveTeam : Bool
  digest   : BitVec 256
  deriving DecidableEq, Repr

/-- What the device boots from (R368, R369): the digest of its firmware and the configuration record. -/
structure Boot where
  firmware : BitVec 256
  record   : ConfigRecord
  deriving DecidableEq, Repr

/-- The page that an access from outside reaches (R284): its entry, its first virtual address as Phys holds it, and its
bytes. -/
structure ArrivalPage where
  pte   : Nat
  page  : Nat
  bytes : Nat
  deriving DecidableEq, Repr

/-- The write-backs that can meet an error (R309): a publication and a recall by their numbers, a dirty line of a
private page in a core's L1, and a store or atomic at the host's or another module's home. -/
inductive WriteBack where
  | publication (id : Nat)
  | recall (id : Nat)
  | line (core line : Nat)
  | store (t acc : Nat)
  deriving DecidableEq, Repr

/-- The instructions and events of the device, one constructor per row of the opcode table. An event
acts on the instance that State.cur names (a thread, group, core, launch, queue pair, publication);
its arguments hold what else the outside world or the scheduler chooses. -/
inductive Instr where
  /-- CLAUSE_HEADER (R63). The fetch front end consumes a clause header for a thread: it evaluates WAIT and applies Y, R, MK and MARK, with no issue cycle. -/
  | clauseHeader (h : Header)
  /-- OPERAND_SEND (R107). An operand-send command reaches a source place, which reads the value and sends it to the destination's place. -/
  | operandSend (t seq : Nat) (r : Reg)
  /-- EXECUTE_COMMAND (R107). An execute command runs at the destination's place once every operand has arrived and every older command of the thread there is processed. -/
  | executeCommand (t seq : Nat) (err : Bool)
  /-- TALLOC_GRANT (R176). An allocator grants a waiting talloc in arrival order once enough storage is free; the storage is zeroed and the handle becomes valid. -/
  | tallocGrant (core : Nat) (lvl : BitVec 2)
  /-- JOB_DISPATCH (R181). An engine job is dispatched once no older conflicting job remains and its guard is resolved, and it performs its work. -/
  | jobDispatch (core job : Nat)
  /-- JOB_RETIRE (R185). A job retires when all its writes have performed, and after a passing self-test for accumulator writers; its entry is freed and its flag decremented. -/
  | jobRetire (core job : Nat)
  /-- ARRAY_SELF_TEST (R221). The sequencer tests the array after every 1,024 chunk operations, before each drain, or when idle with a job awaiting retirement. -/
  | arraySelfTest (core : Nat) (failed : BitVec 4)
  /-- ENGINE_FAULT (R347). A job meets a fault after its unit committed and is suspended, keeping its entry and flag; firmware is told. -/
  | engineFault (core job : Nat) (kind : BitVec 4)
  /-- ENGINE_FAULT_RESUME (R347). Firmware resumes a suspended job once its cause is resolved, or traps the team with 0x0C. -/
  | engineFaultResume (core job : Nat) (resolved : Bool)
  /-- MEDLAR_ACTION_START (R277). Medlar starts a fired entry's action once every earlier-fired overlapping action has finished. -/
  | medlarActionStart (lid : Nat) (act : Nat) (frames : List Nat)
  /-- MEDLAR_ACTION_COMPLETE (R276). A timetable action completes, making its range resident and releasing stalled schedule misses. -/
  | medlarActionComplete (lid : Nat) (act : Nat)
  /-- LOAD_RETURN (R293). A load's value is bound from the L1, home, remote or host home and written at its destination's place. -/
  | loadReturn (t acc : Nat)
  /-- STORE_PERFORM (R301). A committed store writes its bytes into the L1, or at a remote or host home, and decrements its flag. -/
  | storePerform (t acc : Nat)
  /-- PUBLISH_DEADLINE (R292). A dirty byte of a shared page reaches 4,096 clk since its store and is published. -/
  | publishDeadline (core line : Nat)
  /-- CLEAN_DROP_DEADLINE (R292). A clean unowned byte of a shared page reaches 4,096 clk since its fill and is dropped. -/
  | cleanDropDeadline (core line : Nat)
  /-- ATOMIC_PERFORM (R302). A committed atom or cas performs at its site, after the issuer publishes its word and owners are revoked, and returns old. -/
  | atomicPerform (t acc : Nat)
  /-- WRITEBACK_ERROR (R309). A write-back meets an uncorrectable error or a refusal, trapping the fence or halting the attributed team with 0x13. -/
  | writebackError (what : WriteBack) (addr : Nat)
  /-- MOVED_REFUSAL (R338). A request refused as moved is translated again and reissued, so it performs exactly once. -/
  | movedRefusal (t acc : Nat)
  /-- TRANSLATION_REQUEST_COMPLETION (R340). The completion of an ATS Translation Request fills the die's address translation cache or leads to a PRI Page Request. -/
  | translationRequestCompletion (die : Nat) (pasid : Nat) (page : Nat) (result : Option AtsResult)
  /-- INVALIDATE_REQUEST (R341). An ATS Invalidate Request drops matching cache entries, waits for translated requests to perform, and sends the Invalidate Completion. -/
  | invalidateRequest (pasid : Nat) (page count : Nat)
  /-- PRG_RESPONSE (R342). A PRG Response of Success makes the device translate again; any other response fails the access. -/
  | prgResponse (pasid : Nat) (page : Nat) (success : Bool)
  /-- PRI_TIMEOUT (R342). No PRG Response within firmware's PRI timeout fails the waiting access. -/
  | priTimeout (pasid : Nat) (page : Nat)
  /-- ROW_OPERATION_START (R323). A row operation begins its microprogram once its ordering conditions hold and it holds its bank's ticket. -/
  | rowOperationStart (t acc : Nat)
  /-- ROW_OPERATION_COMPLETE (R322). A row operation's last command writes the destination and check bits; the ticket and lock are released and its flag is decremented. -/
  | rowOperationComplete (t acc : Nat)
  /-- BANK_COMPUTE_ERROR (R327). A bank core meets an uncorrectable or command fault, raises alert, logs an entry and abandons the work; firmware halts the team with 0x0F. -/
  | bankComputeError (t acc : Nat) (kind : BitVec 4)
  /-- TEAM_RESIDENT (R244). A waiting team becomes resident on a core once slots, groups, barriers and queue storage are available. -/
  | teamResident (lid : Nat) (core c0 : Nat)
  /-- RECORD_REPLICATION (R257). A device of a multi-device launch receives the leader's replicated launch record, checks it and reports ready or refused. -/
  | recordReplication (lid : Nat) (lrec : Nat) (asp : AddrSpace)
  /-- READY_REPORT (R257). The leader receives a device's ready or refused report. -/
  | readyReport (lid : Nat) (didx : Nat) (ready : Bool)
  /-- START_GEN (R258). A device receives start(GEN) and starts its launch, beginning to count elapsed clk. -/
  | startGen (lid : Nat) (gen : Word)
  /-- ABORT_GEN (R258). A device receives abort(GEN) and reports the launch refused with code 8. -/
  | abortGen (lid : Nat) (gen : Word)
  /-- PREEMPTION_REQUEST (R259). Firmware requests pre-emption: no further team becomes resident, wtake returns STOP, and the deadline starts. -/
  | preemptionRequest (lid : Nat) (prec : Nat)
  /-- QUEUE_STOP (R363). A write of STOP stops consumption; STOPPED then reports when consumption has ceased. -/
  | queueStop (q : Nat) (stop : Bool)
  /-- SQTAIL_WRITE (R361). The host writes SQTAIL, offering entries for consumption; an overrun sets ERR. -/
  | sqtailWrite (q : Nat) (v : DWord)
  /-- CQHEAD_WRITE (R362). The host writes CQHEAD, freeing ring room for held completion records. -/
  | cqheadWrite (q : Nat) (v : DWord)
  /-- REGISTER_WRITE (R359). A write to a queue-pair register without behaviour of its own, ignored while EN = 1 for the ring bases and sizes. -/
  | registerWrite (q : Nat) (off : Nat) (v : DWord)
  /-- POWER_WINDOW (R367). At the end of each 10 µs window the limiter compares power with PLIM and withholds issue sets and plane steps as needed. -/
  | powerWindow (watts : Nat)
  /-- TEMPERATURE_LIMIT (R367). A die exceeds its temperature limit, and the limiter withholds issue until it falls below. -/
  | temperatureLimit (die : Nat) (hot : Bool)
  /-- REMOTE_ACCESS_TIMEOUT (R371). A remote request gets no response within the timeout and fails with 0x13 or as a refusal. -/
  | remoteAccessTimeout (t acc : Nat)
  /-- DATA_LOSS (R365). Uncorrectable loss of stored data makes pages non-present, unmaps them and reports them as lost. -/
  | dataLoss (root : Nat) (va : Nat)
  /-- POWER_ON (R372). At power-on the boot ROM verifies firmware, which reads the configuration, trains memory, self-tests and opens the windows. -/
  | powerOn (signed : Bool) (boot : Boot)
  /-- ATTESTATION_REPORT (R369). An attestation report binds a 32-byte host nonce to the firmware and configuration digests under the device identity key. -/
  | attestationReport (nonce : BitVec 256)
  /-- NOP (R79). Takes a sequence number and window entry with no other effect. -/
  | nop (c : Ctl)
  /-- BR (R70). Branches by a signed 32-bit word offset. -/
  | br (c : Ctl) (off : BitVec 32)
  /-- BRC (R71). Compares two 32- or 64-bit registers under a condition code and branches by a 16-bit offset. -/
  | brc (c : Ctl) (cc : BitVec 3) (w64 : Bool) (xd xa : Reg) (off : BitVec 16)
  /-- BRG (R72). Waits for a guard to resolve and branches on its value XOR GN. -/
  | brg (c : Ctl) (off : BitVec 32)
  /-- JMP (R73). Jumps to the address in a register pair. -/
  | jmp (c : Ctl) (xa : Reg)
  /-- CALL (R74). Pushes the return address on the call stack, increments DEPTH and branches by offset. -/
  | call (c : Ctl) (off : BitVec 32)
  /-- CALLR (R74). Calls the address in a register pair. -/
  | callr (c : Ctl) (xa : Reg)
  /-- RET (R75). Loads the return address from the call stack, decrements DEPTH and transfers. -/
  | ret (c : Ctl)
  /-- EXIT (R76). Ends the thread on commit, releasing its lane, lock and slots; may end the group and team. -/
  | exit (c : Ctl)
  /-- REFILL (R77). Pops a work item into a pair and restarts at depth 0, or exits when the queue is empty. -/
  | refill (c : Ctl) (xd : Reg)
  /-- REPACK (R78). Sets the thread's repack key. -/
  | repack (c : Ctl) (xa : Reg)
  /-- YLD (R79). Starts a yield exclusion. -/
  | yld (c : Ctl)
  /-- TRAP (R350). Commits and raises trap instruction 0x10 with imm8 in TINFO. -/
  | trap (c : Ctl) (imm : BitVec 8)
  /-- BRK (R350). Commits and raises breakpoint 0x11. -/
  | brk (c : Ctl)
  /-- ERET (R350). Leaves the handler, resumes at EPC and delivers a pending trap or releases the siblings. -/
  | eret (c : Ctl)
  /-- SHFL_IDX (R83). Meet: receives the value of the lane named by a register. -/
  | shflIdx (c : Ctl) (xd xa xb : Reg)
  /-- SHFL_UP (R83). Meet: receives the value of lane LANE − n. -/
  | shflUp (c : Ctl) (xd xa : Reg) (n : BitVec 8)
  /-- SHFL_DOWN (R83). Meet: receives the value of lane LANE + n. -/
  | shflDown (c : Ctl) (xd xa : Reg) (n : BitVec 8)
  /-- SHFL_XOR (R83). Meet: receives the value of lane LANE XOR n. -/
  | shflXor (c : Ctl) (xd xa : Reg) (n : BitVec 8)
  /-- VOTE_ANY (R84). Meet: writes 1 if any live thread's predicate is non-zero. -/
  | voteAny (c : Ctl) (xd xa : Reg)
  /-- VOTE_ALL (R84). Meet: writes 1 if every live thread's predicate is non-zero. -/
  | voteAll (c : Ctl) (xd xa : Reg)
  /-- VOTE_BALLOT (R84). Meet: writes a mask of live lanes with non-zero predicate. -/
  | voteBallot (c : Ctl) (xd xa : Reg)
  /-- REDUX_ADD (R85). Meet: folds values by wrapping addition in ascending LANE. -/
  | reduxAdd (c : Ctl) (xd xa : Reg)
  /-- REDUX_MIN (R85). Meet: folds values by signed or unsigned minimum. -/
  | reduxMin (c : Ctl) (uns : Bool) (xd xa : Reg)
  /-- REDUX_MAX (R85). Meet: folds values by signed or unsigned maximum. -/
  | reduxMax (c : Ctl) (uns : Bool) (xd xa : Reg)
  /-- REDUX_AND (R85). Meet: folds values by bitwise AND. -/
  | reduxAnd (c : Ctl) (xd xa : Reg)
  /-- REDUX_OR (R85). Meet: folds values by bitwise OR. -/
  | reduxOr (c : Ctl) (xd xa : Reg)
  /-- REDUX_FADD (R85). Meet: folds FP32 values with nearest-even partial sums. -/
  | reduxFadd (c : Ctl) (xd xa : Reg)
  /-- REDUX_FMIN (R85). Meet: folds FP32 values by fmin. -/
  | reduxFmin (c : Ctl) (xd xa : Reg)
  /-- REDUX_FMAX (R85). Meet: folds FP32 values by fmax. -/
  | reduxFmax (c : Ctl) (xd xa : Reg)
  /-- MEET (R86). Waits until every live thread of the group reaches the meet. -/
  | meet (c : Ctl)
  /-- ADD (R140). Adds modulo 2^32. -/
  | add (c : Ctl) (xd xa : Reg) (v : Src2)
  /-- ADD_SAT (R140). Adds with signed saturation. -/
  | addSat (c : Ctl) (xd xa : Reg) (v : Src2)
  /-- SUB (R140). Subtracts modulo 2^32. -/
  | sub (c : Ctl) (xd xa : Reg) (v : Src2)
  /-- SUB_SAT (R140). Subtracts with signed saturation. -/
  | subSat (c : Ctl) (xd xa : Reg) (v : Src2)
  /-- ADDC (R140). Adds with carry in, writing sum and carry to a pair. -/
  | addc (c : Ctl) (xd xa xb xc : Reg)
  /-- MUL (R140). Low 32 bits of a product. -/
  | mul (c : Ctl) (xd xa : Reg) (v : Src2)
  /-- MULH (R140). High 32 bits of a signed or unsigned product. -/
  | mulh (c : Ctl) (uns : Bool) (xd xa : Reg) (v : Src2)
  /-- MAD (R140). 32-bit multiply-add. -/
  | mad (c : Ctl) (xd xa xb xc : Reg)
  /-- MAD_S64 (R140). Signed multiply with 64-bit addend into a pair. -/
  | madS64 (c : Ctl) (xd xa xb xc : Reg)
  /-- MIN (R140). Signed or unsigned minimum. -/
  | min (c : Ctl) (uns : Bool) (xd xa : Reg) (v : Src2)
  /-- MAX (R140). Signed or unsigned maximum. -/
  | max (c : Ctl) (uns : Bool) (xd xa : Reg) (v : Src2)
  /-- ABS (R140). Absolute value. -/
  | abs (c : Ctl) (xd xa : Reg)
  /-- AND (R140). Bitwise AND. -/
  | and (c : Ctl) (xd xa : Reg) (v : Src2)
  /-- OR (R140). Bitwise OR. -/
  | or (c : Ctl) (xd xa : Reg) (v : Src2)
  /-- XOR (R140). Bitwise XOR. -/
  | xor (c : Ctl) (xd xa : Reg) (v : Src2)
  /-- ANDN (R140). AND with the complement of the second operand. -/
  | andn (c : Ctl) (xd xa : Reg) (v : Src2)
  /-- NOT (R140). Bitwise complement. -/
  | not (c : Ctl) (xd xa : Reg)
  /-- SHL (R140). Shift left on 32 or 64 bits. -/
  | shl (c : Ctl) (w64 : Bool) (xd xa : Reg) (v : Src2)
  /-- SHR (R140). Logical shift right. -/
  | shr (c : Ctl) (w64 : Bool) (xd xa : Reg) (v : Src2)
  /-- SAR (R140). Arithmetic shift right. -/
  | sar (c : Ctl) (w64 : Bool) (xd xa : Reg) (v : Src2)
  /-- ROL (R140). Rotate left. -/
  | rol (c : Ctl) (w64 : Bool) (xd xa : Reg) (v : Src2)
  /-- CLZ (R140). Counts leading zeros. -/
  | clz (c : Ctl) (w64 : Bool) (xd xa : Reg)
  /-- POPC (R140). Counts one bits. -/
  | popc (c : Ctl) (w64 : Bool) (xd xa : Reg)
  /-- BREV (R140). Reverses bit order. -/
  | brev (c : Ctl) (w64 : Bool) (xd xa : Reg)
  /-- BFE (R141). Extracts a bit field, signed or unsigned. -/
  | bfe (c : Ctl) (uns : Bool) (xd xa : Reg) (v : Src2)
  /-- BFI (R141). Inserts a bit field. -/
  | bfi (c : Ctl) (xd xa xb xc : Reg)
  /-- PRMT (R141). Permutes bytes of two registers. -/
  | prmt (c : Ctl) (xd xa xb xc : Reg)
  /-- SEL (R140). Selects one of two values by a condition register. -/
  | sel (c : Ctl) (xd xa xb xc : Reg)
  /-- CMP (R140). Writes 1 when an integer condition holds, else 0. -/
  | cmp (c : Ctl) (cc : BitVec 3) (w64 : Bool) (xd xa : Reg) (v : Src2)
  /-- ADD64 (R140). 64-bit addition of pairs or immediate. -/
  | add64 (c : Ctl) (xd xa : Reg) (v : Src2)
  /-- LEA (R140). Adds a scaled signed index to a 64-bit base. -/
  | lea (c : Ctl) (xd xa xb : Reg) (sh : BitVec 3)
  /-- MOV (R140). Copies a register. -/
  | mov (c : Ctl) (xd xa : Reg)
  /-- LI_B32 (R140). Loads a 32-bit immediate. -/
  | liB32 (c : Ctl) (xd : Reg) (imm : Imm)
  /-- LI_B64 (R140). Loads a 64-bit sign-extended immediate into a pair. -/
  | liB64 (c : Ctl) (xd : Reg) (imm : Imm)
  /-- FADD (R143). FP32 addition. -/
  | fadd (c : Ctl) (md : BitVec 6) (xd xa : Reg) (v : Src2)
  /-- FSUB (R143). FP32 subtraction. -/
  | fsub (c : Ctl) (md : BitVec 6) (xd xa : Reg) (v : Src2)
  /-- FMUL (R143). FP32 multiplication. -/
  | fmul (c : Ctl) (md : BitVec 6) (xd xa : Reg) (v : Src2)
  /-- FFMA (R143). FP32 fused multiply-add with one rounding. -/
  | ffma (c : Ctl) (md : BitVec 6) (xd xa xb xc : Reg)
  /-- FMIN (R144). IEEE minimumNumber. -/
  | fmin (c : Ctl) (md : BitVec 6) (xd xa : Reg) (v : Src2)
  /-- FMAX (R144). IEEE maximumNumber. -/
  | fmax (c : Ctl) (md : BitVec 6) (xd xa : Reg) (v : Src2)
  /-- FCMP (R145). Writes 1 when an FP32 condition holds. -/
  | fcmp (c : Ctl) (cc : BitVec 3) (xd xa : Reg) (v : Src2)
  /-- FRCP (R146). Correctly rounded reciprocal. -/
  | frcp (c : Ctl) (md : BitVec 6) (xd xa : Reg)
  /-- FRSQ (R146). Correctly rounded reciprocal square root. -/
  | frsq (c : Ctl) (md : BitVec 6) (xd xa : Reg)
  /-- FSQRT (R146). Correctly rounded square root. -/
  | fsqrt (c : Ctl) (md : BitVec 6) (xd xa : Reg)
  /-- FEX2 (R147). Computes 2^a by the defined algorithm. -/
  | fex2 (c : Ctl) (md : BitVec 6) (xd xa : Reg)
  /-- FLG2 (R148). Computes log2 a by the defined algorithm. -/
  | flg2 (c : Ctl) (md : BitVec 6) (xd xa : Reg)
  /-- FCLS (R149). Writes a one-hot class mask. -/
  | fcls (c : Ctl) (xd xa : Reg)
  /-- FCVT_F32_S32 (R151). Signed integer to FP32. -/
  | fcvtF32S32 (c : Ctl) (xd xa : Reg)
  /-- FCVT_F32_B32 (R151). Unsigned integer to FP32. -/
  | fcvtF32B32 (c : Ctl) (xd xa : Reg)
  /-- FCVT_S32_F32 (R151). FP32 to signed integer, clamped with NV. -/
  | fcvtS32F32 (c : Ctl) (xd xa : Reg)
  /-- FCVT_B32_F32 (R151). FP32 to unsigned integer, clamped with NV. -/
  | fcvtB32F32 (c : Ctl) (xd xa : Reg)
  /-- FCVT_F32_FS (R153). Slot element format to FP32. -/
  | fcvtF32Fs (c : Ctl) (fs : BitVec 3) (xd xa : Reg)
  /-- FCVT_FS_F32 (R152). FP32 to the slot's element format. -/
  | fcvtFsF32 (c : Ctl) (fs : BitVec 3) (xd xa : Reg)
  /-- FCVT_FS_F32_SAT (R152). FP32 to the slot's element format with saturation. -/
  | fcvtFsF32Sat (c : Ctl) (fs : BitVec 3) (xd xa : Reg)
  /-- FCVT_BF16X2_F32 (R151). Two FP32 values to packed BF16. -/
  | fcvtBf16x2F32 (c : Ctl) (xd xa xb : Reg)
  /-- FCVT_BF16X2_F32_SAT (R151). Two FP32 values to packed BF16 with saturation. -/
  | fcvtBf16x2F32Sat (c : Ctl) (xd xa xb : Reg)
  /-- FCVT_F32_BF16 (R151). One BF16 half to FP32. -/
  | fcvtF32Bf16 (c : Ctl) (xd xa : Reg) (hi : Bool)
  /-- FADD2_BF16 (R154). Packed BF16 addition. -/
  | fadd2Bf16 (c : Ctl) (md : BitVec 6) (xd xa xb : Reg)
  /-- FMUL2_BF16 (R154). Packed BF16 multiplication. -/
  | fmul2Bf16 (c : Ctl) (md : BitVec 6) (xd xa xb : Reg)
  /-- FFMA2_BF16 (R154). Packed BF16 fused multiply-add. -/
  | ffma2Bf16 (c : Ctl) (md : BitVec 6) (xd xa xb xc : Reg)
  /-- PLACE (R121). Re-declares a block's place and zeroes it. -/
  | place (c : Ctl) (b : BitVec 8) (pl : BitVec 8)
  /-- RELOC (R122). Re-declares a block's place and moves its values. -/
  | reloc (c : Ctl) (b : BitVec 8) (pl : BitVec 8)
  /-- ANCH (R123). Sets an anchor from a register pair. -/
  | anch (c : Ctl) (an : BitVec 8) (xa : Reg)
  /-- XACQ (R117). Requests the pair's extension lock. -/
  | xacq (c : Ctl)
  /-- XREL (R117). Releases the thread's hold on the extension lock. -/
  | xrel (c : Ctl)
  /-- IXLD (R125). Reads a register named through an index. -/
  | ixld (c : Ctl) (xd xa : Reg) (imm : Imm)
  /-- IXST (R125). Writes a register named through an index. -/
  | ixst (c : Ctl) (xa xb : Reg) (imm : Imm)
  /-- RDS (R126). Reads a special register. -/
  | rds (c : Ctl) (xd : Reg) (sr : BitVec 8)
  /-- WRS (R126). Writes a special register. -/
  | wrs (c : Ctl) (sr : BitVec 8) (xa : Reg)
  /-- LD (R300). Loads 1 to 16 bytes. -/
  | ld (c : Ctl) (sz : BitVec 3) (xd xa : Reg) (off : Imm)
  /-- LDC (R265). Loads and gives the L1 line an expected read count. -/
  | ldc (c : Ctl) (sz : BitVec 2) (n : BitVec 4) (xd xa : Reg) (off : Imm)
  /-- ST (R301). Stores 1 to 16 bytes after commit. -/
  | st (c : Ctl) (sz : BitVec 3) (xa xb : Reg) (off : Imm)
  /-- ATOM_ADD (R303). Atomic add returning the old value. -/
  | atomAdd (c : Ctl) (pl : BitVec 2) (w64 : Bool) (xd xa xb : Reg)
  /-- ATOM_MIN (R303). Atomic signed or unsigned minimum. -/
  | atomMin (c : Ctl) (uns : Bool) (pl : BitVec 2) (w64 : Bool) (xd xa xb : Reg)
  /-- ATOM_MAX (R303). Atomic signed or unsigned maximum. -/
  | atomMax (c : Ctl) (uns : Bool) (pl : BitVec 2) (w64 : Bool) (xd xa xb : Reg)
  /-- ATOM_AND (R303). Atomic AND. -/
  | atomAnd (c : Ctl) (pl : BitVec 2) (w64 : Bool) (xd xa xb : Reg)
  /-- ATOM_OR (R303). Atomic OR. -/
  | atomOr (c : Ctl) (pl : BitVec 2) (w64 : Bool) (xd xa xb : Reg)
  /-- ATOM_XOR (R303). Atomic XOR. -/
  | atomXor (c : Ctl) (pl : BitVec 2) (w64 : Bool) (xd xa xb : Reg)
  /-- ATOM_XCHG (R303). Atomic exchange. -/
  | atomXchg (c : Ctl) (pl : BitVec 2) (w64 : Bool) (xd xa xb : Reg)
  /-- ATOM_FADD (R303). Atomic FP32 add, nearest-even. -/
  | atomFadd (c : Ctl) (pl : BitVec 2) (xd xa xb : Reg)
  /-- CAS (R304). Atomic compare and swap. -/
  | cas (c : Ctl) (pl : BitVec 2) (w64 : Bool) (xd xa xb xc : Reg)
  /-- ACQ (R306). Acquire: drops unowned clean copies and the fetch cache after older loads return. -/
  | acq (c : Ctl)
  /-- REL (R307). Release: publishes every dirty byte of shared pages after older accesses perform. -/
  | rel (c : Ctl)
  /-- FENCE (R308). Release followed by acquire. -/
  | fence (c : Ctl)
  /-- CCLEAN (R313). Writes dirty L1 and L2 bytes of a range to tier memory. -/
  | cclean (c : Ctl) (xa xb : Reg) (off : Imm)
  /-- CINVAL (R313). Drops every cached copy of a range without write-back. -/
  | cinval (c : Ctl) (xa xb : Reg) (off : Imm)
  /-- PREF (R266). Brings a range into its home L2 slices. -/
  | pref (c : Ctl) (xa xb : Reg) (off : Imm)
  /-- TALLOC (R187). Requests granules or an accumulator for a handle at level C or S. -/
  | talloc (c : Ctl) (lvlS : Bool) (hd : BitVec 8) (xv : Reg)
  /-- TFREE (R187). Invalidates a handle and returns its storage after its jobs retire. -/
  | tfree (c : Ctl) (hd : BitVec 8)
  /-- TMAP (R187). Makes a level-M view handle. -/
  | tmap (c : Ctl) (hd : BitVec 8) (xa xv : Reg)
  /-- TCOPY (R188). Copy-engine job copying a rectangle between handles. -/
  | tcopy (c : Ctl) (hd ha : BitVec 8) (xr xo : Reg)
  /-- TLD (R189). Loads one tile element into a register. -/
  | tld (c : Ctl) (xd : Reg) (ha : BitVec 8) (xc : Reg)
  /-- TST (R189). Stores one tile element. -/
  | tst (c : Ctl) (ha : BitVec 8) (xc xb : Reg)
  /-- TFILL (R190). Fills a rectangle with a value. -/
  | tfill (c : Ctl) (hd : BitVec 8) (xr xb : Reg)
  /-- TADD (R191). Element-wise tile addition. -/
  | tadd (c : Ctl) (hd ha hb : BitVec 8)
  /-- TMUL (R191). Element-wise tile multiplication. -/
  | tmul (c : Ctl) (hd ha hb : BitVec 8)
  /-- TFMA (R191). Element-wise tile multiply-add. -/
  | tfma (c : Ctl) (hd ha hb : BitVec 8)
  /-- TCVT (R192). Converts a tile's elements to another format, optionally saturating. -/
  | tcvt (c : Ctl) (sat : Bool) (fs : BitVec 3) (hd ha : BitVec 8)
  /-- TRED_ADD (R193). Reduces a tile along an axis by addition. -/
  | tredAdd (c : Ctl) (axis : Bool) (hd ha : BitVec 8)
  /-- TRED_MAX (R193). Reduces a tile along an axis by maximum. -/
  | tredMax (c : Ctl) (axis : Bool) (hd ha : BitVec 8)
  /-- TRED_MIN (R193). Reduces a tile along an axis by minimum. -/
  | tredMin (c : Ctl) (axis : Bool) (hd ha : BitVec 8)
  /-- TTR (R194). Transposes a tile. -/
  | ttr (c : Ctl) (hd ha : BitVec 8)
  /-- MPLANE (R209). Converts a handle to block-plane form under a slot. -/
  | mplane (c : Ctl) (fs : BitVec 3) (hd ha hs : BitVec 8)
  /-- MMA (R210). Adds a matrix product into the issuing lane's accumulator rows. -/
  | mma (c : Ctl) (hc ha hb : BitVec 8)
  /-- MMAS (R211). Matrix product with occupancy masks. -/
  | mmas (c : Ctl) (hc ha hb : BitVec 8) (xm : Reg)
  /-- GMM (R212). Matrix product trimmed to an expert's shape from a piece descriptor. -/
  | gmm (c : Ctl) (hc ha hb : BitVec 8) (xp : Reg)
  /-- MDRAIN (R214). Drains the lane's accumulator rows into a handle, plainly or through an epilogue program. -/
  | mdrain (c : Ctl) (fs : BitVec 3) (z en : Bool) (prg : BitVec 2) (hd hc : BitVec 8) (xo : Reg)
  /-- MZERO (R213). Zeroes the lane's accumulator rows and ASAT. -/
  | mzero (c : Ctl) (hc : BitVec 8)
  /-- EPILD (R215). Loads and checks an epilogue program store. -/
  | epild (c : Ctl) (n : BitVec 8) (xa : Reg)
  /-- FBIND (R228). Makes a fetch handle bound to a format slot. -/
  | fbind (c : Ctl) (fs : BitVec 3) (hd : BitVec 8) (xa xv : Reg)
  /-- FGET (R232). Gathers and decodes one element per thread through Damson. -/
  | fget (c : Ctl) (xd : Reg) (hf : BitVec 8) (xc : Reg)
  /-- FGETT (R233). Gathers whole decoded rows into a tile by an index handle. -/
  | fgett (c : Ctl) (hd hf hi : BitVec 8) (xq : Reg)
  /-- KSORT (R237). Counts, offsets and stably permutes keys. -/
  | ksort (c : Ctl) (o32 : Bool) (hp hk hc : BitVec 8) (xs : Reg)
  /-- KPACK (R239). Compacts non-zero elements into a stream and bitmap. -/
  | kpack (c : Ctl) (hv hs hb : BitVec 8) (xs : Reg)
  /-- WTAKE (R255). Takes the team's next piece from the distributor, snapshotting the group table at the first call. -/
  | wtake (c : Ctl) (xd : Reg)
  /-- WFIX (R256). Publishes a partial accumulator to its fix-up slot or finishes the tile. -/
  | wfix (c : Ctl) (xd : Reg) (hc : BitVec 8) (xp : Reg)
  /-- QPUSH (R252). Releases and appends an entry to a stage queue, waiting for room. -/
  | qpush (c : Ctl) (q : BitVec 8) (xa : Reg)
  /-- QPOP (R252). Removes the head of a stage queue and acquires. -/
  | qpop (c : Ctl) (xd : Reg) (q : BitVec 8)
  /-- QPOP_ANY (R252). Pops the fullest eligible stage queue and reports which. -/
  | qpopAny (c : Ctl) (xd : Reg)
  /-- BARI (R89). Sets a barrier's count and discards its arrivals. -/
  | bari (c : Ctl) (b : BitVec 8) (cnt : Imm)
  /-- BARR (R89). Arrives at a barrier and returns the phase token. -/
  | barr (c : Ctl) (xd : Reg) (b : BitVec 8)
  /-- BARW (R89). Waits while the barrier's phase equals a token. -/
  | barw (c : Ctl) (b : BitVec 8) (xb : Reg)
  /-- BARS (R89). Arrives and waits for the barrier's phase to change. -/
  | bars (c : Ctl) (b : BitVec 8)
  /-- GSET (R197). Resolves a guard by an integer or FP32 comparison. -/
  | gset (c : Ctl) (cc : BitVec 3) (fp : Bool) (gd : BitVec 8) (xa xb : Reg)
  /-- GRES (R197). Resolves a guard from a register. -/
  | gres (c : Ctl) (gd : BitVec 8) (xa : Reg)
  /-- GRES_OPEN (R197). Sets a guard Open. -/
  | gresOpen (c : Ctl) (gd : BitVec 8)
  /-- GWAIT (R197). Waits while a guard is Open and returns its value. -/
  | gwait (c : Ctl) (xd : Reg) (ga : BitVec 8)
  /-- FWAIT (R201). Waits until the named flags are zero and acquires. -/
  | fwait (c : Ctl) (mask : BitVec 12)
  /-- LEASE (R271). Sets the group's lease or measured mode. -/
  | lease (c : Ctl) (n : BitVec 12)
  /-- ROWMAJ (R320). Writes the bitwise majority of three rows. -/
  | rowmaj (c : Ctl) (xd xa xb xc : Reg)
  /-- ROWAND (R320). Writes the AND of two rows. -/
  | rowand (c : Ctl) (xd xa xb : Reg)
  /-- ROWOR (R320). Writes the OR of two rows. -/
  | rowor (c : Ctl) (xd xa xb : Reg)
  /-- ROWNOT (R320). Writes the complement of a row. -/
  | rownot (c : Ctl) (xd xa : Reg)
  /-- ROWCP (R320). Copies a row. -/
  | rowcp (c : Ctl) (xd xa : Reg)
  /-- BKFENCE (R324). Waits for older row operations, bank jobs and maintenance to complete. -/
  | bkfence (c : Ctl)
  /-- CTXSAVE (R352). Saves the handler's own team as a checkpoint. -/
  | ctxsave (c : Ctl) (xd xa xb : Reg)
  /-- CTXSAVE_TEAM (R352). Firmware halts, saves and frees a selected team. -/
  | ctxsaveTeam (c : Ctl) (xd xa xb xc : Reg)
  /-- CTXLOAD (R355). Restores the handler's own resident team. -/
  | ctxload (c : Ctl) (xd xa : Reg)
  /-- CTXLOAD_TEAM (R355). Firmware makes a saved team resident on a core and restores it. -/
  | ctxloadTeam (c : Ctl) (xd xa xc : Reg)
  /-- TINV_UNMAP (R337). Drops translations of a range, drains them and drops cached copies. -/
  | tinvUnmap (c : Ctl) (xa xb : Reg)
  /-- TINV_DOWNGRADE (R337). Drops translations of a range and writes back dirty bytes under the old permission. -/
  | tinvDowngrade (c : Ctl) (xa xb : Reg)
  /-- TINV_UNMAP_ALL (R337). Unmaps a whole address space. -/
  | tinvUnmapAll (c : Ctl) (xb : Reg)
  /-- SELFTEST_ARRAY (R357). Tests a core's matrix array bands, fencing or unfencing each. -/
  | selftestArray (c : Ctl) (xd xa : Reg)
  /-- SELFTEST_BANK (R357). Tests the compute rows of a bank core's 16 banks. -/
  | selftestBank (c : Ctl) (xd xa : Reg)
  /-- PAIR_ADD (R28). Pair slot addition. -/
  | pairAdd (d : Reg) (o : PairSrc)
  /-- PAIR_SUB (R28). Pair slot subtraction. -/
  | pairSub (d : Reg) (o : PairSrc)
  /-- PAIR_AND (R28). Pair slot AND. -/
  | pairAnd (d : Reg) (o : PairSrc)
  /-- PAIR_OR (R28). Pair slot OR. -/
  | pairOr (d : Reg) (o : PairSrc)
  /-- PAIR_XOR (R28). Pair slot XOR. -/
  | pairXor (d : Reg) (o : PairSrc)
  /-- PAIR_SHL (R28). Pair slot shift left. -/
  | pairShl (d : Reg) (o : PairSrc)
  /-- PAIR_SHR (R28). Pair slot logical shift right. -/
  | pairShr (d : Reg) (o : PairSrc)
  /-- PAIR_SAR (R28). Pair slot arithmetic shift right. -/
  | pairSar (d : Reg) (o : PairSrc)
  /-- PAIR_MIN_S32 (R28). Pair slot signed minimum. -/
  | pairMinS32 (d : Reg) (o : PairSrc)
  /-- PAIR_MIN_B32 (R28). Pair slot unsigned minimum. -/
  | pairMinB32 (d : Reg) (o : PairSrc)
  /-- PAIR_MAX_S32 (R28). Pair slot signed maximum. -/
  | pairMaxS32 (d : Reg) (o : PairSrc)
  /-- PAIR_MAX_B32 (R28). Pair slot unsigned maximum. -/
  | pairMaxB32 (d : Reg) (o : PairSrc)
  /-- PAIR_MOV (R28). Pair slot move. -/
  | pairMov (d : Reg) (o : PairSrc)
  /-- PAIR_FADD (R28). Pair slot FP32 addition. -/
  | pairFadd (d : Reg) (o : PairSrc)
  /-- PAIR_FMUL (R28). Pair slot FP32 multiplication. -/
  | pairFmul (d : Reg) (o : PairSrc)
  /-- PAIR_FMIN (R28). Pair slot FP32 minimum. -/
  | pairFmin (d : Reg) (o : PairSrc)
  /-- PAIR_FMAX (R28). Pair slot FP32 maximum. -/
  | pairFmax (d : Reg) (o : PairSrc)
  /-- REMOTE_OR_HOST_ACCESS_ARRIVAL (R284). An access arrives at a home slice from the host port or from another module, makes an unclaimed page shared or reclassifies a private page, and performs there. -/
  | remoteOrHostAccessArrival (at_ : ArrivalPage) (pa : Nat) (write : Option DWord) (size : Nat)
  /-- QUEUE_PAIR_GRANT (R358). Firmware grants a further queue pair, in answer to a request from host software through the module controller, and binds an address space to it. -/
  | queuePairGrant (q : Nat) (asp : AddrSpace)
  /-- FIRMWARE_LAUNCH_START (R361). Firmware submits a launch on its own, with a LID whose bit 63 is 1, and the launch is checked and run. -/
  | firmwareLaunchStart (num : Nat) (lrec : Nat) (asp : AddrSpace)
  /-- ESCALATED_TEAM_END (R349). Firmware ends a team halted at an escalated trap, after saving it or without saving it, and the team's context is discarded. -/
  | escalatedTeamEnd (team : Nat) (saved : Bool)
  /-- RECOVERY_FIRMWARE_LOAD (R368). In recovery, host software loads a firmware image through the host port's recovery window, and the image is checked against the signature. -/
  | recoveryFirmwareLoad (signed : Bool) (digest : BitVec 256)
  /-- MAINTENANCE_COMPLETION (R313). A cclean or cinval completes, when every write has reached tier memory or every copy has been dropped, and its flag is decremented. -/
  | maintenanceCompletion (t acc : Nat)
  /-- PREF_COMPLETION (R266). A pref completes, when every line of its range has been filled or skipped, and its flag is decremented. -/
  | prefCompletion (t acc : Nat)
  /-- STARVATION (R62). A ready thread's Age reaches 4,096 clk; it becomes starved and joins the cluster's starvation order. -/
  | starvation
  /-- YIELD_EXCLUSION_END (R66). A yield exclusion ends after 64 clk when no issue set without the thread has come first. -/
  | yieldExclusionEnd
  /-- UNIT_COMMIT (R112). A unit commits once it and every older unit of the thread have completed without a trap; FPS flags merge and memory-destination units may perform. -/
  | unitCommit
  /-- TRAP_ROLLBACK (R114). After every older unit has completed, the core broadcasts a rollback from the trapping unit, making the thread precise. -/
  | trapRollback
  /-- MEET_COMPLETE (R80). A meet completes when every live thread of the group waits at a meet at the same address; the results are delivered together. -/
  | meetComplete
  /-- TALLOC_TIMEOUT (R176). A talloc not granted within 4,096 clk raises tile handle invalid, sub-cause 4, and leaves the queue. -/
  | tallocTimeout
  /-- LEASE_EVALUATION (R272). Every 1,024 clk, and after a group becomes resident or ends, the lease unit parks and activates groups. -/
  | leaseEvaluation
  /-- LEASE_QUIET_DECAY (R270). A measured group's quiet count reaches 65,536 clk, so its lease shrinks by one eighth. -/
  | leaseQuietDecay
  /-- PARKED_TIME_EXPIRY (R272). A parked group's parked time reaches 100,000 clk; it is activated and protected regardless of fit. -/
  | parkedTimeExpiry
  /-- PROTECTION_END (R272). A protected group's 16,384 clk of protection from parking ends. -/
  | protectionEnd
  /-- PUBLICATION_REQUEST (R288). A home slice receives a publication: it writes the masked bytes, registers ownership after revocations, and replies with the words. -/
  | publicationRequest
  /-- PUBLICATION_REPLY (R288). The L1 installs the publication reply, marking the words valid, clean and owned. -/
  | publicationReply
  /-- REVOCATION (R289). A core receives a revocation and drops its clean copies of the words, keeping dirty bytes unowned. -/
  | revocation
  /-- REGISTRY_RECALL (R290). A core receives a recall of an evicted registry entry, writes back the dirty bytes unregistered, marks the words unowned and acknowledges. -/
  | registryRecall
  /-- RECLASSIFICATION (R285). A miss on a page private to another core waits for the owner's .grp atomics and write-back, then makes the page shared. -/
  | reclassification
  /-- PAGE_WALK (R332). A walker takes a translation miss from the die's walk queue and walks the five-level tables, waiting on MV entries. -/
  | pageWalk
  /-- LAUNCH_END (R246). Every team has ended and every job retired, so the launch ends with its elapsed clk and slot status. -/
  | launchEnd
  /-- READY_DEADLINE_EXPIRY (R258). Not every device reports within the DCLASS deadline, so the leader sends abort(GEN). -/
  | readyDeadlineExpiry
  /-- PREEMPTION_DEADLINE (R259). The deadline expires with teams still resident, and each is killed with cause 0x12 and reset. -/
  | preemptionDeadline
  /-- SUBMISSION_CONSUME (R361). The device consumes the next submission entry, copies and checks the launch record, or sets ERR for a bad entry. -/
  | submissionConsume
  /-- COMPLETION_RECORD_WRITE (R362). When the ring has room, the device writes a completion record, then its CSEQ, updates LASTDONE and signals MSI-X. -/
  | completionRecordWrite
  /-- QUEUE_ENABLE (R359). A write that sets EN from 0 to 1 enables the queue pair and resets its sequence registers. -/
  | queueEnable
  /-- ERR_CLEAR (R361). A W1C write clears ERR so that consumption may resume. -/
  | errClear
  /-- PORT_DOWN (R371). A scale-up port whose retries fail is taken down, and traffic moves to the remaining ports. -/
  | portDown
  /-- PAIR_PNOP (R28). Pair slot with no effect. -/
  | pairPnop
  /-- DEVICE_RESET (R357). Firmware resets the device, which clears the stored GEN to 0 and returns failed banks to service. -/
  | deviceReset
  /-- FLIT_ERROR (R370). A flit error on a scale-up link is recovered by link-level retry. -/
  | flitError
  deriving DecidableEq, Repr

end Sys2Proof
end

