-- ==== Sys2Proof/WellFormed.lean ====
section
/-! DEFINITION. Which instructions exist: the fields that an opcode uses (R19 to R24), the selector
values and reserved bits (reasons 2 and 3 of R37) and the operand ranges (R18, reason 7). -/

namespace Sys2Proof

/-- The fields of R17 that an opcode uses beside its operands: the guard (R19), H (R20), K (R22) and
the flag choice of a long-latency operation (R24). -/
structure Uses where
  guard : Bool
  hint  : Bool
  kill  : Bool
  long  : Bool
  deriving DecidableEq, Repr

/-- An even register name, the first of a pair (R18). -/
def ev (r : Reg) : Bool := !r.getLsbD 0

/-- A name that is a multiple of 4 (R264, R298, R250). -/
def quad (r : Reg) : Bool := r.extractLsb' 0 2 == 0

/-- A handle number h0 to h63 (R18). -/
def hOk (h : BitVec 8) : Bool := h.toNat < 64

/-- A barrier number b0 to b95 (R18). -/
def bOk (b : BitVec 8) : Bool := b.toNat < 96

/-- A guard operand g1 to g15 (R196). -/
def gOk (g : BitVec 8) : Bool := g.toNat != 0 && g.toNat < 16

/-- The special registers that the device has (R104). -/
def srOk (sr : BitVec 8) : Bool :=
  let n := sr.toNat
  n < 0x0D || n == 0x10 || n == 0x11 || (0x18 ≤ n && n ≤ 0x20) || (0x28 ≤ n && n ≤ 0x2A)

/-- The special registers of 64 bits (R104). -/
def srWide (sr : BitVec 8) : Bool :=
  let n := sr.toNat
  (0x1C ≤ n && n ≤ 0x1F) || n == 0x29 || n == 0x2A

/-- The C field of an immediate operand: zero beside a literal (R33). -/
def Imm.cField : Imm → BitVec 8
  | .c8 v => v
  | .lit _ => 0

/-- The literal word of an immediate operand (R33). -/
def Imm.lit? : Imm → Option (BitVec 62)
  | .c8 _ => none
  | .lit v => some v

/-- The B field of a second operand: zero with I = 1 (R137). -/
def Src2.bField : Src2 → BitVec 8
  | .reg r => r
  | .imm _ => 0

/-- The C field of a second operand: reserved with I = 0 (R137). -/
def Src2.cField : Src2 → BitVec 8
  | .reg _ => 0
  | .imm i => i.cField

/-- The literal of a second operand (R137). -/
def Src2.lit? : Src2 → Option (BitVec 62)
  | .reg _ => none
  | .imm i => i.lit?

/-- The modifier I, MOD[7] (R137). -/
def Src2.iBit : Src2 → BitVec 1
  | .reg _ => 0
  | .imm _ => 1

/-- Whether the second operand is a register. -/
def Src2.isReg : Src2 → Bool
  | .reg _ => true
  | .imm _ => false

/-- A condition on the register of a second operand, true of an immediate. -/
def Src2.all (p : Reg → Bool) : Src2 → Bool
  | .reg r => p r
  | .imm _ => true

/-- The required zero bits of a shift immediate (R137). -/
def shiftOk (w64 : Bool) : Src2 → Bool
  | .reg _ => true
  | .imm (.c8 v) => v.toNat < (if w64 then 64 else 32)
  | .imm (.lit v) => v.toNat < (if w64 then 64 else 32)

/-- The value of a barrier count (R88): 1 to 512. -/
def cntOk : Imm → Bool
  | .c8 v => v.toNat != 0
  | .lit v => (v.toNat % 2 ^ 32) != 0 && v.toNat % 2 ^ 32 ≤ 512

/-- The register operand of a load or store of size sz (R298, R300): even for 64 bits, a multiple of
4 for 128 bits. -/
def szOk (sz : BitVec 3) (r : Reg) : Bool :=
  if sz == 5 then ev r else if sz == 6 then quad r else true

/-- The fields that each opcode uses (R19 to R24, R46 to R51); none for a device event and for a
pair slot. G and GN may guard `gwait` (DESIGN CHOICE, log 60: R197 names only `gset` and `gres`, and R19 does not
list it). -/
def Instr.uses : Instr → Option Uses
  | .nop _ => some ⟨false, false, false, false⟩
  | .br _ _ => some ⟨false, false, false, false⟩
  | .brc _ _ _ _ _ _ => some ⟨false, false, false, false⟩
  | .brg _ _ => some ⟨true, false, false, false⟩
  | .jmp _ _ => some ⟨false, false, false, false⟩
  | .call _ _ => some ⟨false, false, false, false⟩
  | .callr _ _ => some ⟨false, false, false, false⟩
  | .ret _ => some ⟨false, false, false, false⟩
  | .exit _ => some ⟨false, false, false, false⟩
  | .refill _ _ => some ⟨false, false, true, false⟩
  | .repack _ _ => some ⟨false, false, false, false⟩
  | .yld _ => some ⟨false, false, false, false⟩
  | .trap _ _ => some ⟨false, false, false, false⟩
  | .brk _ => some ⟨false, false, false, false⟩
  | .eret _ => some ⟨false, false, false, false⟩
  | .shflIdx _ _ _ _ => some ⟨false, false, true, false⟩
  | .shflUp _ _ _ _ => some ⟨false, false, true, false⟩
  | .shflDown _ _ _ _ => some ⟨false, false, true, false⟩
  | .shflXor _ _ _ _ => some ⟨false, false, true, false⟩
  | .voteAny _ _ _ => some ⟨false, false, true, false⟩
  | .voteAll _ _ _ => some ⟨false, false, true, false⟩
  | .voteBallot _ _ _ => some ⟨false, false, true, false⟩
  | .reduxAdd _ _ _ => some ⟨false, false, true, false⟩
  | .reduxMin _ _ _ _ => some ⟨false, false, true, false⟩
  | .reduxMax _ _ _ _ => some ⟨false, false, true, false⟩
  | .reduxAnd _ _ _ => some ⟨false, false, true, false⟩
  | .reduxOr _ _ _ => some ⟨false, false, true, false⟩
  | .reduxFadd _ _ _ => some ⟨false, false, true, false⟩
  | .reduxFmin _ _ _ => some ⟨false, false, true, false⟩
  | .reduxFmax _ _ _ => some ⟨false, false, true, false⟩
  | .meet _ => some ⟨false, false, false, false⟩
  | .add _ _ _ _ => some ⟨true, false, true, false⟩
  | .addSat _ _ _ _ => some ⟨true, false, true, false⟩
  | .sub _ _ _ _ => some ⟨true, false, true, false⟩
  | .subSat _ _ _ _ => some ⟨true, false, true, false⟩
  | .addc _ _ _ _ _ => some ⟨true, false, true, false⟩
  | .mul _ _ _ _ => some ⟨true, false, true, false⟩
  | .mulh _ _ _ _ _ => some ⟨true, false, true, false⟩
  | .mad _ _ _ _ _ => some ⟨true, false, true, false⟩
  | .madS64 _ _ _ _ _ => some ⟨true, false, true, false⟩
  | .min _ _ _ _ _ => some ⟨true, false, true, false⟩
  | .max _ _ _ _ _ => some ⟨true, false, true, false⟩
  | .abs _ _ _ => some ⟨true, false, true, false⟩
  | .and _ _ _ _ => some ⟨true, false, true, false⟩
  | .or _ _ _ _ => some ⟨true, false, true, false⟩
  | .xor _ _ _ _ => some ⟨true, false, true, false⟩
  | .andn _ _ _ _ => some ⟨true, false, true, false⟩
  | .not _ _ _ => some ⟨true, false, true, false⟩
  | .shl _ _ _ _ _ => some ⟨true, false, true, false⟩
  | .shr _ _ _ _ _ => some ⟨true, false, true, false⟩
  | .sar _ _ _ _ _ => some ⟨true, false, true, false⟩
  | .rol _ _ _ _ _ => some ⟨true, false, true, false⟩
  | .clz _ _ _ _ => some ⟨true, false, true, false⟩
  | .popc _ _ _ _ => some ⟨true, false, true, false⟩
  | .brev _ _ _ _ => some ⟨true, false, true, false⟩
  | .bfe _ _ _ _ _ => some ⟨true, false, true, false⟩
  | .bfi _ _ _ _ _ => some ⟨true, false, true, false⟩
  | .prmt _ _ _ _ _ => some ⟨true, false, true, false⟩
  | .sel _ _ _ _ _ => some ⟨true, false, true, false⟩
  | .cmp _ _ _ _ _ _ => some ⟨true, false, true, false⟩
  | .add64 _ _ _ _ => some ⟨true, false, true, false⟩
  | .lea _ _ _ _ _ => some ⟨true, false, true, false⟩
  | .mov _ _ _ => some ⟨true, false, true, false⟩
  | .liB32 _ _ _ => some ⟨true, false, true, false⟩
  | .liB64 _ _ _ => some ⟨true, false, true, false⟩
  | .fadd _ _ _ _ _ => some ⟨true, false, true, false⟩
  | .fsub _ _ _ _ _ => some ⟨true, false, true, false⟩
  | .fmul _ _ _ _ _ => some ⟨true, false, true, false⟩
  | .ffma _ _ _ _ _ _ => some ⟨true, false, true, false⟩
  | .fmin _ _ _ _ _ => some ⟨true, false, true, false⟩
  | .fmax _ _ _ _ _ => some ⟨true, false, true, false⟩
  | .fcmp _ _ _ _ _ => some ⟨true, false, true, false⟩
  | .frcp _ _ _ _ => some ⟨true, false, true, false⟩
  | .frsq _ _ _ _ => some ⟨true, false, true, false⟩
  | .fsqrt _ _ _ _ => some ⟨true, false, true, false⟩
  | .fex2 _ _ _ _ => some ⟨true, false, true, false⟩
  | .flg2 _ _ _ _ => some ⟨true, false, true, false⟩
  | .fcls _ _ _ => some ⟨true, false, true, false⟩
  | .fcvtF32S32 _ _ _ => some ⟨true, false, true, false⟩
  | .fcvtF32B32 _ _ _ => some ⟨true, false, true, false⟩
  | .fcvtS32F32 _ _ _ => some ⟨true, false, true, false⟩
  | .fcvtB32F32 _ _ _ => some ⟨true, false, true, false⟩
  | .fcvtF32Fs _ _ _ _ => some ⟨true, false, true, false⟩
  | .fcvtFsF32 _ _ _ _ => some ⟨true, false, true, false⟩
  | .fcvtFsF32Sat _ _ _ _ => some ⟨true, false, true, false⟩
  | .fcvtBf16x2F32 _ _ _ _ => some ⟨true, false, true, false⟩
  | .fcvtBf16x2F32Sat _ _ _ _ => some ⟨true, false, true, false⟩
  | .fcvtF32Bf16 _ _ _ _ => some ⟨true, false, true, false⟩
  | .fadd2Bf16 _ _ _ _ _ => some ⟨true, false, true, false⟩
  | .fmul2Bf16 _ _ _ _ _ => some ⟨true, false, true, false⟩
  | .ffma2Bf16 _ _ _ _ _ _ => some ⟨true, false, true, false⟩
  | .place _ _ _ => some ⟨true, false, false, false⟩
  | .reloc _ _ _ => some ⟨true, false, false, false⟩
  | .anch _ _ _ => some ⟨true, false, false, false⟩
  | .xacq _ => some ⟨true, false, false, false⟩
  | .xrel _ => some ⟨true, false, false, false⟩
  | .ixld _ _ _ _ => some ⟨true, false, true, false⟩
  | .ixst _ _ _ _ => some ⟨true, false, false, false⟩
  | .rds _ _ _ => some ⟨true, false, true, false⟩
  | .wrs _ _ _ => some ⟨true, false, false, false⟩
  | .ld _ _ _ _ _ => some ⟨true, true, true, true⟩
  | .ldc _ _ _ _ _ _ => some ⟨true, true, true, true⟩
  | .st _ _ _ _ _ => some ⟨true, true, false, true⟩
  | .atomAdd _ _ _ _ _ _ => some ⟨true, false, true, true⟩
  | .atomMin _ _ _ _ _ _ _ => some ⟨true, false, true, true⟩
  | .atomMax _ _ _ _ _ _ _ => some ⟨true, false, true, true⟩
  | .atomAnd _ _ _ _ _ _ => some ⟨true, false, true, true⟩
  | .atomOr _ _ _ _ _ _ => some ⟨true, false, true, true⟩
  | .atomXor _ _ _ _ _ _ => some ⟨true, false, true, true⟩
  | .atomXchg _ _ _ _ _ _ => some ⟨true, false, true, true⟩
  | .atomFadd _ _ _ _ _ => some ⟨true, false, true, true⟩
  | .cas _ _ _ _ _ _ _ => some ⟨true, false, true, true⟩
  | .acq _ => some ⟨true, false, false, false⟩
  | .rel _ => some ⟨true, false, false, false⟩
  | .fence _ => some ⟨true, false, false, false⟩
  | .cclean _ _ _ _ => some ⟨true, false, false, true⟩
  | .cinval _ _ _ _ => some ⟨true, false, false, true⟩
  | .pref _ _ _ _ => some ⟨true, true, false, true⟩
  | .talloc _ _ _ _ => some ⟨true, false, false, false⟩
  | .tfree _ _ => some ⟨true, false, false, false⟩
  | .tmap _ _ _ _ => some ⟨true, false, false, false⟩
  | .tcopy _ _ _ _ _ => some ⟨true, true, false, true⟩
  | .tld _ _ _ _ => some ⟨true, false, true, true⟩
  | .tst _ _ _ _ => some ⟨true, false, false, true⟩
  | .tfill _ _ _ _ => some ⟨true, false, false, true⟩
  | .tadd _ _ _ _ => some ⟨true, false, false, true⟩
  | .tmul _ _ _ _ => some ⟨true, false, false, true⟩
  | .tfma _ _ _ _ => some ⟨true, false, false, true⟩
  | .tcvt _ _ _ _ _ => some ⟨true, false, false, true⟩
  | .tredAdd _ _ _ _ => some ⟨true, false, false, true⟩
  | .tredMax _ _ _ _ => some ⟨true, false, false, true⟩
  | .tredMin _ _ _ _ => some ⟨true, false, false, true⟩
  | .ttr _ _ _ => some ⟨true, false, false, true⟩
  | .mplane _ _ _ _ _ => some ⟨true, false, false, true⟩
  | .mma _ _ _ _ => some ⟨true, false, false, true⟩
  | .mmas _ _ _ _ _ => some ⟨true, false, false, true⟩
  | .gmm _ _ _ _ _ => some ⟨true, false, false, true⟩
  | .mdrain _ _ _ _ _ _ _ _ => some ⟨true, false, false, true⟩
  | .mzero _ _ => some ⟨true, false, false, true⟩
  | .epild _ _ _ => some ⟨true, false, false, true⟩
  | .fbind _ _ _ _ _ => some ⟨true, false, false, false⟩
  | .fget _ _ _ _ => some ⟨true, true, true, true⟩
  | .fgett _ _ _ _ _ => some ⟨true, true, false, true⟩
  | .ksort _ _ _ _ _ _ => some ⟨true, false, false, true⟩
  | .kpack _ _ _ _ _ => some ⟨true, false, false, true⟩
  | .wtake _ _ => some ⟨true, false, true, true⟩
  | .wfix _ _ _ _ => some ⟨true, false, true, true⟩
  | .qpush _ _ _ => some ⟨true, false, false, true⟩
  | .qpop _ _ _ => some ⟨true, false, true, true⟩
  | .qpopAny _ _ => some ⟨true, false, true, true⟩
  | .bari _ _ _ => some ⟨true, false, false, false⟩
  | .barr _ _ _ => some ⟨true, false, true, false⟩
  | .barw _ _ _ => some ⟨true, false, false, false⟩
  | .bars _ _ => some ⟨true, false, false, false⟩
  | .gset _ _ _ _ _ _ => some ⟨true, false, false, false⟩
  | .gres _ _ _ => some ⟨true, false, false, false⟩
  | .gresOpen _ _ => some ⟨true, false, false, false⟩
  | .gwait _ _ _ => some ⟨true, false, true, false⟩
  | .fwait _ _ => some ⟨true, false, false, false⟩
  | .lease _ _ => some ⟨true, false, false, false⟩
  | .rowmaj _ _ _ _ _ => some ⟨true, false, false, true⟩
  | .rowand _ _ _ _ => some ⟨true, false, false, true⟩
  | .rowor _ _ _ _ => some ⟨true, false, false, true⟩
  | .rownot _ _ _ => some ⟨true, false, false, true⟩
  | .rowcp _ _ _ => some ⟨true, false, false, true⟩
  | .bkfence _ => some ⟨true, false, false, true⟩
  | .ctxsave _ _ _ _ => some ⟨false, false, true, true⟩
  | .ctxsaveTeam _ _ _ _ _ => some ⟨false, false, true, true⟩
  | .ctxload _ _ _ => some ⟨false, false, true, true⟩
  | .ctxloadTeam _ _ _ _ => some ⟨false, false, true, true⟩
  | .tinvUnmap _ _ _ => some ⟨false, false, false, false⟩
  | .tinvDowngrade _ _ _ => some ⟨false, false, false, false⟩
  | .tinvUnmapAll _ _ => some ⟨false, false, false, false⟩
  | .selftestArray _ _ _ => some ⟨false, false, true, false⟩
  | .selftestBank _ _ _ => some ⟨false, false, true, false⟩
  | .clauseHeader _ => none
  | .operandSend _ _ _ => none
  | .executeCommand _ _ _ => none
  | .tallocGrant _ _ => none
  | .jobDispatch _ _ => none
  | .jobRetire _ _ => none
  | .arraySelfTest _ _ => none
  | .engineFault _ _ _ => none
  | .engineFaultResume _ _ _ => none
  | .medlarActionStart _ _ _ => none
  | .medlarActionComplete _ _ => none
  | .loadReturn _ _ => none
  | .storePerform _ _ => none
  | .publishDeadline _ _ => none
  | .cleanDropDeadline _ _ => none
  | .atomicPerform _ _ => none
  | .writebackError _ _ => none
  | .movedRefusal _ _ => none
  | .translationRequestCompletion _ _ _ _ => none
  | .invalidateRequest _ _ _ => none
  | .prgResponse _ _ _ => none
  | .priTimeout _ _ => none
  | .rowOperationStart _ _ => none
  | .rowOperationComplete _ _ => none
  | .bankComputeError _ _ _ => none
  | .teamResident _ _ _ => none
  | .recordReplication _ _ _ => none
  | .readyReport _ _ _ => none
  | .startGen _ _ => none
  | .abortGen _ _ => none
  | .preemptionRequest _ _ => none
  | .queueStop _ _ => none
  | .sqtailWrite _ _ => none
  | .cqheadWrite _ _ => none
  | .registerWrite _ _ _ => none
  | .powerWindow _ => none
  | .temperatureLimit _ _ => none
  | .remoteAccessTimeout _ _ => none
  | .dataLoss _ _ => none
  | .powerOn _ _ => none
  | .attestationReport _ => none
  | .pairAdd _ _ => none
  | .pairSub _ _ => none
  | .pairAnd _ _ => none
  | .pairOr _ _ => none
  | .pairXor _ _ => none
  | .pairShl _ _ => none
  | .pairShr _ _ => none
  | .pairSar _ _ => none
  | .pairMinS32 _ _ => none
  | .pairMinB32 _ _ => none
  | .pairMaxS32 _ _ => none
  | .pairMaxB32 _ _ => none
  | .pairMov _ _ => none
  | .pairFadd _ _ => none
  | .pairFmul _ _ => none
  | .pairFmin _ _ => none
  | .pairFmax _ _ => none
  | .remoteOrHostAccessArrival _ _ _ _ => none
  | .queuePairGrant _ _ => none
  | .firmwareLaunchStart _ _ _ => none
  | .escalatedTeamEnd _ _ => none
  | .recoveryFirmwareLoad _ _ => none
  | .maintenanceCompletion _ _ => none
  | .prefCompletion _ _ => none
  | .starvation => none
  | .yieldExclusionEnd => none
  | .unitCommit => none
  | .trapRollback => none
  | .meetComplete => none
  | .tallocTimeout => none
  | .leaseEvaluation => none
  | .leaseQuietDecay => none
  | .parkedTimeExpiry => none
  | .protectionEnd => none
  | .publicationRequest => none
  | .publicationReply => none
  | .revocation => none
  | .registryRecall => none
  | .reclassification => none
  | .pageWalk => none
  | .launchEnd => none
  | .readyDeadlineExpiry => none
  | .preemptionDeadline => none
  | .submissionConsume => none
  | .completionRecordWrite => none
  | .queueEnable => none
  | .errClear => none
  | .portDown => none
  | .pairPnop => none
  | .deviceReset => none
  | .flitError => none

/-- The common fields of a full instruction; all zero for an event or a pair slot. -/
def Instr.ctl : Instr → Ctl
  | .nop c => c
  | .br c _ => c
  | .brc c _ _ _ _ _ => c
  | .brg c _ => c
  | .jmp c _ => c
  | .call c _ => c
  | .callr c _ => c
  | .ret c => c
  | .exit c => c
  | .refill c _ => c
  | .repack c _ => c
  | .yld c => c
  | .trap c _ => c
  | .brk c => c
  | .eret c => c
  | .shflIdx c _ _ _ => c
  | .shflUp c _ _ _ => c
  | .shflDown c _ _ _ => c
  | .shflXor c _ _ _ => c
  | .voteAny c _ _ => c
  | .voteAll c _ _ => c
  | .voteBallot c _ _ => c
  | .reduxAdd c _ _ => c
  | .reduxMin c _ _ _ => c
  | .reduxMax c _ _ _ => c
  | .reduxAnd c _ _ => c
  | .reduxOr c _ _ => c
  | .reduxFadd c _ _ => c
  | .reduxFmin c _ _ => c
  | .reduxFmax c _ _ => c
  | .meet c => c
  | .add c _ _ _ => c
  | .addSat c _ _ _ => c
  | .sub c _ _ _ => c
  | .subSat c _ _ _ => c
  | .addc c _ _ _ _ => c
  | .mul c _ _ _ => c
  | .mulh c _ _ _ _ => c
  | .mad c _ _ _ _ => c
  | .madS64 c _ _ _ _ => c
  | .min c _ _ _ _ => c
  | .max c _ _ _ _ => c
  | .abs c _ _ => c
  | .and c _ _ _ => c
  | .or c _ _ _ => c
  | .xor c _ _ _ => c
  | .andn c _ _ _ => c
  | .not c _ _ => c
  | .shl c _ _ _ _ => c
  | .shr c _ _ _ _ => c
  | .sar c _ _ _ _ => c
  | .rol c _ _ _ _ => c
  | .clz c _ _ _ => c
  | .popc c _ _ _ => c
  | .brev c _ _ _ => c
  | .bfe c _ _ _ _ => c
  | .bfi c _ _ _ _ => c
  | .prmt c _ _ _ _ => c
  | .sel c _ _ _ _ => c
  | .cmp c _ _ _ _ _ => c
  | .add64 c _ _ _ => c
  | .lea c _ _ _ _ => c
  | .mov c _ _ => c
  | .liB32 c _ _ => c
  | .liB64 c _ _ => c
  | .fadd c _ _ _ _ => c
  | .fsub c _ _ _ _ => c
  | .fmul c _ _ _ _ => c
  | .ffma c _ _ _ _ _ => c
  | .fmin c _ _ _ _ => c
  | .fmax c _ _ _ _ => c
  | .fcmp c _ _ _ _ => c
  | .frcp c _ _ _ => c
  | .frsq c _ _ _ => c
  | .fsqrt c _ _ _ => c
  | .fex2 c _ _ _ => c
  | .flg2 c _ _ _ => c
  | .fcls c _ _ => c
  | .fcvtF32S32 c _ _ => c
  | .fcvtF32B32 c _ _ => c
  | .fcvtS32F32 c _ _ => c
  | .fcvtB32F32 c _ _ => c
  | .fcvtF32Fs c _ _ _ => c
  | .fcvtFsF32 c _ _ _ => c
  | .fcvtFsF32Sat c _ _ _ => c
  | .fcvtBf16x2F32 c _ _ _ => c
  | .fcvtBf16x2F32Sat c _ _ _ => c
  | .fcvtF32Bf16 c _ _ _ => c
  | .fadd2Bf16 c _ _ _ _ => c
  | .fmul2Bf16 c _ _ _ _ => c
  | .ffma2Bf16 c _ _ _ _ _ => c
  | .place c _ _ => c
  | .reloc c _ _ => c
  | .anch c _ _ => c
  | .xacq c => c
  | .xrel c => c
  | .ixld c _ _ _ => c
  | .ixst c _ _ _ => c
  | .rds c _ _ => c
  | .wrs c _ _ => c
  | .ld c _ _ _ _ => c
  | .ldc c _ _ _ _ _ => c
  | .st c _ _ _ _ => c
  | .atomAdd c _ _ _ _ _ => c
  | .atomMin c _ _ _ _ _ _ => c
  | .atomMax c _ _ _ _ _ _ => c
  | .atomAnd c _ _ _ _ _ => c
  | .atomOr c _ _ _ _ _ => c
  | .atomXor c _ _ _ _ _ => c
  | .atomXchg c _ _ _ _ _ => c
  | .atomFadd c _ _ _ _ => c
  | .cas c _ _ _ _ _ _ => c
  | .acq c => c
  | .rel c => c
  | .fence c => c
  | .cclean c _ _ _ => c
  | .cinval c _ _ _ => c
  | .pref c _ _ _ => c
  | .talloc c _ _ _ => c
  | .tfree c _ => c
  | .tmap c _ _ _ => c
  | .tcopy c _ _ _ _ => c
  | .tld c _ _ _ => c
  | .tst c _ _ _ => c
  | .tfill c _ _ _ => c
  | .tadd c _ _ _ => c
  | .tmul c _ _ _ => c
  | .tfma c _ _ _ => c
  | .tcvt c _ _ _ _ => c
  | .tredAdd c _ _ _ => c
  | .tredMax c _ _ _ => c
  | .tredMin c _ _ _ => c
  | .ttr c _ _ => c
  | .mplane c _ _ _ _ => c
  | .mma c _ _ _ => c
  | .mmas c _ _ _ _ => c
  | .gmm c _ _ _ _ => c
  | .mdrain c _ _ _ _ _ _ _ => c
  | .mzero c _ => c
  | .epild c _ _ => c
  | .fbind c _ _ _ _ => c
  | .fget c _ _ _ => c
  | .fgett c _ _ _ _ => c
  | .ksort c _ _ _ _ _ => c
  | .kpack c _ _ _ _ => c
  | .wtake c _ => c
  | .wfix c _ _ _ => c
  | .qpush c _ _ => c
  | .qpop c _ _ => c
  | .qpopAny c _ => c
  | .bari c _ _ => c
  | .barr c _ _ => c
  | .barw c _ _ => c
  | .bars c _ => c
  | .gset c _ _ _ _ _ => c
  | .gres c _ _ => c
  | .gresOpen c _ => c
  | .gwait c _ _ => c
  | .fwait c _ => c
  | .lease c _ => c
  | .rowmaj c _ _ _ _ => c
  | .rowand c _ _ _ => c
  | .rowor c _ _ _ => c
  | .rownot c _ _ => c
  | .rowcp c _ _ => c
  | .bkfence c => c
  | .ctxsave c _ _ _ => c
  | .ctxsaveTeam c _ _ _ _ => c
  | .ctxload c _ _ => c
  | .ctxloadTeam c _ _ _ => c
  | .tinvUnmap c _ _ => c
  | .tinvDowngrade c _ _ => c
  | .tinvUnmapAll c _ => c
  | .selftestArray c _ _ => c
  | .selftestBank c _ _ => c
  | .clauseHeader _ => ⟨0, false, 0, false, 0, false⟩
  | .operandSend _ _ _ => ⟨0, false, 0, false, 0, false⟩
  | .executeCommand _ _ _ => ⟨0, false, 0, false, 0, false⟩
  | .tallocGrant _ _ => ⟨0, false, 0, false, 0, false⟩
  | .jobDispatch _ _ => ⟨0, false, 0, false, 0, false⟩
  | .jobRetire _ _ => ⟨0, false, 0, false, 0, false⟩
  | .arraySelfTest _ _ => ⟨0, false, 0, false, 0, false⟩
  | .engineFault _ _ _ => ⟨0, false, 0, false, 0, false⟩
  | .engineFaultResume _ _ _ => ⟨0, false, 0, false, 0, false⟩
  | .medlarActionStart _ _ _ => ⟨0, false, 0, false, 0, false⟩
  | .medlarActionComplete _ _ => ⟨0, false, 0, false, 0, false⟩
  | .loadReturn _ _ => ⟨0, false, 0, false, 0, false⟩
  | .storePerform _ _ => ⟨0, false, 0, false, 0, false⟩
  | .publishDeadline _ _ => ⟨0, false, 0, false, 0, false⟩
  | .cleanDropDeadline _ _ => ⟨0, false, 0, false, 0, false⟩
  | .atomicPerform _ _ => ⟨0, false, 0, false, 0, false⟩
  | .writebackError _ _ => ⟨0, false, 0, false, 0, false⟩
  | .movedRefusal _ _ => ⟨0, false, 0, false, 0, false⟩
  | .translationRequestCompletion _ _ _ _ => ⟨0, false, 0, false, 0, false⟩
  | .invalidateRequest _ _ _ => ⟨0, false, 0, false, 0, false⟩
  | .prgResponse _ _ _ => ⟨0, false, 0, false, 0, false⟩
  | .priTimeout _ _ => ⟨0, false, 0, false, 0, false⟩
  | .rowOperationStart _ _ => ⟨0, false, 0, false, 0, false⟩
  | .rowOperationComplete _ _ => ⟨0, false, 0, false, 0, false⟩
  | .bankComputeError _ _ _ => ⟨0, false, 0, false, 0, false⟩
  | .teamResident _ _ _ => ⟨0, false, 0, false, 0, false⟩
  | .recordReplication _ _ _ => ⟨0, false, 0, false, 0, false⟩
  | .readyReport _ _ _ => ⟨0, false, 0, false, 0, false⟩
  | .startGen _ _ => ⟨0, false, 0, false, 0, false⟩
  | .abortGen _ _ => ⟨0, false, 0, false, 0, false⟩
  | .preemptionRequest _ _ => ⟨0, false, 0, false, 0, false⟩
  | .queueStop _ _ => ⟨0, false, 0, false, 0, false⟩
  | .sqtailWrite _ _ => ⟨0, false, 0, false, 0, false⟩
  | .cqheadWrite _ _ => ⟨0, false, 0, false, 0, false⟩
  | .registerWrite _ _ _ => ⟨0, false, 0, false, 0, false⟩
  | .powerWindow _ => ⟨0, false, 0, false, 0, false⟩
  | .temperatureLimit _ _ => ⟨0, false, 0, false, 0, false⟩
  | .remoteAccessTimeout _ _ => ⟨0, false, 0, false, 0, false⟩
  | .dataLoss _ _ => ⟨0, false, 0, false, 0, false⟩
  | .powerOn _ _ => ⟨0, false, 0, false, 0, false⟩
  | .attestationReport _ => ⟨0, false, 0, false, 0, false⟩
  | .pairAdd _ _ => ⟨0, false, 0, false, 0, false⟩
  | .pairSub _ _ => ⟨0, false, 0, false, 0, false⟩
  | .pairAnd _ _ => ⟨0, false, 0, false, 0, false⟩
  | .pairOr _ _ => ⟨0, false, 0, false, 0, false⟩
  | .pairXor _ _ => ⟨0, false, 0, false, 0, false⟩
  | .pairShl _ _ => ⟨0, false, 0, false, 0, false⟩
  | .pairShr _ _ => ⟨0, false, 0, false, 0, false⟩
  | .pairSar _ _ => ⟨0, false, 0, false, 0, false⟩
  | .pairMinS32 _ _ => ⟨0, false, 0, false, 0, false⟩
  | .pairMinB32 _ _ => ⟨0, false, 0, false, 0, false⟩
  | .pairMaxS32 _ _ => ⟨0, false, 0, false, 0, false⟩
  | .pairMaxB32 _ _ => ⟨0, false, 0, false, 0, false⟩
  | .pairMov _ _ => ⟨0, false, 0, false, 0, false⟩
  | .pairFadd _ _ => ⟨0, false, 0, false, 0, false⟩
  | .pairFmul _ _ => ⟨0, false, 0, false, 0, false⟩
  | .pairFmin _ _ => ⟨0, false, 0, false, 0, false⟩
  | .pairFmax _ _ => ⟨0, false, 0, false, 0, false⟩
  | .remoteOrHostAccessArrival _ _ _ _ => ⟨0, false, 0, false, 0, false⟩
  | .queuePairGrant _ _ => ⟨0, false, 0, false, 0, false⟩
  | .firmwareLaunchStart _ _ _ => ⟨0, false, 0, false, 0, false⟩
  | .escalatedTeamEnd _ _ => ⟨0, false, 0, false, 0, false⟩
  | .recoveryFirmwareLoad _ _ => ⟨0, false, 0, false, 0, false⟩
  | .maintenanceCompletion _ _ => ⟨0, false, 0, false, 0, false⟩
  | .prefCompletion _ _ => ⟨0, false, 0, false, 0, false⟩
  | .starvation => ⟨0, false, 0, false, 0, false⟩
  | .yieldExclusionEnd => ⟨0, false, 0, false, 0, false⟩
  | .unitCommit => ⟨0, false, 0, false, 0, false⟩
  | .trapRollback => ⟨0, false, 0, false, 0, false⟩
  | .meetComplete => ⟨0, false, 0, false, 0, false⟩
  | .tallocTimeout => ⟨0, false, 0, false, 0, false⟩
  | .leaseEvaluation => ⟨0, false, 0, false, 0, false⟩
  | .leaseQuietDecay => ⟨0, false, 0, false, 0, false⟩
  | .parkedTimeExpiry => ⟨0, false, 0, false, 0, false⟩
  | .protectionEnd => ⟨0, false, 0, false, 0, false⟩
  | .publicationRequest => ⟨0, false, 0, false, 0, false⟩
  | .publicationReply => ⟨0, false, 0, false, 0, false⟩
  | .revocation => ⟨0, false, 0, false, 0, false⟩
  | .registryRecall => ⟨0, false, 0, false, 0, false⟩
  | .reclassification => ⟨0, false, 0, false, 0, false⟩
  | .pageWalk => ⟨0, false, 0, false, 0, false⟩
  | .launchEnd => ⟨0, false, 0, false, 0, false⟩
  | .readyDeadlineExpiry => ⟨0, false, 0, false, 0, false⟩
  | .preemptionDeadline => ⟨0, false, 0, false, 0, false⟩
  | .submissionConsume => ⟨0, false, 0, false, 0, false⟩
  | .completionRecordWrite => ⟨0, false, 0, false, 0, false⟩
  | .queueEnable => ⟨0, false, 0, false, 0, false⟩
  | .errClear => ⟨0, false, 0, false, 0, false⟩
  | .portDown => ⟨0, false, 0, false, 0, false⟩
  | .pairPnop => ⟨0, false, 0, false, 0, false⟩
  | .deviceReset => ⟨0, false, 0, false, 0, false⟩
  | .flitError => ⟨0, false, 0, false, 0, false⟩

/-- The variant selector holds a listed value (R24, R46; reason 2). -/
def Instr.selOk : Instr → Bool
  | .clauseHeader _ => true
  | .operandSend _ _ _ => true
  | .executeCommand _ _ _ => true
  | .tallocGrant _ _ => true
  | .jobDispatch _ _ => true
  | .jobRetire _ _ => true
  | .arraySelfTest _ _ => true
  | .engineFault _ _ _ => true
  | .engineFaultResume _ _ _ => true
  | .medlarActionStart _ _ _ => true
  | .medlarActionComplete _ _ => true
  | .loadReturn _ _ => true
  | .storePerform _ _ => true
  | .publishDeadline _ _ => true
  | .cleanDropDeadline _ _ => true
  | .atomicPerform _ _ => true
  | .writebackError _ _ => true
  | .movedRefusal _ _ => true
  | .translationRequestCompletion _ _ _ _ => true
  | .invalidateRequest _ _ _ => true
  | .prgResponse _ _ _ => true
  | .priTimeout _ _ => true
  | .rowOperationStart _ _ => true
  | .rowOperationComplete _ _ => true
  | .bankComputeError _ _ _ => true
  | .teamResident _ _ _ => true
  | .recordReplication _ _ _ => true
  | .readyReport _ _ _ => true
  | .startGen _ _ => true
  | .abortGen _ _ => true
  | .preemptionRequest _ _ => true
  | .queueStop _ _ => true
  | .sqtailWrite _ _ => true
  | .cqheadWrite _ _ => true
  | .registerWrite _ _ _ => true
  | .powerWindow _ => true
  | .temperatureLimit _ _ => true
  | .remoteAccessTimeout _ _ => true
  | .dataLoss _ _ => true
  | .powerOn _ _ => true
  | .attestationReport _ => true
  | .nop _ => true
  | .br _ _ => true
  | .brc _ _ _ _ _ _ => true
  | .brg _ _ => true
  | .jmp _ _ => true
  | .call _ _ => true
  | .callr _ _ => true
  | .ret _ => true
  | .exit _ => true
  | .refill _ _ => true
  | .repack _ _ => true
  | .yld _ => true
  | .trap _ _ => true
  | .brk _ => true
  | .eret _ => true
  | .shflIdx _ _ _ _ => true
  | .shflUp _ _ _ _ => true
  | .shflDown _ _ _ _ => true
  | .shflXor _ _ _ _ => true
  | .voteAny _ _ _ => true
  | .voteAll _ _ _ => true
  | .voteBallot _ _ _ => true
  | .reduxAdd _ _ _ => true
  | .reduxMin _ _ _ _ => true
  | .reduxMax _ _ _ _ => true
  | .reduxAnd _ _ _ => true
  | .reduxOr _ _ _ => true
  | .reduxFadd _ _ _ => true
  | .reduxFmin _ _ _ => true
  | .reduxFmax _ _ _ => true
  | .meet _ => true
  | .add _ _ _ _ => true
  | .addSat _ _ _ _ => true
  | .sub _ _ _ _ => true
  | .subSat _ _ _ _ => true
  | .addc _ _ _ _ _ => true
  | .mul _ _ _ _ => true
  | .mulh _ _ _ _ _ => true
  | .mad _ _ _ _ _ => true
  | .madS64 _ _ _ _ _ => true
  | .min _ _ _ _ _ => true
  | .max _ _ _ _ _ => true
  | .abs _ _ _ => true
  | .and _ _ _ _ => true
  | .or _ _ _ _ => true
  | .xor _ _ _ _ => true
  | .andn _ _ _ _ => true
  | .not _ _ _ => true
  | .shl _ _ _ _ _ => true
  | .shr _ _ _ _ _ => true
  | .sar _ _ _ _ _ => true
  | .rol _ _ _ _ _ => true
  | .clz _ _ _ _ => true
  | .popc _ _ _ _ => true
  | .brev _ _ _ _ => true
  | .bfe _ _ _ _ _ => true
  | .bfi _ _ _ _ _ => true
  | .prmt _ _ _ _ _ => true
  | .sel _ _ _ _ _ => true
  | .cmp _ _ _ _ _ _ => true
  | .add64 _ _ _ _ => true
  | .lea _ _ _ _ _ => true
  | .mov _ _ _ => true
  | .liB32 _ _ _ => true
  | .liB64 _ _ _ => true
  | .fadd _ _ _ _ _ => true
  | .fsub _ _ _ _ _ => true
  | .fmul _ _ _ _ _ => true
  | .ffma _ _ _ _ _ _ => true
  | .fmin _ _ _ _ _ => true
  | .fmax _ _ _ _ _ => true
  | .fcmp _ _ _ _ _ => true
  | .frcp _ _ _ _ => true
  | .frsq _ _ _ _ => true
  | .fsqrt _ _ _ _ => true
  | .fex2 _ _ _ _ => true
  | .flg2 _ _ _ _ => true
  | .fcls _ _ _ => true
  | .fcvtF32S32 _ _ _ => true
  | .fcvtF32B32 _ _ _ => true
  | .fcvtS32F32 _ _ _ => true
  | .fcvtB32F32 _ _ _ => true
  | .fcvtF32Fs _ _ _ _ => true
  | .fcvtFsF32 _ _ _ _ => true
  | .fcvtFsF32Sat _ _ _ _ => true
  | .fcvtBf16x2F32 _ _ _ _ => true
  | .fcvtBf16x2F32Sat _ _ _ _ => true
  | .fcvtF32Bf16 _ _ _ _ => true
  | .fadd2Bf16 _ _ _ _ _ => true
  | .fmul2Bf16 _ _ _ _ _ => true
  | .ffma2Bf16 _ _ _ _ _ _ => true
  | .place _ _ _ => true
  | .reloc _ _ _ => true
  | .anch _ _ _ => true
  | .xacq _ => true
  | .xrel _ => true
  | .ixld _ _ _ _ => true
  | .ixst _ _ _ _ => true
  | .rds _ _ _ => true
  | .wrs _ _ _ => true
  | .ld _ sz _ _ _ => (sz != 7)
  | .ldc _ sz _ _ _ _ => (sz != 3)
  | .st _ sz _ _ _ => (sz == 1 || sz == 3 || sz == 4 || sz == 5 || sz == 6)
  | .atomAdd _ pl _ _ _ _ => (pl != 3)
  | .atomMin _ _ pl _ _ _ _ => (pl.toNat < 2)
  | .atomMax _ _ pl _ _ _ _ => (pl.toNat < 2)
  | .atomAnd _ pl _ _ _ _ => (pl.toNat < 2)
  | .atomOr _ pl _ _ _ _ => (pl.toNat < 2)
  | .atomXor _ pl _ _ _ _ => (pl.toNat < 2)
  | .atomXchg _ pl _ _ _ _ => (pl != 3)
  | .atomFadd _ pl _ _ _ => (pl.toNat < 2)
  | .cas _ pl _ _ _ _ _ => (pl != 3)
  | .acq _ => true
  | .rel _ => true
  | .fence _ => true
  | .cclean _ _ _ _ => true
  | .cinval _ _ _ _ => true
  | .pref _ _ _ _ => true
  | .talloc _ _ _ _ => true
  | .tfree _ _ => true
  | .tmap _ _ _ _ => true
  | .tcopy _ _ _ _ _ => true
  | .tld _ _ _ _ => true
  | .tst _ _ _ _ => true
  | .tfill _ _ _ _ => true
  | .tadd _ _ _ _ => true
  | .tmul _ _ _ _ => true
  | .tfma _ _ _ _ => true
  | .tcvt _ _ _ _ _ => true
  | .tredAdd _ _ _ _ => true
  | .tredMax _ _ _ _ => true
  | .tredMin _ _ _ _ => true
  | .ttr _ _ _ => true
  | .mplane _ _ _ _ _ => true
  | .mma _ _ _ _ => true
  | .mmas _ _ _ _ _ => true
  | .gmm _ _ _ _ _ => true
  | .mdrain _ _ _ _ _ _ _ _ => true
  | .mzero _ _ => true
  | .epild _ _ _ => true
  | .fbind _ _ _ _ _ => true
  | .fget _ _ _ _ => true
  | .fgett _ _ _ _ _ => true
  | .ksort _ _ _ _ _ _ => true
  | .kpack _ _ _ _ _ => true
  | .wtake _ _ => true
  | .wfix _ _ _ _ => true
  | .qpush _ _ _ => true
  | .qpop _ _ _ => true
  | .qpopAny _ _ => true
  | .bari _ _ _ => true
  | .barr _ _ _ => true
  | .barw _ _ _ => true
  | .bars _ _ => true
  | .gset _ _ _ _ _ _ => true
  | .gres _ _ _ => true
  | .gresOpen _ _ => true
  | .gwait _ _ _ => true
  | .fwait _ _ => true
  | .lease _ _ => true
  | .rowmaj _ _ _ _ _ => true
  | .rowand _ _ _ _ => true
  | .rowor _ _ _ _ => true
  | .rownot _ _ _ => true
  | .rowcp _ _ _ => true
  | .bkfence _ => true
  | .ctxsave _ _ _ _ => true
  | .ctxsaveTeam _ _ _ _ _ => true
  | .ctxload _ _ _ => true
  | .ctxloadTeam _ _ _ _ => true
  | .tinvUnmap _ _ _ => true
  | .tinvDowngrade _ _ _ => true
  | .tinvUnmapAll _ _ => true
  | .selftestArray _ _ _ => true
  | .selftestBank _ _ _ => true
  | .pairAdd _ _ => true
  | .pairSub _ _ => true
  | .pairAnd _ _ => true
  | .pairOr _ _ => true
  | .pairXor _ _ => true
  | .pairShl _ _ => true
  | .pairShr _ _ => true
  | .pairSar _ _ => true
  | .pairMinS32 _ _ => true
  | .pairMinB32 _ _ => true
  | .pairMaxS32 _ _ => true
  | .pairMaxB32 _ _ => true
  | .pairMov _ _ => true
  | .pairFadd _ _ => true
  | .pairFmul _ _ => true
  | .pairFmin _ _ => true
  | .pairFmax _ _ => true
  | .remoteOrHostAccessArrival _ _ _ _ => true
  | .queuePairGrant _ _ => true
  | .firmwareLaunchStart _ _ _ => true
  | .escalatedTeamEnd _ _ => true
  | .recoveryFirmwareLoad _ _ => true
  | .maintenanceCompletion _ _ => true
  | .prefCompletion _ _ => true
  | .starvation => true
  | .yieldExclusionEnd => true
  | .unitCommit => true
  | .trapRollback => true
  | .meetComplete => true
  | .tallocTimeout => true
  | .leaseEvaluation => true
  | .leaseQuietDecay => true
  | .parkedTimeExpiry => true
  | .protectionEnd => true
  | .publicationRequest => true
  | .publicationReply => true
  | .revocation => true
  | .registryRecall => true
  | .reclassification => true
  | .pageWalk => true
  | .launchEnd => true
  | .readyDeadlineExpiry => true
  | .preemptionDeadline => true
  | .submissionConsume => true
  | .completionRecordWrite => true
  | .queueEnable => true
  | .errClear => true
  | .portDown => true
  | .pairPnop => true
  | .deviceReset => true
  | .flitError => true

/-- The modifier and sub-function bits that no chapter defines are zero (reason 3). -/
def Instr.modOk : Instr → Bool
  | .clauseHeader _ => true
  | .operandSend _ _ _ => true
  | .executeCommand _ _ _ => true
  | .tallocGrant _ _ => true
  | .jobDispatch _ _ => true
  | .jobRetire _ _ => true
  | .arraySelfTest _ _ => true
  | .engineFault _ _ _ => true
  | .engineFaultResume _ _ _ => true
  | .medlarActionStart _ _ _ => true
  | .medlarActionComplete _ _ => true
  | .loadReturn _ _ => true
  | .storePerform _ _ => true
  | .publishDeadline _ _ => true
  | .cleanDropDeadline _ _ => true
  | .atomicPerform _ _ => true
  | .writebackError _ _ => true
  | .movedRefusal _ _ => true
  | .translationRequestCompletion _ _ _ _ => true
  | .invalidateRequest _ _ _ => true
  | .prgResponse _ _ _ => true
  | .priTimeout _ _ => true
  | .rowOperationStart _ _ => true
  | .rowOperationComplete _ _ => true
  | .bankComputeError _ _ _ => true
  | .teamResident _ _ _ => true
  | .recordReplication _ _ _ => true
  | .readyReport _ _ _ => true
  | .startGen _ _ => true
  | .abortGen _ _ => true
  | .preemptionRequest _ _ => true
  | .queueStop _ _ => true
  | .sqtailWrite _ _ => true
  | .cqheadWrite _ _ => true
  | .registerWrite _ _ _ => true
  | .powerWindow _ => true
  | .temperatureLimit _ _ => true
  | .remoteAccessTimeout _ _ => true
  | .dataLoss _ _ => true
  | .powerOn _ _ => true
  | .attestationReport _ => true
  | .nop _ => true
  | .br _ _ => true
  | .brc _ _ _ _ _ _ => true
  | .brg _ _ => true
  | .jmp _ _ => true
  | .call _ _ => true
  | .callr _ _ => true
  | .ret _ => true
  | .exit _ => true
  | .refill _ _ => true
  | .repack _ _ => true
  | .yld _ => true
  | .trap _ _ => true
  | .brk _ => true
  | .eret _ => true
  | .shflIdx _ _ _ _ => true
  | .shflUp _ _ _ _ => true
  | .shflDown _ _ _ _ => true
  | .shflXor _ _ _ _ => true
  | .voteAny _ _ _ => true
  | .voteAll _ _ _ => true
  | .voteBallot _ _ _ => true
  | .reduxAdd _ _ _ => true
  | .reduxMin _ _ _ _ => true
  | .reduxMax _ _ _ _ => true
  | .reduxAnd _ _ _ => true
  | .reduxOr _ _ _ => true
  | .reduxFadd _ _ _ => true
  | .reduxFmin _ _ _ => true
  | .reduxFmax _ _ _ => true
  | .meet _ => true
  | .add _ _ _ _ => true
  | .addSat _ _ _ _ => true
  | .sub _ _ _ _ => true
  | .subSat _ _ _ _ => true
  | .addc _ _ _ _ _ => true
  | .mul _ _ _ _ => true
  | .mulh _ _ _ _ _ => true
  | .mad _ _ _ _ _ => true
  | .madS64 _ _ _ _ _ => true
  | .min _ _ _ _ _ => true
  | .max _ _ _ _ _ => true
  | .abs _ _ _ => true
  | .and _ _ _ _ => true
  | .or _ _ _ _ => true
  | .xor _ _ _ _ => true
  | .andn _ _ _ _ => true
  | .not _ _ _ => true
  | .shl _ _ _ _ _ => true
  | .shr _ _ _ _ _ => true
  | .sar _ _ _ _ _ => true
  | .rol _ _ _ _ _ => true
  | .clz _ _ _ _ => true
  | .popc _ _ _ _ => true
  | .brev _ _ _ _ => true
  | .bfe _ _ _ _ _ => true
  | .bfi _ _ _ _ _ => true
  | .prmt _ _ _ _ _ => true
  | .sel _ _ _ _ _ => true
  | .cmp _ _ _ _ _ _ => true
  | .add64 _ _ _ _ => true
  | .lea _ _ _ _ _ => true
  | .mov _ _ _ => true
  | .liB32 _ _ _ => true
  | .liB64 _ _ _ => true
  | .fadd _ md _ _ v => (md.extractLsb' 4 2 == 0 && (md.extractLsb' 2 2 == 0 || v.isReg))
  | .fsub _ md _ _ v => (md.extractLsb' 4 2 == 0 && (md.extractLsb' 2 2 == 0 || v.isReg))
  | .fmul _ md _ _ v => (md.extractLsb' 4 2 == 0 && (md.extractLsb' 2 2 == 0 || v.isReg))
  | .ffma _ _ _ _ _ _ => true
  | .fmin _ md _ _ v => (md.extractLsb' 4 2 == 0 && (md.extractLsb' 2 2 == 0 || v.isReg))
  | .fmax _ md _ _ v => (md.extractLsb' 4 2 == 0 && (md.extractLsb' 2 2 == 0 || v.isReg))
  | .fcmp _ _ _ _ _ => true
  | .frcp _ md _ _ => (md.extractLsb' 2 4 == 0)
  | .frsq _ md _ _ => (md.extractLsb' 2 4 == 0)
  | .fsqrt _ md _ _ => (md.extractLsb' 2 4 == 0)
  | .fex2 _ md _ _ => (md.extractLsb' 2 4 == 0)
  | .flg2 _ md _ _ => (md.extractLsb' 2 4 == 0)
  | .fcls _ _ _ => true
  | .fcvtF32S32 _ _ _ => true
  | .fcvtF32B32 _ _ _ => true
  | .fcvtS32F32 _ _ _ => true
  | .fcvtB32F32 _ _ _ => true
  | .fcvtF32Fs _ _ _ _ => true
  | .fcvtFsF32 _ _ _ _ => true
  | .fcvtFsF32Sat _ _ _ _ => true
  | .fcvtBf16x2F32 _ _ _ _ => true
  | .fcvtBf16x2F32Sat _ _ _ _ => true
  | .fcvtF32Bf16 _ _ _ _ => true
  | .fadd2Bf16 _ md _ _ _ => (md.extractLsb' 4 2 == 0)
  | .fmul2Bf16 _ md _ _ _ => (md.extractLsb' 4 2 == 0)
  | .ffma2Bf16 _ _ _ _ _ _ => true
  | .place _ _ pl => (pl.extractLsb' 4 4 == 0)
  | .reloc _ _ pl => (pl.extractLsb' 4 4 == 0)
  | .anch _ _ _ => true
  | .xacq _ => true
  | .xrel _ => true
  | .ixld _ _ _ _ => true
  | .ixst _ _ _ _ => true
  | .rds _ _ _ => true
  | .wrs _ _ _ => true
  | .ld _ _ _ _ _ => true
  | .ldc _ _ n _ _ _ => (n != 0)
  | .st _ _ _ _ _ => true
  | .atomAdd _ _ _ _ _ _ => true
  | .atomMin _ _ _ _ _ _ _ => true
  | .atomMax _ _ _ _ _ _ _ => true
  | .atomAnd _ _ _ _ _ _ => true
  | .atomOr _ _ _ _ _ _ => true
  | .atomXor _ _ _ _ _ _ => true
  | .atomXchg _ _ _ _ _ _ => true
  | .atomFadd _ _ _ _ _ => true
  | .cas _ _ _ _ _ _ _ => true
  | .acq _ => true
  | .rel _ => true
  | .fence _ => true
  | .cclean _ _ _ _ => true
  | .cinval _ _ _ _ => true
  | .pref _ _ _ _ => true
  | .talloc _ _ _ _ => true
  | .tfree _ _ => true
  | .tmap _ _ _ _ => true
  | .tcopy _ _ _ _ _ => true
  | .tld _ _ _ _ => true
  | .tst _ _ _ _ => true
  | .tfill _ _ _ _ => true
  | .tadd _ _ _ _ => true
  | .tmul _ _ _ _ => true
  | .tfma _ _ _ _ => true
  | .tcvt _ _ _ _ _ => true
  | .tredAdd _ _ _ _ => true
  | .tredMax _ _ _ _ => true
  | .tredMin _ _ _ _ => true
  | .ttr _ _ _ => true
  | .mplane _ _ _ _ _ => true
  | .mma _ _ _ _ => true
  | .mmas _ _ _ _ _ => true
  | .gmm _ _ _ _ _ => true
  | .mdrain _ _ _ en prg _ _ _ => (en || prg == 0)
  | .mzero _ _ => true
  | .epild _ _ _ => true
  | .fbind _ _ _ _ _ => true
  | .fget _ _ _ _ => true
  | .fgett _ _ _ _ _ => true
  | .ksort _ _ _ _ _ _ => true
  | .kpack _ _ _ _ _ => true
  | .wtake _ _ => true
  | .wfix _ _ _ _ => true
  | .qpush _ _ _ => true
  | .qpop _ _ _ => true
  | .qpopAny _ _ => true
  | .bari _ _ _ => true
  | .barr _ _ _ => true
  | .barw _ _ _ => true
  | .bars _ _ => true
  | .gset _ _ _ _ _ _ => true
  | .gres _ _ _ => true
  | .gresOpen _ _ => true
  | .gwait _ _ _ => true
  | .fwait _ _ => true
  | .lease _ _ => true
  | .rowmaj _ _ _ _ _ => true
  | .rowand _ _ _ _ => true
  | .rowor _ _ _ _ => true
  | .rownot _ _ _ => true
  | .rowcp _ _ _ => true
  | .bkfence _ => true
  | .ctxsave _ _ _ _ => true
  | .ctxsaveTeam _ _ _ _ _ => true
  | .ctxload _ _ _ => true
  | .ctxloadTeam _ _ _ _ => true
  | .tinvUnmap _ _ _ => true
  | .tinvDowngrade _ _ _ => true
  | .tinvUnmapAll _ _ => true
  | .selftestArray _ _ _ => true
  | .selftestBank _ _ _ => true
  | .pairAdd _ _ => true
  | .pairSub _ _ => true
  | .pairAnd _ _ => true
  | .pairOr _ _ => true
  | .pairXor _ _ => true
  | .pairShl _ _ => true
  | .pairShr _ _ => true
  | .pairSar _ _ => true
  | .pairMinS32 _ _ => true
  | .pairMinB32 _ _ => true
  | .pairMaxS32 _ _ => true
  | .pairMaxB32 _ _ => true
  | .pairMov _ _ => true
  | .pairFadd _ _ => true
  | .pairFmul _ _ => true
  | .pairFmin _ _ => true
  | .pairFmax _ _ => true
  | .remoteOrHostAccessArrival _ _ _ _ => true
  | .queuePairGrant _ _ => true
  | .firmwareLaunchStart _ _ _ => true
  | .escalatedTeamEnd _ _ => true
  | .recoveryFirmwareLoad _ _ => true
  | .maintenanceCompletion _ _ => true
  | .prefCompletion _ _ => true
  | .starvation => true
  | .yieldExclusionEnd => true
  | .unitCommit => true
  | .trapRollback => true
  | .meetComplete => true
  | .tallocTimeout => true
  | .leaseEvaluation => true
  | .leaseQuietDecay => true
  | .parkedTimeExpiry => true
  | .protectionEnd => true
  | .publicationRequest => true
  | .publicationReply => true
  | .revocation => true
  | .registryRecall => true
  | .reclassification => true
  | .pageWalk => true
  | .launchEnd => true
  | .readyDeadlineExpiry => true
  | .preemptionDeadline => true
  | .submissionConsume => true
  | .completionRecordWrite => true
  | .queueEnable => true
  | .errClear => true
  | .portDown => true
  | .pairPnop => true
  | .deviceReset => true
  | .flitError => true

/-- Every operand is in range, and 64-bit operands name even registers (R18, reason 7). -/
def Instr.rangeOk : Instr → Bool
  | .clauseHeader _ => true
  | .operandSend _ _ _ => true
  | .executeCommand _ _ _ => true
  | .tallocGrant _ _ => true
  | .jobDispatch _ _ => true
  | .jobRetire _ _ => true
  | .arraySelfTest _ _ => true
  | .engineFault _ _ _ => true
  | .engineFaultResume _ _ _ => true
  | .medlarActionStart _ _ _ => true
  | .medlarActionComplete _ _ => true
  | .loadReturn _ _ => true
  | .storePerform _ _ => true
  | .publishDeadline _ _ => true
  | .cleanDropDeadline _ _ => true
  | .atomicPerform _ _ => true
  | .writebackError _ _ => true
  | .movedRefusal _ _ => true
  | .translationRequestCompletion _ _ _ _ => true
  | .invalidateRequest _ _ _ => true
  | .prgResponse _ _ _ => true
  | .priTimeout _ _ => true
  | .rowOperationStart _ _ => true
  | .rowOperationComplete _ _ => true
  | .bankComputeError _ _ _ => true
  | .teamResident _ _ _ => true
  | .recordReplication _ _ _ => true
  | .readyReport _ _ _ => true
  | .startGen _ _ => true
  | .abortGen _ _ => true
  | .preemptionRequest _ _ => true
  | .queueStop _ _ => true
  | .sqtailWrite _ _ => true
  | .cqheadWrite _ _ => true
  | .registerWrite _ _ _ => true
  | .powerWindow _ => true
  | .temperatureLimit _ _ => true
  | .remoteAccessTimeout _ _ => true
  | .dataLoss _ _ => true
  | .powerOn _ _ => true
  | .attestationReport _ => true
  | .nop _ => true
  | .br _ _ => true
  | .brc _ _ w64 xd xa _ => (!w64 || (ev xd && ev xa))
  | .brg c _ => (c.g != 0)
  | .jmp _ xa => ev xa
  | .call _ _ => true
  | .callr _ xa => ev xa
  | .ret _ => true
  | .exit _ => true
  | .refill _ xd => ev xd
  | .repack _ _ => true
  | .yld _ => true
  | .trap _ _ => true
  | .brk _ => true
  | .eret _ => true
  | .shflIdx _ _ _ _ => true
  | .shflUp _ _ _ n => (n.toNat < 32)
  | .shflDown _ _ _ n => (n.toNat < 32)
  | .shflXor _ _ _ n => (n.toNat < 32)
  | .voteAny _ _ _ => true
  | .voteAll _ _ _ => true
  | .voteBallot _ _ _ => true
  | .reduxAdd _ _ _ => true
  | .reduxMin _ _ _ _ => true
  | .reduxMax _ _ _ _ => true
  | .reduxAnd _ _ _ => true
  | .reduxOr _ _ _ => true
  | .reduxFadd _ _ _ => true
  | .reduxFmin _ _ _ => true
  | .reduxFmax _ _ _ => true
  | .meet _ => true
  | .add _ _ _ _ => true
  | .addSat _ _ _ _ => true
  | .sub _ _ _ _ => true
  | .subSat _ _ _ _ => true
  | .addc _ xd _ _ _ => ev xd
  | .mul _ _ _ _ => true
  | .mulh _ _ _ _ _ => true
  | .mad _ _ _ _ _ => true
  | .madS64 _ xd _ _ xc => (ev xd && ev xc)
  | .min _ _ _ _ _ => true
  | .max _ _ _ _ _ => true
  | .abs _ _ _ => true
  | .and _ _ _ _ => true
  | .or _ _ _ _ => true
  | .xor _ _ _ _ => true
  | .andn _ _ _ _ => true
  | .not _ _ _ => true
  | .shl _ w64 xd xa v => ((!w64 || (ev xd && ev xa)) && shiftOk w64 v)
  | .shr _ w64 xd xa v => ((!w64 || (ev xd && ev xa)) && shiftOk w64 v)
  | .sar _ w64 xd xa v => ((!w64 || (ev xd && ev xa)) && shiftOk w64 v)
  | .rol _ w64 xd xa v => ((!w64 || (ev xd && ev xa)) && shiftOk w64 v)
  | .clz _ w64 _ xa => (!w64 || ev xa)
  | .popc _ w64 _ xa => (!w64 || ev xa)
  | .brev _ w64 xd xa => (!w64 || (ev xd && ev xa))
  | .bfe _ _ _ _ _ => true
  | .bfi _ _ _ _ _ => true
  | .prmt _ _ _ _ _ => true
  | .sel _ _ _ _ _ => true
  | .cmp _ _ w64 _ xa v => (!w64 || (ev xa && v.all ev))
  | .add64 _ xd xa v => (ev xd && ev xa && v.all ev)
  | .lea _ xd xa _ _ => (ev xd && ev xa)
  | .mov _ _ _ => true
  | .liB32 _ _ _ => true
  | .liB64 _ xd _ => ev xd
  | .fadd _ _ _ _ _ => true
  | .fsub _ _ _ _ _ => true
  | .fmul _ _ _ _ _ => true
  | .ffma _ _ _ _ _ _ => true
  | .fmin _ _ _ _ _ => true
  | .fmax _ _ _ _ _ => true
  | .fcmp _ _ _ _ _ => true
  | .frcp _ _ _ _ => true
  | .frsq _ _ _ _ => true
  | .fsqrt _ _ _ _ => true
  | .fex2 _ _ _ _ => true
  | .flg2 _ _ _ _ => true
  | .fcls _ _ _ => true
  | .fcvtF32S32 _ _ _ => true
  | .fcvtF32B32 _ _ _ => true
  | .fcvtS32F32 _ _ _ => true
  | .fcvtB32F32 _ _ _ => true
  | .fcvtF32Fs _ _ _ _ => true
  | .fcvtFsF32 _ _ _ _ => true
  | .fcvtFsF32Sat _ _ _ _ => true
  | .fcvtBf16x2F32 _ _ _ _ => true
  | .fcvtBf16x2F32Sat _ _ _ _ => true
  | .fcvtF32Bf16 _ _ _ _ => true
  | .fadd2Bf16 _ _ _ _ _ => true
  | .fmul2Bf16 _ _ _ _ _ => true
  | .ffma2Bf16 _ _ _ _ _ _ => true
  | .place _ b _ => (b.toNat < 32)
  | .reloc _ b _ => (b.toNat < 32)
  | .anch _ an xa => (an.toNat < 4 && ev xa)
  | .xacq _ => true
  | .xrel _ => true
  | .ixld _ _ _ _ => true
  | .ixst _ _ _ _ => true
  | .rds _ xd sr => (srOk sr && (!srWide sr || ev xd))
  | .wrs _ sr xa => (srOk sr && (!srWide sr || ev xa))
  | .ld _ sz xd xa _ => (ev xa && szOk sz xd)
  | .ldc _ sz _ xd xa _ => (ev xa && szOk (sz.setWidth 3 + 4) xd)
  | .st _ sz xa xb _ => (ev xa && szOk sz xb)
  | .atomAdd _ _ w64 xd xa xb => (ev xa && (!w64 || (ev xd && ev xb)))
  | .atomMin _ _ _ w64 xd xa xb => (ev xa && (!w64 || (ev xd && ev xb)))
  | .atomMax _ _ _ w64 xd xa xb => (ev xa && (!w64 || (ev xd && ev xb)))
  | .atomAnd _ _ w64 xd xa xb => (ev xa && (!w64 || (ev xd && ev xb)))
  | .atomOr _ _ w64 xd xa xb => (ev xa && (!w64 || (ev xd && ev xb)))
  | .atomXor _ _ w64 xd xa xb => (ev xa && (!w64 || (ev xd && ev xb)))
  | .atomXchg _ _ w64 xd xa xb => (ev xa && (!w64 || (ev xd && ev xb)))
  | .atomFadd _ _ _ xa _ => ev xa
  | .cas _ _ w64 xd xa xb xc => (ev xa && (!w64 || (ev xd && ev xb && ev xc)))
  | .acq _ => true
  | .rel _ => true
  | .fence _ => true
  | .cclean _ xa _ _ => ev xa
  | .cinval _ xa _ _ => ev xa
  | .pref _ xa _ _ => ev xa
  | .talloc _ _ hd xv => (hOk hd && ev xv)
  | .tfree _ hd => hOk hd
  | .tmap _ hd xa xv => (hOk hd && ev xa && ev xv)
  | .tcopy _ hd ha xr _ => (hOk hd && hOk ha && ev xr)
  | .tld _ _ ha _ => hOk ha
  | .tst _ ha _ _ => hOk ha
  | .tfill _ hd xr _ => (hOk hd && ev xr)
  | .tadd _ hd ha hb => (hOk hd && hOk ha && hOk hb)
  | .tmul _ hd ha hb => (hOk hd && hOk ha && hOk hb)
  | .tfma _ hd ha hb => (hOk hd && hOk ha && hOk hb)
  | .tcvt _ _ _ hd ha => (hOk hd && hOk ha)
  | .tredAdd _ _ hd ha => (hOk hd && hOk ha)
  | .tredMax _ _ hd ha => (hOk hd && hOk ha)
  | .tredMin _ _ hd ha => (hOk hd && hOk ha)
  | .ttr _ hd ha => (hOk hd && hOk ha)
  | .mplane _ _ hd ha hs => (hOk hd && hOk ha && hOk hs)
  | .mma _ hc ha hb => (hOk hc && hOk ha && hOk hb)
  | .mmas _ hc ha hb _ => (hOk hc && hOk ha && hOk hb)
  | .gmm _ hc ha hb xp => (hOk hc && hOk ha && hOk hb && ev xp)
  | .mdrain _ _ _ _ _ hd hc _ => (hOk hd && hOk hc)
  | .mzero _ hc => hOk hc
  | .epild _ n xa => (n.toNat < 4 && ev xa)
  | .fbind _ _ hd xa xv => (hOk hd && ev xa && ev xv)
  | .fget _ _ hf _ => hOk hf
  | .fgett _ hd hf hi xq => (hOk hd && hOk hf && hOk hi && ev xq)
  | .ksort _ _ hp hk hc _ => (hOk hp && hOk hk && hOk hc)
  | .kpack _ hv hs hb _ => (hOk hv && hOk hs && hOk hb)
  | .wtake _ xd => ev xd
  | .wfix _ _ hc xp => (hOk hc && ev xp)
  | .qpush _ q xa => (q.toNat < 8 && ev xa)
  | .qpop _ xd q => (q.toNat < 8 && ev xd)
  | .qpopAny _ xd => quad xd
  | .bari _ b cnt => (bOk b && cntOk cnt)
  | .barr _ _ b => bOk b
  | .barw _ b _ => bOk b
  | .bars _ b => bOk b
  | .gset _ _ _ gd _ _ => gOk gd
  | .gres _ gd _ => gOk gd
  | .gresOpen _ gd => gOk gd
  | .gwait _ _ ga => gOk ga
  | .fwait _ mask => (mask != 0)
  | .lease _ n => (n.toNat <= 2048)
  | .rowmaj _ xd xa xb xc => (ev xd && ev xa && ev xb && ev xc)
  | .rowand _ xd xa xb => (ev xd && ev xa && ev xb)
  | .rowor _ xd xa xb => (ev xd && ev xa && ev xb)
  | .rownot _ xd xa => (ev xd && ev xa)
  | .rowcp _ xd xa => (ev xd && ev xa)
  | .bkfence _ => true
  | .ctxsave _ _ xa _ => ev xa
  | .ctxsaveTeam _ _ xa _ _ => ev xa
  | .ctxload _ _ xa => ev xa
  | .ctxloadTeam _ _ xa _ => ev xa
  | .tinvUnmap _ xa xb => (ev xa && ev xb)
  | .tinvDowngrade _ xa xb => (ev xa && ev xb)
  | .tinvUnmapAll _ xb => ev xb
  | .selftestArray _ _ _ => true
  | .selftestBank _ _ _ => true
  | .pairAdd _ _ => true
  | .pairSub _ _ => true
  | .pairAnd _ _ => true
  | .pairOr _ _ => true
  | .pairXor _ _ => true
  | .pairShl _ _ => true
  | .pairShr _ _ => true
  | .pairSar _ _ => true
  | .pairMinS32 _ _ => true
  | .pairMinB32 _ _ => true
  | .pairMaxS32 _ _ => true
  | .pairMaxB32 _ _ => true
  | .pairMov _ _ => true
  | .pairFadd _ _ => true
  | .pairFmul _ _ => true
  | .pairFmin _ _ => true
  | .pairFmax _ _ => true
  | .remoteOrHostAccessArrival _ _ _ _ => true
  | .queuePairGrant _ _ => true
  | .firmwareLaunchStart _ _ _ => true
  | .escalatedTeamEnd _ _ => true
  | .recoveryFirmwareLoad _ _ => true
  | .maintenanceCompletion _ _ => true
  | .prefCompletion _ _ => true
  | .starvation => true
  | .yieldExclusionEnd => true
  | .unitCommit => true
  | .trapRollback => true
  | .meetComplete => true
  | .tallocTimeout => true
  | .leaseEvaluation => true
  | .leaseQuietDecay => true
  | .parkedTimeExpiry => true
  | .protectionEnd => true
  | .publicationRequest => true
  | .publicationReply => true
  | .revocation => true
  | .registryRecall => true
  | .reclassification => true
  | .pageWalk => true
  | .launchEnd => true
  | .readyDeadlineExpiry => true
  | .preemptionDeadline => true
  | .submissionConsume => true
  | .completionRecordWrite => true
  | .queueEnable => true
  | .errClear => true
  | .portDown => true
  | .pairPnop => true
  | .deviceReset => true
  | .flitError => true

/-- The common fields that the opcode does not use are zero, and GN needs G (R19 to R24, reason 3). -/
def Instr.ctlOk (i : Instr) : Bool :=
  match i.uses with
  | none => true
  | some u =>
    let c := i.ctl
    (u.guard || (c.g == 0 && !c.gn)) && (c.g != 0 || !c.gn) && (u.hint || c.h == 0)
      && (u.kill || !c.k) && (u.long || !c.fl)

/-- A pair slot keeps R28: a shift immediate has bits [7:5] zero, `mov` with an immediate has S zero. -/
def Instr.slotOk : Instr → Bool
  | .pairShl _ (.imm _ v) => v.toNat < 32
  | .pairShr _ (.imm _ v) => v.toNat < 32
  | .pairSar _ (.imm _ v) => v.toNat < 32
  | .pairMov _ (.imm s _) => s == 0
  | _ => true

/-- The reason of R37 that an instruction's own fields break, the lowest where several do. -/
def Instr.fault (i : Instr) : Option Nat :=
  if !i.selOk then some 2 else if !i.ctlOk || !i.modOk then some 3
  else if !i.slotOk then some 4 else if !i.rangeOk then some 7 else none

/-- A well-formed instruction: no reason of R37 speaks against its own fields. -/
def WellFormed (i : Instr) : Prop := i.fault = none

/-- A well-formed header (R29): LEN is not 0, a SET field names f0 to f11, and the two differ. -/
def Header.wf (h : Header) : Bool :=
  h.len != 0 && (match h.set0 with | some v => v.toNat < 12 | none => true)
    && (match h.set1 with | some v => v.toNat < 12 | none => true)
    && (h.set0.isNone || h.set1.isNone || h.set0 != h.set1)

end Sys2Proof
end

