-- ==== Sys2Proof/Decode.lean ====
section
/-! DEFINITION. The decoder, total on any bytes, and the encoder, both from the layouts of R17, R25,
R29, R33 and the opcode map of R42 to R51. A word that is not an instruction is rejected by its
reason code (R37). -/

namespace Sys2Proof

/-- The fields of a full instruction word (R17). -/
structure Fields where
  op  : BitVec 8
  d   : BitVec 8
  a   : BitVec 8
  b   : BitVec 8
  c   : BitVec 8
  g   : BitVec 4
  gn  : BitVec 1
  h   : BitVec 2
  fs  : BitVec 3
  k   : BitVec 1
  ru  : BitVec 2
  mod : BitVec 9
  deriving DecidableEq, Repr

/-- The word of a full instruction: kind 00 and the fields from high to low (R17). -/
def Fields.pack (f : Fields) : DWord :=
  (0#2 ++ f.op ++ f.d ++ f.a ++ f.b ++ f.c ++ f.g ++ f.gn ++ f.h ++ f.fs ++ f.k ++ f.ru ++ f.mod : BitVec 64)

/-- The fields of a word (R17). -/
def Fields.unpack (w : DWord) : Fields :=
  { op := w.extractLsb' 54 8, d := w.extractLsb' 46 8, a := w.extractLsb' 38 8
    b := w.extractLsb' 30 8, c := w.extractLsb' 22 8, g := w.extractLsb' 18 4
    gn := w.extractLsb' 17 1, h := w.extractLsb' 15 2, fs := w.extractLsb' 12 3
    k := w.extractLsb' 11 1, ru := w.extractLsb' 9 2, mod := w.extractLsb' 0 9 }

/-- The common fields of R17, with MOD[8] as the flag choice (R24). -/
def Fields.ctl (f : Fields) : Ctl :=
  ⟨f.g, f.gn == 1, f.h, f.k == 1, f.ru, f.mod.getLsbD 8⟩

/-- The fields of an instruction from its common fields, opcode and operand fields. -/
def mk (c : Ctl) (op d a b cf : BitVec 8) (fs : BitVec 3) (m : BitVec 8) : Fields :=
  { op, d, a, b, c := cf, g := c.g, gn := BitVec.ofBool c.gn, h := c.h, fs, k := BitVec.ofBool c.k
    ru := c.ru, mod := BitVec.ofBool c.fl ++ m }

/-- The immediate of a form that takes one (R33): the literal where there is one, else C. -/
def immOf (f : Fields) (lit : Option (BitVec 62)) : Imm :=
  match lit with
  | some v => .lit v
  | none => .c8 f.c

/-- The second operand of a form marked I (R137). -/
def src2Of (f : Fields) (lit : Option (BitVec 62)) : Src2 :=
  if f.mod.getLsbD 7 then .imm (immOf f lit) else .reg f.b

/-- The fields and the literal of each instruction, from the encoding tables of R69, R82, R88, R120,
R139, R142, R150, R186, R197, R208, R228 to R239, R250 to R256, R264, R298, R320, R336, R350, R351,
R357 and the selectors of R42 to R51. None for an event or a pair slot. -/
def Instr.toFields : Instr → Option (Fields × Option (BitVec 62))
  | .nop c => some (mk c 0x00 0 0 0 0 0 0#8, none)
  | .br c off => some (mk c 0x01 (off.extractLsb' 24 8) (off.extractLsb' 16 8) (off.extractLsb' 8 8) (off.extractLsb' 0 8) 0 0#8, none)
  | .brc c cc w64 xd xa off => some (mk c 0x02 xd xa (off.extractLsb' 8 8) (off.extractLsb' 0 8) 0 (0#4 ++ (BitVec.ofBool w64) ++ cc : BitVec 8), none)
  | .brg c off => some (mk c 0x03 (off.extractLsb' 24 8) (off.extractLsb' 16 8) (off.extractLsb' 8 8) (off.extractLsb' 0 8) 0 0#8, none)
  | .jmp c xa => some (mk c 0x04 0 xa 0 0 0 0#8, none)
  | .call c off => some (mk c 0x05 (off.extractLsb' 24 8) (off.extractLsb' 16 8) (off.extractLsb' 8 8) (off.extractLsb' 0 8) 0 0#8, none)
  | .callr c xa => some (mk c 0x06 0 xa 0 0 0 0#8, none)
  | .ret c => some (mk c 0x07 0 0 0 0 0 0#8, none)
  | .exit c => some (mk c 0x08 0 0 0 0 0 0#8, none)
  | .refill c xd => some (mk c 0x09 xd 0 0 0 0 0#8, none)
  | .repack c xa => some (mk c 0x0a 0 xa 0 0 0 0#8, none)
  | .yld c => some (mk c 0x0b 0 0 0 0 0 0#8, none)
  | .trap c imm => some (mk c 0x0c 0 0 0 imm 0 0#8, none)
  | .brk c => some (mk c 0x0d 0 0 0 0 0 0#8, none)
  | .eret c => some (mk c 0x0e 0 0 0 0 0 0#8, none)
  | .shflIdx c xd xa xb => some (mk c 0x10 xd xa xb 0 0 (0#6 ++ 0#2 : BitVec 8), none)
  | .shflUp c xd xa n => some (mk c 0x10 xd xa 0 n 0 (0#6 ++ 1#2 : BitVec 8), none)
  | .shflDown c xd xa n => some (mk c 0x10 xd xa 0 n 0 (0#6 ++ 2#2 : BitVec 8), none)
  | .shflXor c xd xa n => some (mk c 0x10 xd xa 0 n 0 (0#6 ++ 3#2 : BitVec 8), none)
  | .voteAny c xd xa => some (mk c 0x11 xd xa 0 0 0 (0#6 ++ 0#2 : BitVec 8), none)
  | .voteAll c xd xa => some (mk c 0x11 xd xa 0 0 0 (0#6 ++ 1#2 : BitVec 8), none)
  | .voteBallot c xd xa => some (mk c 0x11 xd xa 0 0 0 (0#6 ++ 2#2 : BitVec 8), none)
  | .reduxAdd c xd xa => some (mk c 0x12 xd xa 0 0 0 (0#4 ++ 0#4 : BitVec 8), none)
  | .reduxMin c uns xd xa => some (mk c 0x12 xd xa 0 0 0 (0#4 ++ (if uns then 2#4 else 1#4) : BitVec 8), none)
  | .reduxMax c uns xd xa => some (mk c 0x12 xd xa 0 0 0 (0#4 ++ (if uns then 4#4 else 3#4) : BitVec 8), none)
  | .reduxAnd c xd xa => some (mk c 0x12 xd xa 0 0 0 (0#4 ++ 5#4 : BitVec 8), none)
  | .reduxOr c xd xa => some (mk c 0x12 xd xa 0 0 0 (0#4 ++ 6#4 : BitVec 8), none)
  | .reduxFadd c xd xa => some (mk c 0x12 xd xa 0 0 0 (0#4 ++ 7#4 : BitVec 8), none)
  | .reduxFmin c xd xa => some (mk c 0x12 xd xa 0 0 0 (0#4 ++ 8#4 : BitVec 8), none)
  | .reduxFmax c xd xa => some (mk c 0x12 xd xa 0 0 0 (0#4 ++ 9#4 : BitVec 8), none)
  | .meet c => some (mk c 0x13 0 0 0 0 0 0#8, none)
  | .add c xd xa v => some (mk c 0x20 xd xa v.bField v.cField 0 (v.iBit ++ 0#6 ++ 0#1 : BitVec 8), v.lit?)
  | .addSat c xd xa v => some (mk c 0x20 xd xa v.bField v.cField 0 (v.iBit ++ 0#6 ++ 1#1 : BitVec 8), v.lit?)
  | .sub c xd xa v => some (mk c 0x21 xd xa v.bField v.cField 0 (v.iBit ++ 0#6 ++ 0#1 : BitVec 8), v.lit?)
  | .subSat c xd xa v => some (mk c 0x21 xd xa v.bField v.cField 0 (v.iBit ++ 0#6 ++ 1#1 : BitVec 8), v.lit?)
  | .addc c xd xa xb xc => some (mk c 0x22 xd xa xb xc 0 0#8, none)
  | .mul c xd xa v => some (mk c 0x23 xd xa v.bField v.cField 0 (v.iBit ++ 0#7 : BitVec 8), v.lit?)
  | .mulh c uns xd xa v => some (mk c 0x24 xd xa v.bField v.cField 0 (v.iBit ++ 0#6 ++ (BitVec.ofBool uns) : BitVec 8), v.lit?)
  | .mad c xd xa xb xc => some (mk c 0x25 xd xa xb xc 0 (0#7 ++ 0#1 : BitVec 8), none)
  | .madS64 c xd xa xb xc => some (mk c 0x25 xd xa xb xc 0 (0#7 ++ 1#1 : BitVec 8), none)
  | .min c uns xd xa v => some (mk c 0x26 xd xa v.bField v.cField 0 (v.iBit ++ 0#6 ++ (BitVec.ofBool uns) : BitVec 8), v.lit?)
  | .max c uns xd xa v => some (mk c 0x27 xd xa v.bField v.cField 0 (v.iBit ++ 0#6 ++ (BitVec.ofBool uns) : BitVec 8), v.lit?)
  | .abs c xd xa => some (mk c 0x28 xd xa 0 0 0 0#8, none)
  | .and c xd xa v => some (mk c 0x29 xd xa v.bField v.cField 0 (v.iBit ++ 0#7 : BitVec 8), v.lit?)
  | .or c xd xa v => some (mk c 0x2a xd xa v.bField v.cField 0 (v.iBit ++ 0#7 : BitVec 8), v.lit?)
  | .xor c xd xa v => some (mk c 0x2b xd xa v.bField v.cField 0 (v.iBit ++ 0#7 : BitVec 8), v.lit?)
  | .andn c xd xa v => some (mk c 0x2c xd xa v.bField v.cField 0 (v.iBit ++ 0#7 : BitVec 8), v.lit?)
  | .not c xd xa => some (mk c 0x2d xd xa 0 0 0 0#8, none)
  | .shl c w64 xd xa v => some (mk c 0x2e xd xa v.bField v.cField 0 (v.iBit ++ 0#6 ++ (BitVec.ofBool w64) : BitVec 8), v.lit?)
  | .shr c w64 xd xa v => some (mk c 0x2f xd xa v.bField v.cField 0 (v.iBit ++ 0#6 ++ (BitVec.ofBool w64) : BitVec 8), v.lit?)
  | .sar c w64 xd xa v => some (mk c 0x30 xd xa v.bField v.cField 0 (v.iBit ++ 0#6 ++ (BitVec.ofBool w64) : BitVec 8), v.lit?)
  | .rol c w64 xd xa v => some (mk c 0x31 xd xa v.bField v.cField 0 (v.iBit ++ 0#6 ++ (BitVec.ofBool w64) : BitVec 8), v.lit?)
  | .clz c w64 xd xa => some (mk c 0x32 xd xa 0 0 0 (0#7 ++ (BitVec.ofBool w64) : BitVec 8), none)
  | .popc c w64 xd xa => some (mk c 0x33 xd xa 0 0 0 (0#7 ++ (BitVec.ofBool w64) : BitVec 8), none)
  | .brev c w64 xd xa => some (mk c 0x34 xd xa 0 0 0 (0#7 ++ (BitVec.ofBool w64) : BitVec 8), none)
  | .bfe c uns xd xa v => some (mk c 0x35 xd xa v.bField v.cField 0 (v.iBit ++ 0#6 ++ (BitVec.ofBool uns) : BitVec 8), v.lit?)
  | .bfi c xd xa xb xc => some (mk c 0x36 xd xa xb xc 0 0#8, none)
  | .prmt c xd xa xb xc => some (mk c 0x37 xd xa xb xc 0 0#8, none)
  | .sel c xd xa xb xc => some (mk c 0x38 xd xa xb xc 0 0#8, none)
  | .cmp c cc w64 xd xa v => some (mk c 0x39 xd xa v.bField v.cField 0 (v.iBit ++ 0#3 ++ (BitVec.ofBool w64) ++ cc : BitVec 8), v.lit?)
  | .add64 c xd xa v => some (mk c 0x3a xd xa v.bField v.cField 0 (v.iBit ++ 0#7 : BitVec 8), v.lit?)
  | .lea c xd xa xb sh => some (mk c 0x3b xd xa xb (sh.setWidth 8) 0 0#8, none)
  | .mov c xd xa => some (mk c 0x3c xd xa 0 0 0 0#8, none)
  | .liB32 c xd imm => some (mk c 0x3d xd 0 0 imm.cField 0 (0#7 ++ 0#1 : BitVec 8), imm.lit?)
  | .liB64 c xd imm => some (mk c 0x3d xd 0 0 imm.cField 0 (0#7 ++ 1#1 : BitVec 8), imm.lit?)
  | .fadd c md xd xa v => some (mk c 0x50 xd xa v.bField v.cField 0 (v.iBit ++ 0#1 ++ md : BitVec 8), v.lit?)
  | .fsub c md xd xa v => some (mk c 0x51 xd xa v.bField v.cField 0 (v.iBit ++ 0#1 ++ md : BitVec 8), v.lit?)
  | .fmul c md xd xa v => some (mk c 0x52 xd xa v.bField v.cField 0 (v.iBit ++ 0#1 ++ md : BitVec 8), v.lit?)
  | .ffma c md xd xa xb xc => some (mk c 0x53 xd xa xb xc 0 (0#2 ++ md : BitVec 8), none)
  | .fmin c md xd xa v => some (mk c 0x54 xd xa v.bField v.cField 0 (v.iBit ++ 0#1 ++ md : BitVec 8), v.lit?)
  | .fmax c md xd xa v => some (mk c 0x55 xd xa v.bField v.cField 0 (v.iBit ++ 0#1 ++ md : BitVec 8), v.lit?)
  | .fcmp c cc xd xa v => some (mk c 0x56 xd xa v.bField v.cField 0 (v.iBit ++ 0#4 ++ cc : BitVec 8), v.lit?)
  | .frcp c md xd xa => some (mk c 0x57 xd xa 0 0 0 (0#2 ++ md : BitVec 8), none)
  | .frsq c md xd xa => some (mk c 0x58 xd xa 0 0 0 (0#2 ++ md : BitVec 8), none)
  | .fsqrt c md xd xa => some (mk c 0x59 xd xa 0 0 0 (0#2 ++ md : BitVec 8), none)
  | .fex2 c md xd xa => some (mk c 0x5a xd xa 0 0 0 (0#2 ++ md : BitVec 8), none)
  | .flg2 c md xd xa => some (mk c 0x5b xd xa 0 0 0 (0#2 ++ md : BitVec 8), none)
  | .fcls c xd xa => some (mk c 0x5c xd xa 0 0 0 0#8, none)
  | .fcvtF32S32 c xd xa => some (mk c 0x5d xd xa 0 0 0 (0#4 ++ 0#4 : BitVec 8), none)
  | .fcvtF32B32 c xd xa => some (mk c 0x5d xd xa 0 0 0 (0#4 ++ 1#4 : BitVec 8), none)
  | .fcvtS32F32 c xd xa => some (mk c 0x5d xd xa 0 0 0 (0#4 ++ 2#4 : BitVec 8), none)
  | .fcvtB32F32 c xd xa => some (mk c 0x5d xd xa 0 0 0 (0#4 ++ 3#4 : BitVec 8), none)
  | .fcvtF32Fs c fs xd xa => some (mk c 0x5d xd xa 0 0 fs (0#4 ++ 4#4 : BitVec 8), none)
  | .fcvtFsF32 c fs xd xa => some (mk c 0x5d xd xa 0 0 fs (0#4 ++ 5#4 : BitVec 8), none)
  | .fcvtFsF32Sat c fs xd xa => some (mk c 0x5d xd xa 0 0 fs (0#4 ++ 6#4 : BitVec 8), none)
  | .fcvtBf16x2F32 c xd xa xb => some (mk c 0x5d xd xa xb 0 0 (0#4 ++ 7#4 : BitVec 8), none)
  | .fcvtBf16x2F32Sat c xd xa xb => some (mk c 0x5d xd xa xb 0 0 (0#4 ++ 8#4 : BitVec 8), none)
  | .fcvtF32Bf16 c xd xa hi => some (mk c 0x5d xd xa 0 ((BitVec.ofBool hi).setWidth 8) 0 (0#4 ++ 9#4 : BitVec 8), none)
  | .fadd2Bf16 c md xd xa xb => some (mk c 0x60 xd xa xb 0 0 (0#2 ++ md : BitVec 8), none)
  | .fmul2Bf16 c md xd xa xb => some (mk c 0x61 xd xa xb 0 0 (0#2 ++ md : BitVec 8), none)
  | .ffma2Bf16 c md xd xa xb xc => some (mk c 0x62 xd xa xb xc 0 (0#2 ++ md : BitVec 8), none)
  | .place c b pl => some (mk c 0x80 b 0 0 pl 0 0#8, none)
  | .reloc c b pl => some (mk c 0x81 b 0 0 pl 0 0#8, none)
  | .anch c an xa => some (mk c 0x82 an xa 0 0 0 0#8, none)
  | .xacq c => some (mk c 0x83 0 0 0 0 0 0#8, none)
  | .xrel c => some (mk c 0x84 0 0 0 0 0 0#8, none)
  | .ixld c xd xa imm => some (mk c 0x85 xd xa 0 imm.cField 0 0#8, imm.lit?)
  | .ixst c xa xb imm => some (mk c 0x86 0 xa xb imm.cField 0 0#8, imm.lit?)
  | .rds c xd sr => some (mk c 0x87 xd sr 0 0 0 0#8, none)
  | .wrs c sr xa => some (mk c 0x88 sr xa 0 0 0 0#8, none)
  | .ld c sz xd xa off => some (mk c 0x90 xd xa 0 off.cField 0 (0#5 ++ sz : BitVec 8), off.lit?)
  | .ldc c sz n xd xa off => some (mk c 0x91 xd xa 0 off.cField 0 (n ++ 0#2 ++ sz : BitVec 8), off.lit?)
  | .st c sz xa xb off => some (mk c 0x92 0 xa xb off.cField 0 (0#5 ++ sz : BitVec 8), off.lit?)
  | .atomAdd c pl w64 xd xa xb => some (mk c 0x93 xd xa xb 0 0 (0#1 ++ (BitVec.ofBool w64) ++ pl ++ 0#4 : BitVec 8), none)
  | .atomMin c uns pl w64 xd xa xb => some (mk c 0x93 xd xa xb 0 0 (0#1 ++ (BitVec.ofBool w64) ++ pl ++ (if uns then 2#4 else 1#4) : BitVec 8), none)
  | .atomMax c uns pl w64 xd xa xb => some (mk c 0x93 xd xa xb 0 0 (0#1 ++ (BitVec.ofBool w64) ++ pl ++ (if uns then 4#4 else 3#4) : BitVec 8), none)
  | .atomAnd c pl w64 xd xa xb => some (mk c 0x93 xd xa xb 0 0 (0#1 ++ (BitVec.ofBool w64) ++ pl ++ 5#4 : BitVec 8), none)
  | .atomOr c pl w64 xd xa xb => some (mk c 0x93 xd xa xb 0 0 (0#1 ++ (BitVec.ofBool w64) ++ pl ++ 6#4 : BitVec 8), none)
  | .atomXor c pl w64 xd xa xb => some (mk c 0x93 xd xa xb 0 0 (0#1 ++ (BitVec.ofBool w64) ++ pl ++ 7#4 : BitVec 8), none)
  | .atomXchg c pl w64 xd xa xb => some (mk c 0x93 xd xa xb 0 0 (0#1 ++ (BitVec.ofBool w64) ++ pl ++ 8#4 : BitVec 8), none)
  | .atomFadd c pl xd xa xb => some (mk c 0x93 xd xa xb 0 0 (0#2 ++ pl ++ 9#4 : BitVec 8), none)
  | .cas c pl w64 xd xa xb xc => some (mk c 0x94 xd xa xb xc 0 (0#1 ++ (BitVec.ofBool w64) ++ pl ++ 0#4 : BitVec 8), none)
  | .acq c => some (mk c 0x95 0 0 0 0 0 0#8, none)
  | .rel c => some (mk c 0x96 0 0 0 0 0 0#8, none)
  | .fence c => some (mk c 0x97 0 0 0 0 0 0#8, none)
  | .cclean c xa xb off => some (mk c 0x98 0 xa xb off.cField 0 0#8, off.lit?)
  | .cinval c xa xb off => some (mk c 0x99 0 xa xb off.cField 0 0#8, off.lit?)
  | .pref c xa xb off => some (mk c 0x9a 0 xa xb off.cField 0 0#8, off.lit?)
  | .talloc c lvlS hd xv => some (mk c 0xb0 hd xv 0 0 0 (0#7 ++ (BitVec.ofBool lvlS) : BitVec 8), none)
  | .tfree c hd => some (mk c 0xb1 hd 0 0 0 0 0#8, none)
  | .tmap c hd xa xv => some (mk c 0xb2 hd xa xv 0 0 0#8, none)
  | .tcopy c hd ha xr xo => some (mk c 0xb3 hd ha xr xo 0 0#8, none)
  | .tld c xd ha xc => some (mk c 0xb4 xd ha xc 0 0 0#8, none)
  | .tst c ha xc xb => some (mk c 0xb5 ha xc xb 0 0 0#8, none)
  | .tfill c hd xr xb => some (mk c 0xb6 hd xr xb 0 0 0#8, none)
  | .tadd c hd ha hb => some (mk c 0xb7 hd ha hb 0 0 0#8, none)
  | .tmul c hd ha hb => some (mk c 0xb8 hd ha hb 0 0 0#8, none)
  | .tfma c hd ha hb => some (mk c 0xb9 hd ha hb 0 0 0#8, none)
  | .tcvt c sat fs hd ha => some (mk c 0xba hd ha 0 0 fs (0#7 ++ (BitVec.ofBool sat) : BitVec 8), none)
  | .tredAdd c axis hd ha => some (mk c 0xbb hd ha 0 ((BitVec.ofBool axis).setWidth 8) 0 (0#6 ++ 0#2 : BitVec 8), none)
  | .tredMax c axis hd ha => some (mk c 0xbb hd ha 0 ((BitVec.ofBool axis).setWidth 8) 0 (0#6 ++ 1#2 : BitVec 8), none)
  | .tredMin c axis hd ha => some (mk c 0xbb hd ha 0 ((BitVec.ofBool axis).setWidth 8) 0 (0#6 ++ 2#2 : BitVec 8), none)
  | .ttr c hd ha => some (mk c 0xbc hd ha 0 0 0 0#8, none)
  | .mplane c fs hd ha hs => some (mk c 0xc0 hd ha hs 0 fs 0#8, none)
  | .mma c hc ha hb => some (mk c 0xc1 hc ha hb 0 0 0#8, none)
  | .mmas c hc ha hb xm => some (mk c 0xc2 hc ha hb xm 0 0#8, none)
  | .gmm c hc ha hb xp => some (mk c 0xc3 hc ha hb xp 0 0#8, none)
  | .mdrain c fs z en prg hd hc xo => some (mk c 0xc4 hd hc xo (0#4 ++ BitVec.ofBool z ++ BitVec.ofBool en ++ prg : BitVec 8) fs 0#8, none)
  | .mzero c hc => some (mk c 0xc5 hc 0 0 0 0 0#8, none)
  | .epild c n xa => some (mk c 0xc6 n xa 0 0 0 0#8, none)
  | .fbind c fs hd xa xv => some (mk c 0xd0 hd xa xv 0 fs 0#8, none)
  | .fget c xd hf xc => some (mk c 0xd1 xd hf xc 0 0 0#8, none)
  | .fgett c hd hf hi xq => some (mk c 0xd2 hd hf hi xq 0 0#8, none)
  | .ksort c o32 hp hk hc xs => some (mk c 0xd3 hp hk hc xs 0 (0#7 ++ (BitVec.ofBool o32) : BitVec 8), none)
  | .kpack c hv hs hb xs => some (mk c 0xd4 hv hs hb xs 0 0#8, none)
  | .wtake c xd => some (mk c 0xd5 xd 0 0 0 0 0#8, none)
  | .wfix c xd hc xp => some (mk c 0xd6 xd hc xp 0 0 0#8, none)
  | .qpush c q xa => some (mk c 0xd7 q xa 0 0 0 0#8, none)
  | .qpop c xd q => some (mk c 0xd8 xd q 0 0 0 (0#7 ++ 0#1 : BitVec 8), none)
  | .qpopAny c xd => some (mk c 0xd8 xd 0 0 0 0 (0#7 ++ 1#1 : BitVec 8), none)
  | .bari c b cnt => some (mk c 0xe0 0 b 0 cnt.cField 0 0#8, cnt.lit?)
  | .barr c xd b => some (mk c 0xe1 xd b 0 0 0 0#8, none)
  | .barw c b xb => some (mk c 0xe2 0 b xb 0 0 0#8, none)
  | .bars c b => some (mk c 0xe3 0 b 0 0 0 0#8, none)
  | .gset c cc fp gd xa xb => some (mk c 0xe4 gd xa xb 0 0 (0#4 ++ (BitVec.ofBool fp) ++ cc : BitVec 8), none)
  | .gres c gd xa => some (mk c 0xe5 gd xa 0 0 0 0#8, none)
  | .gresOpen c gd => some (mk c 0xe5 gd 0 0 1 0 0#8, none)
  | .gwait c xd ga => some (mk c 0xe6 xd ga 0 0 0 0#8, none)
  | .fwait c mask => some (mk c 0xe7 0 0 ((mask.extractLsb' 8 4).setWidth 8) (mask.extractLsb' 0 8) 0 0#8, none)
  | .lease c n => some (mk c 0xe8 0 0 ((n.extractLsb' 8 4).setWidth 8) (n.extractLsb' 0 8) 0 0#8, none)
  | .rowmaj c xd xa xb xc => some (mk c 0xf0 xd xa xb xc 0 0#8, none)
  | .rowand c xd xa xb => some (mk c 0xf1 xd xa xb 0 0 0#8, none)
  | .rowor c xd xa xb => some (mk c 0xf2 xd xa xb 0 0 0#8, none)
  | .rownot c xd xa => some (mk c 0xf3 xd xa 0 0 0 0#8, none)
  | .rowcp c xd xa => some (mk c 0xf4 xd xa 0 0 0 0#8, none)
  | .bkfence c => some (mk c 0xf5 0 0 0 0 0 0#8, none)
  | .ctxsave c xd xa xb => some (mk c 0xf8 xd xa xb 0 0 (0#7 ++ 0#1 : BitVec 8), none)
  | .ctxsaveTeam c xd xa xb xc => some (mk c 0xf8 xd xa xb xc 0 (0#7 ++ 1#1 : BitVec 8), none)
  | .ctxload c xd xa => some (mk c 0xf9 xd xa 0 0 0 (0#7 ++ 0#1 : BitVec 8), none)
  | .ctxloadTeam c xd xa xc => some (mk c 0xf9 xd xa 0 xc 0 (0#7 ++ 1#1 : BitVec 8), none)
  | .tinvUnmap c xa xb => some (mk c 0xfa 0 xa xb 0 0 0#8, none)
  | .tinvDowngrade c xa xb => some (mk c 0xfa 0 xa xb 1 0 0#8, none)
  | .tinvUnmapAll c xb => some (mk c 0xfa 0 0 xb 2 0 0#8, none)
  | .selftestArray c xd xa => some (mk c 0xfb xd xa 0 0 0 0#8, none)
  | .selftestBank c xd xa => some (mk c 0xfb xd xa 0 1 0 0#8, none)
  | .clauseHeader _ => none
  | .operandSend _ _ _ => none
  | .executeCommand _ _ _ => none
  | .tallocGrant _ _ => none
  | .jobDispatch _ _ => none
  | .jobRetire _ _ => none
  | .arraySelfTest _ _ => none
  | .engineFault _ _ _ => none
  | .engineFaultResume _ _ _ => none
  | .medlarActionStart _ _ _ => none
  | .medlarActionComplete _ _ => none
  | .loadReturn _ _ => none
  | .storePerform _ _ => none
  | .publishDeadline _ _ => none
  | .cleanDropDeadline _ _ => none
  | .atomicPerform _ _ => none
  | .writebackError _ _ => none
  | .movedRefusal _ _ => none
  | .translationRequestCompletion _ _ _ _ => none
  | .invalidateRequest _ _ _ => none
  | .prgResponse _ _ _ => none
  | .priTimeout _ _ => none
  | .rowOperationStart _ _ => none
  | .rowOperationComplete _ _ => none
  | .bankComputeError _ _ _ => none
  | .teamResident _ _ _ => none
  | .recordReplication _ _ _ => none
  | .readyReport _ _ _ => none
  | .startGen _ _ => none
  | .abortGen _ _ => none
  | .preemptionRequest _ _ => none
  | .queueStop _ _ => none
  | .sqtailWrite _ _ => none
  | .cqheadWrite _ _ => none
  | .registerWrite _ _ _ => none
  | .powerWindow _ => none
  | .temperatureLimit _ _ => none
  | .remoteAccessTimeout _ _ => none
  | .dataLoss _ _ => none
  | .powerOn _ _ => none
  | .attestationReport _ => none
  | .pairAdd _ _ => none
  | .pairSub _ _ => none
  | .pairAnd _ _ => none
  | .pairOr _ _ => none
  | .pairXor _ _ => none
  | .pairShl _ _ => none
  | .pairShr _ _ => none
  | .pairSar _ _ => none
  | .pairMinS32 _ _ => none
  | .pairMinB32 _ _ => none
  | .pairMaxS32 _ _ => none
  | .pairMaxB32 _ _ => none
  | .pairMov _ _ => none
  | .pairFadd _ _ => none
  | .pairFmul _ _ => none
  | .pairFmin _ _ => none
  | .pairFmax _ _ => none
  | .remoteOrHostAccessArrival _ _ _ _ => none
  | .queuePairGrant _ _ => none
  | .firmwareLaunchStart _ _ _ => none
  | .escalatedTeamEnd _ _ => none
  | .recoveryFirmwareLoad _ _ => none
  | .maintenanceCompletion _ _ => none
  | .prefCompletion _ _ => none
  | .starvation => none
  | .yieldExclusionEnd => none
  | .unitCommit => none
  | .trapRollback => none
  | .meetComplete => none
  | .tallocTimeout => none
  | .leaseEvaluation => none
  | .leaseQuietDecay => none
  | .parkedTimeExpiry => none
  | .protectionEnd => none
  | .publicationRequest => none
  | .publicationReply => none
  | .revocation => none
  | .registryRecall => none
  | .reclassification => none
  | .pageWalk => none
  | .launchEnd => none
  | .readyDeadlineExpiry => none
  | .preemptionDeadline => none
  | .submissionConsume => none
  | .completionRecordWrite => none
  | .queueEnable => none
  | .errClear => none
  | .portDown => none
  | .pairPnop => none
  | .deviceReset => none
  | .flitError => none

/-- The instruction that an opcode and its selector name, with its operands read from their fields
(R42 to R51): reason 1 for an unassigned OP, reason 2 for a selector value that is not listed. -/
def ofFields (f : Fields) (lit : Option (BitVec 62)) : Except Nat Instr :=
  match f.op.toNat with
  | 0x00 => .ok (.nop f.ctl)
  | 0x01 => .ok (.br f.ctl (f.d ++ f.a ++ f.b ++ f.c))
  | 0x02 => .ok (.brc f.ctl (f.mod.extractLsb' 0 3) (f.mod.getLsbD 3) f.d f.a (f.b ++ f.c))
  | 0x03 => .ok (.brg f.ctl (f.d ++ f.a ++ f.b ++ f.c))
  | 0x04 => .ok (.jmp f.ctl f.a)
  | 0x05 => .ok (.call f.ctl (f.d ++ f.a ++ f.b ++ f.c))
  | 0x06 => .ok (.callr f.ctl f.a)
  | 0x07 => .ok (.ret f.ctl)
  | 0x08 => .ok (.exit f.ctl)
  | 0x09 => .ok (.refill f.ctl f.d)
  | 0x0a => .ok (.repack f.ctl f.a)
  | 0x0b => .ok (.yld f.ctl)
  | 0x0c => .ok (.trap f.ctl f.c)
  | 0x0d => .ok (.brk f.ctl)
  | 0x0e => .ok (.eret f.ctl)
  | 0x10 => match (f.mod.extractLsb' 0 2).toNat with
    | 0 => .ok (.shflIdx f.ctl f.d f.a f.b)
    | 1 => .ok (.shflUp f.ctl f.d f.a f.c)
    | 2 => .ok (.shflDown f.ctl f.d f.a f.c)
    | 3 => .ok (.shflXor f.ctl f.d f.a f.c)
    | _ => .error 2
  | 0x11 => match (f.mod.extractLsb' 0 2).toNat with
    | 0 => .ok (.voteAny f.ctl f.d f.a)
    | 1 => .ok (.voteAll f.ctl f.d f.a)
    | 2 => .ok (.voteBallot f.ctl f.d f.a)
    | _ => .error 2
  | 0x12 => match (f.mod.extractLsb' 0 4).toNat with
    | 0 => .ok (.reduxAdd f.ctl f.d f.a)
    | 1 => .ok (.reduxMin f.ctl false f.d f.a)
    | 2 => .ok (.reduxMin f.ctl true f.d f.a)
    | 3 => .ok (.reduxMax f.ctl false f.d f.a)
    | 4 => .ok (.reduxMax f.ctl true f.d f.a)
    | 5 => .ok (.reduxAnd f.ctl f.d f.a)
    | 6 => .ok (.reduxOr f.ctl f.d f.a)
    | 7 => .ok (.reduxFadd f.ctl f.d f.a)
    | 8 => .ok (.reduxFmin f.ctl f.d f.a)
    | 9 => .ok (.reduxFmax f.ctl f.d f.a)
    | _ => .error 2
  | 0x13 => .ok (.meet f.ctl)
  | 0x20 => match (f.mod.extractLsb' 0 1).toNat with
    | 0 => .ok (.add f.ctl f.d f.a (src2Of f lit))
    | 1 => .ok (.addSat f.ctl f.d f.a (src2Of f lit))
    | _ => .error 2
  | 0x21 => match (f.mod.extractLsb' 0 1).toNat with
    | 0 => .ok (.sub f.ctl f.d f.a (src2Of f lit))
    | 1 => .ok (.subSat f.ctl f.d f.a (src2Of f lit))
    | _ => .error 2
  | 0x22 => .ok (.addc f.ctl f.d f.a f.b f.c)
  | 0x23 => .ok (.mul f.ctl f.d f.a (src2Of f lit))
  | 0x24 => .ok (.mulh f.ctl (f.mod.getLsbD 0) f.d f.a (src2Of f lit))
  | 0x25 => match (f.mod.extractLsb' 0 1).toNat with
    | 0 => .ok (.mad f.ctl f.d f.a f.b f.c)
    | 1 => .ok (.madS64 f.ctl f.d f.a f.b f.c)
    | _ => .error 2
  | 0x26 => .ok (.min f.ctl (f.mod.getLsbD 0) f.d f.a (src2Of f lit))
  | 0x27 => .ok (.max f.ctl (f.mod.getLsbD 0) f.d f.a (src2Of f lit))
  | 0x28 => .ok (.abs f.ctl f.d f.a)
  | 0x29 => .ok (.and f.ctl f.d f.a (src2Of f lit))
  | 0x2a => .ok (.or f.ctl f.d f.a (src2Of f lit))
  | 0x2b => .ok (.xor f.ctl f.d f.a (src2Of f lit))
  | 0x2c => .ok (.andn f.ctl f.d f.a (src2Of f lit))
  | 0x2d => .ok (.not f.ctl f.d f.a)
  | 0x2e => .ok (.shl f.ctl (f.mod.getLsbD 0) f.d f.a (src2Of f lit))
  | 0x2f => .ok (.shr f.ctl (f.mod.getLsbD 0) f.d f.a (src2Of f lit))
  | 0x30 => .ok (.sar f.ctl (f.mod.getLsbD 0) f.d f.a (src2Of f lit))
  | 0x31 => .ok (.rol f.ctl (f.mod.getLsbD 0) f.d f.a (src2Of f lit))
  | 0x32 => .ok (.clz f.ctl (f.mod.getLsbD 0) f.d f.a)
  | 0x33 => .ok (.popc f.ctl (f.mod.getLsbD 0) f.d f.a)
  | 0x34 => .ok (.brev f.ctl (f.mod.getLsbD 0) f.d f.a)
  | 0x35 => .ok (.bfe f.ctl (f.mod.getLsbD 0) f.d f.a (src2Of f lit))
  | 0x36 => .ok (.bfi f.ctl f.d f.a f.b f.c)
  | 0x37 => .ok (.prmt f.ctl f.d f.a f.b f.c)
  | 0x38 => .ok (.sel f.ctl f.d f.a f.b f.c)
  | 0x39 => .ok (.cmp f.ctl (f.mod.extractLsb' 0 3) (f.mod.getLsbD 3) f.d f.a (src2Of f lit))
  | 0x3a => .ok (.add64 f.ctl f.d f.a (src2Of f lit))
  | 0x3b => .ok (.lea f.ctl f.d f.a f.b (f.c.extractLsb' 0 3))
  | 0x3c => .ok (.mov f.ctl f.d f.a)
  | 0x3d => match (f.mod.extractLsb' 0 1).toNat with
    | 0 => .ok (.liB32 f.ctl f.d (immOf f lit))
    | 1 => .ok (.liB64 f.ctl f.d (immOf f lit))
    | _ => .error 2
  | 0x50 => .ok (.fadd f.ctl (f.mod.extractLsb' 0 6) f.d f.a (src2Of f lit))
  | 0x51 => .ok (.fsub f.ctl (f.mod.extractLsb' 0 6) f.d f.a (src2Of f lit))
  | 0x52 => .ok (.fmul f.ctl (f.mod.extractLsb' 0 6) f.d f.a (src2Of f lit))
  | 0x53 => .ok (.ffma f.ctl (f.mod.extractLsb' 0 6) f.d f.a f.b f.c)
  | 0x54 => .ok (.fmin f.ctl (f.mod.extractLsb' 0 6) f.d f.a (src2Of f lit))
  | 0x55 => .ok (.fmax f.ctl (f.mod.extractLsb' 0 6) f.d f.a (src2Of f lit))
  | 0x56 => .ok (.fcmp f.ctl (f.mod.extractLsb' 0 3) f.d f.a (src2Of f lit))
  | 0x57 => .ok (.frcp f.ctl (f.mod.extractLsb' 0 6) f.d f.a)
  | 0x58 => .ok (.frsq f.ctl (f.mod.extractLsb' 0 6) f.d f.a)
  | 0x59 => .ok (.fsqrt f.ctl (f.mod.extractLsb' 0 6) f.d f.a)
  | 0x5a => .ok (.fex2 f.ctl (f.mod.extractLsb' 0 6) f.d f.a)
  | 0x5b => .ok (.flg2 f.ctl (f.mod.extractLsb' 0 6) f.d f.a)
  | 0x5c => .ok (.fcls f.ctl f.d f.a)
  | 0x5d => match (f.mod.extractLsb' 0 4).toNat with
    | 0 => .ok (.fcvtF32S32 f.ctl f.d f.a)
    | 1 => .ok (.fcvtF32B32 f.ctl f.d f.a)
    | 2 => .ok (.fcvtS32F32 f.ctl f.d f.a)
    | 3 => .ok (.fcvtB32F32 f.ctl f.d f.a)
    | 4 => .ok (.fcvtF32Fs f.ctl f.fs f.d f.a)
    | 5 => .ok (.fcvtFsF32 f.ctl f.fs f.d f.a)
    | 6 => .ok (.fcvtFsF32Sat f.ctl f.fs f.d f.a)
    | 7 => .ok (.fcvtBf16x2F32 f.ctl f.d f.a f.b)
    | 8 => .ok (.fcvtBf16x2F32Sat f.ctl f.d f.a f.b)
    | 9 => .ok (.fcvtF32Bf16 f.ctl f.d f.a (f.c.getLsbD 0))
    | _ => .error 2
  | 0x60 => .ok (.fadd2Bf16 f.ctl (f.mod.extractLsb' 0 6) f.d f.a f.b)
  | 0x61 => .ok (.fmul2Bf16 f.ctl (f.mod.extractLsb' 0 6) f.d f.a f.b)
  | 0x62 => .ok (.ffma2Bf16 f.ctl (f.mod.extractLsb' 0 6) f.d f.a f.b f.c)
  | 0x80 => .ok (.place f.ctl f.d f.c)
  | 0x81 => .ok (.reloc f.ctl f.d f.c)
  | 0x82 => .ok (.anch f.ctl f.d f.a)
  | 0x83 => .ok (.xacq f.ctl)
  | 0x84 => .ok (.xrel f.ctl)
  | 0x85 => .ok (.ixld f.ctl f.d f.a (immOf f lit))
  | 0x86 => .ok (.ixst f.ctl f.a f.b (immOf f lit))
  | 0x87 => .ok (.rds f.ctl f.d f.a)
  | 0x88 => .ok (.wrs f.ctl f.d f.a)
  | 0x90 => .ok (.ld f.ctl (f.mod.extractLsb' 0 3) f.d f.a (immOf f lit))
  | 0x91 => .ok (.ldc f.ctl (f.mod.extractLsb' 0 2) (f.mod.extractLsb' 4 4) f.d f.a (immOf f lit))
  | 0x92 => .ok (.st f.ctl (f.mod.extractLsb' 0 3) f.a f.b (immOf f lit))
  | 0x93 => match (f.mod.extractLsb' 0 4).toNat with
    | 0 => .ok (.atomAdd f.ctl (f.mod.extractLsb' 4 2) (f.mod.getLsbD 6) f.d f.a f.b)
    | 1 => .ok (.atomMin f.ctl false (f.mod.extractLsb' 4 2) (f.mod.getLsbD 6) f.d f.a f.b)
    | 2 => .ok (.atomMin f.ctl true (f.mod.extractLsb' 4 2) (f.mod.getLsbD 6) f.d f.a f.b)
    | 3 => .ok (.atomMax f.ctl false (f.mod.extractLsb' 4 2) (f.mod.getLsbD 6) f.d f.a f.b)
    | 4 => .ok (.atomMax f.ctl true (f.mod.extractLsb' 4 2) (f.mod.getLsbD 6) f.d f.a f.b)
    | 5 => .ok (.atomAnd f.ctl (f.mod.extractLsb' 4 2) (f.mod.getLsbD 6) f.d f.a f.b)
    | 6 => .ok (.atomOr f.ctl (f.mod.extractLsb' 4 2) (f.mod.getLsbD 6) f.d f.a f.b)
    | 7 => .ok (.atomXor f.ctl (f.mod.extractLsb' 4 2) (f.mod.getLsbD 6) f.d f.a f.b)
    | 8 => .ok (.atomXchg f.ctl (f.mod.extractLsb' 4 2) (f.mod.getLsbD 6) f.d f.a f.b)
    | 9 => if f.mod.getLsbD 6 then .error 2 else .ok (.atomFadd f.ctl (f.mod.extractLsb' 4 2) f.d f.a f.b)
    | _ => .error 2
  | 0x94 => .ok (.cas f.ctl (f.mod.extractLsb' 4 2) (f.mod.getLsbD 6) f.d f.a f.b f.c)
  | 0x95 => .ok (.acq f.ctl)
  | 0x96 => .ok (.rel f.ctl)
  | 0x97 => .ok (.fence f.ctl)
  | 0x98 => .ok (.cclean f.ctl f.a f.b (immOf f lit))
  | 0x99 => .ok (.cinval f.ctl f.a f.b (immOf f lit))
  | 0x9a => .ok (.pref f.ctl f.a f.b (immOf f lit))
  | 0xb0 => .ok (.talloc f.ctl (f.mod.getLsbD 0) f.d f.a)
  | 0xb1 => .ok (.tfree f.ctl f.d)
  | 0xb2 => .ok (.tmap f.ctl f.d f.a f.b)
  | 0xb3 => .ok (.tcopy f.ctl f.d f.a f.b f.c)
  | 0xb4 => .ok (.tld f.ctl f.d f.a f.b)
  | 0xb5 => .ok (.tst f.ctl f.d f.a f.b)
  | 0xb6 => .ok (.tfill f.ctl f.d f.a f.b)
  | 0xb7 => .ok (.tadd f.ctl f.d f.a f.b)
  | 0xb8 => .ok (.tmul f.ctl f.d f.a f.b)
  | 0xb9 => .ok (.tfma f.ctl f.d f.a f.b)
  | 0xba => .ok (.tcvt f.ctl (f.mod.getLsbD 0) f.fs f.d f.a)
  | 0xbb => match (f.mod.extractLsb' 0 2).toNat with
    | 0 => .ok (.tredAdd f.ctl (f.c.getLsbD 0) f.d f.a)
    | 1 => .ok (.tredMax f.ctl (f.c.getLsbD 0) f.d f.a)
    | 2 => .ok (.tredMin f.ctl (f.c.getLsbD 0) f.d f.a)
    | _ => .error 2
  | 0xbc => .ok (.ttr f.ctl f.d f.a)
  | 0xc0 => .ok (.mplane f.ctl f.fs f.d f.a f.b)
  | 0xc1 => .ok (.mma f.ctl f.d f.a f.b)
  | 0xc2 => .ok (.mmas f.ctl f.d f.a f.b f.c)
  | 0xc3 => .ok (.gmm f.ctl f.d f.a f.b f.c)
  | 0xc4 => .ok (.mdrain f.ctl f.fs (f.c.getLsbD 3) (f.c.getLsbD 2) (f.c.extractLsb' 0 2) f.d f.a f.b)
  | 0xc5 => .ok (.mzero f.ctl f.d)
  | 0xc6 => .ok (.epild f.ctl f.d f.a)
  | 0xd0 => .ok (.fbind f.ctl f.fs f.d f.a f.b)
  | 0xd1 => .ok (.fget f.ctl f.d f.a f.b)
  | 0xd2 => .ok (.fgett f.ctl f.d f.a f.b f.c)
  | 0xd3 => .ok (.ksort f.ctl (f.mod.getLsbD 0) f.d f.a f.b f.c)
  | 0xd4 => .ok (.kpack f.ctl f.d f.a f.b f.c)
  | 0xd5 => .ok (.wtake f.ctl f.d)
  | 0xd6 => .ok (.wfix f.ctl f.d f.a f.b)
  | 0xd7 => .ok (.qpush f.ctl f.d f.a)
  | 0xd8 => match (f.mod.extractLsb' 0 1).toNat with
    | 0 => .ok (.qpop f.ctl f.d f.a)
    | 1 => .ok (.qpopAny f.ctl f.d)
    | _ => .error 2
  | 0xe0 => .ok (.bari f.ctl f.a (immOf f lit))
  | 0xe1 => .ok (.barr f.ctl f.d f.a)
  | 0xe2 => .ok (.barw f.ctl f.a f.b)
  | 0xe3 => .ok (.bars f.ctl f.a)
  | 0xe4 => .ok (.gset f.ctl (f.mod.extractLsb' 0 3) (f.mod.getLsbD 3) f.d f.a f.b)
  | 0xe5 => match f.c.toNat with
    | 1 => .ok (.gresOpen f.ctl f.d)
    | _ => .ok (.gres f.ctl f.d f.a)
  | 0xe6 => .ok (.gwait f.ctl f.d f.a)
  | 0xe7 => .ok (.fwait f.ctl (f.b.extractLsb' 0 4 ++ f.c))
  | 0xe8 => .ok (.lease f.ctl (f.b.extractLsb' 0 4 ++ f.c))
  | 0xf0 => .ok (.rowmaj f.ctl f.d f.a f.b f.c)
  | 0xf1 => .ok (.rowand f.ctl f.d f.a f.b)
  | 0xf2 => .ok (.rowor f.ctl f.d f.a f.b)
  | 0xf3 => .ok (.rownot f.ctl f.d f.a)
  | 0xf4 => .ok (.rowcp f.ctl f.d f.a)
  | 0xf5 => .ok (.bkfence f.ctl)
  | 0xf8 => match (f.mod.extractLsb' 0 1).toNat with
    | 0 => .ok (.ctxsave f.ctl f.d f.a f.b)
    | 1 => .ok (.ctxsaveTeam f.ctl f.d f.a f.b f.c)
    | _ => .error 2
  | 0xf9 => match (f.mod.extractLsb' 0 1).toNat with
    | 0 => .ok (.ctxload f.ctl f.d f.a)
    | 1 => .ok (.ctxloadTeam f.ctl f.d f.a f.c)
    | _ => .error 2
  | 0xfa => match f.c.toNat with
    | 1 => .ok (.tinvDowngrade f.ctl f.a f.b)
    | 2 => .ok (.tinvUnmapAll f.ctl f.b)
    | _ => .ok (.tinvUnmap f.ctl f.a f.b)
  | 0xfb => match f.c.toNat with
    | 1 => .ok (.selftestBank f.ctl f.d f.a)
    | _ => .ok (.selftestArray f.ctl f.d f.a)
  | _ => .error 1

/-- Why a unit is not an instruction: the reason of R37, and, where the opcode and selector are
assigned, the instruction that its other fields would have named. -/
structure DecodeError where
  reason : Nat
  cand   : Option Instr
  deriving DecidableEq, Repr

/-- The opcodes whose C field is a sub-function with reason 7 for other values: `gres` (R197),
`tinv` (R336), `selftest` (R357). -/
def subFunction (op : BitVec 8) : Bool := op == 0xE5 || op == 0xFA || op == 0xFB

/-- The A field of `tinv` with sub-function 2 is ignored (R336). -/
def aIgnored (f : Fields) : Bool := f.op == 0xFA && f.c == 2

/-- A full instruction with the literal before it, if any (R33, R37): the reserved fields are those
that the encoding of the instruction leaves zero. -/
def decodeFields (f : Fields) (lit : Option (BitVec 62)) : Except DecodeError Instr :=
  match ofFields f lit with
  | .error r => .error ⟨r, none⟩
  | .ok i =>
    match i.toFields with
    | none => .error ⟨1, none⟩
    | some (f', lit') =>
      let cFree := lit.isSome && lit' == lit
      let cSub := subFunction f.op
      let g : Fields := if cFree || cSub then { f with c := f'.c } else f
      let g : Fields := if aIgnored f then { g with a := 0 } else g
      if i.fault = some 2 then .error ⟨2, none⟩
      else if f' ≠ g || i.fault = some 3 then .error ⟨3, some i⟩
      else if lit' ≠ lit || (cFree && f.c != 0) then .error ⟨6, some i⟩
      else if f'.c ≠ f.c && !cFree then .error ⟨7, some i⟩
      else match i.fault with
        | some r => .error ⟨r, some i⟩
        | none => .ok i

/-- The layout of a pair slot (R25). -/
structure SlotFields where
  op6  : BitVec 6
  i    : BitVec 1
  d    : BitVec 8
  s    : BitVec 8
  imm8 : BitVec 8
  deriving DecidableEq, Repr

/-- The 31 bits of a slot (R25). -/
def SlotFields.pack (f : SlotFields) : BitVec 31 :=
  (f.op6 ++ f.i ++ f.d ++ f.s ++ f.imm8 : BitVec 31)

/-- The fields of a slot (R25). -/
def SlotFields.unpack (w : BitVec 31) : SlotFields :=
  ⟨w.extractLsb' 25 6, w.extractLsb' 24 1, w.extractLsb' 16 8, w.extractLsb' 8 8, w.extractLsb' 0 8⟩

/-- The I, S and imm8 fields of a slot's operand (R25). -/
def PairSrc.slot (op6 : BitVec 6) (d : Reg) : PairSrc → SlotFields
  | .reg s => ⟨op6, 0, d, s, 0⟩
  | .imm s v => ⟨op6, 1, d, s, v⟩

/-- The slot of each restricted operation (R28). -/
def Instr.toSlot : Instr → Option SlotFields
  | .pairPnop => some ⟨0x00, 0, 0, 0, 0⟩
  | .pairAdd d o => some (o.slot 0x01 d)
  | .pairSub d o => some (o.slot 0x02 d)
  | .pairAnd d o => some (o.slot 0x03 d)
  | .pairOr d o => some (o.slot 0x04 d)
  | .pairXor d o => some (o.slot 0x05 d)
  | .pairShl d o => some (o.slot 0x06 d)
  | .pairShr d o => some (o.slot 0x07 d)
  | .pairSar d o => some (o.slot 0x08 d)
  | .pairMinS32 d o => some (o.slot 0x09 d)
  | .pairMinB32 d o => some (o.slot 0x0A d)
  | .pairMaxS32 d o => some (o.slot 0x0B d)
  | .pairMaxB32 d o => some (o.slot 0x0C d)
  | .pairMov d o => some (o.slot 0x0D d)
  | .pairFadd d o => some (o.slot 0x10 d)
  | .pairFmul d o => some (o.slot 0x11 d)
  | .pairFmin d o => some (o.slot 0x12 d)
  | .pairFmax d o => some (o.slot 0x13 d)
  | _ => none

/-- The operand of a slot (R25). -/
def slotSrc (f : SlotFields) : PairSrc := if f.i == 1 then .imm f.s f.imm8 else .reg f.s

/-- The restricted operation that op6 names (R28); none for a code that is not listed. -/
def ofSlot (f : SlotFields) : Option Instr :=
  match f.op6.toNat with
  | 0x00 => some .pairPnop
  | 0x01 => some (.pairAdd f.d (slotSrc f))
  | 0x02 => some (.pairSub f.d (slotSrc f))
  | 0x03 => some (.pairAnd f.d (slotSrc f))
  | 0x04 => some (.pairOr f.d (slotSrc f))
  | 0x05 => some (.pairXor f.d (slotSrc f))
  | 0x06 => some (.pairShl f.d (slotSrc f))
  | 0x07 => some (.pairShr f.d (slotSrc f))
  | 0x08 => some (.pairSar f.d (slotSrc f))
  | 0x09 => some (.pairMinS32 f.d (slotSrc f))
  | 0x0A => some (.pairMinB32 f.d (slotSrc f))
  | 0x0B => some (.pairMaxS32 f.d (slotSrc f))
  | 0x0C => some (.pairMaxB32 f.d (slotSrc f))
  | 0x0D => some (.pairMov f.d (slotSrc f))
  | 0x10 => some (.pairFadd f.d (slotSrc f))
  | 0x11 => some (.pairFmul f.d (slotSrc f))
  | 0x12 => some (.pairFmin f.d (slotSrc f))
  | 0x13 => some (.pairFmax f.d (slotSrc f))
  | _ => none

/-- A slot whose op6 is assigned and whose unused fields are zero (R27, R28). -/
def decodeSlot (w : BitVec 31) : Option Instr :=
  let f := SlotFields.unpack w
  match ofSlot f with
  | none => none
  | some i => if i.toSlot = some f && i.slotOk then some i else none

/-- The destination of a slot; none for `pnop` (R27). -/
def Instr.slotDest (i : Instr) : Option Reg :=
  match i with
  | .pairPnop => none
  | j => match j.toSlot with
    | some f => some f.d
    | none => none

/-- The destinations of two slots differ and lie in different lane banks (R27). -/
def pairDestsOk (i0 i1 : Instr) : Bool :=
  match i0.slotDest, i1.slotDest with
  | some d0, some d1 => d0.toNat % 4 != d1.toNat % 4
  | _, _ => true

/-- The word of a clause header (R29). -/
def Header.pack (h : Header) : DWord :=
  (2#2 ++ h.wait ++ BitVec.ofBool h.set0.isSome ++ h.set0.getD 0 ++ BitVec.ofBool h.set1.isSome
    ++ h.set1.getD 0 ++ h.len ++ BitVec.ofBool h.y ++ BitVec.ofBool h.r
    ++ BitVec.ofBool h.mark.isSome ++ h.mark.getD 0 ++ 0#17 : BitVec 64)

/-- A clause header, none where R29 calls it undefined. -/
def decodeHeader (w : DWord) : Option Header :=
  let h : Header :=
    { wait := w.extractLsb' 50 12
      set0 := if w.getLsbD 49 then some (w.extractLsb' 45 4) else none
      set1 := if w.getLsbD 44 then some (w.extractLsb' 40 4) else none
      len := w.extractLsb' 34 6, y := w.getLsbD 33, r := w.getLsbD 32
      mark := if w.getLsbD 31 then some (w.extractLsb' 17 14) else none }
  if h.pack = w && h.wf then some h else none

/-- What stands at a word address: a header, a unit of one full instruction with the number of its
words, or a pair word. -/
inductive Decoded where
  | header (h : Header)
  | one (i : Instr) (words : Nat)
  | pair (i0 i1 : Instr)
  deriving DecidableEq, Repr

/-- The unit that a word begins (R16, R33, R34); `next` is the following word of the clause, if any.
A literal is followed by a full instruction whose form takes an immediate. -/
def decodeWord (w : DWord) (next : Option DWord) : Except DecodeError Decoded :=
  match (w.extractLsb' 62 2).toNat with
  | 0 => match decodeFields (Fields.unpack w) none with
    | .ok i => .ok (.one i 1)
    | .error e => .error e
  | 1 => match decodeSlot (w.extractLsb' 31 31), decodeSlot (w.extractLsb' 0 31) with
    | some i0, some i1 => if pairDestsOk i0 i1 then .ok (.pair i0 i1) else .error ⟨4, none⟩
    | _, _ => .error ⟨4, none⟩
  | 2 => match decodeHeader w with
    | some h => .ok (.header h)
    | none => .error ⟨5, none⟩
  | _ => match next with
    | none => .error ⟨6, none⟩
    | some w2 =>
      if w2.extractLsb' 62 2 = 0 then
        match decodeFields (Fields.unpack w2) (some (w.extractLsb' 0 62)) with
        | .ok i => .ok (.one i 2)
        | .error e => .error e
      else .error ⟨6, none⟩

/-- A 64-bit word from its eight bytes, the lowest address first (R9). -/
def wordOfBytes : List Byte → Nat
  | [] => 0
  | b :: bs => b.toNat + 256 * wordOfBytes bs

/-- The eight bytes of a word, the lowest address first (R9). -/
def bytesOf : Nat → Nat → List Byte
  | 0, _ => []
  | n + 1, v => BitVec.ofNat 8 v :: bytesOf n (v / 256)

/-- The decoder on any bytes (R16): the unit at their start and the bytes after it. -/
def decode (bs : List Byte) : Except DecodeError (Decoded × List Byte) :=
  if bs.length < 8 then .error ⟨6, none⟩
  else
    let w := BitVec.ofNat 64 (wordOfBytes (bs.take 8))
    let next := if bs.length < 16 then none
      else some (BitVec.ofNat 64 (wordOfBytes ((bs.drop 8).take 8)))
    match decodeWord w next with
    | .error e => .error e
    | .ok (.one i 2) => .ok (.one i 2, bs.drop 16)
    | .ok d => .ok (d, bs.drop 8)

/-- The literal word of a value (R33). -/
def literalWord (v : BitVec 62) : DWord := (3#2 ++ v : BitVec 64)

/-- The words of an instruction that forms a unit of its own (R34): its literal, if any, then its
word; for a header its one word. Empty for an event and for a pair slot, which has no word of its own. -/
def encode (i : Instr) : List DWord :=
  match i with
  | .clauseHeader h => [h.pack]
  | j => match j.toFields with
    | some (f, some v) => [literalWord v, f.pack]
    | some (f, none) => [f.pack]
    | none => []

/-- The word of a pair (R25). -/
def encodePair (i0 i1 : Instr) : Option DWord :=
  match i0.toSlot, i1.toSlot with
  | some f0, some f1 => some (1#2 ++ f0.pack ++ f1.pack : BitVec 64)
  | _, _ => none

/-- The bytes of words in their order (R9). -/
def bytesOfWords (ws : List DWord) : List Byte := ws.flatMap (fun w => bytesOf 8 w.toNat)

/-- The first instruction of a decoded unit. -/
def Decoded.first : Decoded → Instr
  | .header h => .clauseHeader h
  | .one i _ => i
  | .pair i0 _ => i0

/-- The instruction that the decoder reads from an instruction whose bits are w, bit 0 the least
significant bit of its first word; the bits above nbits are zero. -/
def decodeTableWord (nbits w : Nat) : Option Instr :=
  match decode (bytesOf 16 (w % 2 ^ nbits)) with
  | .ok (d, _) => some d.first
  | .error _ => none

end Sys2Proof
end

