-- ==== Sys2Proof/Config.lean ====
section
/-! DEFINITION. What the spec leaves to the device: free values and fixed mappings that programs do
not see. None has a body, so nothing can be proved of a value of one (log 2). -/

namespace Sys2Proof.Config

/-- The value of an n-th open choice of 32 bits (log 2): State.free counts the choices. -/
opaque freeWord : Nat → BitVec 32

/-- The value of an n-th open choice of one byte (log 2). -/
opaque freeByte : Nat → BitVec 8

/-- The home slice of a line of device memory (R281), one of 64 on each die (R260): a fixed mapping that
programs do not see. -/
opaque homeSlice : Nat → Fin 256

/-- The set of a line in an L1, one of 128 (R260); the spec does not give the index function. -/
opaque l1Set : Nat → Fin 128

/-- The set of a line in its L2 slice, one of 512 (R260). -/
opaque l2Set : Nat → Fin 512

/-- The set of a line in an instruction cache, one of 128 (R260). -/
opaque icSet : Nat → Fin 128

/-- The set of a line in a fetch cache, one of 64 (R260). -/
opaque fcSet : Nat → Fin 64

/-- The order in which the parts of a job at the bank cores proceed (R318), as a key for a core, a job and a part:
they are independent. -/
opaque partKey : Nat → Nat → Nat → Nat

/-- The order in which a `cclean` or `cinval` passes the lines of its range (R313, R407), as a key for an issue set and
a line: none is given. -/
opaque lineKey : Nat → Nat → Nat

/-- The PRI Page Requests that the host allows to be outstanding at once (R342). -/
opaque priRoom : Nat

/-- Whether the power limiter withholds the issue sets of a die in a clk of a window above the limit
(R367: in a share of clk that the spec does not give). -/
opaque withheld : Nat → Nat → Bool

end Sys2Proof.Config
end

