-- ==== Sys2Proof/Machine/State.lean ====
section
/-! DEFINITION. The state of the whole device, plain data (INVENTORY.md, State), its reset value, and
the closed types of faults and refusals. Register files, memories and tables are sorted lists of key
and value in which an unlisted key reads as the default (Machine/Maps.lean).

Numbers that name instances: core 0 to 255 (R104), service cores 256 to 259, one per die (R356). A
thread is core * 2048 + team slot * 512 + TID, its group that number / 32, its team / 512 and its
core / 2048. -/

namespace Sys2Proof.Machine

/-- What a trap hands to its record (R343, R344): cause, reason code, pair slot, whether it is
attributed, TINFO, and for an attributed trap the unit it is attributed to (AUA, R347). -/
structure TrapInfo where
  code   : BitVec 8
  reason : BitVec 8
  slot   : BitVec 2
  attr   : Bool
  tinfo  : DWord
  aua    : DWord
  deriving DecidableEq, Repr

/-- What a thread carries of its clause header (R29, R31): the two flag choices, the refill mark and
the yield bit. -/
structure Clause where
  set0 : Option (BitVec 4)
  set1 : Option (BitVec 4)
  r    : Bool
  y    : Bool
  deriving DecidableEq, Repr

/-- A K-marked write that a younger unit may still read (R110): register, value, sequence number. -/
structure Fwd where
  reg : Nat
  val : Word
  seq : Nat
  deriving DecidableEq, Repr

/-- The part of a thread that a rollback restores (R114): the program counter with the words left in
its clause (CREM, R354), the clause, DEPTH, the repack key, FPC, the place map (R98), the anchors and
which are set (R100), and the K-marked writes in reach (R110). -/
structure Ctx where
  pc     : DWord
  crem   : Nat
  clause : Clause
  depth  : Nat
  key    : Word
  fpc    : Word
  pmap   : BitVec 128
  anc    : List (Nat × DWord)
  aset   : BitVec 4
  fwd    : List Fwd
  deriving DecidableEq, Repr

/-- A handle-table entry (R175) and the storage it names (`uid`, an entry of Core.tiles). -/
structure Handle where
  shape : DWord
  lvl   : BitVec 2
  loc   : BitVec 57
  uid   : Nat
  deriving DecidableEq, Repr

/-- What a unit in the window does when it commits (R112): nothing, let an access perform, complete a
`rel` (R307; the publications that it has sent), set status bits of a format slot (R162), resolve a guard slot
(R196), set a barrier's count (R397), set its group's lease (R271), release the extension lock (R117), give up the
proxy slots that back no block any longer (R103, R111), or exit (R76). -/
inductive CommitAct where
  | none
  | access (id : Nat)
  | rel (pubs : Option (List Nat))
  | status (fs : Nat) (bits : Nat)
  | guard (g : Nat) (v : BitVec 2)
  | bari (b : Nat) (count : Nat)
  | lease (lines : Nat)
  | unlock
  | slots
  | exit
  deriving DecidableEq, Repr

/-- The result of an execute command (R107): register writes in order, FPS flags,
a trap, and the unit's act at commit. -/
structure AluOut where
  writes : List (Reg × Word)
  fps    : BitVec 5
  trap   : Option TrapInfo
  act    : CommitAct
  deriving DecidableEq, Repr

/-- A unit of a thread's window (R109): its sequence number, the address of its first word, the
thread's context before it, the undo entries (R111), the operands still to be sent and the latched
result of its execute command (R107), its K bit (R22), the registers it still has to write, whether
it has completed (R112), the flags it raised (R115), its act at commit, and a trap found at it
(R114). -/
structure WUnit where
  seq    : Nat
  ua     : DWord
  before : Ctx
  undo   : List (Reg × Word)
  sends  : List Reg
  cmd    : Option AluOut
  kbit   : Bool
  pend   : List Reg
  done   : Bool
  fps    : BitVec 5
  act    : CommitAct
  trap   : Option TrapInfo
  deriving DecidableEq, Repr

/-- The kinds of access that a thread's units issue and that perform later (R293, R298, R320). -/
inductive AccKind where
  | load (sgn : Bool) (regs : List Reg)
  | loadc (n : Nat) (regs : List Reg)
  | fget (hf : Nat) (coord : Word) (reg : Reg) (spans : List (Nat × Nat))
  | tld (team h : Nat) (reg : Reg)
  | tst (team h : Nat)
  | store
  | push
  | atom (op : BitVec 4) (pl : BitVec 2) (regs : List Reg)
  | cas (pl : BitVec 2) (regs : List Reg) (expect : Nat)
  | cclean
  | cinval
  | pref
  | rowop (op : BitVec 3) (srcs : List Nat)
  deriving DecidableEq, Repr

/-- A translated address (R331): its target (0 device memory, 1 host, 2 another module), the address
there, the page-table entry that gave it with its own bits, and the virtual page: its first address
above the address space number times 2^57, and its bytes. -/
structure Phys where
  tgt   : Nat
  pa    : Nat
  pte   : Nat
  entry : DWord
  page  : Nat
  size  : Nat
  deriving DecidableEq, Repr

/-- An access of a thread that has issued and not yet performed (R294). `phys` holds the translations
that the access carries, one for each address it names (R337); `moved` says that the home refused it
as moved (R338) and `walks` that its walk waits for a `tinv` (R332); `arrived` is the rank of a row operation in the
order of arrival at the job queues (R318), `started` says that it holds its ticket (R325), or of an atomic that
its issue set has begun to perform (R400). `iset` names the issue set it belongs to
(R265); `miss` holds the timetable entries that it missed at issue and waits for (R278), `sent` the clk since which a request to another module is on its way (R371). -/
structure Access where
  id      : Nat
  seq     : Nat
  ua      : DWord
  kind    : AccKind
  va      : Nat
  size    : Nat
  data    : Nat
  phys    : List Phys
  hint    : BitVec 2
  kbit    : Bool
  iset    : Nat
  commit  : Bool
  moved   : Bool
  walks   : Bool
  arrived : Option Nat
  started : Bool
  flag    : Option Nat
  miss    : List Nat
  sent    : Option Nat
  deriving DecidableEq, Repr

/-- The waits that a unit enters (R60): a meet with the operands it recorded (R80), a barrier after
the arrival (R89), a talloc (R176), a restored lock request (R355), a page walk (R332, R335), a host
translation (R342: the host page and the virtual address), a unit that releases and waits for older
accesses (no publication yet) or for publications it has sent (R307), `precise` when it is a `fence`
(R309), and a `ctxsave.team` about to write back the private bytes of a core's L1 (R352 step 5). -/
inductive Wait where
  | none
  | meet (i : Instr) (va vb : Word)
  | barrier (b : Nat) (token : Word)
  | talloc
  | lock
  | walk (va : Nat)
  | ats (page va : Nat)
  | fence (precise : Bool) (pubs : List Nat)
  | flush (core : Nat)
  deriving DecidableEq, Repr

/-- A thread (R54): everything of R57, R58, R104 and R354 that is its own. Registers hold their
values wherever their block lives (R92, R97); unlisted registers read 0 (R127). `gread` is the guard value
that the thread's next unit has read while it waits for something else (R198), `arriving` the operands that it has
asked of far places for a unit that executes at the lane, of which those listed have still to arrive (R71, R107), `kept` the wait at a barrier that its handler interrupts (R345 step 3, R347). Of a restored thread (R355), `unread` holds the far blocks whose
backing words are still to be read (R102), `stale` and `taStale` say that the clause at PC, or at TA, is. -/
structure Thread where
  ctx      : Ctx
  regs     : List (Nat × Word)
  flags    : List (Nat × Nat)
  fps      : Word
  tcause   : Word
  tinfo    : DWord
  epc      : DWord
  ta       : DWord
  taCrem   : Nat
  taClause : Clause
  inh      : Bool
  pendTrap : Option TrapInfo
  exited   : Bool
  wait     : Wait
  window   : List WUnit
  nextSeq  : Nat
  accs     : List Access
  nextAcc  : Nat
  age      : Nat
  starved  : Option Nat
  yieldEnd : Option Nat
  skid     : Nat
  xhold    : Bool
  xreq     : Option Nat
  xsave    : List (Nat × Word)
  bound    : List Nat
  param    : Option TrapInfo
  gread    : Option Bool
  arriving : Option (List Reg)
  kept     : Wait
  unread   : List Nat
  stale    : Bool
  taStale  : Bool
  deriving DecidableEq, Repr

/-- A named barrier (R87): count, arrivals of the current phase, phase. -/
structure Barrier where
  count    : Nat
  arrivals : Nat
  phase    : Word
  deriving DecidableEq, Repr

/-- A stage queue (R248, R249): its descriptor entry and its entries, first in first out. -/
structure Queue where
  desc    : DWord
  entries : List DWord
  head    : Nat
  deriving DecidableEq, Repr

/-- The lease of a group (R269 to R272). `parked` holds the clk since which it is parked, `protect`
the clk at which its protection ends, `born` its rank by age of residency. -/
structure Lease where
  lines    : Nat
  measured : Bool
  quiet    : Nat
  parked   : Option Nat
  protect  : Option Nat
  born     : Nat
  cluster  : Nat
  slot     : Nat
  deriving DecidableEq, Repr

/-- A trap record of a launch (R362): TCAUSE, TID, TEAM, TINFO, EPC and AUA. -/
abbrev TrapRec := Nat × Nat × Nat × Nat × Nat × Nat

/-- A trap delivered in the clk of its team's halt: the thread and the launch's trap record as they stood. -/
structure Taken where
  th   : Thread
  ti   : TrapInfo
  trec : Option TrapRec
  deriving DecidableEq, Repr

/-- What may still be taken back of a halt (R346): its clk, and the trap delivered in that clk. -/
structure Late where
  clk  : Nat
  undo : Option Taken
  deriving DecidableEq, Repr

/-- A team resident on a core (R54, R244): the launch, its index, what its threads share, and its
halt state (R345 to R349), `late` while the clk of the halt may last; `saving` that a `ctxsave.team` has stopped it, its handler included (R352), and
`quieting` that a save of it waits for its engines, whose jobs stop at their boundaries (R223, R234, R352 step 4). -/
structure Team where
  lid      : Nat
  index    : Nat
  ngrp     : Nat
  c0       : Nat
  firmware : Bool
  halted   : Bool
  trapTid  : Option Nat
  escal    : Bool
  late     : Option Late
  saving   : Bool
  quieting : Bool
  aua      : DWord
  handles  : List (Nat × Handle)
  binds    : List (Nat × Nat)
  guards   : BitVec 32
  status   : List (Nat × Word)
  wqHead   : Nat
  nbar     : Nat
  bars     : List (Nat × Barrier)
  queues   : List (Nat × Queue)
  trig     : List (Nat × Nat)
  dead     : List (Nat × Nat)
  deriving DecidableEq, Repr

/-- Tile storage (R171): level, granules held, owner team and handle, bytes (levels C and S) or
accumulator cells (level A), the sticky saturation bit of an INT32 accumulator (R175), the
accumulator index, and whether a tfree waits for jobs to retire (R177). -/
structure Tile where
  lvl   : BitVec 2
  gran  : Nat
  acc   : Nat
  bytes : List (Nat × Byte)
  cells : List (Nat × Word)
  asat  : Bool
  freed : Bool
  deriving DecidableEq, Repr

/-- A region of a job's footprint (R180, R206): a rectangle of tile storage, possibly only the rows
r with r mod 32 = lane, an interval of memory of an address space, or a program store. -/
inductive Region where
  | tile (uid r0 c0 rows cols : Nat) (lane : Option Nat)
  | mem (asn lo hi : Nat)
  | store (n : Nat)
  deriving DecidableEq, Repr

/-- The states of an engine job: in its queue, stopped with progress and to be dispatched again (R223, R234,
R347), a drain that waits for its self-test (R214), dispatched, performed and waiting for a passing self-test
(R221), performed, suspended by an engine fault (R347). -/
inductive JobState where
  | queued
  | stopped
  | testing
  | running
  | ran
  | done
  | suspended (kind : BitVec 4)
  deriving DecidableEq, Repr

/-- The engines of a core (R179): copy, tile, matrix sequencer, Damson, Currant. -/
inductive Engine where
  | copy | tile | matrix | damson | currant
  deriving DecidableEq, Repr

/-- An engine job, an entry of the footprint table (R179 to R185). `caps` are the captured register
values (R183), `hs` the handle-table entries read at acceptance, `miss` the timetable entries that it waits for (R278), `hint` its retention hint (R20), `gok` that
its guard resolved to let it perform (R199), `walks` that a walk of its pages waits for a `tinv` (R332). A
dispatched job performs in parts, rows or chunks (R223, R234, R318): `part` counts those that it has performed,
`width` is the width of the array under which a product counts them (R220), and `stat` gathers the status bits that
it sets when it completes (R162). `seq` is the sequence number of its unit (R109), 0 once a context has been
restored. `prog` of an `epild` is the record that it replaced (R215). -/
structure Job where
  id     : Nat
  thread : Nat
  ua     : DWord
  cmd    : Instr
  word   : DWord
  engine : Engine
  caps   : List DWord
  hs     : List Handle
  flag   : Option Nat
  reads  : List Region
  writes : List Region
  bank   : Bool
  slice  : Bool
  state  : JobState
  seq    : Nat
  prog   : Nat
  part   : Nat
  width  : Nat
  stat   : BitVec 4
  miss   : List Nat
  hint   : BitVec 2
  gok    : Bool
  walks  : Bool
  deriving DecidableEq, Repr

/-- A program store of the epilogue processor (R215): its words, and the team whose epild was
accepted last. -/
structure Prog where
  words : List Word
  owner : Option Nat
  deriving DecidableEq, Repr

/-- A line of an L1 (R260, R287): 128 bytes with a valid and a dirty bit each, which dirty
bytes were stored since the last publication was sent, an owned bit for each
word, whether its page is shared, the page-table entry it was reached through, retention rank
(R261), expected read count, the issue
sets that it has counted and that still read it, whether it goes at the end of the clk, and the clk of the last read that
counted with its place in the order of that clk (R265), the group that filled it while that group lasts (R270), recency, the clk of its oldest
dirty byte and of its oldest clean byte (R292), and the thread that last stored to it (R309). -/
structure L1Line where
  data    : BitVec 1024
  valid   : BitVec 128
  dirty   : BitVec 128
  fresh   : BitVec 128
  owned   : BitVec 32
  shared  : Bool
  pte     : Nat
  rank    : BitVec 2
  count   : Option Nat
  counted : List Nat
  drop    : Bool
  turn    : Nat × Nat
  filler  : Option Nat
  used    : Nat
  dirtyAt : Nat
  cleanAt : Nat
  lastBy  : Option Nat
  deriving DecidableEq, Repr

/-- A line of an L2 slice (R260 to R263): data, dirty, rank, reuse class, the launches that pin it, recency. -/
structure L2Line where
  data   : BitVec 1024
  dirty  : Bool
  rank   : BitVec 2
  rc     : BitVec 2
  pinned : List Nat
  used   : Nat
  deriving DecidableEq, Repr

/-- A line of a read-only cache: the fetch cache (R224) or the instruction cache (R268). -/
structure RoLine where
  data : BitVec 1024
  rank : BitVec 2
  used : Nat
  deriving DecidableEq, Repr

/-- An extension lock (R117): the holding group, none when free. -/
structure Lock where
  holder : Option Nat
  deriving DecidableEq, Repr

/-- A talloc waiting at an allocator (R176): the thread, the storage it asks for, its arrival clk. -/
structure TallocReq where
  thread : Nat
  h      : Nat
  lvl    : BitVec 2
  gran   : Nat
  shape  : DWord
  at_    : Nat
  deriving DecidableEq, Repr

/-- A core (R2): its caches, tile storage, jobs, allocator queues, group slots (R116), locks,
leases, program stores, the fenced column bands (R222), the checkpoint of the accumulators and the counters of the
jobs at the last passing self-test, and the chunk operations since then (R221), the clk of the next evaluation of its
lease unit and whether the barrier condition held at the last one (R272). -/
structure Core where
  l1       : List (Nat × L1Line)
  vtags    : List (Nat × Option Nat)
  icache   : List (Nat × RoLine)
  fcache   : List (Nat × RoLine)
  teams    : List (Nat × Team)
  tiles    : List (Nat × Tile)
  nextUid  : Nat
  jobs     : List Job
  nextJob  : Nat
  allocs   : List TallocReq
  gslots   : List (Nat × Nat)
  locks    : List (Nat × Lock)
  leases   : List (Nat × Lease)
  progs    : List (Nat × Prog)
  fenced   : BitVec 4
  chk      : List (Nat × List (Nat × Word))
  chkProg  : List (Nat × Nat)
  chunks   : Nat
  nextEval : Nat
  atBar    : Bool
  deriving DecidableEq, Repr

/-- An entry of a slice's ownership registry (R289). -/
structure RegEntry where
  line : Nat
  core : Nat
  mask : BitVec 32
  deriving DecidableEq, Repr

/-- A publication of a line in flight (R288): the dirty bytes it carries, whether the home has acted,
the revocations and recalls it waits for, the line's rank, the thread that last stored to it, and the clk of its oldest
dirty byte (R292). -/
structure Pub where
  id     : Nat
  core   : Nat
  line   : Nat
  mask   : BitVec 128
  data   : BitVec 1024
  acted  : Bool
  acks   : Nat
  rank   : BitVec 2
  lastBy : Option Nat
  since  : Nat
  deriving DecidableEq, Repr

/-- A revocation (R289) or a recall (R290) on its way to a core. -/
structure Revoke where
  id     : Nat
  core   : Nat
  line   : Nat
  words  : BitVec 32
  isRecall : Bool
  pub    : Option Nat
  deriving DecidableEq, Repr

/-- A page class record (R283): the mapping that the entry held when it was classified, the class and owner, and
the virtual page as in Phys. -/
structure PageClass where
  entry : DWord
  cls   : BitVec 2
  own   : BitVec 8
  page  : Nat
  size  : Nat
  deriving DecidableEq, Repr

/-- A queue pair (R359): its registers, whether it is granted and with which address space (R358),
the completion records that wait for ring room (R362) and the MSI-X messages sent. -/
structure QueuePair where
  asp      : AddrSpace
  sqbase   : DWord
  sqlog    : DWord
  cqbase   : DWord
  cqlog    : DWord
  sqtail   : DWord
  cqhead   : DWord
  lastcons : DWord
  lastdone : DWord
  en       : Bool
  stop     : Bool
  err      : Bool
  held     : List (List DWord)
  msix     : Nat
  deriving DecidableEq, Repr

/-- The distributor of a launch (R253 to R256): the thread whose `wtake` reads the group table, the table it
read, or its failure, each team's position in its piece list, the pieces that arrived at a fix-up with the
team of the piece, and the shapes of the parts by slot. -/
structure Dist where
  reader  : Option Nat
  table   : Option (List (Nat × Nat × Nat))
  failed  : Option TrapInfo
  pos     : List (Nat × Nat)
  arrived : List (Nat × Nat × Nat)
  shapes  : List (Nat × DWord)
  deriving DecidableEq, Repr

/-- A running or waiting Medlar action (R276, R277): the timetable entry, the clk in which it fired, whether its walk
waits for a `tinv` (R332), whether it has started, has done its work, and has completed. -/
structure MedAct where
  id      : Nat
  entry   : Nat
  fired   : Nat
  walks   : Bool
  started : Bool
  worked  : Bool
  done    : Bool
  deriving DecidableEq, Repr

/-- A launch (R241 to R259, R361): its identity, its record's words, stage table and device list as copied
at submission, its address space, and its progress. `repEnd` is the clk at which the leader gives up waiting
for the devices of `ready`; `preempt` the clk of the request and `prec` its record's address; `saved` the
teams saved and not restored, each with whether it stands at an escalated trap and is not yet ended; `anySaved` whether one was
saved; `gathered` the status bits that the jobs of saved teams have found, which they set as they complete (R162, log 49);
`trapped` whether one ended unsaved after such a trap; `preempted` that the launch has ended with a
pre-emption record, which the rest of these fields is. -/
structure Launch where
  ident    : DWord
  qp       : Option Nat
  sseq     : DWord
  record   : List DWord
  stages   : List DWord
  devs     : List (List DWord)
  asp      : AddrSpace
  didx     : Nat
  gen      : Word
  started  : Bool
  startClk : Nat
  nextTeam : Nat
  preempt  : Option Nat
  prec     : Nat
  preempted : Bool
  killed   : Bool
  trapped  : Bool
  saved    : List (Nat × Bool)
  anySaved : Bool
  gathered : List (Nat × List (BitVec 4))
  ready    : List Nat
  repEnd   : Option Nat
  dist     : Dist
  timetab  : List (List DWord)
  ttskip   : Nat
  trig     : List (Nat × Nat)
  dead     : List (Nat × Nat)
  acts     : List MedAct
  status   : List (Nat × Word)
  trec     : Option TrapRec
  ntrap    : Nat
  wqHeads  : List (Nat × Nat)
  deriving DecidableEq, Repr

/-- A request to the host for a page (R340, R342). `pri` holds the clk at which a PRI Page Request
was sent, `asks` that one waits for room among those outstanding; `dev` says that a read of the device itself waits
for it. -/
structure AtsReq where
  die    : Nat
  pasid  : Nat
  page   : Nat
  write  : Bool
  pri    : Option Nat
  asks   : Bool
  dev    : Bool
  deriving DecidableEq, Repr

/-- An ATS Invalidate Request (R341): the pages that it names, the accesses that it waits for, each by thread and
number, and whether its Invalidate Completion has been sent. -/
structure Inval where
  pasid : Nat
  page  : Nat
  count : Nat
  waits : List (Nat × Nat)
  done  : Bool
  deriving DecidableEq, Repr

/-- An entry of an address translation cache (R340). -/
structure AtcEntry where
  die   : Nat
  pasid : Nat
  page  : Nat
  res   : AtsResult
  deriving DecidableEq, Repr

/-- Firmware's policy (R366): the rank of the launches of a queue pair (R244), deadlines in clk
per DCLASS, the PRI and remote access timeouts in clk, PLIM in watts. -/
structure Policy where
  prio     : List (Nat × Nat)
  deadline : List (Nat × Nat)
  pri      : Nat
  remote   : Nat
  plim     : Nat
  deriving DecidableEq, Repr

/-- A choice of the scheduler or of the outside world (log 1): an event of the device (`due`: only if it
can come about then), a clause header consumed for a thread (R63), the issue set of a cluster (R62), a
unit of a sibling's skid (R345), or the end of a clk. -/
inductive Move where
  | ev (subject : Nat) (i : Instr)
  | due (subject : Nat) (i : Instr)
  | front (t : Nat)
  | issue (core cluster : Nat)
  | skid (t : Nat)
  | tick
  deriving DecidableEq, Repr

/-- The device. The last fields (agenda to free) are the model's own (log 1, 2): the choices to come, the
clusters that have issued in this clk, the instance that acts (the thread of a unit, the subject of an
event), the rest of the issue set in work and the whole set, the first slot of a pair word in work with
its sources, whether the last unit was not ready, and the counter of free values. -/
structure State where
  threads  : List (Nat × Thread)
  cores    : List (Nat × Core)
  dram     : List Host.Cell
  hostMem  : List Host.Cell
  remote   : List Host.Cell
  l2       : List (Nat × L2Line)
  registry : List RegEntry
  pages    : List (Nat × PageClass)
  reclass  : List Nat
  pubs     : List Pub
  revs     : List Revoke
  nextPub  : Nat
  allocS   : List TallocReq
  slots    : List (Nat × Nat)
  tickets  : List (Nat × Nat)
  badBanks : List Nat
  errlog   : List (Nat × List DWord)
  atc      : List AtcEntry
  ats      : List AtsReq
  invs     : List Inval
  devFail  : List (Nat × Nat × Nat)
  devWalks : List (Nat × Nat)
  walks    : List (Nat × Nat)
  launches : List (Nat × Launch)
  nextLid  : Nat
  queues   : List (Nat × QueuePair)
  lost     : List (Nat × Nat)
  genMax   : Word
  policy   : Policy
  ports    : BitVec 24
  throttle : Bool
  powerAt  : Nat
  hotDies  : BitVec 4
  up       : Bool
  recovery : Bool
  config   : ConfigRecord
  fwDigest : BitVec 256
  attest   : List (BitVec 256 × BitVec 256 × BitVec 256)
  msgs     : List (Nat × Nat × Word)
  told     : List (Nat × Nat)
  clk      : Nat
  agenda   : List Move
  issued   : List (Nat × Nat)
  cur      : Nat
  issueQ   : List Nat
  issueSet : List Nat
  pair     : Option (AluOut × List Reg)
  stalled  : Bool
  free     : Nat
  deriving DecidableEq, Repr

/-- The faults of the model: the machine stops. -/
inductive Fault where
  /-- An access to a physical address that neither tier of the module holds (R331). Raised by the
  memory operations. Safe: the spec says that no memory stands there (log 5). -/
  | physicalHole
  /-- The acting number of the state names no instance: no such thread, team, launch, job or entry.
  Raised by the meanings through Machine/Ops.lean. Safe: the device has no such event (log 6). -/
  | noSuchInstance
  deriving DecidableEq, Repr

/-- The refusals of the model. -/
inductive Refusal where
  /-- An instruction without a meaning in this model, by its mnemonic. Raised by Dispatch alone. Safe. -/
  | notModelled (mnemonic : String)
  deriving DecidableEq, Repr

abbrev Outcome := Host.Outcome State Fault Refusal

/-- A clause context before any header: no flag choice, no refill, no yield. -/
def Clause.empty : Clause := ⟨none, none, false, false⟩

/-- A thread context with every field zero and the given program counter. -/
def Ctx.start (pc : DWord) : Ctx :=
  { pc, crem := 0, clause := Clause.empty, depth := 0, key := 0, fpc := 0, pmap := 0, anc := []
    aset := 0, fwd := [] }

/-- A core after reset: caches, tables and queues empty, no band fenced. -/
def Core.reset : Core :=
  { l1 := [], vtags := [], icache := [], fcache := [], teams := [], tiles := [], nextUid := 0
    jobs := [], nextJob := 0, allocs := [], gslots := [], locks := [], leases := [], progs := []
    fenced := 0, chk := [], chkProg := [], chunks := 0, nextEval := 0, atBar := false }

/-- Firmware's policy before firmware sets any: no class mapped (R259), the timeouts at their
hardware limits and PLIM 1,600 W (R366, log 3). -/
def Policy.reset : Policy :=
  { prio := [], deadline := [], pri := 9400000, remote := 1880000, plim := 1600 }

/-- The device after reset: no team resident, no window open (R372), every queue-pair register 0
(R359), the stored GEN 0 (R258), memory with nothing listed. -/
def State.reset : State :=
  { threads := [], cores := [], dram := [], hostMem := [], remote := [], l2 := [], registry := []
    pages := [], reclass := [], pubs := [], revs := [], nextPub := 0, allocS := []
    slots := [], tickets := [], badBanks := [], errlog := [], atc := [], ats := [], invs := [], devFail := [], devWalks := [], walks := []
    launches := [], nextLid := 0, queues := [], lost := [], genMax := 0, policy := Policy.reset
    ports := BitVec.allOnes 24, throttle := false, powerAt := 0, hotDies := 0, up := false, recovery := false
    config := ⟨false, 0, 0, [], [], ⟨[], [], 10000000, 2000000, 1600⟩, true, 0⟩, fwDigest := 0, attest := [], msgs := [], told := [], clk := 0
    agenda := [], issued := [], cur := 0, issueQ := [], issueSet := [], pair := none, stalled := false, free := 0 }

end Sys2Proof.Machine
end

