-- ==== Sys2Proof/Machine/Maps.lean ====
section
/-! DEFINITION. Sorted lists of key and value, the one form in which State holds register files,
memories and tables; and memory as such a list of bytes in canonical form. -/

namespace Sys2Proof.Machine

/-- The value at a key, none when the key is not listed. -/
def find? {α : Type} : List (Nat × α) → Nat → Option α
  | [], _ => none
  | (k, v) :: m, j => if j = k then some v else find? m j

/-- The value at a key, `d` when the key is not listed. -/
def findD {α : Type} (m : List (Nat × α)) (k : Nat) (d : α) : α := (find? m k).getD d

/-- The list with the key set to a value, its keys rising. -/
def put {α : Type} : List (Nat × α) → Nat → α → List (Nat × α)
  | [], j, w => [(j, w)]
  | (k, v) :: m, j, w =>
    if j < k then (j, w) :: (k, v) :: m else if j = k then (j, w) :: m else (k, v) :: put m j w

/-- The list without a key. -/
def del {α : Type} : List (Nat × α) → Nat → List (Nat × α)
  | [], _ => []
  | (k, v) :: m, j => if j = k then del m j else (k, v) :: del m j

/-- The list with one value changed; unchanged when the key is not listed. -/
def adjust {α : Type} (m : List (Nat × α)) (k : Nat) (f : α → α) : List (Nat × α) :=
  match find? m k with
  | some v => put m k (f v)
  | none => m

/-- The keys of a list rise strictly. -/
def Sorted {α : Type} : List (Nat × α) → Bool
  | [] => true
  | (k, _) :: m => m.all (fun e => k < e.1) && Sorted m

/-- A register file or flag file: an unlisted key reads as the default `d`, and the default is never
listed. -/
def putD {α : Type} [DecidableEq α] (d : α) (m : List (Nat × α)) (k : Nat) (v : α) : List (Nat × α) :=
  if v = d then del m k else put m k v

/-- A memory of bytes in which an unlisted address reads 0 (log 4). -/
abbrev Memory := List Host.Cell

/-- The byte at an address (log 4: 0 where nothing has written). -/
def Memory.read (m : Memory) (a : Nat) : Byte := findD m a 0

/-- The memory with one byte written; writing 0 removes the entry. -/
def Memory.write (m : Memory) (a : Nat) (b : Byte) : Memory := putD 0 m a b

/-- The canonical form of a memory: addresses strictly rising, no entry 0. -/
def Memory.wf (m : Memory) : Bool := Sorted m && m.all (fun e => e.2 != 0)

/-- n bytes from an address as a number, the lowest address least significant (R9). -/
def Memory.readN (m : Memory) (a : Nat) : Nat → Nat
  | 0 => 0
  | n + 1 => (m.read a).toNat + 256 * Memory.readN m (a + 1) n

/-- n bytes of a number written from an address up (R9). -/
def Memory.writeN (m : Memory) (a : Nat) : Nat → Nat → Memory
  | 0, _ => m
  | n + 1, v => Memory.writeN (m.write a (BitVec.ofNat 8 v)) (a + 1) n (v / 256)

end Sys2Proof.Machine
end

