-- ==== Sys2Proof/Machine/Flags.lean ====
section
/-! DEFINITION. Conditions and flags: the condition codes of R41, the FPS flags of R132 as sets of
bits, and FPC (R131). -/

namespace Sys2Proof.Machine

/-- FPS flag bits (R132): invalid operation, divide-by-zero, overflow, underflow, inexact. -/
def fNV : BitVec 5 := 1
def fDZ : BitVec 5 := 2
def fOF : BitVec 5 := 4
def fUF : BitVec 5 := 8
def fNX : BitVec 5 := 16

/-- A flag raised when a condition holds. -/
def flagIf (c : Bool) (f : BitVec 5) : BitVec 5 := if c then f else 0

/-- The rounding directions of FPC.RM (R131). -/
inductive Rm where
  | rne | rtz | rup | rdn
  deriving DecidableEq, Repr

/-- FPC.RM, bits [9:8] (R131). -/
def rmOf (fpc : Word) : Rm :=
  match (fpc.extractLsb' 8 2).toNat with
  | 0 => .rne
  | 1 => .rtz
  | 2 => .rup
  | _ => .rdn

/-- The trap enables of FPC, bits [4:0], in FPS bit order (R131). -/
def enablesOf (fpc : Word) : BitVec 5 := fpc.extractLsb' 0 5

/-- The bits of FPC that a write changes: [9:8] and [4:0] (R131, R12). -/
def fpcWritable : Word := 0x0000031F

/-- The bits of FPS that a write changes (R132, R12). -/
def fpsWritable : Word := 0x0000001F

/-- FPS after flags are merged into it by OR (R115, R132). -/
def mergeFps (fps : Word) (f : BitVec 5) : Word := fps ||| f.setWidth 32

/-- An integer condition of R41 on two values of one width. -/
def condInt (w : Nat) (cc : BitVec 3) (a b : BitVec w) : Bool :=
  match cc.toNat with
  | 0 => a == b
  | 1 => a != b
  | 2 => a.slt b
  | 3 => a.sle b
  | 4 => b.slt a
  | 5 => b.sle a
  | 6 => a.ult b
  | _ => b.ule a

end Sys2Proof.Machine
end

