-- ==== Sys2Proof/Machine/Float.lean ====
section
/-! DEFINITION. The FP32 environment (R133 to R138) and the FP functions of R143 to R149 and R154: an
exact result is formed first and rounded once. Exact values are numbers m * 2^e with a sign. -/

namespace Sys2Proof.Machine

/-- A floating format with a sign, E exponent bits and M mantissa bits (R156): the exponent of its
smallest normal, the number of significant bits, the exponent of its largest finite magnitude and
that magnitude's significand. -/
structure Fmt where
  ebits : Nat
  mbits : Nat
  bias  : Nat
  emax  : Int
  mmax  : Nat
  deriving DecidableEq, Repr

/-- IEEE binary32 (R133). -/
def fmt32 : Fmt := ⟨8, 23, 127, 127, 2 ^ 24 - 1⟩

/-- BF16 (R156). -/
def fmtBf16 : Fmt := ⟨8, 7, 127, 127, 2 ^ 8 - 1⟩

/-- The exponent of the smallest normal magnitude. -/
def Fmt.emin (f : Fmt) : Int := 1 - f.bias

/-- A value as the operations use it: NaN (signalling or quiet), an infinity with its sign, or the
finite number (-1)^neg * m * 2^e. A zero has m = 0 and keeps its sign. -/
inductive Val where
  | nan (snan : Bool)
  | inf (neg : Bool)
  | fin (neg : Bool) (m : Nat) (e : Int)
  deriving DecidableEq, Repr

/-- The value of an FP32 pattern (R133, R134). -/
def decode32 (x : Word) : Val :=
  let s := x.getLsbD 31
  let e := (x.extractLsb' 23 8).toNat
  let m := (x.extractLsb' 0 23).toNat
  if e = 255 then (if m = 0 then .inf s else .nan (!x.getLsbD 22))
  else if e = 0 then .fin s m (-149)
  else .fin s (2 ^ 23 + m) ((e : Int) - 150)

/-- The value of a BF16 pattern (R156). -/
def decodeBf16 (x : BitVec 16) : Val :=
  let s := x.getLsbD 15
  let e := (x.extractLsb' 7 8).toNat
  let m := (x.extractLsb' 0 7).toNat
  if e = 255 then (if m = 0 then .inf s else .nan (!x.getLsbD 6))
  else if e = 0 then .fin s m (-133)
  else .fin s (2 ^ 7 + m) ((e : Int) - 134)

/-- The canonical NaN of FP32 (R134). -/
def nan32 : Word := 0x7FC00000

/-- 2^k for a natural exponent, 1 below. -/
def pow2 (k : Int) : Nat := 2 ^ k.toNat

/-- The number of significant bits of a positive number. -/
def bitLen (m : Nat) : Nat := if m = 0 then 0 else Nat.log2 m + 1

/-- A number divided by 2^k, rounded: the quotient in the rounding direction for a value of the
given sign, and whether anything was lost. `sticky` says that the number stands for a value slightly
above it. -/
def roundShift (rm : Rm) (neg : Bool) (m : Nat) (k : Nat) (sticky : Bool) : Nat × Bool :=
  let q := m / 2 ^ k
  let r := m % 2 ^ k
  let inexact := r != 0 || sticky
  let half := 2 ^ k / 2
  let up : Bool :=
    match rm with
    | .rtz => false
    | .rup => inexact && !neg
    | .rdn => inexact && neg
    | .rne =>
      if k = 0 then false
      else if r > half then true
      else if r = half then (sticky || q % 2 == 1)
      else false
  (if up then q + 1 else q, inexact)

/-- A finite number rounded to `prec` significant bits, no bit below 2^lo: significand, exponent and
whether it is inexact. -/
def roundTo (rm : Rm) (prec : Nat) (lo : Option Int) (neg : Bool) (m : Nat) (e : Int) (sticky : Bool) :
    Nat × Int × Bool :=
  let want : Int := e + (bitLen m : Int) - prec
  let ulp : Int := match lo with
    | some l => max want l
    | none => want
  if ulp ≤ e then
    -- enough bits: the value is exact, unless something stands below it
    if sticky then
      let m' := m * pow2 (e - ulp + 2)
      let (q, _) := roundShift rm neg m' 2 true
      (q, ulp, true)
    else (m * pow2 (e - ulp), ulp, false)
  else
    let (q, i) := roundShift rm neg m (ulp - e).toNat sticky
    (q, ulp, i)

/-- The delivery of a result: the pattern without regard to the sign of a zero's cause, and flags. -/
structure Rounded where
  neg   : Bool
  m     : Nat
  e     : Int
  ovf   : Bool
  flags : BitVec 5
  deriving DecidableEq, Repr

/-- A non-zero finite number rounded once to a format (R133): the magnitude m * 2^e that is delivered,
whether it overflowed, and the flags NX, UF and OF. -/
def roundFmt (f : Fmt) (rm : Rm) (neg : Bool) (m : Nat) (e : Int) (sticky : Bool) : Rounded :=
  let p := f.mbits + 1
  let (q, x, inex) := roundTo rm p (some (f.emin - f.mbits)) neg m e sticky
  let (qu, xu, _) := roundTo rm p none neg m e sticky
  let tooBig : Bool := decide ((x + (bitLen q : Int) - 1 > f.emax) ∨
    (x + (bitLen q : Int) - 1 = f.emax ∧
      q * pow2 (x - (f.emax - f.mbits)) > f.mmax * pow2 ((f.emax - f.mbits) - x)))
  let tiny : Bool := decide (xu + (bitLen qu : Int) - 1 < f.emin)
  if tooBig then ⟨neg, q, x, true, fOF ||| fNX⟩
  else ⟨neg, q, x, false, flagIf inex fNX ||| flagIf (tiny && inex) fUF⟩

/-- Whether an overflow in a rounding direction delivers the infinity (R133, IEEE 754). -/
def overflowInf (rm : Rm) (neg : Bool) : Bool :=
  match rm with
  | .rne => true
  | .rtz => false
  | .rup => !neg
  | .rdn => neg

/-- The code of a finite magnitude q * 2^x that the format holds exactly. -/
def packFinite (f : Fmt) (neg : Bool) (q : Nat) (x : Int) : Nat :=
  let s := if neg then 2 ^ (f.ebits + f.mbits) else 0
  if q = 0 then s
  else
    let lo := f.emin - f.mbits
    let ex := x + (bitLen q : Int) - 1
    if ex < f.emin then s + q * pow2 (x - lo) / pow2 (lo - x)
    else
      -- normal: the significand with mbits + 1 bits
      let sh : Int := x - (ex - f.mbits)
      let sig := q * pow2 sh / pow2 (-sh)
      s + (ex + f.bias).toNat * 2 ^ f.mbits + (sig - 2 ^ f.mbits)

/-- The code of an infinity of a format that has one (R156). -/
def packInf (f : Fmt) (neg : Bool) : Nat :=
  (if neg then 2 ^ (f.ebits + f.mbits) else 0) + (2 ^ f.ebits - 1) * 2 ^ f.mbits

/-- The code of the largest finite magnitude (R156). -/
def packMax (f : Fmt) (neg : Bool) : Nat := packFinite f neg f.mmax (f.emax - f.mbits)

/-- A finite number delivered in a format with infinities, rounded once (R133). -/
def deliver (f : Fmt) (rm : Rm) (neg : Bool) (m : Nat) (e : Int) (sticky : Bool) : Nat × BitVec 5 :=
  if m = 0 then (packFinite f neg 0 0, 0)
  else
    let r := roundFmt f rm neg m e sticky
    if r.ovf then (if overflowInf rm neg then packInf f neg else packMax f neg, r.flags)
    else (packFinite f neg r.m r.e, r.flags)

/-- A result pattern with its flags. -/
abbrev FRes := Word × BitVec 5

/-- The canonical NaN, with NV when `nv`. -/
def nanRes (nv : Bool) : FRes := (nan32, flagIf nv fNV)

/-- Whether a value is a signalling NaN. -/
def Val.snan : Val → Bool
  | .nan s => s
  | _ => false

/-- Whether a value is a NaN. -/
def Val.isNan : Val → Bool
  | .nan _ => true
  | _ => false

/-- The exact sum of two finite numbers, with the sign that R133 gives an exact zero sum. -/
def addExact (rm : Rm) (n1 : Bool) (m1 : Nat) (e1 : Int) (n2 : Bool) (m2 : Nat) (e2 : Int) : Val :=
  let e := min e1 e2
  let a := m1 * pow2 (e1 - e)
  let b := m2 * pow2 (e2 - e)
  if n1 == n2 then .fin n1 (a + b) e
  else if a = b then .fin (rm == .rdn) 0 e
  else if a > b then .fin n1 (a - b) e
  else .fin n2 (b - a) e

/-- The sum of two values (R143): an exact value, or the canonical NaN with or without NV. -/
def addVal (rm : Rm) (a b : Val) : Val × BitVec 5 :=
  match a, b with
  | .nan s, y => (.nan false, flagIf (s || y.snan) fNV)
  | x, .nan s => (.nan false, flagIf (s || x.snan) fNV)
  | .inf s, .inf t => if s == t then (.inf s, 0) else (.nan false, fNV)
  | .inf s, .fin _ _ _ => (.inf s, 0)
  | .fin _ _ _, .inf t => (.inf t, 0)
  | .fin n1 m1 e1, .fin n2 m2 e2 => (addExact rm n1 m1 e1 n2 m2 e2, 0)

/-- The exact product of two values (R143). -/
def mulVal (a b : Val) : Val × BitVec 5 :=
  match a, b with
  | .nan s, y => (.nan false, flagIf (s || y.snan) fNV)
  | x, .nan s => (.nan false, flagIf (s || x.snan) fNV)
  | .inf s, .inf t => (.inf (s != t), 0)
  | .inf s, .fin t m _ => if m = 0 then (.nan false, fNV) else (.inf (s != t), 0)
  | .fin s m _, .inf t => if m = 0 then (.nan false, fNV) else (.inf (s != t), 0)
  | .fin n1 m1 e1, .fin n2 m2 e2 => (.fin (n1 != n2) (m1 * m2) (e1 + e2), 0)

/-- The product plus a third value, one rounding to come (R143): 0 times infinity raises NV even
beside a quiet NaN. -/
def fmaVal (rm : Rm) (a b c : Val) : Val × BitVec 5 :=
  let (p, fl) := mulVal a b
  let (s, f2) := addVal rm p c
  (s, fl ||| f2)

/-- A value delivered in FP32 (R133, R134). -/
def deliver32 (rm : Rm) (v : Val × BitVec 5) : FRes :=
  match v.1 with
  | .nan s => (nan32, v.2 ||| flagIf s fNV)
  | .inf s => (BitVec.ofNat 32 (packInf fmt32 s), v.2)
  | .fin n m e => let (c, f) := deliver fmt32 rm n m e false; (BitVec.ofNat 32 c, v.2 ||| f)

/-- A value delivered in BF16 (R154): any NaN is 0x7FC0. -/
def deliverBf16 (rm : Rm) (v : Val × BitVec 5) : BitVec 16 × BitVec 5 :=
  match v.1 with
  | .nan s => (0x7FC0, v.2 ||| flagIf s fNV)
  | .inf s => (BitVec.ofNat 16 (packInf fmtBf16 s), v.2)
  | .fin n m e => let (c, f) := deliver fmtBf16 rm n m e false; (BitVec.ofNat 16 c, v.2 ||| f)

/-- `fadd`, `fsub`, `fmul`, `ffma` (R143). -/
def faddOp (rm : Rm) (a b : Word) : FRes := deliver32 rm (addVal rm (decode32 a) (decode32 b))
def fsubOp (rm : Rm) (a b : Word) : FRes := faddOp rm a (b ^^^ 0x80000000)
def fmulOp (rm : Rm) (a b : Word) : FRes := deliver32 rm (mulVal (decode32 a) (decode32 b))
def ffmaOp (rm : Rm) (a b c : Word) : FRes :=
  deliver32 rm (fmaVal rm (decode32 a) (decode32 b) (decode32 c))

/-- The order of two values that are not NaN: negative, zero or positive as a is below, at or above b. -/
def cmpVal (a b : Val) : Int :=
  match a, b with
  | .inf s, .inf t => (if s then -1 else 1) - (if t then -1 else 1)
  | .inf s, _ => if s then -1 else 1
  | _, .inf t => if t then 1 else -1
  | .fin n1 m1 e1, .fin n2 m2 e2 =>
    let e := min e1 e2
    let x : Int := (m1 * pow2 (e1 - e) : Nat)
    let y : Int := (m2 * pow2 (e2 - e) : Nat)
    (if n1 then -x else x) - (if n2 then -y else y)
  | .nan _, _ => 0
  | _, .nan _ => 0

/-- `fmin` and `fmax`, minimumNumber and maximumNumber of IEEE 754-2019 (R144); -0 is less than +0. -/
def fminmaxOp (mx : Bool) (a b : Word) : FRes :=
  let va := decode32 a
  let vb := decode32 b
  let nv := flagIf (va.snan || vb.snan) fNV
  if va.isNan && vb.isNan then (nan32, nv)
  else if va.isNan then (b, nv)
  else if vb.isNan then (a, nv)
  else
    let d := cmpVal va vb
    let aFirst : Bool := if d = 0 then a.getLsbD 31 else decide (d < 0)
    (if aFirst != mx then a else b, nv)

/-- An FP32 condition of R41 with the flags of R145. -/
def fcmpOp (cc : BitVec 3) (a b : Word) : Bool × BitVec 5 :=
  let va := decode32 a
  let vb := decode32 b
  let uno := va.isNan || vb.isNan
  let d := cmpVal va vb
  let quiet := flagIf (va.snan || vb.snan) fNV
  let ord := flagIf uno fNV
  match cc.toNat with
  | 0 => (!uno && decide (d = 0), quiet)
  | 1 => (uno || decide (d ≠ 0), quiet)
  | 2 => (!uno && decide (d < 0), ord)
  | 3 => (!uno && decide (d ≤ 0), ord)
  | 4 => (!uno && decide (d > 0), ord)
  | 5 => (!uno && decide (d ≥ 0), ord)
  | 6 => (uno, quiet)
  | _ => (!uno, quiet)

/-- The integer square root of a number of at most 2 * n bits, from the highest bit down. -/
def isqrtAux (x : Nat) : Nat → Nat → Nat
  | 0, r => r
  | n + 1, r =>
    let t := r + 2 ^ n
    if t * t ≤ x then isqrtAux x n t else isqrtAux x n r

/-- The integer square root. -/
def isqrt (x : Nat) : Nat := isqrtAux x (bitLen x / 2 + 1) 0

/-- `frcp`, correctly rounded (R146). -/
def frcpOp (rm : Rm) (a : Word) : FRes :=
  match decode32 a with
  | .nan s => nanRes s
  | .inf s => (BitVec.ofNat 32 (packFinite fmt32 s 0 0), 0)
  | .fin n m e =>
    if m = 0 then (BitVec.ofNat 32 (packInf fmt32 n), fDZ)
    else
      let q := 2 ^ 64 / m
      let (c, f) := deliver fmt32 rm n q (-64 - e) (2 ^ 64 % m != 0)
      (BitVec.ofNat 32 c, f)

/-- `fsqrt`, correctly rounded (R146). -/
def fsqrtOp (rm : Rm) (a : Word) : FRes :=
  match decode32 a with
  | .nan s => nanRes s
  | .inf s => if s then nanRes true else (a, 0)
  | .fin n m e =>
    if m = 0 then (a, 0)
    else if n then nanRes true
    else
      -- an even exponent, and enough bits for a correct rounding with a sticky bit
      let (m', e') := if e % 2 = 0 then (m, e) else (2 * m, e - 1)
      let x := m' * 2 ^ 64
      let r := isqrt x
      let (c, f) := deliver fmt32 rm false r (e' / 2 - 32) (r * r != x)
      (BitVec.ofNat 32 c, f)

/-- `frsq`, correctly rounded to nearest-even (R146). -/
def frsqOp (a : Word) : FRes :=
  match decode32 a with
  | .nan s => nanRes s
  | .inf s => if s then nanRes true else (0, 0)
  | .fin n m e =>
    if m = 0 then (BitVec.ofNat 32 (packInf fmt32 n), fDZ)
    else if n then nanRes true
    else
      let (m', e') := if e % 2 = 0 then (m, e) else (2 * m, e - 1)
      -- 1/sqrt(m' * 2^e') = sqrt(2^128 / m') * 2^(-64 - e'/2)
      let q := 2 ^ 128 / m'
      let r := isqrt q
      let (c, f) := deliver fmt32 .rne false r (-64 - e' / 2) (r * r * m' != 2 ^ 128)
      (BitVec.ofNat 32 c, f)

/-- The class mask of `fcls` (R149). -/
def fclsOp (a : Word) : Word :=
  match decode32 a with
  | .nan s => if s then 0x100 else 0x200
  | .inf s => if s then 0x001 else 0x080
  | .fin n m _ =>
    if m = 0 then (if n then 0x008 else 0x010)
    else if m < 2 ^ 23 then (if n then 0x004 else 0x020)
    else (if n then 0x002 else 0x040)

/-- The floor of a finite number m * 2^e with its sign. -/
def floorVal (neg : Bool) (m : Nat) (e : Int) : Int :=
  let q := m * pow2 e / pow2 (-e)
  let exact := m * pow2 e % pow2 (-e) == 0
  if neg then (if exact then -(q : Int) else -(q : Int) - 1) else q

/-- The loop of `fex2` over the bits of F, from the highest (R147). -/
def ex2Loop (F : Nat) : List Nat → Nat → Nat → Nat
  | [], _, p => p
  | cj :: cs, j, p =>
    ex2Loop F cs (j + 1) (if F.testBit (62 - j) then p * cj / 2 ^ 62 else p)

/-! The constants Cj of R147, Cj = RoundNE(2^(2^-j) * 2^62) for j = 1 to 62. -/

/-- C1 to C16 (R147). -/
def ex2C0 : List Nat :=
  [6521908912666391106, 5484249825272419512, 5029079263719320435, 4815862801830788490,
   4712668792719003884, 4661903986662671290, 4636727017470743990, 4624189567668517720,
   4617933561212708776, 4614808732577250068, 4613247111281068008, 4612466498810092975,
   4612076242109103707, 4611881126141011236, 4611783571252412754, 4611734794581956353]

/-- C17 to C32 (R147). -/
def ex2C1 : List Nat :=
  [4611710406440186476, 4611698212417665819, 4611692115418496524, 4611689066921934630,
   4611687542674409371, 4611686780550835664, 4611686399489096040, 4611686208958238036,
   4611686113692811986, 4611686066060099699, 4611686042243743740, 4611686030335565807,
   4611686024381476851, 4611686021404432377, 4611686019915910140, 4611686019171649022]

/-- C33 to C48 (R147). -/
def ex2C2 : List Nat :=
  [4611686018799518463, 4611686018613453183, 4611686018520420544, 4611686018473904224,
   4611686018450646064, 4611686018439016984, 4611686018433202444, 4611686018430295174,
   4611686018428841539, 4611686018428114721, 4611686018427751313, 4611686018427569608,
   4611686018427478756, 4611686018427433330, 4611686018427410617, 4611686018427399261]

/-- C49 to C62 (R147). -/
def ex2C3 : List Nat :=
  [4611686018427393582, 4611686018427390743, 4611686018427389324, 4611686018427388614,
   4611686018427388259, 4611686018427388081, 4611686018427387993, 4611686018427387948,
   4611686018427387926, 4611686018427387915, 4611686018427387910, 4611686018427387907,
   4611686018427387905, 4611686018427387905]

/-- C1 to C62 (R147). -/
def ex2C : List Nat := ex2C0 ++ ex2C1 ++ ex2C2 ++ ex2C3

/-- `fex2` (R147). -/
def fex2Op (a : Word) : FRes :=
  match decode32 a with
  | .nan s => nanRes s
  | .inf s => if s then (0, 0) else (a, 0)
  | .fin neg m e =>
    -- a magnitude of 2^12 or more gives the same overflow or total underflow as 2^12 (its sign kept)
    let big : Bool := decide (e + (bitLen m : Int) > 12)
    let n : Int := if big then (if neg then -4096 else 4096) else floorVal neg m e
    let isInt : Bool := big || decide (m * pow2 e % pow2 (-e) = 0)
    -- f = a - n, F = floor(f * 2^62)
    let fm : Nat := if isInt then 0
      else
        let r := m % pow2 (-e)
        let r' := if neg then pow2 (-e) - r else r
        r' * 2 ^ 62 / pow2 (-e)
    let pv := ex2Loop fm ex2C 1 (2 ^ 62)
    let (c, f) := deliver fmt32 .rne false pv (n - 62) false
    let tiny := decide ((c : Nat) < 2 ^ 23)
    let nx := !isInt || f &&& fNX != 0
    (BitVec.ofNat 32 c,
      (f &&& fOF) ||| flagIf nx fNX ||| flagIf ((f &&& fUF != 0) || (tiny && nx)) fUF)

/-- The loop of `flg2` (R148): Y and L after n more turns, i counting up from 62 - n + 1. -/
def lg2Loop : Nat → Nat → Nat → Nat
  | 0, _, l => l
  | n + 1, y, l =>
    let y' := y * y / 2 ^ 62
    if y' ≥ 2 ^ 63 then lg2Loop n (y' / 2) (l + 2 ^ n) else lg2Loop n y' l

/-- `flg2` (R148). -/
def flg2Op (a : Word) : FRes :=
  match decode32 a with
  | .nan s => nanRes s
  | .inf s => if s then nanRes true else (a, 0)
  | .fin n m e =>
    if m = 0 then (BitVec.ofNat 32 (packInf fmt32 true), fDZ)
    else if n then nanRes true
    else
      let k := bitLen m - 1
      let ex : Int := e + k
      let l := lg2Loop 62 (m * 2 ^ (62 - k)) 0
      let v : Int := ex * 2 ^ 62 + l
      let (c, _) := deliver fmt32 .rne (decide (v < 0)) v.natAbs (-62) false
      (BitVec.ofNat 32 c, flagIf (m != 2 ^ k) fNX)

/-- An operand after the modifiers of R138: bit 1 takes the absolute value, bit 0 negates. -/
def fmodOp (md : BitVec 2) (x : Word) : Word :=
  let y := if md.getLsbD 1 then x &&& 0x7FFFFFFF else x
  if md.getLsbD 0 then y ^^^ 0x80000000 else y

/-- Both halves of a packed BF16 operand after the modifiers of R138. -/
def fmodOp2 (md : BitVec 2) (x : Word) : Word :=
  let y := if md.getLsbD 1 then x &&& 0x7FFF7FFF else x
  if md.getLsbD 0 then y ^^^ 0x80008000 else y

/-- A packed BF16 operation (R154): the two halves, the OR of their flags, and which halves raised
an enabled flag (TINFO [9:8] of R136). -/
def packed2 (f : Val → Val → Val → Val × BitVec 5) (rm : Rm) (en : BitVec 5) (a b c : Word) :
    Word × BitVec 5 × BitVec 2 :=
  let half (k : Nat) : BitVec 16 × BitVec 5 :=
    deliverBf16 rm (f (decodeBf16 (a.extractLsb' k 16)) (decodeBf16 (b.extractLsb' k 16))
      (decodeBf16 (c.extractLsb' k 16)))
  let (lo, fl) := half 0
  let (hi, fh) := half 16
  ((hi ++ lo : BitVec 32), fl ||| fh,
    (BitVec.ofBool (fh &&& en != 0) ++ BitVec.ofBool (fl &&& en != 0) : BitVec 2))

end Sys2Proof.Machine
end

