-- ==== Sys2Proof/Machine/Formats.lean ====
section
/-! DEFINITION. The element formats (R155 to R159), the conversions into and out of them (R150 to
R153), block-plane form (R164, R165), accumulation (R166, R168) and drain narrowing (R169). -/

namespace Sys2Proof.Machine

/-- Width of an element format by its code (R155). -/
def efWidth (ef : Nat) : Nat :=
  match ef with
  | 1 => 32 | 2 => 16 | 3 => 16 | 4 => 8 | 5 => 8 | 6 => 6 | 7 => 6 | 8 => 4 | 9 => 8
  | 10 => 4 | 11 => 8 | 12 => 16 | 13 => 2 | 14 => 32 | _ => 0

/-- The floating formats, codes 1 to 8 (R155, R156). -/
def efFmt (ef : Nat) : Option Fmt :=
  match ef with
  | 1 => some fmt32
  | 2 => some fmtBf16
  | 3 => some ⟨5, 10, 15, 15, 2 ^ 11 - 1⟩
  | 4 => some ⟨4, 3, 7, 8, 14⟩
  | 5 => some ⟨5, 2, 15, 15, 7⟩
  | 6 => some ⟨3, 2, 3, 4, 7⟩
  | 7 => some ⟨2, 3, 1, 2, 15⟩
  | 8 => some ⟨2, 1, 1, 2, 3⟩
  | _ => none

/-- Formats with infinities (R156). -/
def efHasInf (ef : Nat) : Bool := ef == 1 || ef == 2 || ef == 3 || ef == 5

/-- Formats with NaN codes (R156). -/
def efHasNan (ef : Nat) : Bool := efHasInf ef || ef == 4

/-- The canonical NaN of a format that has one (R156). -/
def efNan (ef : Nat) : Nat :=
  match ef with
  | 1 => 0x7FC00000 | 2 => 0x7FC0 | 3 => 0x7E00 | 4 => 0x7F | 5 => 0x7F | _ => 0

/-- A format is floating, codes 1 to 8 (R191). -/
def efFloat (ef : Nat) : Bool := 1 ≤ ef && ef ≤ 8

/-- A format is an integer format, codes 10, 11, 12 and 14 (R191). -/
def efInt (ef : Nat) : Bool := ef == 10 || ef == 11 || ef == 12 || ef == 14

/-- A w-bit code read as two's complement. -/
def signedOf (w v : Nat) : Int := if v % 2 ^ w < 2 ^ (w - 1) then (v % 2 ^ w : Nat) else (v % 2 ^ w : Nat) - (2 ^ w : Nat)

/-- An integer as a w-bit two's-complement code. -/
def codeOf (w : Nat) (v : Int) : Nat := (v % (2 ^ w : Nat)).toNat

/-- An integer as an exact value. -/
def Val.ofInt (v : Int) : Val := .fin (decide (v < 0)) v.natAbs 0

/-- The value of a code of a floating format (R156). -/
def decodeFmt (ef : Nat) (f : Fmt) (v : Nat) : Val :=
  let s := v.testBit (f.ebits + f.mbits)
  let e := v / 2 ^ f.mbits % 2 ^ f.ebits
  let m := v % 2 ^ f.mbits
  if efHasInf ef && e = 2 ^ f.ebits - 1 then
    (if m = 0 then .inf s else .nan (!v.testBit (f.mbits - 1)))
  else if ef = 4 && v % 128 = 127 then .nan false
  else if e = 0 then .fin s m (f.emin - f.mbits)
  else .fin s (2 ^ f.mbits + m) ((e : Int) - f.bias - f.mbits)

/-- The value of an element code (R153, R156, R157). The T2 code 0b10 is 0. -/
def decodeElem (ef v : Nat) : Val :=
  match efFmt ef with
  | some f => decodeFmt ef f v
  | none =>
    if ef = 9 then (if v = 255 then .nan false else .fin false 1 ((v : Int) - 127))
    else if ef = 13 then (if v = 1 then Val.ofInt 1 else if v = 3 then Val.ofInt (-1) else Val.ofInt 0)
    else Val.ofInt (signedOf (efWidth ef) v)

/-- The range of an integer format or T2. -/
def efMin (ef : Nat) : Int := if ef = 13 then -1 else -(2 ^ (efWidth ef - 1) : Nat)
def efMax (ef : Nat) : Int := if ef = 13 then 1 else (2 ^ (efWidth ef - 1) : Nat) - 1

/-- An integer within bounds. -/
def clampInt (v lo hi : Int) : Int := if v < lo then lo else if v > hi then hi else v

/-- The code of an integer of an integer format or T2 (R157). -/
def intCode (ef : Nat) (v : Int) : Nat := codeOf (efWidth ef) v

/-- A finite number rounded to an integer, nearest-even: the integer and whether it is inexact. -/
def roundInt (neg : Bool) (m : Nat) (e : Int) : Int × Bool :=
  let (q, i) := if e ≥ 0 then (m * pow2 e, false) else roundShift .rne neg m (-e).toNat false
  (if neg then -(q : Int) else q, i)

/-- A finite number truncated to an integer. -/
def truncInt (neg : Bool) (m : Nat) (e : Int) : Int :=
  let q := m * pow2 e / pow2 (-e)
  if neg then -(q : Int) else q

/-- The nearest power of two of a positive number, ties to the even code (R152): its exponent. -/
def nearestPow2 (m : Nat) (e : Int) : Int :=
  let n := bitLen m - 1
  let k : Int := e + n
  -- compare m with 3 * 2^(n-1)
  let c := 2 * m
  let t := 3 * 2 ^ n
  if c < t then k else if c > t then k + 1 else if (k + 127) % 2 = 0 then k else k + 1

/-- The conversion of a value to an element format, nearest-even (R152): code and flags. -/
def narrowElem (ef : Nat) (sat : Bool) (v : Val) : Nat × BitVec 5 :=
  match efFmt ef with
  | some f =>
    match v with
    | .nan s => if efHasNan ef then (efNan ef, flagIf s fNV) else (0, fNV)
    | .inf s =>
      if efHasInf ef then (if sat then packMax f s else packInf f s, 0)
      else if ef = 4 then (if sat then (packMax f s, 0) else (efNan 4, fNV))
      else (packMax f s, fNV)
    | .fin n m e =>
      if m = 0 then (packFinite f n 0 0, 0)
      else
        let r := roundFmt f .rne n m e false
        if r.ovf then
          (if sat || !efHasNan ef then packMax f n
            else if efHasInf ef then packInf f n else efNan 4, r.flags)
        else (packFinite f n r.m r.e, r.flags)
  | none =>
    if ef = 9 then
      match v with
      | .fin false m e =>
        if m = 0 then (0xFF, fNV)
        else
          let k := nearestPow2 m e
          let nx := flagIf (m != 2 ^ (bitLen m - 1)) fNX
          if k < -127 then (0, fUF ||| fNX) else if k > 127 then (254, fOF ||| fNX)
          else ((k + 127).toNat, nx)
      | _ => (0xFF, fNV)
    else
      match v with
      | .nan _ => (0, fNV)
      | .inf s => (intCode ef (if s then efMin ef else efMax ef), fNV)
      | .fin n m e =>
        let (i, inex) := roundInt n m e
        if i < efMin ef then (intCode ef (efMin ef), fNV)
        else if i > efMax ef then (intCode ef (efMax ef), fNV)
        else (intCode ef i, flagIf inex fNX)

/-- An exact value rounded to FP32, nearest-even, every NaN canonical. -/
def toF32 (v : Val) : Word := (deliver32 .rne (v, 0)).1

/-- `fcvt.f32.fs` (R153): an element as FP32; the only flag is NX for an INT32 element that the
rounding changes. -/
def fcvtF32FsOp (ef : Nat) (a : Word) : FRes :=
  let v := a.toNat % 2 ^ efWidth ef
  let r := deliver32 .rne (match decodeElem ef v with | .nan _ => .nan false | w => w, 0)
  (r.1, if ef = 14 then r.2 &&& fNX else 0)

/-- `fcvt.fs.f32` (R152, R163): a slot that names FP32 delivers its operand, every NaN canonical. -/
def fcvtFsF32Op (ef : Nat) (sat : Bool) (a : Word) : FRes :=
  if ef = 1 then
    match decode32 a with
    | .nan s => nanRes s
    | _ => (a, 0)
  else
    let (c, f) := narrowElem ef sat (decode32 a)
    (BitVec.ofNat 32 c, f)

/-- `fcvt.f32.s32` and `.b32` (R151). -/
def fcvtF32IntOp (uns : Bool) (a : Word) : FRes :=
  deliver32 .rne (Val.ofInt (if uns then (a.toNat : Int) else a.toInt), 0)

/-- `fcvt.s32.f32` and `.b32` (R151). -/
def fcvtIntF32Op (uns : Bool) (a : Word) : FRes :=
  let lo : Int := if uns then 0 else -2 ^ 31
  let hi : Int := if uns then 2 ^ 32 - 1 else 2 ^ 31 - 1
  match decode32 a with
  | .nan _ => (0, fNV)
  | .inf s => (BitVec.ofInt 32 (if s then lo else hi), fNV)
  | .fin n m e =>
    let (i, inex) := roundInt n m e
    if i < lo then (BitVec.ofInt 32 lo, fNV)
    else if i > hi then (BitVec.ofInt 32 hi, fNV)
    else (BitVec.ofInt 32 i, flagIf inex fNX)

/-- `fcvt.bf16x2.f32` (R151, R152). -/
def fcvtBf16x2Op (sat : Bool) (a b : Word) : FRes :=
  let (lo, f0) := narrowElem 2 sat (decode32 a)
  let (hi, f1) := narrowElem 2 sat (decode32 b)
  ((BitVec.ofNat 16 hi ++ BitVec.ofNat 16 lo : BitVec 32), f0 ||| f1)

/-- `fcvt.f32.bf16` (R151): one half extended exactly; a signalling NaN raises NV. -/
def fcvtF32Bf16Op (hi : Bool) (a : Word) : FRes :=
  let h : BitVec 16 := if hi then a.extractLsb' 16 16 else a.extractLsb' 0 16
  match decodeBf16 h with
  | .nan s => nanRes s
  | _ => ((h ++ 0#16 : BitVec 32), 0)

/-- An FP8 E4M3 immediate converted to FP32 exactly (R28, R137). -/
def e4m3Imm (v : BitVec 8) : Word := toF32 (decodeElem 4 v.toNat)

/-- Drain narrowing (R169): truncation toward zero to the output format under SAT and NANP. -/
def drainElem (ef : Nat) (sat nanp : Bool) (v : Val) : Nat :=
  match efFmt ef with
  | some f =>
    match v with
    | .nan _ => if efHasNan ef && !nanp then efNan ef else 0
    | .inf s =>
      if efHasInf ef && !sat then packInf f s
      else if ef = 4 && !sat then efNan 4
      else packMax f s
    | .fin n m e =>
      if m = 0 then packFinite f n 0 0
      else
        let r := roundFmt f .rtz n m e false
        if r.ovf then packMax f n else packFinite f n r.m r.e
  | none =>
    if ef = 9 then
      match v with
      | .nan _ => 0xFF
      | .inf s => if s then 0xFF else 254
      | .fin n m e =>
        if n || m = 0 then 0xFF
        else (clampInt (e + (bitLen m : Int) - 1 + 127) 0 254).toNat
    else
      match v with
      | .nan _ => 0
      | .inf s => intCode ef (if s then efMin ef else efMax ef)
      | .fin n m e => intCode ef (clampInt (truncInt n m e) (efMin ef) (efMax ef))

/-! Format slots (R160 to R163). -/

/-- The fields of a format-slot descriptor (R161). -/
def slotEF (d : DWord) : Nat := (d.extractLsb' 0 4).toNat
def slotBS (d : DWord) : Nat := 16 * 2 ^ (d.extractLsb' 4 2).toNat
def slotSF (d : DWord) : Nat := (d.extractLsb' 6 2).toNat
def slotP (d : DWord) : Nat := (d.extractLsb' 8 5).toNat
def slotSat (d : DWord) : Bool := d.getLsbD 13
def slotNanp (d : DWord) : Bool := d.getLsbD 14

/-- A descriptor that R162 accepts. -/
def slotOk (d : DWord) : Bool :=
  let ef := slotEF d
  let sf := slotSF d
  let p := slotP d
  let bs := (d.extractLsb' 4 2).toNat
  d.extractLsb' 15 49 == 0 && ef != 15 && bs != 3
    && (ef != 0 || d == 0)
    && (sf == 0 || ef == 4 || ef == 5 || ef == 6 || ef == 7 || ef == 8 || ef == 10 || ef == 11 || ef == 13)
    && (sf != 0 || bs == 0)
    && (ef != 13 || (p == 1 && (sf == 0 || sf == 1)))
    && (ef == 0 || ef == 13 || (2 ≤ p && p ≤ 16))

/-- Bytes of a block's scale (R159). -/
def scaleBytes (sf : Nat) : Nat := if sf = 3 then 4 else 1

/-- The element format of a scale: E8M0, E4M3 or FP32 (R161). -/
def scaleEF (sf : Nat) : Nat := if sf = 1 then 9 else if sf = 2 then 4 else 1

/-- The slot status bits (R162). -/
def sDW : BitVec 4 := 1
def sPS : BitVec 4 := 2
def sSB : BitVec 4 := 4
def sEO : BitVec 4 := 8

/-- An element times its block's scale, exactly (R159): NaN as R159 gives. -/
def scaleVal (v s : Val) : Val := (mulVal v s).1

/-! Block-plane form (R164, R165). -/

/-- A block in block-plane form: its exponent field and its 32 integers. -/
structure Block where
  ef : Nat
  q  : List Int
  deriving DecidableEq, Repr

/-- Whether a block is special (R164). -/
def Block.special (b : Block) : Bool := b.ef == 255

/-- Whether a slot gives integer blocks (R165): INT4, INT8 or INT16, no scale, P at least w. -/
def intBlockSlot (d : DWord) : Bool :=
  (slotEF d == 10 || slotEF d == 11 || slotEF d == 12) && slotSF d == 0
    && decide (efWidth (slotEF d) ≤ slotP d)

/-- The unit exponent U of a block (R164). -/
def unitExp (ternary : Bool) (p ef : Nat) : Int :=
  if ternary then (ef : Int) - 127 else (ef : Int) - 127 - ((p : Int) - 2)

/-- floor(log2 |v|) of a non-zero finite value. -/
def log2Val : Val → Option Int
  | .fin _ m e => if m = 0 then none else some (e + (bitLen m : Int) - 1)
  | _ => none

/-- The conversion of 32 decoded and scaled values to a block (R165) with the status bits it sets.
`trits` are the elements of a ternary block, `c` its scale code. -/
def toBlock (d : DWord) (vals : List Val) (trits : List Int) (c : Nat) : Block × BitVec 4 :=
  let p := slotP d
  let special := vals.any (fun v => match v with | .fin _ _ _ => false | _ => true)
  if special then (⟨255, vals.map (fun _ => 0)⟩, sSB)
  else if slotEF d = 13 then (⟨if slotSF d = 1 then c else 127, trits⟩, 0)
  else if intBlockSlot d then
    (⟨p - 2 + 127, vals.map (fun v => match v with | .fin n m e => truncInt n m e | _ => 0)⟩, 0)
  else
    let es := vals.filterMap log2Val
    let e : Int := es.foldl max (-127)
    if e > 127 then (⟨255, vals.map (fun _ => 0)⟩, sSB ||| sEO)
    else
      let u : Int := e - ((p : Int) - 2)
      let hi : Int := (2 ^ (p - 1) : Nat) - 1
      let raw := vals.map (fun v => match v with
        | .fin n m x => (roundInt n m (x - u)).1
        | _ => 0)
      (⟨(e + 127).toNat, raw.map (fun q => if q > hi then hi else q)⟩, if raw.any (fun q => q > hi) then sPS else 0)

/-- The container width W of a word-operand block (R164). -/
def wordW (p : Nat) : Nat := if p ≤ 4 then 4 else if p ≤ 8 then 8 else 16

/-! Accumulation (R166, R168). -/

/-- RoundNE(a + S * 2^u) in FP32 (R166). -/
def accAdd (acc : Word) (s : Int) (u : Int) : Word :=
  if s = 0 then acc
  else (deliver32 .rne (addVal .rne (decode32 acc) (.fin (decide (s < 0)) s.natAbs u))).1

/-- One chunk into an FP32 accumulator (R166). -/
def accF32 (acc : Word) (special : Bool) (s : Int) (u : Int) : Word :=
  if special then nan32 else accAdd acc s u

/-- One chunk into an INT32 accumulator (R168): the cell and whether the clamp changed it. -/
def accI32 (acc : Word) (s : Int) : Word × Bool :=
  let v := acc.toInt + s
  let c := clampInt v (-2 ^ 31) (2 ^ 31 - 1)
  (BitVec.ofInt 32 c, c != v)

/-- The integer S of a chunk (R166): the exact sum of products. -/
def dot : List Int → List Int → Int
  | a :: as, b :: bs => a * b + dot as bs
  | _, _ => 0

end Sys2Proof.Machine
end

