-- ==== Sys2Proof/Machine/Alu.lean ====
section
/-! DEFINITION. The integer and address functions of R140 and R141, each once, the same at every
place (R129). Exact arithmetic on integers narrows where R140 says so. -/

namespace Sys2Proof.Machine

/-- A 64-bit value from an even register and its odd partner (R14, R92). -/
def pairVal (hi lo : Word) : DWord := (hi ++ lo : BitVec 64)

/-- The low word of a 64-bit value. -/
def loWord (v : DWord) : Word := v.extractLsb' 0 32

/-- The high word of a 64-bit value. -/
def hiWord (v : DWord) : Word := v.extractLsb' 32 32

/-- An exact sum clamped to the signed 32-bit range (R140). -/
def clamp32 (v : Int) : Word := BitVec.ofInt 32 (clampInt v (-2 ^ 31) (2 ^ 31 - 1))

/-- `add.s32.sat` and `sub.s32.sat` (R140). -/
def addSatOp (a b : Word) : Word := clamp32 (a.toInt + b.toInt)
def subSatOp (a b : Word) : Word := clamp32 (a.toInt - b.toInt)

/-- `addc` (R140): the sum with a carry in, and the carry out in the upper word. -/
def addcOp (a b c : Word) : DWord := BitVec.ofNat 64 (a.toNat + b.toNat + c.toNat % 2)

/-- `mulh` (R140): bits [63:32] of the exact product. -/
def mulhOp (uns : Bool) (a b : Word) : Word :=
  if uns then BitVec.ofNat 32 (a.toNat * b.toNat / 2 ^ 32)
  else BitVec.ofInt 32 (a.toInt * b.toInt / 2 ^ 32)

/-- `mad.s64` (R140). -/
def madS64Op (a b : Word) (c : DWord) : DWord := BitVec.ofInt 64 (a.toInt * b.toInt + c.toInt)

/-- `min` and `max`, signed or unsigned (R140). -/
def minOp (uns : Bool) (a b : Word) : Word := if (if uns then b.ult a else b.slt a) then b else a
def maxOp (uns : Bool) (a b : Word) : Word := if (if uns then a.ult b else a.slt b) then b else a

/-- `abs` (R140): the absolute value of 0x8000_0000 is itself. -/
def absOp (a : Word) : Word := if a.slt 0 then 0 - a else a

/-- Shifts by a count taken modulo the width (R140). -/
def shlOp (w : Nat) (a : BitVec w) (n : Word) : BitVec w := a <<< (n.toNat % w)
def shrOp (w : Nat) (a : BitVec w) (n : Word) : BitVec w := a >>> (n.toNat % w)
def sarOp (w : Nat) (a : BitVec w) (n : Word) : BitVec w := a.sshiftRight (n.toNat % w)
def rolOp (w : Nat) (a : BitVec w) (n : Word) : BitVec w := a.rotateLeft (n.toNat % w)

/-- Leading zero bits of a w-bit value, w for 0 (R140). -/
def clzOp (w : Nat) (a : BitVec w) : Word := BitVec.ofNat 32 (w - bitLen a.toNat)

/-- One bits among the low n bits of a number. -/
def popNat : Nat → Nat → Nat
  | 0, _ => 0
  | n + 1, v => v % 2 + popNat n (v / 2)

/-- One bits of a value (R140). -/
def popcOp (w : Nat) (a : BitVec w) : Word := BitVec.ofNat 32 (popNat w a.toNat)

/-- The low n bits of a number in reverse order, onto r. -/
def revNat : Nat → Nat → Nat → Nat
  | 0, _, r => r
  | n + 1, v, r => revNat n (v / 2) (2 * r + v % 2)

/-- Bit reversal (R140). -/
def brevOp (w : Nat) (a : BitVec w) : BitVec w := BitVec.ofNat w (revNat w a.toNat 0)

/-- The position and length of a bit-field control (R141). -/
def bfPos (ctl : Word) : Nat := (ctl.extractLsb' 0 8).toNat
def bfLen (ctl : Word) : Nat := min (ctl.extractLsb' 8 8).toNat 32

/-- `bfe` (R141). -/
def bfeOp (uns : Bool) (a ctl : Word) : Word :=
  let n := bfLen ctl
  let f := a.toNat / 2 ^ bfPos ctl % 2 ^ n
  if n = 0 then 0
  else if uns then BitVec.ofNat 32 f
  else BitVec.ofInt 32 (signedOf n f)

/-- `bfi` (R141). -/
def bfiOp (a ctl c : Word) : Word :=
  let p := bfPos ctl
  let m : Word := BitVec.ofNat 32 ((2 ^ bfLen ctl - 1) * 2 ^ p)
  (c &&& ~~~m) ||| (BitVec.ofNat 32 (a.toNat * 2 ^ p) &&& m)

/-- One byte of `prmt` (R141): the byte of q that a selector nibble names, or its sign byte. -/
def prmtByte (q : DWord) (s : BitVec 4) : Byte :=
  let y : Byte := BitVec.ofNat 8 (q.toNat / 2 ^ (8 * (s.extractLsb' 0 3).toNat))
  if s.getLsbD 3 then (if y.getLsbD 7 then 0xFF else 0) else y

/-- `prmt` (R141). -/
def prmtOp (a b sel : Word) : Word :=
  let q := pairVal b a
  (prmtByte q (sel.extractLsb' 12 4) ++ prmtByte q (sel.extractLsb' 8 4)
    ++ prmtByte q (sel.extractLsb' 4 4) ++ prmtByte q (sel.extractLsb' 0 4) : BitVec 32)

/-- `lea` (R140): a 64-bit base plus a signed word shifted left by s. -/
def leaOp (a : DWord) (b : Word) (s : Nat) : DWord := a + BitVec.ofInt 64 (b.toInt * 2 ^ s)

/-- A Boolean as the word 1 or 0. -/
def boolWord (b : Bool) : Word := if b then 1 else 0

/-- The restricted operations of a pair word (R28): the slot's value and flags. -/
inductive PairOp where
  | add | sub | and | or | xor | shl | shr | sar | minS | minB | maxS | maxB | mov
  | fadd | fmul | fmin | fmax
  deriving DecidableEq, Repr

/-- The value that a slot takes from imm8 (R28). -/
def PairOp.imm (op : PairOp) (v : BitVec 8) : Word :=
  match op with
  | .add | .sub | .minS | .maxS | .mov => v.signExtend 32
  | .and | .or | .xor | .minB | .maxB | .shl | .shr | .sar => v.setWidth 32
  | .fadd | .fmul | .fmin | .fmax => e4m3Imm v

/-- What a slot computes from its two values (R28) under a rounding direction (R135). -/
def PairOp.eval (op : PairOp) (rm : Rm) (a b : Word) : FRes :=
  match op with
  | .add => (a + b, 0)
  | .sub => (a - b, 0)
  | .and => (a &&& b, 0)
  | .or => (a ||| b, 0)
  | .xor => (a ^^^ b, 0)
  | .shl => (shlOp 32 a b, 0)
  | .shr => (shrOp 32 a b, 0)
  | .sar => (sarOp 32 a b, 0)
  | .minS => (minOp false a b, 0)
  | .minB => (minOp true a b, 0)
  | .maxS => (maxOp false a b, 0)
  | .maxB => (maxOp true a b, 0)
  | .mov => (b, 0)
  | .fadd => faddOp rm a b
  | .fmul => fmulOp rm a b
  | .fmin => fminmaxOp false a b
  | .fmax => fminmaxOp true a b

end Sys2Proof.Machine
end

