-- ==== Sys2Proof/Machine/Mem.lean ====
section
/-! DEFINITION. Homes and copies: tier memory, L2 lines at their home slices, L1 lines and page
classes, publications, the registry, acquire and release (R260 to R263, R281 to R292). -/

namespace Sys2Proof.Machine

/-! Lines of 128 bytes (R260). -/

/-- The line of an address. -/
def lineOf (a : Nat) : Nat := a / 128

/-- One byte of a line. -/
def lineByte (d : BitVec 1024) (i : Nat) : Byte := d.extractLsb' (8 * i) 8

/-- A line with the bytes of a mask taken from another line. -/
def mergeBytes (old new : BitVec 1024) (mask : BitVec 128) : Nat → BitVec 1024
  | 0 => old
  | n + 1 =>
    let r := mergeBytes old new mask n
    if mask.getLsbD n then
      (r &&& ~~~((0xFF : BitVec 1024) <<< (8 * n))) ||| ((lineByte new n).setWidth 1024 <<< (8 * n))
    else r

/-- A line with the bytes of a mask taken from another line (all 128 positions). -/
def merge (old new : BitVec 1024) (mask : BitVec 128) : BitVec 1024 := mergeBytes old new mask 128

/-- The mask of n bytes from offset o. -/
def spanMask (o n : Nat) : BitVec 128 := BitVec.ofNat 128 ((2 ^ n - 1) * 2 ^ o)

/-- n bytes of a line from an offset, as a number (R9). -/
def lineNum (d : BitVec 1024) (o n : Nat) : Nat := d.toNat / 2 ^ (8 * o) % 2 ^ (8 * n)

/-- A number placed at an offset of a line. -/
def placeNum (v o : Nat) : BitVec 1024 := BitVec.ofNat 1024 (v * 2 ^ (8 * o))

/-- The word mask of the words that hold a byte of a byte mask (R288). -/
def wordsOf (m : BitVec 128) : BitVec 32 :=
  BitVec.ofNat 32 ((List.range 32).foldl (fun r w => if m.extractLsb' (4 * w) 4 != 0 then r + 2 ^ w else r) 0)

/-- The byte mask of the words of a word mask. -/
def bytesOfMask (w : BitVec 32) : BitVec 128 :=
  BitVec.ofNat 128 ((List.range 32).foldl (fun r i => if w.getLsbD i then r + 15 * 2 ^ (4 * i) else r) 0)

/-! Tier memory and the home slices. -/

/-- Tier 1 occupies physical addresses 0 to 384 GiB (R331). -/
def tier1 (pa : Nat) : Bool := pa < 384 * 2 ^ 30

/-- An address that one of the tiers holds (R331). -/
def physOk (pa : Nat) : Bool := tier1 pa || (2 ^ 40 ≤ pa && pa < 2 ^ 41)

/-- A line as tier memory holds it. -/
def dramLine (s : State) (ln : Nat) : BitVec 1024 := BitVec.ofNat 1024 (Memory.readN s.dram (128 * ln) 128)

/-- A line written to tier memory. -/
def dramPut (s : State) (ln : Nat) (d : BitVec 1024) : State :=
  { s with dram := Memory.writeN s.dram (128 * ln) 128 d.toNat }

/-- A line as its home holds it: the L2 line where there is one, else tier memory (R281). -/
def homeLine (s : State) (ln : Nat) : BitVec 1024 :=
  match find? s.l2 ln with
  | some l => l.data
  | none => dramLine s ln

/-- n bytes (within one line) as the home holds them. -/
def homeRead (s : State) (pa n : Nat) : Nat := lineNum (homeLine s (lineOf pa)) (pa % 128) n

/-- The rows of row operations between their arrival at the job queue and their completion (R326). -/
def lockedRows (s : State) : List Nat :=
  s.threads.flatMap (fun e => e.2.accs.filterMap (fun a =>
    match a.kind, a.phys with
    | .rowop _ _, p :: _ => if a.arrived.isSome then some (p.pa / 1024) else none
    | _, _ => none))

/-- Whether a line lies in a locked compute region (R326). -/
def lineLocked (s : State) (ln : Nat) : Bool := (lockedRows s).contains (ln / 8)

/-- The bank core that owns a tier 1 address (R314): bits [18:10]. -/
def bankCoreOf (pa : Nat) : Nat := pa / 1024 % 512

/-- Bank number of a tier 1 address: bank core and bank (R314). -/
def bankOf (pa : Nat) : Nat := bankCoreOf pa * 16 + pa / 2 ^ 19 % 16

/-- Whether a row operation holds the ticket of an address's bank (R325). -/
def ticketHeld (s : State) (pa : Nat) : Bool := tier1 pa && (find? s.tickets (bankOf pa)).isSome

/-- Whether a fill or write-back of a line waits for a row operation: for its ticket, or for its locked region
(R325, R326). -/
def lineBusy (s : State) (ln : Nat) : Bool := lineLocked s ln || ticketHeld s (128 * ln)

/-- The lines of an L2 set that share home slice and set with a line (R260). -/
def l2Peers (s : State) (ln : Nat) : List (Nat × L2Line) :=
  s.l2.filter (fun e => Config.homeSlice e.1 == Config.homeSlice ln && Config.l2Set e.1 == Config.l2Set ln)

/-- The least recently used of some lines. -/
def lru {α : Type} (used : α → Nat) : List (Nat × α) → Option (Nat × α)
  | [] => none
  | e :: es => match lru used es with
    | none => some e
    | some b => if used e.2 ≤ used b.2 then some e else some b

/-- The replacement order of R262 for an L2 set: streaming, default by reuse class, sticky; never a
pinned line. -/
def l2Victim (s : State) (peers : List (Nat × L2Line)) : Option (Nat × L2Line) :=
  let free := peers.filter (fun e => e.2.pinned.isEmpty && !(e.2.dirty && lineBusy s e.1))
  let pick (p : L2Line → Bool) : Option (Nat × L2Line) := lru (·.used) (free.filter (fun e => p e.2))
  (pick (fun l => l.rank == 1)).orElse fun _ =>
  (pick (fun l => l.rank == 0 && l.rc == 0)).orElse fun _ =>
  (pick (fun l => l.rank == 0 && l.rc == 1)).orElse fun _ =>
  (pick (fun l => l.rank == 0 && l.rc == 2)).orElse fun _ =>
  (pick (fun l => l.rank == 0)).orElse fun _ => pick (fun _ => true)

/-- A line removed from L2, written to tier memory when dirty. -/
def l2Evict (s : State) (ln : Nat) : State :=
  match find? s.l2 ln with
  | none => s
  | some l =>
    let s := if l.dirty then dramPut s ln l.data else s
    { s with l2 := del s.l2 ln }

/-- Granules of level S that tiles and stage queues of a die's cores hold (R171, R249). -/
def usedS (s : State) (die : Nat) : Nat :=
  (s.cores.map (fun k =>
    if (if k.1 < 256 then k.1 / 64 else k.1 - 256) == die then
      (k.2.tiles.map (fun t => if t.2.lvl == 1 then t.2.gran else 0)).foldl (· + ·) 0
        + (k.2.teams.flatMap (fun t => t.2.queues.map (fun q =>
            if q.2.desc.getLsbD 0 then (8 * 2 ^ (q.2.desc.extractLsb' 1 4).toNat + 4095) / 4096 else 0))).foldl (· + ·) 0
    else 0)).foldl (· + ·) 0

/-- The lines of an L2 set that Medlar actions pin. -/
def pinnedWays (s : State) (ln : Nat) : Nat := ((l2Peers s ln).filter (fun e => !e.2.pinned.isEmpty)).length

/-- The ways of a line's L2 set that level-S granules take (R171, R260): 32 lines for each granule, spread evenly
over the die's 64 slices of 512 sets, but that a set has no more than four pinned ways (DESIGN CHOICE, log 60). -/
def sWays (s : State) (ln : Nat) : Nat :=
  let slice := (Config.homeSlice ln).val
  min ((32 * usedS s (slice / 64) + (512 * (slice % 64) + (Config.l2Set ln).val)) / 32768) (4 - pinnedWays s ln)

/-- A sticky fill is at the default rank when sticky lines fill half the unpinned ways (R262), of those that level-S
granules leave a set. -/
def l2Rank (ways : Nat) (peers : List (Nat × L2Line)) (rank : BitVec 2) : BitVec 2 :=
  if rank == 2 then
    let unp := ways - (peers.filter (fun e => !e.2.pinned.isEmpty)).length
    if 2 * (peers.filter (fun e => e.2.rank == 2 && e.2.pinned.isEmpty)).length ≥ unp then 0 else 2
  else rank

/-- Room for one more line in an L2 set of so many ways: victims give way (R262). -/
def l2Room (ln ways : Nat) : Nat → State → State
  | 0, s => s
  | n + 1, s =>
    let peers := l2Peers s ln
    if peers.length < ways then s
    else match l2Victim s peers with
      | some v => l2Room ln ways n (l2Evict s v.1)
      | none => s

/-- The lines of a die's L2 sets beyond the ways that level-S granules leave give way (R171, R260). -/
def yieldWays (s : State) (die : Nat) : State :=
  if s.l2.length ≤ 12 then s
  else (s.l2.map (·.1)).foldl (fun s ln =>
    if (Config.homeSlice ln).val / 64 == die then l2Room ln (17 - sWays s ln) 16 s else s) s

/-- A line placed in its L2 set, victims giving way when the ways that level-S granules leave are full (R260,
R262). -/
def l2Install (s : State) (ln : Nat) (l : L2Line) : State :=
  if s.l2.length < 8 then { s with l2 := put s.l2 ln l }
  else
    let ways := 16 - sWays s ln
    let l := { l with rank := l2Rank ways (l2Peers s ln) l.rank }
    let s := l2Room ln ways 16 s
    if (l2Peers s ln).length < ways then { s with l2 := put s.l2 ln l }
    else if l.dirty then dramPut s ln l.data else s

/-- The line brought into L2 with a rank and reuse class (R261, R263); a present line keeps its rank,
except that a sticky access makes it sticky. Bypass (3) does not allocate. -/
def l2Fill (s : State) (ln : Nat) (rank rc : BitVec 2) : State :=
  match find? s.l2 ln with
  | some l => { s with l2 := put s.l2 ln { l with used := s.clk, rank := if rank == 2 then 2 else l.rank } }
  | none =>
    if rank == 3 then s
    else l2Install s ln ⟨dramLine s ln, false, rank, rc, [], s.clk⟩

/-- Bytes written at the home of a device line: into the L2 line, allocated when absent with the rank of the
access (R261). -/
def homeMergeAs (s : State) (rank : BitVec 2) (ln : Nat) (d : BitVec 1024) (mask : BitVec 128) : State :=
  match find? s.l2 ln with
  | some l => { s with l2 := put s.l2 ln { l with
      data := merge l.data d mask, dirty := true, used := s.clk, rank := if rank == 2 then 2 else l.rank } }
  | none => l2Install s ln ⟨merge (dramLine s ln) d mask, true, rank, 2, [], s.clk⟩

/-- Bytes written at the home without a hint. -/
def homeMerge (s : State) (ln : Nat) (d : BitVec 1024) (mask : BitVec 128) : State := homeMergeAs s 0 ln d mask

/-- n bytes (within one line) written at the home. -/
def homeWrite (s : State) (pa n v : Nat) : State :=
  homeMerge s (lineOf pa) (placeNum v (pa % 128)) (spanMask (pa % 128) n)

/-! Page classes (R283 to R285). -/

/-- The mapping that a page-table entry holds: all but its permissions [4:2] and the hardware-owned OWN and CLS,
[15:6] (R331). An entry keeps its class while it maps the same frame (R284). -/
def entryBits (e : DWord) : DWord := e &&& 0xFFFFFFFFFFFF0023

/-- The class and owner of a page: unclaimed until the device classifies the entry as it stands (R283). -/
def classOf (s : State) (pte : Nat) (entry : DWord) : BitVec 2 × BitVec 8 :=
  match find? s.pages pte with
  | some c => if c.entry == entryBits entry then (c.cls, c.own) else (0, 0)
  | none => (0, 0)

/-- A page classified: an atomic update of the hardware-owned fields at the entry's home (R283, R331). An entry
that software has changed to another mapping meanwhile is left as it stands. -/
def setClass (s : State) (p : Phys) (cls : BitVec 2) (own : BitVec 8) : State :=
  let s := { s with pages := put s.pages p.pte ⟨entryBits p.entry, cls, own, p.page, p.size⟩ }
  let e := BitVec.ofNat 64 (homeRead s p.pte 8)
  if entryBits e == entryBits p.entry then
    homeWrite s p.pte 8 ((e &&& 0xFFFFFFFFFFFF003F) ||| (own.setWidth 64 <<< 8) ||| (cls.setWidth 64 <<< 6)).toNat
  else s

/-- What a miss finds (R284, R285): the page classified and whether it is shared, or a wait for a
reclassification, which it starts. -/
inductive ClassRes where
  | ok (s : State) (shared : Bool)
  | wait (s : State)

/-- An L1 miss of a core on a page (R284): an unclaimed page becomes private to the core; a page
private to another core starts a reclassification, for which other cores wait (R285). OWN cannot name a
service core: its miss makes an unclaimed page shared (log 9). -/
def classify (s : State) (core : Nat) (p : Phys) : ClassRes :=
  let c := classOf s p.pte p.entry
  if c.1 == 2 then .ok s true
  else if c.1 == 1 then
    if c.2.toNat == core then .ok s false
    else .wait (if s.reclass.contains p.pte then s else { s with reclass := s.reclass ++ [p.pte] })
  else if core < 256 then .ok (setClass s p 1 (BitVec.ofNat 8 core)) false
  else .ok (setClass s p 2 0) true

/-- Whether a publication of a core for a line is on its way to the home: a miss of the core on the line
waits for it, so that a thread never reads older bytes than its core's own (R293). -/
def sending (s : State) (core ln : Nat) : Bool := s.pubs.any (fun p => p.core == core && p.line == ln && !p.acted)

/-- Whether the home delivers no bytes of a line now: it would read them from a bank that a row operation uses
(R325, R326). -/
def homeWaits (s : State) (ln : Nat) : Bool := (find? s.l2 ln).isNone && lineBusy s ln

/-- Whether the home takes no write-back of a line now: a row operation uses its place in memory (R325, R326). -/
def writeWaits (s : State) (ln : Nat) : Bool := lineLocked s ln || homeWaits s ln

/-- Whether a fill of a line by a core waits: for its own publication, or for a row operation
(R293, R325, R326). -/
def fillWaits (s : State) (core ln : Nat) : Bool := sending s core ln || homeWaits s ln

/-- A core by its number; a core with nothing in it is not listed. -/
def State.core (s : State) (c : Nat) : Core := findD s.cores c Core.reset

/-- The state with one core changed. -/
def State.setCore (s : State) (c : Nat) (k : Core) : State := { s with cores := put s.cores c k }

/-! Publications and the registry (R288 to R290). -/

/-- The dirty bytes of a line that no publication in flight carries yet, or that were stored since. -/
def unsent (s : State) (core ln : Nat) (l : L1Line) : BitVec 128 :=
  let sent := (s.pubs.filter (fun p => p.core == core && p.line == ln)).foldl (fun m p => m ||| p.mask) 0#128
  l.dirty &&& (~~~sent ||| l.fresh)

/-- A publication of the unsent dirty bytes of a line is sent (R288); nothing when there are none. -/
def publish (s : State) (core ln : Nat) (l : L1Line) : State :=
  let m := unsent s core ln l
  if m == 0 then s
  else
    { s with
      pubs := s.pubs ++ [⟨s.nextPub, core, ln, m, l.data, false, 0, if l.rank == 3 then 1 else l.rank, l.lastBy, l.dirtyAt⟩]
      nextPub := s.nextPub + 1
      cores := adjust s.cores core (fun k => { k with l1 := adjust k.l1 ln (fun x => { x with fresh := 0 }) }) }

/-- Bytes of a private page written back to the home, registering nothing (R285, R286). -/
def writeBack (s : State) (ln : Nat) (l : L1Line) : State :=
  if l.dirty == 0 then s else homeMergeAs s l.rank ln l.data l.dirty

/-- A line given up by an L1: a shared page publishes its dirty bytes, a private page writes them
back (R286, R292); a replacement records a victim tag (R270). -/
def l1Evict (s : State) (core ln : Nat) (tag : Bool) : State :=
  match find? (s.core core).l1 ln with
  | none => s
  | some l =>
    let s := if l.shared then publish s core ln l else writeBack s ln l
    let k := s.core core
    let vt := if tag then (k.vtags ++ [(ln, l.filler)]).drop ((k.vtags.length + 1) - 1024) else k.vtags
    s.setCore core { k with l1 := del k.l1 ln, vtags := vt }

/-- The lines of an L1 set (R260). -/
def l1Peers (k : Core) (ln : Nat) : List (Nat × L1Line) :=
  k.l1.filter (fun e => Config.l1Set e.1 == Config.l1Set ln)

/-- Whether a line of a private page cannot be written back now: a row operation uses its place in memory
(R325, R326). -/
def backWaits (s : State) (ln : Nat) (l : L1Line) : Bool := !l.shared && l.dirty != 0 && homeWaits s ln

/-- The replacement order of R262 for an L1 set: streaming, default, sticky, the least recently used. -/
def l1Victim (s : State) (peers : List (Nat × L1Line)) : Option (Nat × L1Line) :=
  let free := peers.filter (fun e => !backWaits s e.1 e.2)
  let pick (r : BitVec 2) := lru (fun l : L1Line => l.used) (free.filter (fun e => e.2.rank == r))
  (pick 1).orElse fun _ => (pick 0).orElse fun _ => lru (fun l : L1Line => l.used) free

/-- Room made for a line in its L1 set (R260, R262); none while no line of it can be written back. -/
def l1Room (s : State) (core ln : Nat) : Option State :=
  let k := s.core core
  if k.l1.length < 16 then some s
  else
    let peers := l1Peers k ln
    if peers.length < 16 then some s
    else (l1Victim s peers).map (fun v => l1Evict s core v.1 true)

/-- The rank of a line that an access with hint h fills in an L1 (R261, R262). -/
def l1Rank (k : Core) (ln : Nat) (h : BitVec 2) : BitVec 2 :=
  if h == 2 then
    if k.l1.length < 8 then 2
    else if ((l1Peers k ln).filter (fun e => e.2.rank == 2)).length ≥ 8 then 0 else 2
  else if h == 3 then 1 else h

/-- An absent line: nothing valid. -/
def L1Line.empty (shared : Bool) (pte : Nat) (rank : BitVec 2) (g clk : Nat) : L1Line :=
  ⟨0, 0, 0, 0, 0, shared, pte, rank, none, [], false, (0, 0), some g, clk, clk, clk, none⟩

/-- The bytes of the home installed clean and unowned where the line has no valid byte (R287). -/
def fillLine (l : L1Line) (home : BitVec 1024) (clk : Nat) : L1Line :=
  { l with
    data := merge l.data home (~~~l.valid)
    valid := BitVec.allOnes 128
    cleanAt := if l.valid &&& ~~~l.dirty == 0 then clk else l.cleanAt }

/-- A miss that matches a victim tag of its own group removes the tag and grows a measured lease by
one line (R270). -/
def tagHit (s : State) (core g ln : Nat) : State :=
  let k := s.core core
  if k.vtags.contains (ln, some g) then
    let ls := adjust k.leases g (fun l =>
      { l with lines := if l.measured then min (l.lines + 1) 2048 else l.lines, quiet := 0 })
    s.setCore core { k with vtags := k.vtags.erase (ln, some g), leases := ls }
  else s

/-- The outcome of a read through an L1: the value, or a wait for the page's reclassification or for
a locked compute region (R285, R326). -/
inductive ReadRes where
  | ok (s : State) (v : Nat)
  | wait (s : State)

/-- Who reads through an L1: the group, the issue set that one read is, none where each read counts for itself
(R265: the requests of engines, the fills of the fetch cache), whether other accesses of that issue set to the
line have still to come, the expected read count of an `ldc`, the reuse class of an L2 line that the read
fills (R263), and its place in the order in which the reads of a clk count (R265): the cluster of an issue set, then 4 for
a fill of the fetch cache, 5 for an engine. -/
structure Reader where
  g    : Nat
  iset : Option Nat
  more : Bool
  ldc  : Option Nat
  rc   : BitVec 2
  turn : Nat
  deriving DecidableEq, Repr

/-- Whether a read comes too late in its clk to be counted in the order of R265, after one that follows it there: it
reaches the line in the next. -/
def Reader.late (rd : Reader) (l : L1Line) (clk : Nat) : Bool :=
  (l.count.isSome || rd.ldc.isSome) && l.turn.1 == clk && decide (rd.turn < l.turn.2)

/-- A counted line after an access (R265): the accesses of one issue set are one read, and at 0 the
line is dropped without write-back once the last of them has been served, with every other read of the clk. -/
def countRead (s : State) (core ln : Nat) (rd : Reader) : State :=
  let k := s.core core
  match find? k.l1 ln with
  | none => s
  | some l =>
    let seen := match rd.iset with | some i => l.counted.contains i | none => false
    let counted := match rd.iset with
      | some i => if rd.more then (if seen then l.counted else l.counted ++ [i]) else l.counted.erase i
      | none => l.counted
    let c : Option Nat :=
      if seen then l.count
      else match l.count, rd.ldc with
        | some c, _ => some (c - 1)
        | none, some n => if l.dirty == 0 then some (n - 1) else none
        | none, none => none
    s.setCore core { k with l1 := put k.l1 ln { l with
      count := c, counted := counted, drop := l.drop || (c == some 0 && counted.isEmpty)
      turn := (s.clk, if l.turn.1 == s.clk then max l.turn.2 rd.turn else rd.turn) } }

/-- The fetch cache drops the line holding written words (R225), or words that a newer fill of the L1 has read
(R293). -/
def fcDrop (s : State) (core ln : Nat) : State :=
  let k := s.core core
  if k.fcache.isEmpty then s else s.setCore core { k with fcache := del k.fcache ln }

/-- A read of n bytes within one line through a core's L1 (R287, R261, R265). -/
def l1Read (s : State) (core : Nat) (rd : Reader) (p : Phys) (n : Nat) (h : BitVec 2) : ReadRes :=
  let ln := lineOf p.pa
  let o := p.pa % 128
  let need := spanMask o n
  match find? (s.core core).l1 ln with
  | some l =>
    if rd.late l s.clk then .wait s
    else if need &&& ~~~l.valid == 0 then
      let k := s.core core
      let l' := { l with used := s.clk, rank := if h == 2 then 2 else l.rank }
      let s := s.setCore core { k with l1 := put k.l1 ln l' }
      .ok (countRead s core ln rd) (lineNum l.data o n)
    else match classify s core p with
      | .wait s => .wait s
      | .ok s sh =>
        if fillWaits s core ln then .wait s
        else
          let s := fcDrop (l2Fill s ln h rd.rc) core ln
          let s := tagHit s core rd.g ln
          let l' := fillLine { l with shared := sh, used := s.clk, rank := if h == 2 then 2 else l.rank } (homeLine s ln) s.clk
          let k := s.core core
          let s := s.setCore core { k with l1 := put k.l1 ln l' }
          .ok (countRead s core ln rd) (lineNum l'.data o n)
  | none =>
    match classify s core p with
    | .wait s => .wait s
    | .ok s sh =>
      if fillWaits s core ln then .wait s
      else
        let s := tagHit s core rd.g ln
        let fill (s : State) : State := fcDrop (l2Fill s ln h rd.rc) core ln
        if h == 3 then .ok (fill s) (lineNum (homeLine (fill s) ln) o n)
        else match l1Room s core ln with
        | none => .wait s
        | some s =>
          let s := fill s
          let home := homeLine s ln
          let k := s.core core
          let l' := fillLine (L1Line.empty sh p.pte (l1Rank k ln h) rd.g s.clk) home s.clk
          let s := s.setCore core { k with l1 := put k.l1 ln l' }
          .ok (countRead s core ln rd) (lineNum home o n)

/-- A write of n bytes within one line into a core's L1 (R287): the bytes become valid and dirty, an
absent line is allocated without fetching, a count is removed (R265), the fetch cache line dropped
(R225). -/
def l1Write (s : State) (core g : Nat) (p : Phys) (n v : Nat) (h : BitVec 2) (by_ : Nat) : ReadRes :=
  let ln := lineOf p.pa
  let o := p.pa % 128
  let m := spanMask o n
  let store (s : State) (l : L1Line) : State :=
    let k := s.core core
    let l' := { l with
      data := merge l.data (placeNum v o) m
      valid := l.valid ||| m
      dirty := l.dirty ||| m
      fresh := l.fresh ||| m
      dirtyAt := if l.dirty == 0 then s.clk else l.dirtyAt
      count := none
      counted := []
      drop := false
      used := s.clk
      rank := if h == 2 then 2 else l.rank
      lastBy := some by_ }
    fcDrop (s.setCore core { k with l1 := put k.l1 ln l' }) core ln
  match find? (s.core core).l1 ln with
  | some l => .ok (store s l) 0
  | none =>
    match classify s core p with
    | .wait s => .wait s
    | .ok s sh =>
      match l1Room (tagHit s core g ln) core ln with
      | none => .wait s
      | some s =>
        let k := s.core core
        .ok (store s (L1Line.empty sh p.pte (l1Rank k ln h) g s.clk)) 0

/-- The bytes of a mask invalidated in a line; a line that holds a count goes as a whole (R265). -/
def L1Line.invalidate (l : L1Line) (m : BitVec 128) : L1Line :=
  if l.count.isSome && l.valid &&& m != 0 then { l with valid := 0 } else { l with valid := l.valid &&& ~~~m }

/-- An acquire at a core (R291, R225): every byte of a shared page that is neither dirty nor part of
an owned word is dropped, and the whole fetch cache. -/
def acquire (s : State) (core : Nat) : State :=
  let k := s.core core
  let keep (l : L1Line) : L1Line :=
    if l.shared then l.invalidate (~~~(l.dirty ||| bytesOfMask l.owned)) else l
  let l1 := (k.l1.map (fun e => (e.1, keep e.2))).filter (fun e => e.2.valid != 0)
  s.setCore core { k with l1 := l1, fcache := [] }

/-- The release of a core (R307): one publication for each line of a shared page with unsent dirty
bytes; the publications in flight that the release waits for. -/
def release (s : State) (core : Nat) : State × List Nat :=
  let k := s.core core
  let s := k.l1.foldl (fun s e => if e.2.shared then publish s core e.1 e.2 else s) s
  (s, (s.pubs.filter (fun p => p.core == core)).map (·.id))

/-- The registry after a core registers words of a line (R289): other cores lose them; the cores that
are revoked, with the words each loses. -/
def registerWords (reg : List RegEntry) (ln core : Nat) (w : BitVec 32) : List RegEntry × List (Nat × BitVec 32) :=
  let lost := reg.filterMap (fun e =>
    if e.line == ln && e.core != core && e.mask &&& w != 0 then some (e.core, e.mask &&& w) else none)
  let reg := (reg.map (fun e => if e.line == ln && e.core != core then { e with mask := e.mask &&& ~~~w } else e)).filter
    (fun e => e.mask != 0)
  let has := reg.any (fun e => e.line == ln && e.core == core)
  let reg := if has then reg.map (fun e => if e.line == ln && e.core == core then { e with mask := e.mask ||| w } else e)
    else reg ++ [⟨ln, core, w⟩]
  (reg, lost)

/-- Words of a line lose every owner (R289): for an atomic at the home, for maintenance and unmaps. -/
def dropOwners (reg : List RegEntry) (ln : Nat) (w : BitVec 32) : List RegEntry :=
  (reg.map (fun e => if e.line == ln then { e with mask := e.mask &&& ~~~w } else e)).filter (fun e => e.mask != 0)

/-- A core drops its clean copies of revoked words; dirty bytes stay, unowned (R289). -/
def revokeLine (l : L1Line) (w : BitVec 32) : L1Line :=
  ({ l with owned := l.owned &&& ~~~w } : L1Line).invalidate (bytesOfMask w &&& ~~~l.dirty)

/-- A revocation performed at a core. -/
def revokeAt (s : State) (core ln : Nat) (w : BitVec 32) : State :=
  let k := s.core core
  match find? k.l1 ln with
  | none => s
  | some l =>
    let l' := revokeLine l w
    s.setCore core { k with l1 := if l'.valid == 0 then del k.l1 ln else put k.l1 ln l' }

/-- Every L1 and fetch-cache copy of a line dropped, dirty bytes included (R313). -/
def dropCopies (s : State) (ln : Nat) : State :=
  { s with cores := s.cores.map (fun e => (e.1, { e.2 with l1 := del e.2.l1 ln, fcache := del e.2.fcache ln })) }

/-- A core's dirty bytes of a line written home, registering nothing; the copy becomes clean and stays
(R313, R352). -/
def flushCoreLine (s : State) (core ln : Nat) : State :=
  match find? (s.core core).l1 ln with
  | none => s
  | some l =>
    if l.dirty == 0 then s
    else
      let s := homeMerge s ln l.data l.dirty
      let k := s.core core
      s.setCore core { k with l1 := put k.l1 ln { l with dirty := 0, fresh := 0 } }

/-- A dirty L2 line written to tier memory and kept clean (R276 WBACK, R313 cclean). -/
def l2Clean (s : State) (ln : Nat) : State :=
  match find? s.l2 ln with
  | some l => if l.dirty then { dramPut s ln l.data with l2 := put s.l2 ln { l with dirty := false } } else s
  | none => s

/-- An L2 line dropped without write-back, its pins ended and registry entries removed (R313). -/
def l2Drop (s : State) (ln : Nat) : State :=
  { s with l2 := del s.l2 ln, registry := s.registry.filter (fun e => e.line != ln) }

end Sys2Proof.Machine
end

