-- ==== Sys2Proof/Machine/Xlat.lean ====
section
/-! DEFINITION. Translation (R330 to R335, R340 to R342): the five-level walk, permissions, host
pages through the address translation caches, and reads and writes of translated bytes. -/

namespace Sys2Proof.Machine

/-- What a walk finds (R332). -/
inductive WalkRes where
  | page (p : Phys)
  | none
  | moving
  deriving DecidableEq, Repr

/-- Index of a virtual address at a level (R330). -/
def vaIndex (level va : Nat) : Nat :=
  match level with
  | 0 => va / 2 ^ 48 % 512
  | 1 => va / 2 ^ 39 % 512
  | 2 => va / 2 ^ 30 % 512
  | 3 => va / 2 ^ 21 % 512
  | _ => va / 2 ^ 16 % 32

/-- Bytes that a leaf of a level maps (R330). -/
def leafSize (level : Nat) : Nat := if level = 2 then 2 ^ 30 else if level = 3 then 2 ^ 21 else 2 ^ 16

/-- A malformed leaf (R331, R332): a reserved bit or TGT = 3, levels 0 and 1, a PA not aligned. -/
def leafBad (level : Nat) (e : DWord) : Bool :=
  e.getLsbD 63 || e.extractLsb' 58 3 != 0 || e.extractLsb' 61 2 == 3 || level < 2
    || (e.toNat / 2 ^ 16 % 2 ^ 41 * 2 ^ 16) % leafSize level != 0

/-- A malformed table entry (R331, R332): level 4, a reserved bit, a table address not aligned. -/
def tableBad (level : Nat) (e : DWord) : Bool :=
  level == 4 || e.extractLsb' 2 6 != 0 || e.extractLsb' 57 7 != 0
    || (e.toNat / 256 % 2 ^ 49 * 256) % (if level = 3 then 256 else 4096) != 0

/-- The walk from a level down, `fuel` levels left (R330 to R332). Entries are read at their homes. -/
def walkFrom (s : State) : Nat → Nat → Nat → Nat → WalkRes
  | 0, _, _, _ => .none
  | fuel + 1, level, table, va =>
    let pte := table + 8 * vaIndex level va
    let e := BitVec.ofNat 64 (homeRead s pte 8)
    if !e.getLsbD 0 then (if e.getLsbD 57 then .moving else .none)
    else if e.getLsbD 1 then
      if tableBad level e then .none
      else walkFrom s fuel (level + 1) (e.toNat / 256 % 2 ^ 49 * 256) va
    else if leafBad level e then .none
    else
      let frame := e.toNat / 2 ^ 16 % 2 ^ 41 * 2 ^ 16
      .page ⟨(e.extractLsb' 61 2).toNat, frame + va % leafSize level, pte, e, va - va % leafSize level, leafSize level⟩

/-- The malformed entry at which a walk ends, if it ends at one (R332). -/
def malformedFrom (s : State) : Nat → Nat → Nat → Nat → Option Nat
  | 0, _, _, _ => none
  | fuel + 1, level, table, va =>
    let pte := table + 8 * vaIndex level va
    let e := BitVec.ofNat 64 (homeRead s pte 8)
    if !e.getLsbD 0 then none
    else if e.getLsbD 1 then
      if tableBad level e then some pte else malformedFrom s fuel (level + 1) (e.toNat / 256 % 2 ^ 49 * 256) va
    else if leafBad level e then some pte else none

/-- Firmware is told of the malformed entry at which the walk of an address ends (R332): its address, and the one
that was walked. -/
def State.tell (s : State) (asp : AddrSpace) (va : Nat) : State :=
  match malformedFrom s 5 0 asp.root va with
  | some pte => if s.told.contains (pte, va) then s else { s with told := s.told ++ [(pte, va)] }
  | none => s

/-- Whether firmware has still to be told of a malformed entry at which the walk of an address ends. -/
def State.untold (s : State) (asp : AddrSpace) (va : Nat) : Bool :=
  match malformedFrom s 5 0 asp.root va with
  | some pte => !s.told.contains (pte, va)
  | none => false

/-- The frames of module memory that the tables below a table map: the first address and the bytes of each. -/
def mappedFrom (s : State) : Nat → Nat → Nat → List (Nat × Nat)
  | 0, _, _ => []
  | fuel + 1, level, table =>
    (List.range (if level = 4 then 32 else 512)).flatMap (fun i =>
      let e := BitVec.ofNat 64 (homeRead s (table + 8 * i) 8)
      if !e.getLsbD 0 then []
      else if e.getLsbD 1 then
        if tableBad level e then [] else mappedFrom s fuel (level + 1) (e.toNat / 256 % 2 ^ 49 * 256)
      else if leafBad level e || e.extractLsb' 61 2 != 0 then []
      else [(e.toNat / 2 ^ 16 % 2 ^ 41 * 2 ^ 16, leafSize level)])

/-- The key of a virtual page: its first address above the address space number. -/
def pageKey (asn : BitVec 16) (va : Nat) : Nat := asn.toNat * 2 ^ 57 + va

/-- The walk of an address in an address space (R330). -/
def walk (s : State) (asp : AddrSpace) (va : Nat) : WalkRes :=
  match walkFrom s 5 0 asp.root va with
  | .page p => .page { p with page := pageKey asp.asn p.page }
  | r => r

/-- The accesses of R333. -/
inductive Need where
  | r | w | rw | x | arena
  deriving DecidableEq, Repr

/-- Whether an entry allows an access (R333, R101): a register-arena page serves the thread's own
places alone. -/
def allows (e : DWord) (n : Need) : Bool :=
  match n with
  | .r => e.getLsbD 2 && !e.getLsbD 5
  | .w => e.getLsbD 3 && !e.getLsbD 5
  | .rw => e.getLsbD 2 && e.getLsbD 3 && !e.getLsbD 5
  | .x => e.getLsbD 4 && !e.getLsbD 5
  | .arena => e.getLsbD 5

/-- A translation: the address, a trap cause (0x04 or 0x05), a walk that waits on a moving page
(R332), or a host page for which the die's translation cache lacks an entry or a permission (R340,
R342). -/
inductive Xl where
  | ok (p : Phys)
  | trap (code : BitVec 8)
  | moving
  | ats (page : Nat)
  deriving DecidableEq, Repr

/-- The entry of a die's address translation cache (R340). -/
def atcFind (s : State) (die pasid page : Nat) : Option AtsResult :=
  (s.atc.find? (fun e => e.die == die && e.pasid == pasid && e.page == page)).map (·.res)

/-- The translation of an address for an access (R332, R333, R340, R342). -/
def translate (s : State) (die : Nat) (asp : AddrSpace) (va : Nat) (n : Need) : Xl :=
  match walk s asp va with
  | .none => .trap 0x04
  | .moving => .moving
  | .page p =>
    if !allows p.entry n then .trap 0x05
    else if p.tgt = 1 then
      let page := p.pa / 2 ^ 16
      match atcFind s die asp.pasid page with
      | some r =>
        let okPerm := match n with
          | .r => r.r | .w => r.w | .rw => r.r && r.w | .x => r.r | .arena => r.r && r.w
        if okPerm then .ok { p with pa := r.page * 2 ^ 16 + p.pa % 2 ^ 16 }
        else .ats page
      | none => .ats page
    else .ok p

/-- Whether an access of the module's own memory names a byte that a tier holds (R331). -/
def Phys.hole (p : Phys) : Bool := p.tgt == 0 && !physOk p.pa

/-- n bytes at a translated address as the home holds them: the home slice, the host, or the other
module. -/
def physRead (s : State) (p : Phys) (n : Nat) : Nat :=
  if p.tgt = 0 then homeRead s p.pa n
  else if p.tgt = 1 then Memory.readN s.hostMem p.pa n
  else Memory.readN s.remote p.pa n

/-- n bytes written at the home of a translated address. -/
def physWrite (s : State) (p : Phys) (n v : Nat) : State :=
  if p.tgt = 0 then homeWrite s p.pa n v
  else if p.tgt = 1 then { s with hostMem := Memory.writeN s.hostMem p.pa n v }
  else { s with remote := Memory.writeN s.remote p.pa n v }

/-- A 64-bit address that is canonical (R330). -/
def canonical (a : DWord) : Bool := a.extractLsb' 57 7 == 0

end Sys2Proof.Machine
end

