-- ==== Sys2Proof/Machine/Launches.lean ====
section
/-! DEFINITION. The fields of a launch record (R241), and the identity of threads, groups, teams and
launches (R54 to R57). -/

namespace Sys2Proof.Machine

/-- The 64-bit word at a byte offset of a launch record (R241). -/
def Launch.word (l : Launch) (off : Nat) : DWord := l.record.getD (off / 8) 0

/-- A bit field of a word, as a number. -/
def bits (w : DWord) (lo n : Nat) : Nat := (w.extractLsb' lo n).toNat

def Launch.ngrp (l : Launch) : Nat := bits (l.word 0) 8 8
def Launch.nprod (l : Launch) : Nat := bits (l.word 0) 16 8
def Launch.nteam (l : Launch) : Nat := bits (l.word 0) 32 32
def Launch.entry (l : Launch) : DWord := l.word 8
def Launch.budget (l : Launch) (consumer : Bool) : Nat :=
  if consumer then bits (l.word 0x10) 8 5 else bits (l.word 0x10) 0 5
def Launch.nbar (l : Launch) : Nat := bits (l.word 0x10) 16 7
def Launch.dclass (l : Launch) : Nat := bits (l.word 0x10) 24 2
def Launch.smm (l : Launch) : Bool := (l.word 0x10).getLsbD 26
def Launch.fpc0 (l : Launch) : Word := (l.word 0x10).extractLsb' 32 32
def Launch.csb (l : Launch) : Nat := bits (l.word 0x18) 0 57
def Launch.depthLimit (l : Launch) : Nat := bits (l.word 0x20) 0 10
def Launch.npre (l : Launch) : Nat := bits (l.word 0x20) 16 5
def Launch.lease0 (l : Launch) : Nat := bits (l.word 0x20) 32 12
def Launch.param (l : Launch) : Nat := bits (l.word 0x28) 0 57
def Launch.arBase (l : Launch) : Nat := bits (l.word 0x30) 0 57
def Launch.arPages (l : Launch) : Nat := bits (l.word 0x38) 0 32
def planOff (consumer : Bool) : Nat := if consumer then 0x68 else 0x40
def Launch.pmap (l : Launch) (consumer : Bool) : BitVec 128 :=
  (l.word (planOff consumer + 8) ++ l.word (planOff consumer) : BitVec 128)
def Launch.anchorsSet (l : Launch) (consumer : Bool) : BitVec 4 :=
  (l.word (planOff consumer + 0x10)).extractLsb' 0 4
def Launch.anchorStride (l : Launch) (consumer : Bool) : Nat := bits (l.word (planOff consumer + 0x10)) 32 32
def Launch.anchorOff (l : Launch) (consumer : Bool) (k : Nat) : Nat :=
  bits (l.word (planOff consumer + 0x18 + 8 * (k / 2))) (32 * (k % 2)) 32
def Launch.gtb (l : Launch) : Nat := bits (l.word 0x90) 0 57
def Launch.ng (l : Launch) : Nat := bits (l.word 0x98) 0 11
def Launch.wqb (l : Launch) : Nat := bits (l.word 0xA0) 0 57
def Launch.wqn (l : Launch) : Nat := bits (l.word 0xA8) 0 32
def Launch.stb (l : Launch) : Nat := bits (l.word 0xB0) 0 57
def Launch.nstg (l : Launch) : Nat := bits (l.word 0xB8) 0 4
def Launch.ttb (l : Launch) : Nat := bits (l.word 0xC0) 0 57
def Launch.ttn (l : Launch) : Nat := bits (l.word 0xC8) 0 16
def Launch.tvec (l : Launch) : DWord := l.word 0xD0
def Launch.tmask (l : Launch) : Nat := bits (l.word 0xD8) 0 32
def Launch.devl (l : Launch) : Nat := bits (l.word 0xE0) 0 57
def Launch.nd (l : Launch) : Nat := bits (l.word 0xE8) 0 7
def Launch.fxb (l : Launch) : Nat := bits (l.word 0xF0) 0 57

/-- The device's own entry of the device list (R257). -/
def Launch.device (l : Launch) : List DWord := if 1 < l.nd then l.devs.getD l.didx [] else []

/-- The group table of the device: GTBX where its entry gives one, else GTB (R257). -/
def Launch.groupTable (l : Launch) : Nat :=
  let x := bits (l.device.getD 1 0) 0 57
  if x = 0 then l.gtb else x

/-- The fix-up buffer of the device: FXBX where its entry gives one, else FXB (R257). -/
def Launch.fixBuffer (l : Launch) : Nat :=
  let x := bits (l.device.getD 2 0) 0 57
  if x = 0 then l.fxb else x

/-- A format-slot descriptor fs0 to fs7 (R160, R241, log 7: FS7 stands at 0x130). -/
def Launch.fs (l : Launch) (n : Nat) : DWord := l.word (0xF8 + 8 * n)

/-- The numbers inside a thread number: core, team slot, TID, group, lane (R57). -/
def tCore (t : Nat) : Nat := t / 2048
def tSlot (t : Nat) : Nat := t / 512 % 4
def tTid (t : Nat) : Nat := t % 512
def tGrp (t : Nat) : Nat := t % 512 / 32
def tLane (t : Nat) : Nat := t % 32

/-- The key of a thread's group and of its team. -/
def gKey (t : Nat) : Nat := t / 32
def teamKey (t : Nat) : Nat := t / 512

/-- The thread number of a TID of a team. -/
def threadOf (team tid : Nat) : Nat := team * 512 + tid

/-- The die of a core: cores 64d to 64d + 63, service core 256 + d (R104, R356). -/
def dieOf (core : Nat) : Nat := if core < 256 then core / 64 else core - 256

/-- A thread. -/
def State.thread? (s : State) (t : Nat) : Option Thread := find? s.threads t

/-- The state with one thread changed. -/
def State.setThread (s : State) (t : Nat) (th : Thread) : State := { s with threads := put s.threads t th }

/-- The state with one thread changed by a function. -/
def State.modThread (s : State) (t : Nat) (f : Thread → Thread) : State :=
  { s with threads := adjust s.threads t f }

/-- The team of a key (core * 4 + slot). -/
def State.team? (s : State) (k : Nat) : Option Team := find? (s.core (k / 4)).teams (k % 4)

/-- The state with one team changed. -/
def State.setTeam (s : State) (k : Nat) (tm : Team) : State :=
  let c := s.core (k / 4)
  s.setCore (k / 4) { c with teams := put c.teams (k % 4) tm }

/-- The state with one team changed by a function. -/
def State.modTeam (s : State) (k : Nat) (f : Team → Team) : State :=
  match s.team? k with
  | some tm => s.setTeam k (f tm)
  | none => s

/-- The state with one launch changed by a function. -/
def State.modLaunch (s : State) (lid : Nat) (f : Launch → Launch) : State :=
  { s with launches := adjust s.launches lid f }

/-- What a unit of a thread needs to know: the thread, its team and its launch. -/
structure Env where
  t    : Nat
  th   : Thread
  tm   : Team
  la   : Launch

/-- The thread, team and launch of the acting thread; none when the state names no such thread. -/
def State.env (s : State) (t : Nat) : Option Env :=
  match s.thread? t with
  | none => none
  | some th =>
    match s.team? (teamKey t) with
    | none => none
    | some tm =>
      match find? s.launches tm.lid with
      | none => none
      | some la => some ⟨t, th, tm, la⟩

/-- Whether a thread is a consumer (R56): groups NPROD and up. -/
def Env.consumer (e : Env) : Bool := e.la.nprod ≤ tGrp e.t

/-- The lane budget of the thread's role, at most 16 (R95). -/
def Env.budget (e : Env) : Nat := min (e.la.budget e.consumer) 16

/-- The team's number in the grid (R57). -/
def Env.gt (e : Env) : Nat := e.la.nteam * e.la.didx + e.tm.index

/-- The far arena of the team (R100, R241): base and size. -/
def Env.arenaBase (e : Env) : Nat := e.la.arBase + 65536 * e.la.arPages * e.tm.index
def Env.arenaSize (e : Env) : Nat := 65536 * e.la.arPages

/-- The address of the stack entry for a depth (R59). -/
def Env.stackAddr (e : Env) (d : Nat) : Nat :=
  (e.la.csb + 8 * (e.la.depthLimit * (512 * e.gt + tTid e.t) + d)) % 2 ^ 57

/-- The issue cluster of a group (R55). -/
def clusterOf (tm : Team) (grp : Nat) : Nat := (tm.c0 + grp) % 4

/-- The cluster of the thread. -/
def Env.cluster (e : Env) : Nat := clusterOf e.tm (tGrp e.t)

/-- The translation of an address for the thread's own accesses. -/
def Env.xlat (e : Env) (s : State) (va : Nat) (n : Need) : Xl :=
  translate s (dieOf (tCore e.t)) e.la.asp va n

/-- The threads of a team that have a home lane: all its TIDs. -/
def teamTids (tm : Team) : List Nat := List.range (32 * tm.ngrp)

end Sys2Proof.Machine
end

