-- ==== Sys2Proof/Machine/Ops.lean ====
section
/-! DEFINITION. The shared operations of a thread's units: places and registers (R92 to R110), issue
into the window (R109 to R113), commit and rollback (R112, R114), taking a trap (R343 to R350), and
the gate that every unit passes before its own effect (R19, R30, R60). -/

namespace Sys2Proof.Machine

/-- The controls of a form that uses none of them. -/
def Ctl.zero : Ctl := ⟨0, false, 0, false, 0, false⟩

/-- The unit is not ready (R60): nothing happens but the model's own mark. -/
def State.stall (s : State) : Outcome := .next { s with stalled := true }

/-! Places (R97 to R100). -/

/-- A place of R98; the slice and bank places name an anchor. -/
inductive Place where
  | lane
  | slice (k : Nat)
  | bank (k : Nat)
  | unmapped
  deriving DecidableEq, Repr

/-- The place that a code names (R98). -/
def placeOfCode (c : BitVec 4) : Place :=
  if c == 0 then .lane
  else if c.extractLsb' 2 2 == 1 then .slice (c.extractLsb' 0 2).toNat
  else if c.extractLsb' 2 2 == 2 then .bank (c.extractLsb' 0 2).toNat
  else .unmapped

/-- The block of a register name (R93). -/
def blockOf (r : Reg) : Nat := r.toNat / 8

/-- The code of a block in a place map (R98, R105). -/
def codeOfBlock (pmap : BitVec 128) (b : Nat) : BitVec 4 := pmap.extractLsb' (4 * b) 4

/-- The place map with one code changed (R105). -/
def setCode (pmap : BitVec 128) (b : Nat) (c : BitVec 4) : BitVec 128 :=
  (pmap &&& ~~~((0xF : BitVec 128) <<< (4 * b))) ||| (c.setWidth 128 <<< (4 * b))

/-- The place of a register (R97). -/
def Ctx.place (c : Ctx) (r : Reg) : Place := placeOfCode (codeOfBlock c.pmap (blockOf r))

/-- Whether a place is far: a slice or a bank core (R97). -/
def Place.far : Place → Bool
  | .slice _ | .bank _ => true
  | .lane | .unmapped => false

/-- The anchor that a far place names. -/
def Place.anchor : Place → Nat
  | .slice k | .bank k => k
  | .lane | .unmapped => 0

/-- The value of an anchor, 0 where it is not set (R100). -/
def Ctx.anchor (c : Ctx) (k : Nat) : DWord := findD c.anc k 0

/-- Whether an anchor is set (R100). -/
def Ctx.anchorSet (c : Ctx) (k : Nat) : Bool := c.aset.getLsbD k

/-- The address that backs a block under an anchor (R100). -/
def Ctx.backing (c : Ctx) (k b : Nat) : Nat := (c.anchor k).toNat + 32 * b

/-! Register values (R92, R110). -/

/-- What the thread's next unit reads from a register (R110): a K-marked write within distance 7,
else the stored value. -/
def Thread.read (th : Thread) (r : Reg) : Word :=
  match th.ctx.fwd.find? (fun f => f.reg == r.toNat && th.nextSeq - f.seq ≤ 7) with
  | some f => f.val
  | none => findD th.regs r.toNat 0

/-- What the next unit reads from a register pair (R92). -/
def Thread.read64 (th : Thread) (r : Reg) : DWord := pairVal (th.read (r + 1)) (th.read r)

/-- A register written by the unit of a sequence number: stored with K = 0, in reach only with K = 1
(R22, R110). -/
def Thread.write (th : Thread) (k : Bool) (seq : Nat) (r : Reg) (v : Word) : Thread :=
  let fwd := th.ctx.fwd.filter (fun f => f.reg != r.toNat)
  if k then { th with ctx := { th.ctx with fwd := ⟨r.toNat, v, seq⟩ :: fwd } }
  else { th with regs := putD 0 th.regs r.toNat v, ctx := { th.ctx with fwd := fwd } }

/-- Several registers written in order. -/
def Thread.writes (th : Thread) (k : Bool) (seq : Nat) : List (Reg × Word) → Thread
  | [] => th
  | (r, v) :: ws => Thread.writes (th.write k seq r v) k seq ws

/-- The undo entries that a unit keeps for the registers it writes (R111). -/
def Thread.undoOf (th : Thread) (k : Bool) (ws : List (Reg × Word)) : List (Reg × Word) :=
  if k then [] else ws.map (fun w => (w.1, findD th.regs w.1.toNat 0))

/-- The two writes of a 64-bit value to a register pair (R92). -/
def write64 (r : Reg) (v : DWord) : List (Reg × Word) := [(r, loWord v), (r + 1, hiWord v)]

/-- The registers that an access still has to write. -/
def AccKind.regs : AccKind → List Reg
  | .load _ rs | .loadc _ rs | .atom _ _ rs | .cas _ rs _ => rs
  | .fget _ _ r _ | .tld _ _ r => [r]
  | .tst _ _ | .store | .push | .cclean | .cinval | .pref | .rowop _ _ => []

/-- Loads, gathers and tile loads. -/
def AccKind.isLoad : AccKind → Bool
  | .load _ _ | .loadc _ _ | .fget _ _ _ _ | .tld _ _ _ => true
  | _ => false

/-- The registers that older units of the thread have not yet written (R60, R108). -/
def Thread.pending (th : Thread) : List Reg :=
  th.window.flatMap (·.pend) ++ th.accs.flatMap (fun a => a.kind.regs)

/-! Issue (R109, R34). -/

/-- The context after a unit of n words (R34, R32). -/
def Ctx.advance (c : Ctx) (n : Nat) : Ctx :=
  { c with pc := c.pc + BitVec.ofNat 64 (8 * n), crem := c.crem - n }

/-- A window entry of the thread's next unit, completed and without effect (R109). -/
def WUnit.start (th : Thread) : WUnit :=
  { seq := th.nextSeq, ua := th.ctx.pc, before := th.ctx, undo := [], sends := [], cmd := none
    kbit := false, pend := [], done := true, fps := 0, act := .none, trap := none }

/-- Whether the thread waits in a unit that has issued: a meet or a `talloc` (R80, R176). -/
def Thread.waiting (th : Thread) : Bool := match th.wait with | .meet _ _ _ | .talloc => true | _ => false

/-- A unit of a thread's window. -/
def Thread.unit? (th : Thread) (seq : Nat) : Option WUnit := th.window.find? (fun u => u.seq == seq)

/-- What issuing a unit does beside its effect: the next sequence number, and the yield exclusion of
a clause with Y = 1 that ends here (R66). A meet or a `talloc` that waits has issued already
(R80, R176): its exclusion began then. -/
def Thread.issued (th : Thread) (clk : Nat) (next : Ctx) : Thread :=
  { th with
    ctx := next
    nextSeq := th.nextSeq + 1
    wait := .none
    gread := none
    arriving := none
    yieldEnd := if next.crem == 0 && th.ctx.clause.y && !th.waiting then some (clk + 64) else th.yieldEnd }

/-- A unit of one word issues and waits (R80, R176): the exclusion of a clause with Y = 1 that ends with it
begins (R66). -/
def Thread.issueWait (th : Thread) (clk : Nat) (w : Wait) : Thread :=
  { th with wait := w, yieldEnd := if th.ctx.crem == 1 && th.ctx.clause.y then some (clk + 64) else th.yieldEnd }

/-- A unit enters the window (R109) and the thread continues at the given context. -/
def Thread.enter (th : Thread) (clk : Nat) (u : WUnit) (next : Ctx) : Thread :=
  { th.issued clk next with window := th.window ++ [u] }

/-! Completion flags (R30). -/

/-- The flag that a long-latency unit counts on (R24): SET0 or SET1 of its clause. -/
def Clause.flag (c : Clause) (fl : Bool) : Option (BitVec 4) := if fl then c.set1 else c.set0

/-- The value of a completion flag. -/
def Thread.flag (th : Thread) (f : Nat) : Nat := findD th.flags f 0

/-- A flag incremented at issue, or decremented when its operation completes or is discarded (R30). -/
def Thread.flagUp (th : Thread) (f : Nat) : Thread := { th with flags := putD 0 th.flags f (th.flag f + 1) }
def Thread.flagDown (th : Thread) (f : Nat) : Thread := { th with flags := putD 0 th.flags f (th.flag f - 1) }

/-- A flag decremented when there is one. -/
def Thread.flagDown? (th : Thread) (f : Option Nat) : Thread :=
  match f with
  | some f => th.flagDown f
  | none => th

/-! Rollback (R114). -/

/-- The K-marked writes in reach after a rollback to a sequence number: those of older units. -/
def fwdBack (now before : List Fwd) (seq : Nat) : List Fwd :=
  let keep := now.filter (fun f => f.seq < seq)
  keep ++ before.filter (fun f => !keep.any (fun k => k.reg == f.reg))

/-- Undo entries restored, youngest first (R111, R114). -/
def restoreUndo (regs : List (Nat × Word)) : List WUnit → List (Nat × Word)
  | [] => regs
  | u :: us => u.undo.foldl (fun rs w => putD 0 rs w.1.toNat w.2) (restoreUndo regs us)

/-- The thread rolled back to a unit of its window: that unit and every younger one take no effect
(R114). -/
def Thread.rollback (th : Thread) (seq : Nat) : Thread :=
  match th.window.filter (fun u => seq ≤ u.seq) with
  | [] => th
  | u :: us =>
    let gone := th.accs.filter (fun a => seq ≤ a.seq)
    let th := gone.foldl (fun th a => th.flagDown? a.flag) th
    { th with
      regs := restoreUndo th.regs (u :: us)
      ctx := { u.before with fwd := fwdBack th.ctx.fwd u.before.fwd seq }
      window := th.window.filter (fun u => u.seq < seq)
      accs := th.accs.filter (fun a => a.seq < seq)
      gread := none
      arriving := none
      xreq := if th.window.any (fun u => u.seq < seq) then th.xreq else none }

/-! Traps (R343 to R350). -/

/-- A precise trap with a cause and TINFO. -/
def trapOf (code : BitVec 8) (tinfo : Nat) : TrapInfo := ⟨code, 0, 0, false, BitVec.ofNat 64 tinfo, 0⟩

/-- The trap "undefined encoding" (0x01) with a reason (R37). -/
def trapUndef (reason : Nat) : TrapInfo := ⟨0x01, BitVec.ofNat 8 reason, 0, false, 0, 0⟩

/-- An attributed trap (R347): TINFO, and the address of the unit it is attributed to. -/
def trapAttr (code : BitVec 8) (tinfo : Nat) (aua : DWord) : TrapInfo :=
  ⟨code, 0, 0, true, BitVec.ofNat 64 tinfo, aua⟩

/-- TCAUSE for a trap (R343). -/
def TrapInfo.tcause (ti : TrapInfo) : Word :=
  BitVec.ofNat 32 (ti.code.toNat + 256 * ti.slot.toNat + (if ti.attr then 1024 else 0) + 65536 * ti.reason.toNat)

/-- A talloc that a thread waits for leaves the allocators' queues (R345). -/
def State.dropTalloc (s : State) (t : Nat) : State :=
  let k := s.core (tCore t)
  let s := if k.allocs.any (fun r => r.thread == t) then
      s.setCore (tCore t) { k with allocs := k.allocs.filter (fun r => r.thread != t) }
    else s
  { s with allocS := s.allocS.filter (fun r => r.thread != t) }

/-- The guard of a job's command: its slot and GN (R19). -/
def Job.guard (j : Job) : Nat := bits j.word 18 4
def Job.gn (j : Job) : Bool := j.word.getLsbD 17

/-- The value of a guard slot: Open 2, True 1, False 0 (R196). -/
def Team.guard (tm : Team) (g : Nat) : BitVec 2 := tm.guards.extractLsb' (2 * g) 2

/-- Whether a job is a `wfix` held on an Open guard (R199). -/
def Job.heldFix (j : Job) (tm : Team) : Bool :=
  j.state == .queued && j.guard != 0 && !j.gok && tm.guard j.guard == 2
    && (match j.cmd with | .wfix _ _ _ _ => true | _ => false)

/-- Storage given back (R177): freed tiles that no job of the core names. A view names none. -/
def Core.reclaim (k : Core) : Core :=
  { k with tiles := k.tiles.filter (fun t =>
      !t.2.freed || k.jobs.any (fun j => j.hs.any (fun h => h.lvl != 2 && h.uid == t.1))) }

/-- An empty program store (R215). -/
def Prog.empty : Prog := ⟨[], none⟩

/-- A program store of a core. -/
def Core.prog (k : Core) (n : Nat) : Prog := findD k.progs n Prog.empty

/-- The store that an `epild` job writes. -/
def epildStore (j : Job) : Option Nat :=
  match j.cmd with
  | .epild _ n _ => some n.toNat
  | _ => none

/-- The record of a program store after a job leaves the table without performing (R215): the record that
it replaced, as the table now holds it, stands again, at the store or in the next `epild` accepted after it. -/
def epildDrop (k : Core) (j : Job) : Core :=
  let j := (k.jobs.find? (fun x => x.id == j.id)).getD j
  match epildStore j with
  | none => k
  | some n =>
    match k.jobs.find? (fun x => j.id < x.id && epildStore x == some n && x.state == .queued) with
    | some y => { k with jobs := k.jobs.map (fun x => if x.id == y.id then { x with prog := j.prog } else x) }
    | none => { k with progs := put k.progs n { k.prog n with owner := if j.prog == 0 then none else some (j.prog - 1) } }

/-- A job's entry is freed and its flag decremented (R185). -/
def freeJob (s : State) (core : Nat) (j : Job) : State :=
  let k := s.core core
  let s := s.setCore core (Core.reclaim { k with jobs := k.jobs.filter (fun x => x.id != j.id) })
  s.modThread j.thread (fun th => th.flagDown? j.flag)

/-- A job leaves the table without performing (R179, R185, R215). -/
def dropJob (s : State) (core : Nat) (j : Job) : State := freeJob (s.setCore core (epildDrop (s.core core) j)) core j

/-- Whether a job is of a unit of a thread from a sequence number on; a restored job is of none. -/
def Job.since (j : Job) (t seq : Nat) : Bool := j.thread == t && j.seq != 0 && decide (seq ≤ j.seq)

/-- A thread rolled back to a unit (R114): the jobs of that unit and of younger ones are discarded (R179). -/
def State.rollbackTo (s : State) (t seq : Nat) : State :=
  let s := ((s.core (tCore t)).jobs.filter (fun j => j.since t seq)).foldl (fun s j => dropJob s (tCore t) j) s
  s.modThread t (fun th => th.rollback seq)

/-- A `wfix` held on an Open guard has not acted: its unit is rolled back and its job withdrawn (R345). -/
def withdrawWfix (s : State) (j : Job) : State :=
  if j.seq == 0 then dropJob s (tCore j.thread) j else s.rollbackTo j.thread j.seq

/-- The held `wfix` jobs of a thread are withdrawn. -/
def dropHeldFix (s : State) (t : Nat) : State :=
  match s.team? (teamKey t) with
  | none => s
  | some tm => ((s.core (tCore t)).jobs.filter (fun j => j.thread == t && j.heldFix tm)).foldl withdrawWfix s

/-- Whether a wait outlasts a halt of the team (R345 step 3, R355): at a barrier after the arrival, and for a
restored lock request. -/
def Wait.outlasts : Wait → Bool
  | .barrier _ _ | .lock => true
  | _ => false

/-- A sibling's wait when its team halts (R345 step 3): a wait at a barrier after the arrival and a
restored lock request stay; every other waiting unit is rolled back. -/
def rollWait (s : State) (t : Nat) : State :=
  let s := s.modThread t (fun th => if th.wait.outlasts then th else { th with wait := .none, arriving := none })
  match s.thread? t with
  | none => s
  | some th =>
    match th.xreq, th.window with
    | some _, u :: _ => if th.wait = .lock then s else s.rollbackTo t u.seq
    | _, _ => s

/-- The other threads of a halting team lose their waits and begin their skid (R345). -/
def haltThread (s : State) (t : Nat) : State :=
  match s.thread? t with
  | none => s
  | some th =>
    let s := if th.wait = .talloc then s.dropTalloc t else s
    dropHeldFix ((rollWait s t).modThread t (fun th => { th with skid := 0 })) t

/-- The team halts at a trap of one of its threads (R345). -/
def haltTeam (s : State) (t : Nat) : State :=
  match s.team? (teamKey t) with
  | none => s
  | some tm =>
    let s := s.setTeam (teamKey t) { tm with
      halted := true, trapTid := some (tTid t), escal := false, late := some ⟨s.clk, none⟩ }
    (teamTids tm).foldl (fun s i => if i == tTid t then s else haltThread s (threadOf (teamKey t) i)) s

/-- The threads of a team in the order of cluster and then LANE (R346); within one cluster and lane,
by group. -/
def haltOrder (tm : Team) : List Nat :=
  (List.range 4).flatMap (fun c => (List.range 32).flatMap (fun lane =>
    (List.range tm.ngrp).filterMap (fun g => if clusterOf tm g == c then some (32 * g + lane) else none)))

/-- Whether a thread of a team comes before another in that order. -/
def haltsFirst (tm : Team) (i j : Nat) : Bool :=
  let rank (i : Nat) : Nat := clusterOf tm (i / 32) * 32 + i % 32
  rank i < rank j || (rank i == rank j && i < j)

/-- Whether a thread that traps in the clk of its team's halt takes the place of the trapping thread (R346):
it comes first in the order of cluster and LANE. -/
def displaces (s : State) (tm : Team) (t : Nat) : Bool :=
  match tm.late, tm.trapTid with
  | some l, some i => l.clk == s.clk && tm.halted && haltsFirst tm (tTid t) i
  | _, _ => false

/-- A delivered trap taken back (R346): the thread has its record, context and wait of before the delivery, and the trap is
a pending one. What its accesses have done since stands. -/
def Thread.undeliver (th : Thread) (x : Taken) : Thread :=
  { th with
    tcause := x.th.tcause, tinfo := x.th.tinfo, epc := x.th.epc, ta := x.th.ta, taCrem := x.th.taCrem
    taClause := x.th.taClause, inh := x.th.inh, ctx := { x.th.ctx with fwd := [] }, kept := x.th.kept
    taStale := x.th.taStale, stale := x.th.stale
    wait := if x.th.wait.outlasts then x.th.wait else .none
    pendTrap := some (x.th.pendTrap.getD x.ti) }

/-- It does (R346): a trap of this clk that was delivered becomes a pending one, and its thread a sibling. -/
def displace (s : State) (t : Nat) : State :=
  match s.team? (teamKey t) with
  | none => s
  | some tm =>
    let s := match tm.late, tm.trapTid with
      | some ⟨_, some x⟩, some i =>
        (s.modThread (threadOf (teamKey t) i) (fun th => th.undeliver x)).modLaunch
          tm.lid (fun l => { l with trec := x.trec })
      | _, _ => s
    s.modTeam (teamKey t) (fun tm => { tm with
      trapTid := some (tTid t), escal := false, aua := 0, late := some ⟨s.clk, none⟩ })

/-- The halt of a team at a trap of a thread (R345, R346): a team that is halted already stays so, and in the clk
of its halt the first thread in order is the trapping one. -/
def haltFor (s : State) (t : Nat) : State :=
  match s.team? (teamKey t) with
  | none => s
  | some tm => if !tm.halted then haltTeam s t else if displaces s tm t then displace s t else s

/-- The trap is delivered to its thread, whose PC is the resume address (R348, R349): the record is
written, and the thread enters the handler, or the trap escalates to firmware and the thread is in no handler
(R393). A trap that was pending for the thread already stays so (R346). -/
def deliverTrap (s : State) (t : Nat) (ti : TrapInfo) : State :=
  match s.env t with
  | none => s
  | some e =>
    let pc := e.th.ctx.pc
    let handled := e.la.tmask / 2 ^ ti.code.toNat % 2 == 1 && !e.th.inh && !e.th.exited && ti.code != 0x12
    let th := { e.th with
      tcause := ti.tcause, tinfo := ti.tinfo, epc := pc, ta := pc, taCrem := e.th.ctx.crem
      taClause := e.th.ctx.clause, taStale := e.th.stale, inh := false, gread := none, arriving := none
      wait := if e.th.wait.outlasts then e.th.wait else .none
      ctx := { e.th.ctx with fwd := [] } }
    let s := s.setTeam (teamKey t) { e.tm with
      halted := true, trapTid := some (tTid t), escal := !handled, aua := ti.aua }
    if handled then
      s.setThread t { th with
        inh := true
        wait := if th.wait = .lock then .lock else .none
        kept := if th.wait = .lock then .none else th.wait
        stale := false
        ctx := { th.ctx with pc := e.la.tvec, crem := 0, clause := Clause.empty } }
    else
      (s.setThread t th).modLaunch e.tm.lid (fun l => { l with
        trec := some (l.trec.getD (ti.tcause.toNat, tTid t, e.tm.index, ti.tinfo.toNat, pc.toNat, ti.aua.toNat)) })

/-- A trap delivered in the clk of its team's halt: it may be taken back in that clk (R346). -/
def deliverLate (s : State) (t : Nat) (ti : TrapInfo) : State :=
  match s.env t with
  | none => s
  | some e =>
    let fresh := match e.tm.late with | some l => l.clk == s.clk && l.undo.isNone | none => false
    let s' := deliverTrap s t ti
    if fresh then s'.modTeam (teamKey t) (fun tm => { tm with late := some ⟨s.clk, some ⟨e.th, ti, e.la.trec⟩⟩ }) else s'

/-- TAKING A TRAP, the one operation: the thread is precise, its window empty and its PC the resume
address. The trapping thread of the team's halt takes the trap at once; a sibling records it as
pending (R345, R346). -/
def takeTrap (s : State) (t : Nat) (ti : TrapInfo) : State :=
  let s := haltFor s t
  match s.team? (teamKey t) with
  | none => s
  | some tm =>
    if tm.trapTid != some (tTid t) then
      s.modThread t (fun th => { th with
        wait := .none, arriving := none, ctx := { th.ctx with fwd := [] }, pendTrap := some (th.pendTrap.getD ti) })
    else deliverLate s t ti

/-- A unit traps (R114, R345); firmware is told of a malformed page-table entry (R332). With no older unit uncommitted the thread is precise and the trap is
taken; otherwise the team halts, issue for the thread stops, and the trap waits in the window for the
older units. -/
def raiseTrap (s : State) (t : Nat) (ti : TrapInfo) : State :=
  match s.env t with
  | none => s
  | some e =>
    let s := if ti.code == 0x04 then s.tell e.la.asp (ti.tinfo.toNat % 2 ^ 57) else s
    if e.th.window.isEmpty then takeTrap s t ti
    else
      (haltFor s t).modThread t (fun th => { th with
        window := th.window ++ [{ WUnit.start th with done := false, trap := some ti }]
        nextSeq := th.nextSeq + 1, wait := .none })

/-- A unit that is already in the window traps (R114). -/
def trapUnit (s : State) (t seq : Nat) (ti : TrapInfo) : State :=
  match s.env t with
  | none => s
  | some _ =>
    (haltFor s t).modThread t (fun th => { th with
      window := th.window.map (fun u => if u.seq == seq then { u with done := false, cmd := none, trap := some ti } else u) })

/-- The rollback that a trap at the head of the window causes, every older unit having committed
(R114). -/
def rollbackTrap (s : State) (t : Nat) : Option State :=
  match s.thread? t with
  | none => none
  | some th =>
    match th.window with
    | [] => none
    | u :: _ =>
      match u.trap with
      | none => none
      | some ti => some (takeTrap (s.rollbackTo t u.seq) t ti)

/-- An attributed trap (R347): the team halts, the issuing thread included, and takes it as the
trapping thread once its units have committed; while the team is halted it is recorded as pending. -/
def attributedTrap (s : State) (t : Nat) (ti : TrapInfo) : State :=
  match s.env t with
  | none => s
  | some e =>
    if e.tm.halted && !displaces s e.tm t then s.modThread t (fun th => { th with pendTrap := some (th.pendTrap.getD ti) })
    else
      let s := haltThread (haltFor s t) t
      match s.thread? t with
      | none => s
      | some th =>
        if th.window.isEmpty then deliverLate s t ti
        else s.setThread t { th with pendTrap := some (th.pendTrap.getD ti) }

/-- A thread's pending trap leaves its record, to be delivered. -/
def State.takePending (s : State) (t : Nat) : State := s.modThread t (fun th => { th with pendTrap := none })

/-- The pending trap of the team's trapping thread, delivered when its window is empty (R346, R347). -/
def deliverPending (s : State) (t : Nat) : Option State :=
  match s.env t with
  | none => none
  | some e =>
    match e.th.pendTrap with
    | none => none
    | some ti =>
      if e.tm.halted && e.tm.trapTid == some (tTid t) && !e.th.inh && !e.tm.escal && e.th.window.isEmpty then
        some (deliverTrap (s.takePending t) t ti)
      else none

/-- The first thread of a team with a pending trap, in the order of R346. -/
def firstPending (s : State) (k : Nat) : Option (Nat × TrapInfo) :=
  match s.team? k with
  | none => none
  | some tm => (haltOrder tm).findSome? (fun i =>
      match s.thread? (threadOf k i) with
      | some th => th.pendTrap.map (fun ti => (threadOf k i, ti))
      | none => none)

/-- Every sibling released, the team running again (R350). -/
def releaseTeam (s : State) (k : Nat) : State :=
  match s.team? k with
  | none => s
  | some tm =>
    let s := s.setTeam k { tm with halted := false, trapTid := none, escal := false, late := none }
    (teamTids tm).foldl (fun s i => s.modThread (threadOf k i) (fun th => { th with skid := 0 })) s

/-- What follows the end of a handler or a restoration (R346, R350, R355): the first pending trap is
delivered before any thread of the team issues, else the siblings are released. -/
def resumeTeam (s : State) (k : Nat) : State :=
  match firstPending s k with
  | none => releaseTeam s k
  | some (t, ti) =>
    match s.thread? t, s.team? k with
    | some th, some tm =>
      let s := s.setTeam k { tm with halted := true, trapTid := some (tTid t), escal := false, late := none }
      if th.window.isEmpty then deliverTrap (s.takePending t) t ti else s
    | _, _ => s

/-! The gate (R19, R30, R60, R109, R198). -/

/-- How a unit issues: `settled`, only once every older unit has committed (log 8); `long`, counting on a
flag; `lane`, a transfer or such a unit, whose commands at the lane place a waiting xacq holds back (R118): those of
other units queue there; `held`, an engine command, which does not wait for its guard (R199). -/
structure Mode where
  settled : Bool := false
  long    : Bool := false
  lane    : Bool := true
  held    : Bool := false
  deriving DecidableEq, Repr

/-- Whether the thread has issued its `exit`, which has still to commit (R76): it has no further unit. -/
def Thread.exiting (th : Thread) : Bool := th.window.any (fun u => u.act == .exit)

/-- Whether operands of the thread's next unit have still to arrive at the lane (R71, R107). -/
def Thread.awaited (th : Thread) : Bool := match th.arriving with | some (_ :: _) => true | _ => false

/-- Whether a thread can take a next unit at all: the waits of R60 that hold whatever the unit is, and a unit in
issue whose far operands have still to arrive (R107). -/
def Thread.blocked (th : Thread) (m : Mode) : Bool :=
  th.exited || th.exiting || th.awaited || th.window.length ≥ 8 || th.window.any (fun u => u.trap.isSome)
    || (match th.wait with | .none | .fence _ _ | .flush _ => false | _ => true)
    || (m.settled && !th.window.isEmpty) || (m.lane && th.xreq.isSome)

/-- The value that a unit of the window gives a guard slot as it commits (R196). -/
def WUnit.guard? (u : WUnit) (g : Nat) : Option (BitVec 2) :=
  match u.act with
  | .guard g' v => if g' == g && u.trap.isNone then some v else none
  | _ => none

/-- A guard slot as the thread's next unit finds it: what the youngest older unit of the thread that has still to
commit gives it, else the team's table (R196, R198; DEDUCED, log 8). -/
def Env.guard (e : Env) (g : Nat) : BitVec 2 := (e.th.window.reverse.findSome? (·.guard? g)).getD (e.tm.guard g)

/-- The guard value by which the thread's next unit performs or not (R198): the one it has read, or the
slot's. -/
def Env.guardSeen (e : Env) (g : Nat) : BitVec 2 :=
  match e.th.gread with
  | some b => if b then 1 else 0
  | none => e.guard g

/-- A launch parameter could not be read (R127): the threads of the team trap together, so that the first in the
order of R346 takes its trap and the others hold theirs pending. -/
def paramTrap (s : State) (k : Nat) : State :=
  match s.team? k with
  | none => s
  | some tm =>
    let s := (teamTids tm).foldl (fun s i => s.modThread (threadOf k i) (fun th =>
      { th with param := none, pendTrap := th.param.orElse (fun _ => th.pendTrap) })) s
    resumeTeam s k

/-- Every unit passes here: the waits of R60; a parameter that could not be read (R127); the flag
choice of a long-latency form (R24, reason 6) and its limit (R30); the guard (R19, R198). The rest of
the unit is `k`. A guarded unit whose guard fails issues and performs nothing. -/
def unit (s : State) (m : Mode) (c : Ctl) (n : Nat) (k : Env → Outcome) : Outcome :=
  match s.env s.cur with
  | none => .fault .noSuchInstance
  | some e =>
    if e.th.blocked m then s.stall
    else match e.th.param with
    | some _ => .next (paramTrap s (teamKey e.t))
    | none =>
      if m.long && (e.th.ctx.clause.flag c.fl).isNone then .next (raiseTrap s e.t (trapUndef 6))
      else if c.g != 0 && !m.held && e.guardSeen c.g.toNat == 2 then s.stall
      else if c.g != 0 && !m.held && (e.guardSeen c.g.toNat == 1) == c.gn then
        .next (s.setThread e.t (e.th.enter s.clk (WUnit.start e.th) (e.th.ctx.advance n)))
      else if m.long && e.th.flag ((e.th.ctx.clause.flag c.fl).getD 0).toNat ≥ 63 then s.stall
      else k e

/-- The flag number that a long-latency unit counts on. -/
def Env.flagNo (e : Env) (c : Ctl) : Nat := ((e.th.ctx.clause.flag c.fl).getD 0).toNat

/-! Register operands (R99, R101, R103). -/

/-- What the check of a register operand finds: the state (with a proxy slot bound), a trap, or a wait
for a translation (R332, R342). -/
inductive Chk where
  | ok (s : State)
  | trap (ti : TrapInfo)
  | wait (s : State)

/-- A further check where one finds nothing. -/
def Chk.andThen (c : Chk) (k : State → Chk) : Chk :=
  match c with
  | .ok s => k s
  | .trap ti => .trap ti
  | .wait s => .wait s

/-- A thread enters a wait; the unit has not issued. -/
def State.waitFor (s : State) (t : Nat) (w : Wait) : State := s.modThread t (fun th => { th with wait := w })

/-- A unit waits for a page that moves (R332): its walk waits for a `tinv`. -/
def State.waitWalk (s : State) (t va : Nat) : State :=
  { s.waitFor t (.walk va) with walks := put s.walks t 0 }

/-- A request for a host page joins the die's requests (R340). -/
def State.request (s : State) (die pasid page : Nat) (write : Bool) : State :=
  if s.ats.any (fun r => r.die == die && r.pasid == pasid && r.page == page) then s
  else { s with ats := s.ats ++ [⟨die, pasid, page, write, none, false, false⟩] }

/-- A unit waits for a host translation (R340, R342). -/
def State.waitAts (s : State) (e : Env) (page va : Nat) (write : Bool) : State :=
  (s.request (dieOf (tCore e.t)) e.la.asp.pasid page write).waitFor e.t (.ats page va)

/-- A translation as a check: the address, a trap with the virtual address in TINFO, or the wait that
the unit enters (R332, R333, R335, R342). -/
def xlatChk (s : State) (e : Env) (va : Nat) (n : Need) (k : Phys → Chk) : Chk :=
  match e.xlat s va n with
  | .ok p => k p
  | .trap c => .trap (trapOf c va)
  | .moving => .wait (s.waitWalk e.t va)
  | .ats page => .wait (s.waitAts e page va (n == .w || n == .rw))

/-- A proxy slot of a bank core bound to a thread that holds none there (R103, R99 sub-cause 1). -/
def bindSlot (s : State) (e : Env) (b bc : Nat) : Chk :=
  match s.thread? e.t with
  | none => .ok s
  | some th =>
    if th.bound.contains bc then .ok s
    else if findD s.slots bc 0 ≥ 16 then .trap (trapOf 0x0B (1 + 256 * b))
    else .ok ({ s with slots := putD 0 s.slots bc (findD s.slots bc 0 + 1) }.setThread e.t
      { th with bound := th.bound ++ [bc] })

/-- Whether a far block of some thread, other than block b of thread t, is backed by bytes that meet the four
bytes at a physical address (R100, R102). -/
def sharesWord (s : State) (t b tgt pa : Nat) : Bool :=
  s.threads.any (fun x => !x.2.exited && (match s.env x.1 with
    | none => false
    | some e => (List.range 32).any (fun b' =>
      let p := placeOfCode (codeOfBlock e.th.ctx.pmap b')
      p.far && e.th.ctx.anchorSet p.anchor && (x.1 != t || b' != b) &&
        (match e.xlat s (e.th.ctx.backing p.anchor b') .arena with
          | .ok q => q.tgt == tgt && q.pa < pa + 4 && pa < q.pa + 32
          | _ => false))))

/-- The values of a far block taken from its backing words (R102), at a physical address: by a bank core from its
rows, by a slice at the home. -/
def readBlock (s : State) (e : Env) (b : Nat) (p : Phys) (regs : List (Nat × Word)) : List (Nat × Word) :=
  let v := match placeOfCode (codeOfBlock e.th.ctx.pmap b) with
    | .bank _ => Memory.readN s.dram p.pa 32
    | _ => physRead s p 32
  (List.range 8).foldl (fun m i => putD 0 m (8 * b + i) (BitVec.ofNat 32 (v / 2 ^ (32 * i)))) regs

/-- A far block of a restored thread whose backing words are still to be read takes them (R102, R355). -/
def fetchBlock (s : State) (e : Env) (b : Nat) (p : Phys) : State :=
  if !e.th.unread.contains b then s
  else s.modThread e.t (fun th => { th with regs := readBlock s e b p th.regs, unread := th.unread.erase b })

/-- What a unit finds in a far register: its value, or, where another block is backed by the same word, a
free value (R102, log 2). `p` is the physical address of its block. -/
def shareReg (s : State) (e : Env) (r : Reg) (p : Phys) : State :=
  if sharesWord s e.t (blockOf r) p.tgt (p.pa + 4 * (r.toNat % 8)) then
    { s with free := s.free + 1 }.modThread e.t (fun th =>
      { th with regs := putD 0 th.regs r.toNat (Config.freeWord s.free) })
  else s

/-- Whether a thread holds or has requested the extension lock (R99 sub-cause 4); an `xrel` that has still to commit
counts as done (R117). -/
def Thread.extends (th : Thread) : Bool := (th.xhold && !th.window.any (fun u => u.act == .unlock)) || th.xreq.isSome

/-- The check of one register operand against the place map (R99 sub-causes 1, 4, 5, 6; R101). Where a unit is
the first to touch a block of the launch plan, the translation of R101 comes before sub-causes 6 and 1
(DESIGN CHOICE, log 60). -/
def checkReg (s : State) (e : Env) (r : Reg) : Chk :=
  let b := blockOf r
  match e.th.ctx.place r with
  | .lane => if 8 ≤ b && !e.th.extends then .trap (trapOf 0x0B (4 + 256 * b)) else .ok s
  | .unmapped => .trap (trapOf 0x0B (5 + 256 * b))
  | .slice k =>
    if !e.th.ctx.anchorSet k then .trap (trapOf 0x0B (2 + 256 * k))
    else xlatChk s e (e.th.ctx.backing k b) .arena (fun p => .ok (shareReg (fetchBlock s e b p) e r p))
  | .bank k =>
    if !e.th.ctx.anchorSet k then .trap (trapOf 0x0B (2 + 256 * k))
    else xlatChk s e (e.th.ctx.backing k b) .arena (fun p =>
      if p.tgt != 0 || !tier1 p.pa then .trap (trapOf 0x0B (6 + 256 * b))
      else bindSlot (shareReg (fetchBlock s e b p) e r p) e b (bankCoreOf p.pa))

/-- The register operands checked in order. -/
def checkRegs (s : State) (e : Env) : List Reg → Chk
  | [] => .ok s
  | r :: rs =>
    match checkReg s e r with
    | .ok s => checkRegs s e rs
    | c => c

/-- A unit's register operands: their checks, then the wait for older units' writes (R60, R108). The
rest of the unit is `k`. -/
def operands (s : State) (e : Env) (rs : List Reg) (k : State → Env → Outcome) : Outcome :=
  match checkRegs s e rs with
  | .trap ti => .next (raiseTrap s e.t ti)
  | .wait s => .next s
  | .ok s' =>
    if rs.any (fun r => e.th.pending.contains r) then s.stall
    else match s'.env e.t with
      | none => .fault .noSuchInstance
      | some e => k s' e

/-- The far registers among some, each once (R107). -/
def Thread.farOf (th : Thread) (rs : List Reg) : List Reg := (rs.filter (fun r => (th.ctx.place r).far)).dedup

/-- The operands of a unit that executes at the lane place (R106, R107): as those of any unit, and its far sources `srcs`
are sent there first. -/
def gather (s : State) (e : Env) (srcs dsts : List Reg) (k : State → Env → Outcome) : Outcome :=
  operands s e (srcs ++ dsts) fun s e =>
    if (e.th.farOf srcs).isEmpty || e.th.arriving == some [] then k s e
    else .next (s.setThread e.t { e.th with arriving := some (e.th.farOf srcs) })

/-! Units that compute registers (R106, R107, R129). -/

/-- An execute command's flags under the enables of FPC (R136). -/
def fpTrap (fpc : Word) (f : BitVec 5) : Option TrapInfo :=
  if f &&& enablesOf fpc != 0 then some (trapOf 0x07 f.toNat) else none

/-- The result of a unit that writes one register and raises flags. -/
def out1 (fpc : Word) (r : Reg) (v : FRes) : AluOut := ⟨[(r, v.1)], v.2, fpTrap fpc v.2, .none⟩

/-- A place at which commands queue (R108): what the place map names, and the bank core (true) or the slice that the
backing address of a far block lies at. -/
abbrev Site := Place × Option (Bool × Nat)

/-- The lane place. -/
def laneSite : Site := (.lane, none)

/-- Whether two of them are one queue: the same place of the map, or one bank core or slice behind two anchors
(R108, R316). -/
def Site.same (a b : Site) : Bool := a.1 == b.1 || (a.2.isSome && a.2 == b.2)

/-- The place of a register under a context. -/
def siteOf (s : State) (e : Env) (c : Ctx) (r : Reg) : Site :=
  let at_ (k : Nat) (f : Nat → Bool × Nat) : Option (Bool × Nat) :=
    match e.xlat s (c.backing k (blockOf r)) .arena with
    | .ok p => if p.tgt = 0 then some (f p.pa) else none
    | _ => none
  (c.place r, match c.place r with
    | .slice k => at_ k (fun pa => (false, (Config.homeSlice (lineOf pa)).val))
    | .bank k => at_ k (fun pa => (true, bankCoreOf pa))
    | .lane | .unmapped => none)

/-- The place at which a unit of the window executes. -/
def homeOf (s : State) (e : Env) (u : WUnit) : Site := match u.pend with | r :: _ => siteOf s e u.before r | [] => laneSite

/-- Whether an older unit still has a command at a place (R108): an operand to send, an execute command, or, with
`loads`, the value of a load to write. A waiting `xacq` is one at the lane place (R118). -/
def olderCommand (s : State) (e : Env) (seq : Nat) (p : Site) (loads : Bool) : Bool :=
  e.th.window.any (fun u => u.seq < seq && u.trap.isNone &&
    (u.sends.any (fun r => (siteOf s e u.before r).same p) || (u.cmd.isSome && (homeOf s e u).same p)
      || (loads && e.th.accs.any (fun a => a.seq == u.seq && a.kind.isLoad
            && a.kind.regs.any (fun r => (siteOf s e u.before r).same p)))))
    || (p.1 == .lane && e.th.xreq.isSome && e.th.window.any (fun u => u.seq < seq))

/-- A unit that computes registers issues (R107): with every operand and the destination at the lane and no
older command there (R108) it executes at once; otherwise its operand sends and its execute command wait at
their places. -/
def computeIssue (s : State) (e : Env) (kbit : Bool) (n : Nat) (srcs dsts : List Reg) (o : AluOut) : State :=
  let th := e.th
  let pl (r : Reg) : Place := th.ctx.place r
  let far := srcs.any (fun r => (pl r).far) || dsts.any (fun r => (pl r).far) || olderCommand s e th.nextSeq laneSite true
  if far then
    let home := match dsts with | d :: _ => pl d | [] => .lane
    let u := { WUnit.start th with
      sends := (srcs.filter (fun r => pl r != home)).dedup
      cmd := some o, kbit := kbit, pend := dsts, done := false, act := o.act }
    let next := { th.ctx.advance n with fwd := th.ctx.fwd.filter (fun f => !dsts.any (fun r => r.toNat == f.reg)) }
    s.setThread e.t (th.enter s.clk u next)
  else match o.trap with
    | some ti => raiseTrap s e.t ti
    | none =>
      let u := { WUnit.start th with undo := th.undoOf kbit o.writes, fps := o.fps, kbit := kbit, act := o.act }
      let th' := th.writes kbit th.nextSeq o.writes
      s.setThread e.t (th'.enter s.clk u (th'.ctx.advance n))

/-- How a unit issues whose commands queue at their places: a waiting `xacq` holds those at the lane place back
there (R118). -/
def Mode.queued : Mode := { lane := false }

/-- How a unit that counts on a flag issues, its commands queueing at their places. -/
def Mode.counted : Mode := { long := true, lane := false }

/-- A unit with register sources and register destinations: `f` computes its result from FPC at its
sequence number and its operand values (R129). Destinations are checked after sources. -/
def compute (s : State) (c : Ctl) (n : Nat) (srcs dsts : List Reg) (f : Word → (Reg → Word) → AluOut) : Outcome :=
  unit s .queued c n fun e =>
  operands s e (srcs ++ dsts) fun s e =>
    .next (computeIssue s e c.k n srcs dsts (f e.th.ctx.fpc e.th.read))

/-! Units without a register destination that execute at the lane place. -/

/-- A unit completes as it issues, with the given register writes: with no older unit left in the window it commits at
once (R112), else it waits there for them, complete, with the undo entries of its writes (R111). -/
def settle (s : State) (e : Env) (c : Ctl) (n : Nat) (ws : List (Reg × Word)) : State :=
  let th := e.th.writes c.k e.th.nextSeq ws
  let next := th.ctx.advance n
  if e.th.window.isEmpty then s.setThread e.t (th.issued s.clk next)
  else s.setThread e.t (th.enter s.clk { WUnit.start e.th with undo := e.th.undoOf c.k ws } next)

/-- The same of a unit that acts as it commits: `now` is its act where it commits at once. -/
def settleAct (s : State) (e : Env) (n : Nat) (act : CommitAct) (fps : BitVec 5) (now : State → State) : State :=
  if e.th.window.isEmpty then
    now (s.setThread e.t ({ e.th with fps := mergeFps e.th.fps fps }.issued s.clk (e.th.ctx.advance n)))
  else s.setThread e.t (e.th.enter s.clk { WUnit.start e.th with act := act, fps := fps } (e.th.ctx.advance n))

end Sys2Proof.Machine
end

