-- ==== Sys2Proof/Machine/Teams.lean ====
section
/-! DEFINITION. The extension lock (R116 to R118), proxy slots and backing words (R100 to R103), tile
storage (R171 to R177), the end of threads, groups and teams (R76, R128, R200), and the meets of a
group (R80, R81); and commit (R112, R115). -/

namespace Sys2Proof.Machine

/-! Group slots and the extension lock. -/

/-- The group slot of a group: its number is cluster * 16 + slot (R116). -/
def slotOf (k : Core) (g : Nat) : Option Nat := (k.gslots.find? (fun e => e.2 == g)).map (·.1)

/-- The group in a group slot. -/
def groupAt (k : Core) (slot : Nat) : Option Nat := find? k.gslots slot

/-- The lock of a group's pair of slots (R116). -/
def lockOf (k : Core) (g : Nat) : Nat := (slotOf k g).getD 0 / 2

/-- The holder of a lock; none when it is free (R117). -/
def Core.lockHolder (k : Core) (n : Nat) : Option Nat := (findD k.locks n ⟨none⟩).holder

/-- The threads of a group that the state lists, in ascending LANE. -/
def groupThreads (s : State) (g : Nat) : List (Nat × Thread) :=
  (List.range 32).filterMap (fun i => (s.thread? (32 * g + i)).map (fun th => (32 * g + i, th)))

/-- The live threads of a group, in ascending LANE (R80). -/
def liveThreads (s : State) (g : Nat) : List (Nat × Thread) := (groupThreads s g).filter (fun e => !e.2.exited)

/-- The extension names at a thread's lane read 0 (R117). -/
def clearExt (th : Thread) : Thread :=
  let ext (r : Nat) : Bool := 64 ≤ r && r < 128 && placeOfCode (codeOfBlock th.ctx.pmap (r / 8)) == .lane
  { th with
    regs := th.regs.filter (fun w => !ext w.1)
    ctx := { th.ctx with fwd := th.ctx.fwd.filter (fun f => !ext f.reg) } }

/-- A thread whose group is granted the lock (R117, R355): the extension names at its lane read 0, or
are restored from a saved record; its own waiting request is granted. -/
def grantThread (th : Thread) : Thread :=
  let th := clearExt th
  match th.xreq with
  | none => th
  | some _ =>
    { th with
      xhold := true
      xreq := none
      regs := th.xsave.foldl (fun rs w => putD 0 rs w.1 w.2) th.regs
      xsave := []
      window := if th.wait = .lock then th.window else th.window.drop 1
      wait := if th.wait = .lock then .none else th.wait }

/-- The lock granted to a group (R117): every thread of the group loses its extension names, and every
waiting request of the group is granted. -/
def grantLock (s : State) (core n g : Nat) : State :=
  let k := s.core core
  let s := s.setCore core { k with locks := put k.locks n ⟨some g⟩ }
  (groupThreads s g).foldl (fun s e => s.setThread e.1 (grantThread e.2)) s

/-- The oldest waiting request of a group, by the clk of its issue (R117). -/
def oldestRequest (s : State) (g : Nat) : Option Nat :=
  (groupThreads s g).foldl (fun r e =>
    match e.2.xreq, r with
    | some a, some b => some (min a b)
    | some a, none => some a
    | none, r => r) none

/-- A free lock granted to the group of its pair whose oldest waiting request issued first; of the
same clk, to the group of the lower slot (R117). -/
def offerLock (s : State) (core n : Nat) : State :=
  let k := s.core core
  if (k.lockHolder n).isSome then s
  else
    let cand (slot : Nat) : Option (Nat × Nat) :=
      match groupAt k slot with
      | some g => (oldestRequest s g).map (fun a => (a, g))
      | none => none
    match cand (2 * n), cand (2 * n + 1) with
    | some (a, g), some (b, h) => grantLock s core n (if a ≤ b then g else h)
    | some (_, g), none => grantLock s core n g
    | none, some (_, h) => grantLock s core n h
    | none, none => s

/-- A thread stops being a holder (R117): with no holder left in its group the lock is free, and is
offered to waiting requests. A thread that does not hold changes nothing. -/
def releaseLock (s : State) (t : Nat) : State :=
  match s.thread? t with
  | none => s
  | some th =>
    if !th.xhold then s
    else
      let s := s.setThread t { th with xhold := false }
      if (groupThreads s (gKey t)).any (fun e => e.2.xhold) then s
      else
        let k := s.core (tCore t)
        let n := lockOf k (gKey t)
        offerLock (s.setCore (tCore t) { k with locks := put k.locks n ⟨none⟩ }) (tCore t) n

/-! Backing words and proxy slots. -/

/-- The eight values of a block as 256 bits, the lowest name least significant (R100). -/
def blockNum (th : Thread) (b : Nat) : Nat → Nat
  | 0 => 0
  | n + 1 => blockNum th b n + (findD th.regs (8 * b + n) (0 : Word)).toNat * 2 ^ (32 * n)

/-- The backing words of a far block written with its values (R102): by the slice at the home, by the
bank core in its rows. Words that a restored thread has still to read stand (R355), and an address that does not
translate is left alone. -/
def spillBlock (s : State) (e : Env) (b : Nat) : State :=
  let place := placeOfCode (codeOfBlock e.th.ctx.pmap b)
  if place.far && !e.th.unread.contains b then
    match e.xlat s (e.th.ctx.backing place.anchor b) .arena with
    | .ok p =>
      match place with
      | .bank _ =>
        let v := blockNum e.th b 8
        let s := { s with dram := Memory.writeN s.dram p.pa 32 v }
        { s with l2 := adjust s.l2 (lineOf p.pa) (fun l =>
          { l with data := merge l.data (placeNum v (p.pa % 128)) (spanMask (p.pa % 128) 32) }) }
      | _ => physWrite s p 32 (blockNum e.th b 8)
    | _ => s
  else s

/-- Whether a far block holds values that its backing words have still to take: some name that is not 0. -/
def heldBlock (th : Thread) (b : Nat) : Bool :=
  !th.unread.contains b && (List.range 8).any (fun i => findD th.regs (8 * b + i) (0 : Word) != 0)

/-- Whether the backing words of a block cannot be written now: a row operation uses their bank (R325, R326), or they
do not translate while the block holds values (R101). -/
def spillWaits (s : State) (e : Env) (b : Nat) : Bool :=
  let place := placeOfCode (codeOfBlock e.th.ctx.pmap b)
  place.far && (match e.xlat s (e.th.ctx.backing place.anchor b) .arena with
    | .ok p => p.tgt == 0 && (match place with | .bank _ => ticketHeld s p.pa | _ => homeWaits s (lineOf p.pa))
    | _ => heldBlock e.th b)

/-- What the unit finds that has a place write its values back (R101, R102): a block's backing words that do not
translate raise 0x04 or 0x05, or the unit waits for their page. -/
def spillCheck (s : State) (e : Env) (b : Nat) : Chk :=
  let place := placeOfCode (codeOfBlock e.th.ctx.pmap b)
  if place.far && heldBlock e.th b then xlatChk s e (e.th.ctx.backing place.anchor b) .arena (fun _ => .ok s) else .ok s

/-- The same of some blocks in order. -/
def spillChecks (s : State) (e : Env) : List Nat → Chk
  | [] => .ok s
  | b :: bs => match spillCheck s e b with
    | .ok _ => spillChecks s e bs
    | r => r

/-- Whether some far block of a thread waits so. -/
def spillsWait (s : State) (t : Nat) : Bool :=
  match s.env t with
  | none => false
  | some e => (List.range 32).any (spillWaits s e)

/-- Every far block of a thread written to its backing words. -/
def spillAll (s : State) (t : Nat) : State :=
  match s.env t with
  | none => s
  | some e => (List.range 32).foldl (fun s b => spillBlock s e b) s

/-- The bank cores that back some bank block of a thread under its place map (R103). -/
def backedBy (s : State) (e : Env) : List Nat :=
  ((List.range 32).filterMap (fun b =>
    match placeOfCode (codeOfBlock e.th.ctx.pmap b) with
    | .bank k =>
      match e.xlat s (e.th.ctx.backing k b) .arena with
      | .ok p => some (bankCoreOf p.pa)
      | _ => none
    | _ => none)).dedup

/-- Proxy slots of a thread released where no block is backed any longer (R103). -/
def freeSlots (s : State) (t : Nat) (keep : List Nat) : State :=
  match s.thread? t with
  | none => s
  | some th =>
    let gone := th.bound.filter (fun b => !keep.contains b)
    let s := s.setThread t { th with bound := th.bound.filter (fun b => keep.contains b) }
    { s with slots := gone.foldl (fun m b => putD 0 m b (findD m b 0 - 1)) s.slots }

/-! Tile storage. -/

/-- Granules of a stage queue (R249). -/
def queueGran (desc : DWord) : Nat := (8 * 2 ^ bits desc 1 4 + 4095) / 4096

/-- Whether a stage queue lies at level S (R249). -/
def queueS (desc : DWord) : Bool := desc.getLsbD 0

/-- Granules that the stage queues of a core's teams hold at a level. -/
def queueUse (k : Core) (lvlS : Bool) : Nat :=
  (k.teams.flatMap (fun t => t.2.queues.map (fun q =>
    if queueS q.2.desc == lvlS then queueGran q.2.desc else 0))).foldl (· + ·) 0

/-- Granules that the tiles of a core hold at a level (R171). -/
def tileUse (k : Core) (lvl : BitVec 2) : Nat :=
  (k.tiles.map (fun t => if t.2.lvl == lvl then t.2.gran else 0)).foldl (· + ·) 0

/-- Free granules of level C of a core (R171). -/
def freeC (k : Core) : Nat := 512 - (tileUse k 0 + queueUse k false)

/-- Lines of a die's slices that Medlar actions pin (R260, R276). -/
def pinnedLines (s : State) (die : Nat) : Nat :=
  (s.l2.filter (fun e => !e.2.pinned.isEmpty && (Config.homeSlice e.1).val / 64 == die)).length

/-- Free granules of level S of a die (R171): Medlar pins draw on the same capacity (R260). -/
def freeS (s : State) (die : Nat) : Nat := 4096 - (usedS s die + (pinnedLines s die + 31) / 32)

/-- The accumulators of a core that no tile holds (R171). -/
def freeAcc (k : Core) : List Nat :=
  (List.range 2).filter (fun i => !k.tiles.any (fun t => t.2.lvl == 3 && t.2.acc == i))

/-- A handle's storage marked as freed (R177); level M holds none. -/
def freeHandle (s : State) (core : Nat) (h : Handle) : State :=
  if h.lvl == 2 then s
  else
    let k := s.core core
    s.setCore core (Core.reclaim { k with tiles := adjust k.tiles h.uid (fun t => { t with freed := true }) })

/-! The end of threads, groups and teams. -/

/-- Groups that have ended are forgotten by the victim tags and the lines that they filled (R270): a later group in
the same slot is another one. -/
def Core.forget (k : Core) (p : Nat → Bool) : Core :=
  let clear (g : Option Nat) : Option Nat := if g.any p then none else g
  { k with
    vtags := k.vtags.map (fun t => (t.1, clear t.2))
    l1 := k.l1.map (fun l => (l.1, { l.2 with filler := clear l.2.filler })) }

/-- Everything a team holds given back and its threads gone (R76, R128, R172, R259). -/
def dropTeam (s : State) (k : Nat) : State :=
  match s.team? k with
  | none => s
  | some tm =>
    let core := k / 4
    let mine (t : Nat) : Bool := teamKey t == k
    let ths := s.threads.filter (fun e => mine e.1)
    let s := ths.foldl (fun s e => freeSlots s e.1 []) s
    let s := ths.foldl (fun s e => releaseLock (s.setThread e.1 { e.2 with bound := [], xreq := none }) e.1) s
    let s := { s with
      threads := s.threads.filter (fun e => !mine e.1)
      allocS := s.allocS.filter (fun r => !mine r.thread)
      walks := s.walks.filter (fun w => !mine w.1) }
    let c := s.core core
    let c := (c.jobs.filter (fun j => mine j.thread && j.state == .queued)).foldl epildDrop c
    let s := s.setCore core <| Core.reclaim <| Core.forget (p := fun g => g / 16 == k) { c with
      jobs := c.jobs.filter (fun j => !mine j.thread)
      allocs := c.allocs.filter (fun r => !mine r.thread)
      gslots := c.gslots.filter (fun g => g.2 / 16 != k)
      leases := c.leases.filter (fun l => l.1 / 16 != k)
      nextEval := min c.nextEval (s.clk + 1)
      progs := c.progs.map (fun p => (p.1, if p.2.owner == some k then { p.2 with owner := none } else p.2))
      teams := del c.teams (k % 4) }
    let s := s.modLaunch tm.lid (fun l =>
      if l.dist.reader.any mine then { l with dist := { l.dist with reader := none } } else l)
    tm.handles.foldl (fun s h => freeHandle s core h.2) s

/-- The launch takes a team's slot status words and work-queue head (R246, R259). -/
def foldTeam (s : State) (tm : Team) : State :=
  s.modLaunch tm.lid (fun l => { l with
    status := tm.status.foldl (fun m w => putD 0 m w.1 (findD m w.1 (0 : Word) ||| w.2)) l.status
    wqHeads := put l.wqHeads tm.index tm.wqHead })

/-- A team ends (R76, R295): it releases, and once its publications have completed its results go to the
launch and all it holds is freed. Meanwhile its first thread holds the wait of the release. -/
def endTeam (s : State) (k : Nat) : State :=
  match s.team? k, s.thread? (threadOf k 0) with
  | some tm, some th =>
    match th.wait with
    | .fence _ ids =>
      if s.pubs.any (fun p => ids.contains p.id) then s else dropTeam (foldTeam s tm) k
    | _ =>
      let r := release s (k / 4)
      if r.2.isEmpty then dropTeam (foldTeam r.1 tm) k
      else r.1.waitFor (threadOf k 0) (.fence false r.2)
  | _, _ => s

/-- The guard slots of a team that are Open (R196), as TINFO[15:1] (R200). -/
def openGuards (tm : Team) : Nat :=
  (List.range 16).foldl (fun r g => if g != 0 && tm.guard g == 2 then r + 2 ^ g else r) 0

/-- Whether every thread of a team has exited. -/
def allExited (s : State) (k : Nat) (tm : Team) : Bool :=
  (teamTids tm).all (fun i => match s.thread? (threadOf k i) with | some th => th.exited | none => true)

/-- A team whose threads have all exited ends once its jobs have retired and the operations that its
threads left outstanding have completed (R76). A team halted at an escalated trap does not end by itself (R349). -/
def tryEndTeam (s : State) (k : Nat) : State :=
  match s.team? k with
  | none => s
  | some tm =>
    let idle := (teamTids tm).all (fun i =>
      match s.thread? (threadOf k i) with | some th => th.accs.isEmpty && th.pendTrap.isNone | none => true)
    let noJobs := !(s.core (k / 4)).jobs.any (fun j => teamKey j.thread == k)
    if allExited s k tm && idle && noJobs && !tm.escal then endTeam s k else s

/-- The last exit of a team with an Open guard (R200): the commands held on those guards are discarded,
and the trap "guard misuse" is raised at the exit. -/
def lastExit (s : State) (t : Nat) : State :=
  match s.team? (teamKey t) with
  | none => s
  | some tm =>
    if !allExited s (teamKey t) tm then s
    else if openGuards tm == 0 then tryEndTeam s (teamKey t)
    else
      let k := s.core (tCore t)
      let held (j : Job) : Bool := teamKey j.thread == teamKey t && j.state == .queued &&
        j.guard != 0 && !j.gok && tm.guard j.guard == 2
      let gone := k.jobs.filter held
      let s := gone.foldl (fun s j => s.modThread j.thread (fun th => th.flagDown? j.flag)) s
      let k := gone.foldl epildDrop k
      let s := s.setCore (tCore t) (Core.reclaim { k with jobs := k.jobs.filter (fun j => !held j) })
      takeTrap s t (trapOf 0x0E (openGuards tm))

/-! Meets (R80, R81). -/

/-- The address and operands of a thread that waits at a meet. -/
def Thread.meet? (th : Thread) : Option (Instr × Word × Word) :=
  match th.wait with
  | .meet i a b => some (i, a, b)
  | _ => none

/-- Whether every live thread of a group waits at a meet (R81). -/
def allMeet (s : State) (g : Nat) : Bool :=
  let l := liveThreads s g
  !l.isEmpty && l.all (fun e => e.2.meet?.isSome)

/-- Whether they all wait at one address (R80). -/
def sameMeet (s : State) (g : Nat) : Bool :=
  match liveThreads s g with
  | [] => false
  | e :: es => es.all (fun f => f.2.ctx.pc == e.2.ctx.pc)

/-- A meet mismatch (R81), precise at the arriving thread of the lowest LANE, or after an exit at the
waiting thread of the lowest LANE; TINFO holds the lowest meet address at which another thread waits. -/
def meetCheck (s : State) (g : Nat) (arrived : List Nat) : State :=
  if allMeet s g && !sameMeet s g then
    let l := liveThreads s g
    match (l.find? (fun e => arrived.contains e.1)).orElse (fun _ => l.head?) with
    | none => s
    | some (t, _) =>
      let others := (l.filter (fun e => e.1 != t)).map (fun e => e.2.ctx.pc.toNat)
      let low := others.foldl min (others.headD 0)
      raiseTrap (s.waitFor t .none) t (trapOf 0x08 low)
  else s

/-- A thread's `exit` (R76, R128), at its commit: its far values reach their backing words, its proxy
slots and its lock are released, and it leaves every meet count; the last exit of a group frees its
group slot and its lease, and the last exit of a team may end the team. -/
def exitThread (s : State) (t : Nat) : State :=
  let s := spillAll s t
  let s := freeSlots s t []
  let s := releaseLock s t
  let s := s.modThread t (fun th => { th with exited := true, wait := .none, yieldEnd := none, starved := none })
  let g := gKey t
  let s := if (liveThreads s g).isEmpty then
      let k := s.core (tCore t)
      s.setCore (tCore t) <| Core.forget (p := (· == g)) { k with
        gslots := k.gslots.filter (fun e => e.2 != g), leases := del k.leases g, nextEval := min k.nextEval (s.clk + 1) }
    else s
  lastExit (meetCheck s g []) t

/-! Commit (R112, R115). -/

/-- The guard table with one slot changed. -/
def setGuard (g : BitVec 32) (n : Nat) (v : BitVec 2) : BitVec 32 :=
  (g &&& ~~~((3 : BitVec 32) <<< (2 * n))) ||| (v.setWidth 32 <<< (2 * n))

/-- A guard slot resolved or opened, at the unit's commit (R196). -/
def resolve (s : State) (t : Nat) (g : BitVec 8) (v : BitVec 2) : State :=
  s.modTeam (teamKey t) (fun tm => { tm with guards := setGuard tm.guards g.toNat v })

/-- A barrier of the team (R245): count 1 and phase 0 when granted. -/
def Team.bar (tm : Team) (b : Nat) : Barrier := findD tm.bars b ⟨1, 0, 0⟩

/-- A barrier's count set (R89, R397): the arrivals are discarded, the phase stands. -/
def setBarrier (s : State) (t b count : Nat) : State :=
  s.modTeam (teamKey t) (fun tm => { tm with bars := put tm.bars b ⟨count, 0, (tm.bar b).phase⟩ })

/-- The lease of a thread's group set (R271): 0 selects measured mode and keeps the lease. -/
def setLease (s : State) (t n : Nat) : State :=
  let k := s.core (tCore t)
  s.setCore (tCore t) { k with leases := adjust k.leases (gKey t) (fun l =>
    if n == 0 then { l with measured := true } else { l with measured := false, lines := n }) }

/-- Proxy slots that back no block of a thread any longer are released (R103): of its place map, and of those to which a
rollback of an uncommitted unit would return (R111). -/
def trimSlots (s : State) (t : Nat) : State :=
  match s.env t with
  | none => s
  | some e =>
    let under (c : Ctx) : List Nat := backedBy s { e with th := { e.th with ctx := c } }
    freeSlots s t (under e.th.ctx ++ e.th.window.flatMap (fun u => if u.act == .slots then under u.before else []))

/-- What a unit does beyond its thread as it commits (R112). -/
def commitAct (s : State) (t : Nat) : CommitAct → State
  | .none | .rel _ | .access _ => s
  | .status fs b => s.modTeam (teamKey t) (fun tm =>
      { tm with status := putD 0 tm.status fs (findD tm.status fs 0 ||| BitVec.ofNat 32 b) })
  | .guard g v => resolve s t (BitVec.ofNat 8 g) v
  | .bari b n => setBarrier s t b n
  | .lease n => setLease s t n
  | .unlock => releaseLock s t
  | .slots => trimSlots s t
  | .exit => exitThread s t

/-- The state after the head of the window commits: its flags merge into FPS and its act takes effect. -/
def commitUnit (s : State) (t : Nat) (th : Thread) (u : WUnit) (w : List WUnit) : State :=
  let th := { th with window := w, fps := mergeFps th.fps u.fps }
  match u.act with
  | .access id => s.setThread t { th with
      accs := th.accs.map (fun a => if a.id == id then { a with commit := true } else a) }
  | act => commitAct (s.setThread t th) t act

/-- An `exit` commits (R76) once its thread's far values can reach their backing words; words that do not translate trap
at it (R101). -/
def commitExit (s : State) (t : Nat) (th : Thread) (u : WUnit) (w : List WUnit) : Option State :=
  match s.env t with
  | none => none
  | some e =>
    match spillChecks s e (List.range 32) with
    | .trap ti => some (trapUnit s t u.seq ti)
    | .wait s => if th.wait = .none then some s else none
    | .ok _ => if spillsWait s t then none else some (commitUnit s t th u w)

/-- The oldest unit of a thread commits, if it has completed without a trap (R112). A `rel` completes
here (R307): once every older access has performed it publishes, and it commits when every publication
has completed. -/
def commitHead (s : State) (t : Nat) : Option State :=
  match s.thread? t with
  | none => none
  | some th =>
    match th.window with
    | [] => none
    | u :: w =>
      if u.trap.isSome then none
      else match u.act with
      | .rel none =>
        if th.accs.any (fun a => a.seq < u.seq) then none
        else
          let (s, ids) := release s (tCore t)
          if ids.isEmpty then some (commitUnit s t th u w)
          else some (s.setThread t { th with window := { u with act := .rel (some ids) } :: w })
      | .rel (some ids) =>
        if s.pubs.any (fun p => ids.contains p.id) then none else some (commitUnit s t th u w)
      | .exit => commitExit s t th u w
      | _ => if u.done then some (commitUnit s t th u w) else none

/-- Every unit of a thread that can commit, in order (R112). -/
def commitAll (s : State) (t : Nat) : Nat → State
  | 0 => s
  | n + 1 => match commitHead s t with
    | some s => commitAll s t n
    | none => s

end Sys2Proof.Machine
end

