-- ==== Sys2Proof/Machine/Operands.lean ====
section
/-! DEFINITION. Operand forms: immediates and literals (R33, R137), second operands that are a register
or an immediate, memory addresses (R299), and the shapes of units that compute registers (R139, R142,
R150). -/

namespace Sys2Proof

/-- Words of a unit with an immediate: two where a literal word gives it (R34). -/
def Imm.words : Imm → Nat
  | .c8 _ => 1
  | .lit _ => 2

/-- An immediate of 32 bits: sign-extended C, or literal bits [31:0] (R137). -/
def Imm.signed32 : Imm → Word
  | .c8 v => v.signExtend 32
  | .lit v => v.extractLsb' 0 32

/-- An immediate of 32 bits: zero-extended C, or literal bits [31:0] (R137). -/
def Imm.zero32 : Imm → Word
  | .c8 v => v.setWidth 32
  | .lit v => v.extractLsb' 0 32

/-- An immediate of 64 bits: sign-extended C, or the sign-extended literal (R137, R140). -/
def Imm.signed64 : Imm → DWord
  | .c8 v => v.signExtend 64
  | .lit v => v.signExtend 64

/-- An FP32 immediate: C as E4M3, or literal bits [31:0] (R137). -/
def Imm.fp32 : Imm → Word
  | .c8 v => Machine.e4m3Imm v
  | .lit v => v.extractLsb' 0 32

/-- An immediate as an address offset (R299): sign-extended from 8 or from 32 bits. -/
def Imm.offset : Imm → Int
  | .c8 v => v.toInt
  | .lit v => (v.extractLsb' 0 32).toInt

/-- Words of a unit with a second operand. -/
def Src2.words : Src2 → Nat
  | .reg _ => 1
  | .imm i => i.words

/-- The registers that a second operand reads. -/
def Src2.regs : Src2 → List Reg
  | .reg r => [r]
  | .imm _ => []

/-- The registers that a 64-bit second operand reads (R92). -/
def Src2.regs64 : Src2 → List Reg
  | .reg r => [r, r + 1]
  | .imm _ => []

/-- The value of a 32-bit second operand, its immediate read by `imm`. -/
def Src2.value (v : Src2) (imm : Imm → Word) (read : Reg → Word) : Word :=
  match v with
  | .reg r => read r
  | .imm i => imm i

/-- The value of a 64-bit second operand. -/
def Src2.value64 (v : Src2) (read : Reg → Word) : DWord :=
  match v with
  | .reg r => Machine.pairVal (read (r + 1)) (read r)
  | .imm i => i.signed64

/-- Whether a second operand is an immediate. -/
def Src2.isImm : Src2 → Bool
  | .reg _ => false
  | .imm _ => true

end Sys2Proof

namespace Sys2Proof.Machine

/-- A pair's value through a register reader (R92). -/
def readPair (read : Reg → Word) (r : Reg) : DWord := pairVal (read (r + 1)) (read r)

/-- The address of `ld`, `st`, `ldc`, `cclean`, `cinval` and `pref` (R264, R299): modulo 2^57. -/
def effAddr (base : DWord) (off : Imm) : Nat := (((base.toNat : Int) + off.offset) % 2 ^ 57).toNat

/-- A result without flags. -/
def plain (v : Word) : FRes := (v, 0)

/-- The result of a unit that writes a register pair and raises no flag. -/
def out64 (r : Reg) (v : DWord) : AluOut := ⟨write64 r v, 0, none, .none⟩

/-! Shapes of units: `f` gets FPC at the unit's sequence number and the operand values. -/

/-- xd := f xa. -/
def unary (s : State) (c : Ctl) (xd xa : Reg) (f : Word → Word → FRes) : Outcome :=
  compute s c 1 [xa] [xd] fun fpc read => out1 fpc xd (f fpc (read xa))

/-- xd := f xa v. -/
def binary (s : State) (c : Ctl) (xd xa : Reg) (v : Src2) (imm : Imm → Word)
    (f : Word → Word → Word → FRes) : Outcome :=
  compute s c v.words (xa :: v.regs) [xd] fun fpc read => out1 fpc xd (f fpc (read xa) (v.value imm read))

/-- xd := f xa xb xc. -/
def ternary (s : State) (c : Ctl) (xd xa xb xc : Reg) (f : Word → Word → Word → Word → FRes) : Outcome :=
  compute s c 1 [xa, xb, xc] [xd] fun fpc read => out1 fpc xd (f fpc (read xa) (read xb) (read xc))

/-- xd := f of the pair at xa. -/
def unaryWide (s : State) (c : Ctl) (xd xa : Reg) (f : DWord → Word) : Outcome :=
  compute s c 1 [xa, xa + 1] [xd] fun fpc read => out1 fpc xd (plain (f (readPair read xa)))

/-- The pair at xd := f of the pair at xa. -/
def unary64 (s : State) (c : Ctl) (xd xa : Reg) (f : DWord → DWord) : Outcome :=
  compute s c 1 [xa, xa + 1] [xd, xd + 1] fun _ read => out64 xd (f (readPair read xa))

/-- The pair at xd := f of the pair at xa and a 32-bit count. -/
def shift64 (s : State) (c : Ctl) (xd xa : Reg) (v : Src2) (f : DWord → Word → DWord) : Outcome :=
  compute s c v.words (xa :: (xa + 1) :: v.regs) [xd, xd + 1] fun _ read =>
    out64 xd (f (readPair read xa) (v.value Imm.zero32 read))

/-! Format slots (R161, R163). -/

/-- The descriptor of a format slot under the launch. -/
def Env.slot (e : Env) (fs : BitVec 3) : DWord := e.la.fs fs.toNat

/-- A unit that names a format slot: one with EF = 0 is an undefined encoding with reason 7 (R163). -/
def withSlot (s : State) (fs : BitVec 3) (k : DWord → Outcome) : Outcome :=
  match s.env s.cur with
  | none => .fault .noSuchInstance
  | some e =>
    if slotEF (e.slot fs) == 0 then
      if e.th.blocked {} then s.stall
      else if e.th.param.isSome then .next (paramTrap s (teamKey e.t))
      else .next (raiseTrap s e.t (trapUndef 7))
    else k (e.slot fs)

end Sys2Proof.Machine
end

