-- ==== Sys2Proof/Machine/Access.lean ====
section
/-! DEFINITION. What the units that reach memory share: regions and footprint conflicts (R180 to R182),
schedule misses (R278), request entries (R267), the checks at issue (R299) and the accesses that issue
and perform later (R112, R293, R294); and the thread's load path for reads that a unit makes at once. -/

namespace Sys2Proof.Machine

/-! Regions of footprints. -/

/-- Whether two intervals of naturals meet: [a, a + n) and [b, b + m). -/
def meets (a n b m : Nat) : Bool := a < b + m && b < a + n

/-- Whether the rows [lo, hi) hold one of a lane (R206). -/
def laneRow (lo hi : Nat) (lane : Option Nat) : Bool :=
  match lane with
  | none => lo < hi
  | some x => lo + (x + 32 - lo % 32) % 32 < hi

/-- Whether two regions overlap (R180): rectangles of one handle's storage in the rows that they name
(R206), intervals of memory of one address space, or one program store (R206). -/
def Region.overlaps : Region → Region → Bool
  | .tile u r c n m l, .tile u' r' c' n' m' l' =>
    let rows (x : Option Nat) : Bool := laneRow (max r r') (min (r + n) (r' + n')) x
    u == u' && meets c m c' m' &&
      (match l, l' with
        | some x, some y => x == y && rows (some x)
        | some x, none => rows (some x)
        | none, y => rows y)
  | .mem a lo hi, .mem a' lo' hi' => a == a' && lo < hi' && lo' < hi
  | .store n, .store m => n == m
  | _, _ => false

/-- Whether an access of some regions conflicts with a job (R182): a read with what the job writes, a
write with what it reads or writes. -/
def Job.conflicts (j : Job) (write : Bool) (rs : List Region) : Bool :=
  rs.any (fun r => j.writes.any r.overlaps || (write && j.reads.any r.overlaps))

/-- Whether a job accepted earlier in the core's footprint table holds an access back (R182). -/
def heldByJob (s : State) (core : Nat) (write : Bool) (rs : List Region) : Bool :=
  (s.core core).jobs.any (fun j => j.conflicts write rs)

/-! Schedule misses (R274 to R278). -/

/-- The fields of a timetable entry (R274); a skipped entry is the empty list. -/
def ttWord (e : List DWord) (i : Nat) : DWord := e.getD i 0
def ttTrig (e : List DWord) : Nat := bits (ttWord e 0) 0 14
def ttGrid (e : List DWord) : Bool := (ttWord e 0).getLsbD 15
def ttTcnt (e : List DWord) : Nat := bits (ttWord e 0) 16 16
def ttDlm (e : List DWord) : Nat := bits (ttWord e 0) 34 14
def ttDcnt (e : List DWord) : Nat := bits (ttWord e 0) 48 16
def ttBase (e : List DWord) : Nat := bits (ttWord e 1) 0 57
def ttLen (e : List DWord) : Nat := bits (ttWord e 2) 0 40
def ttAct (e : List DWord) : Nat := bits (ttWord e 3) 0 3
def ttRc (e : List DWord) : Nat := bits (ttWord e 3) 3 2

/-- Whether the range of an entry is resident: its action has completed (R276). -/
def Launch.resident (la : Launch) (i : Nat) : Bool := la.acts.any (fun a => a.entry == i && a.done)

/-- The timetable entries for which an access of a team to an interval is a schedule miss (R278). -/
def missEntries (la : Launch) (tm : Team) (va size : Nat) : List Nat :=
  (List.range la.timetab.length).filter (fun i =>
    let e := la.timetab.getD i []
    let n := if ttGrid e then findD la.dead i 0 else findD tm.dead i 0
    !e.isEmpty && ttDcnt e != 0 && ttDcnt e ≤ n && !la.resident i && meets va size (ttBase e) (ttLen e))

/-- Whether an access of a team to an interval is a schedule miss (R278). -/
def schedMiss (la : Launch) (tm : Team) (va size : Nat) : Bool := !(missEntries la tm va size).isEmpty

/-! Requests in flight (R267). -/

/-- Whether an L1 holds n bytes at an address of device memory. -/
def l1Holds (k : Core) (pa n : Nat) : Bool :=
  match find? k.l1 (lineOf pa) with
  | some l => spanMask (pa % 128) n &&& ~~~l.valid == 0
  | none => false

/-- The lines of device memory that an access awaits beyond the L1: of a load, or of an `fget` at the fetch cache. -/
def Access.missLines (k : Core) (a : Access) : List Nat :=
  match a.kind, a.phys with
  | .load _ _, p :: _ | .loadc _ _, p :: _ => if p.tgt == 0 && !l1Holds k p.pa a.size then [lineOf p.pa] else []
  | .fget _ _ _ _, ps =>
    ((ps.filter (fun p => p.tgt == 0)).map (fun p => lineOf p.pa)).filter (fun ln =>
      (find? k.fcache ln).isNone && (find? k.l1 ln).isNone)
  | _, _ => []

/-- Whether an atomic performs beyond the L1 (R302): not `.grp` on a page private to the core or unclaimed. -/
def atomBeyond (s : State) (core : Nat) (pl : BitVec 2) (p : Phys) : Bool :=
  let c := classOf s p.pte p.entry
  p.tgt != 0 || pl != 0 || !(c.1 == 0 || (c.1 == 1 && c.2.toNat == core))

/-- Whether a read of n bytes needs a request entry: they are not all in the L1. -/
def needsRequest (s : State) (core : Nat) (p : Phys) (n : Nat) : Bool := p.tgt != 0 || !l1Holds (s.core core) p.pa n

/-- Whether an atomic needs one: it performs beyond the L1, or misses there. -/
def atomRequest (s : State) (core : Nat) (pl : BitVec 2) (p : Phys) (n : Nat) : Bool :=
  atomBeyond s core pl p || needsRequest s core p n

/-- The other request that an access holds an entry for: that of an atomic or of a `pref`, a host or
remote access. -/
def Access.otherReq (s : State) (core : Nat) (a : Access) : Bool :=
  match a.kind, a.phys with
  | .atom _ pl _, p :: _ | .cas pl _ _, p :: _ => atomRequest s core pl p a.size
  | .pref, _ => true
  | .load _ _, ps | .loadc _ _, ps | .fget _ _ _ _, ps => ps.any (fun p => p.tgt != 0)
  | _, _ => false

/-- The request entries in use or waited for at a core (R267): outstanding miss lines, other requests of its threads, and
publications, which take theirs in the order in which they are sent. A request of an engine is sent and answered within
one part of its job, and waits for a free entry (log 16). -/
def requestsUsed (s : State) (core : Nat) : Nat :=
  let ths := (s.threads.filter (fun e => tCore e.1 == core)).map (·.2)
  let k := s.core core
  let accs := ths.flatMap (·.accs)
  ((accs.flatMap (Access.missLines k)).dedup).length + (accs.filter (Access.otherReq s core)).length
    + (s.pubs.filter (fun p => p.core == core)).length

/-- The entries that the requests of a core's threads hold. -/
def requestsHeld (s : State) (core : Nat) : Nat := requestsUsed s core - (s.pubs.filter (fun p => p.core == core)).length

/-- Whether an access of a publication's core that holds an entry waits for it: the publication goes on that entry
(DEDUCED, log 53: neither could end otherwise). -/
def Pub.carried (s : State) (p : Pub) : Bool :=
  s.threads.any (fun x => tCore x.1 == p.core
    && x.2.accs.any (fun a => a.phys.any (fun q => q.tgt == 0 && lineOf q.pa == p.line)))

/-- Whether a publication still waits for its entry (R267): the requests of the core's threads and the publications
before it hold all 48. -/
def Pub.queued (s : State) (p : Pub) : Bool :=
  48 ≤ s.pubs.length + (s.threads.map (fun x => x.2.accs.length)).foldl (· + ·) 0 && !p.carried s
    && 48 ≤ requestsHeld s p.core + (s.pubs.filter (fun q => q.core == p.core && decide (q.id < p.id))).length

/-- Whether a request beyond the L1 finds all 48 entries in use (R267). -/
def requestsFull (s : State) (core : Nat) : Bool :=
  let bound := (s.threads.map (fun e => e.2.accs.length)).foldl (· + ·) 0 + s.pubs.length
  48 ≤ bound && 48 ≤ requestsUsed s core

/-! Checks at issue (R299, R278, R182, R267) and issue. -/

/-- The checks of a thread's access at issue: alignment, translation and permission, the schedule miss
of trap mode, jobs that hold it back (R182; none holds an atom or cas), and a request entry where the
access needs one. The rest of the unit is `k`. -/
def accessCheck (s : State) (e : Env) (va size : Nat) (n : Need) (req : Phys → Bool) (k : Phys → Outcome) : Outcome :=
  if va % size != 0 then .next (raiseTrap s e.t (trapOf 0x03 va))
  else match xlatChk s e va n (fun _ => .ok s) with
  | .trap ti => .next (raiseTrap s e.t ti)
  | .wait s => .next s
  | .ok _ =>
    match e.xlat s va n with
    | .ok p =>
      if p.hole then .fault .physicalHole
      else if schedMiss e.la e.tm va size && e.la.smm then .next (raiseTrap s e.t (trapOf 0x06 va))
      else if n != .rw && heldByJob s (tCore e.t) (n != .r) [.mem e.la.asp.asn.toNat va (va + size)] then s.stall
      else if req p && requestsFull s (tCore e.t) then s.stall
      else k p
    | _ => s.stall

/-- The issue set that a unit belongs to: the clk and the cluster (R62). -/
def isetOf (s : State) (e : Env) : Nat := s.clk * 2048 + tCore e.t * 4 + e.cluster

/-- Accesses that the timetable can delay (R278). -/
def AccKind.timed : AccKind → Bool
  | .load _ _ | .loadc _ _ | .fget _ _ _ _ | .store | .atom _ _ _ | .cas _ _ _ => true
  | _ => false

/-- The access of the thread's next unit. In stall mode it waits for the timetable entries that it misses (R278). -/
def mkAccess (s : State) (e : Env) (kind : AccKind) (va size data : Nat) (ps : List Phys) (hint : BitVec 2)
    (k : Bool) (flag : Option Nat) : Access :=
  let rs := match kind with | .fget _ _ _ spans => spans | _ => [(va, size)]
  { id := e.th.nextAcc, seq := e.th.nextSeq, ua := e.th.ctx.pc, kind, va, size, data, phys := ps, hint
    kbit := k, iset := isetOf s e, commit := false, moved := false, walks := false, arrived := none, started := false, flag
    miss := if kind.timed && !e.la.smm then rs.flatMap (fun r => missEntries e.la e.tm r.1 r.2) else []
    sent := none }

/-- The sources of an access whose values their places must still send (R107): far ones, and any at a place where
an older command waits (R108). A unit with a register destination takes those at its place as they stand. -/
def accessSends (s : State) (e : Env) (srcs dsts : List Reg) : List Reg :=
  let pl (r : Reg) : Place := e.th.ctx.place r
  match dsts with
  | d :: _ => (srcs.filter (fun r => pl r != pl d && ((pl r).far || (pl d).far))).dedup
  | [] => (srcs.filter (fun r => (pl r).far || olderCommand s e e.th.nextSeq (siteOf s e e.th.ctx r) true)).dedup

/-- A unit issues an access (R112): a load or gather completes when it has written its registers, and a
unit with a memory destination completes when its sources have arrived, and lets its access perform when it
commits. -/
def issueAccess (s : State) (e : Env) (n : Nat) (srcs : List Reg) (a : Access) (loads : Bool) (next : Ctx → Ctx) : State :=
  let th := match a.flag with | some f => e.th.flagUp f | none => e.th
  let sends := accessSends s e srcs (if loads then a.kind.regs else [])
  let u := { WUnit.start e.th with
    sends := sends, done := !loads && sends.isEmpty, kbit := a.kbit, act := if loads then .none else .access a.id }
  let c := e.th.ctx.advance n
  let c := next { c with fwd := c.fwd.filter (fun f => !a.kind.regs.any (fun r => r.toNat == f.reg)) }
  s.setThread e.t { th.enter s.clk u c with accs := th.accs ++ [a], nextAcc := th.nextAcc + 1 }

/-! Order of a thread's accesses (R294). -/

/-- The virtual intervals that an access touches. -/
def Access.ranges (a : Access) : List (Nat × Nat) :=
  match a.kind with
  | .rowop _ srcs => (a.va :: srcs).map (fun v => (v, 1024))
  | .fget _ _ _ spans => spans
  | _ => [(a.va, a.size)]

/-- The bytes of its intervals at each translated address. -/
def Access.unitSize (a : Access) : Nat :=
  match a.kind with
  | .rowop _ _ => 1024
  | _ => a.size

/-- Whether two accesses of a thread touch a common byte (R294): by their virtual intervals or their
translated ones. -/
def Access.overlaps (a b : Access) : Bool :=
  a.ranges.any (fun x => b.ranges.any (fun y => meets x.1 x.2 y.1 y.2))
    || a.phys.any (fun p => b.phys.any (fun q => p.tgt == q.tgt && meets p.pa a.unitSize q.pa b.unitSize))

/-- Atoms and cases. -/
def AccKind.isAtom : AccKind → Bool
  | .atom _ _ _ | .cas _ _ _ => true
  | _ => false

/-- Stores of a thread. -/
def AccKind.isStore : AccKind → Bool
  | .store | .push | .tst _ _ => true
  | _ => false

/-- Maintenance and row operations. -/
def AccKind.isMaint : AccKind → Bool
  | .cclean | .cinval => true
  | _ => false

/-- Whether atomics of an issue set that have begun to perform at bytes, one after the other (R400), hold back
another access to them. -/
def siteTaken (s : State) (iset : Option Nat) (tgt pa n : Nat) : Bool :=
  s.threads.any (fun x => x.2.accs.any (fun b => b.started && !b.moved && some b.iset != iset
    && b.kind.isAtom && b.phys.any (fun p => p.tgt == tgt && meets p.pa b.size pa n)))

/-- The home of an access for the order of stores: device memory, the host, or a module (R294, R311). -/
def Access.homeOf (a : Access) : Nat :=
  match a.phys with
  | p :: _ => if p.tgt == 2 then 2 + p.pa / 2 ^ 46 else p.tgt
  | [] => 0

/-- Whether an older access must perform before a younger one (R294, R311, R313, R323). -/
def Access.before (old new : Access) : Bool :=
  old.overlaps new
    || ((old.kind.isLoad || old.kind.isAtom) && (new.kind.isStore || new.kind.isAtom))
    || (old.kind.isStore && old.homeOf == new.homeOf && (new.kind.isStore || (new.kind.isAtom && old.homeOf != 0)))
    || (old.kind.isStore && new.kind.isMaint)

/-- Whether every older access of the thread that must come first has performed (R294). -/
def Thread.inOrder (th : Thread) (a : Access) : Bool :=
  !th.accs.any (fun o => o.id < a.id && o.before a)

/-! The load path for reads that a unit makes at once: the call stack, work items, tables. -/

/-- The outcome of such a read: a value, a wait for an older access of the thread, a trap, or a wait for
a translation or for the page's class. -/
inductive Now where
  | ok (s : State) (v : Nat)
  | stall (s : State)
  | trap (ti : TrapInfo)
  | wait (s : State)

/-- n bytes (within one line) at an address through the core's L1, in program order after the thread's
older accesses to them (R59, R247). -/
def readNow (s : State) (e : Env) (va n : Nat) : Now :=
  match e.xlat s va .r with
  | .trap c => .trap (trapOf c va)
  | .moving => .wait (s.waitWalk e.t va)
  | .ats page => .wait (s.waitAts e page va false)
  | .ok p =>
    if e.th.accs.any (fun a => a.overlaps (mkAccess s e (.load false []) va n 0 [p] 0 false none)) then .stall s
    else if needsRequest s (tCore e.t) p n && requestsFull s (tCore e.t) then .stall s
    else if p.tgt != 0 then .ok s (physRead s p n)
    else match l1Read s (tCore e.t) ⟨gKey e.t, some (isetOf s e), false, none, 2, e.cluster⟩ p n 0 with
      | .ok s v => .ok s v
      | .wait s => .wait s

/-- A unit that releases before its own effect `k` and lets no younger unit issue meanwhile (R252,
R307, R308): it waits for every older access of the thread, publishes, and waits for the publications. -/
def withRelease (s : State) (e : Env) (precise : Bool) (k : State → Outcome) : Outcome :=
  match e.th.wait with
  | .fence _ (i :: ids) => if s.pubs.any (fun p => (i :: ids).contains p.id) then s.stall else k s
  | w =>
    if !e.th.accs.isEmpty then (if w = .none then .next (s.waitFor e.t (.fence precise [])) else s.stall)
    else if requestsFull s (tCore e.t) then s.stall
    else
      let r := release s (tCore e.t)
      if r.2.isEmpty then k r.1 else .next (r.1.waitFor e.t (.fence precise r.2))

end Sys2Proof.Machine
end

