-- ==== Sys2Proof/Machine/Handles.lean ====
section
/-! DEFINITION. Tile handles: shapes and sizes (R173 to R175), sub-causes (R178), rectangles and their
regions (R180, R186), elements of tile storage (R158, R174), and acceptance of engine jobs (R179 to
R185). -/

namespace Sys2Proof.Machine

/-! Shapes. -/

/-- The fields of a shape descriptor (R173): columns, rows, slot, element format, layout, and the row
pitch in bytes. -/
def shCols (d : DWord) : Nat := bits d 0 16 + 1
def shRows (d : DWord) : Nat := bits d 16 16 + 1
def shFSN (d : DWord) : Nat := bits d 32 3
def shEF (d : DWord) : Nat := bits d 36 4
def shLay (d : DWord) : Nat := bits d 40 4
def shPitch (d : DWord) : Nat := 16 * bits d 44 20

/-- Bytes of n packed elements of w bits (R158). -/
def packBytes (n w : Nat) : Nat := (n * w + 7) / 8

/-- Bytes of a plane-operand block and of a word-operand block under a slot (R204). -/
def planeBytes (slot : DWord) : Nat := if slotEF slot = 13 then 9 else 1 + 4 * slotP slot
def wordBytes (slot : DWord) : Nat := 1 + 4 * wordW (slotP slot)

/-- Row bytes RB of a row-major handle (R174). -/
def rowBytes (lvl : BitVec 2) (d : DWord) : Nat :=
  if lvl == 2 then shPitch d else packBytes (shCols d) (efWidth (shEF d))

/-- Size of a handle's storage in bytes (R174). -/
def shapeSize (la : Launch) (lvl : BitVec 2) (d : DWord) : Nat :=
  match shLay d with
  | 0 => shRows d * rowBytes lvl d
  | 1 => shRows d * ((shCols d + 31) / 32) * planeBytes (la.fs (shFSN d))
  | 2 => (shRows d + 31) / 32 * shCols d * wordBytes (la.fs (shFSN d))
  | 3 => (shRows d * shCols d + 7) / 8 + shRows d * packBytes (shCols d) (efWidth (shEF d))
  | _ => 0

/-- Granules of a handle at level C or S (R174). -/
def shapeGran (la : Launch) (lvl : BitVec 2) (d : DWord) : Nat := (shapeSize la lvl d + 4095) / 4096

/-- Granules of a whole level (R171). -/
def levelGran (lvl : BitVec 2) : Nat := if lvl == 0 then 512 else 4096

/-- A descriptor that R174 refuses for a level. -/
def shapeRefused (la : Launch) (lvl : BitVec 2) (d : DWord) : Bool :=
  let lay := shLay d
  d.getLsbD 35 || 5 ≤ lay || shEF d == 0 || shEF d == 15
    || (shFSN d != 0 && lay != 1 && lay != 2)
    || ((lay == 1 || lay == 2) && slotEF (la.fs (shFSN d)) == 0)
    || (if lvl == 2 then decide (shPitch d < packBytes (shCols d) (efWidth (shEF d))) else shPitch d != 0)
    || ((lay == 4) != (lvl == 3))
    || (lay == 4 && ((shEF d != 1 && shEF d != 14) || 256 < shRows d || 256 < shCols d))
    || ((lvl == 0 || lvl == 1) && levelGran lvl < shapeGran la lvl d)

end Sys2Proof.Machine

namespace Sys2Proof.Machine

/-- Shape of a handle. -/
def Handle.rows (h : Handle) : Nat := shRows h.shape
def Handle.cols (h : Handle) : Nat := shCols h.shape
def Handle.ef (h : Handle) : Nat := shEF h.shape
def Handle.lay (h : Handle) : Nat := shLay h.shape
def Handle.w (h : Handle) : Nat := efWidth (shEF h.shape)

/-- Elements of a handle, counted row-major (R235). -/
def Handle.elems (h : Handle) : Nat := h.rows * h.cols

/-- A handle that no team holds: what an invalid operand reads as after its check has failed. -/
def Handle.absent : Handle := ⟨0, 0, 0, 0⟩

/-- The trap "tile handle invalid" (R178). -/
def trapTile (sub h : Nat) : TrapInfo := trapOf 0x0A (sub + 256 * h)

/-- The first failing condition of a unit, in the order in which its rule lists them (R178): each with
its sub-cause and the handle it reports. -/
def firstFail : List (Bool × Nat × Nat) → Option TrapInfo
  | [] => none
  | (bad, sub, h) :: cs => if bad then some (trapTile sub h) else firstFail cs

/-- A handle of a team by its number. -/
def Team.handle? (tm : Team) (h : Nat) : Option Handle := find? tm.handles h

/-- A handle after its validity has been checked. -/
def Team.handle (tm : Team) (h : Nat) : Handle := (tm.handle? h).getD Handle.absent

/-- The validity conditions of some handles, in field order (R178). -/
def validity (tm : Team) (hs : List Nat) : List (Bool × Nat × Nat) :=
  hs.map (fun h => ((tm.handle? h).isNone, 1, h))

/-! Rectangles. -/

/-- A rectangle of elements: first row and column, rows, columns (R186). -/
structure Rect where
  r0   : Nat
  c0   : Nat
  rows : Nat
  cols : Nat
  deriving DecidableEq, Repr

/-- The rectangle that a register pair holds (R186). -/
def rectOf (x : DWord) : Rect := ⟨bits x 48 16, bits x 32 16, bits x 16 16 + 1, bits x 0 16 + 1⟩

/-- Row and column of a coordinate or origin (R186). -/
def coordRow (x : Word) : Nat := (x.extractLsb' 16 16).toNat
def coordCol (x : Word) : Nat := (x.extractLsb' 0 16).toNat

/-- The whole of a handle. -/
def Handle.whole (h : Handle) : Rect := ⟨0, 0, h.rows, h.cols⟩

/-- Whether a rectangle lies in a handle. -/
def Rect.inside (r : Rect) (h : Handle) : Bool := r.r0 + r.rows ≤ h.rows && r.c0 + r.cols ≤ h.cols

/-! Storage as a grid of codes. -/

/-- How the codes of a handle lie in its storage: level, storage or base, code width, row bytes. -/
structure Grid where
  lvl  : BitVec 2
  uid  : Nat
  base : Nat
  w    : Nat
  rb   : Nat
  deriving DecidableEq, Repr

/-- A row-major handle's grid of elements (R174). -/
def Handle.grid (h : Handle) : Grid := ⟨h.lvl, h.uid, h.loc.toNat, h.w, rowBytes h.lvl h.shape⟩

/-- A handle of another layout as one row of bytes. -/
def Handle.flat (h : Handle) : Grid := ⟨h.lvl, h.uid, h.loc.toNat, 8, 0⟩

/-- w bits of a byte list from a bit offset (R158). -/
def getBits (m : Memory) (off w : Nat) : Nat :=
  Memory.readN m (off / 8) ((off % 8 + w + 7) / 8) / 2 ^ (off % 8) % 2 ^ w

/-- w bits of a byte list written at a bit offset. -/
def setBits (m : Memory) (off w v : Nat) : Memory :=
  let n := (off % 8 + w + 7) / 8
  let old := Memory.readN m (off / 8) n
  let lo := off % 8
  Memory.writeN m (off / 8) n
    (old % 2 ^ lo + (v % 2 ^ w) * 2 ^ lo + old / 2 ^ (lo + w) * 2 ^ (lo + w))

/-- The bit offset of a code in its storage or from its base. -/
def Grid.bit (g : Grid) (r c : Nat) : Nat := 8 * g.rb * r + g.w * c

/-- The interval of bytes of a view from one code to another (R180). -/
def Grid.interval (g : Grid) (r : Rect) : Nat × Nat :=
  (g.base + g.bit r.r0 r.c0 / 8,
    g.base + (g.bit (r.r0 + r.rows - 1) (r.c0 + r.cols - 1) + g.w - 1) / 8 + 1)

/-- The region of a rectangle of a handle (R180). -/
def Handle.region (h : Handle) (asn : Nat) (r : Rect) (lane : Option Nat) : Region :=
  if h.lvl == 2 then let i := h.grid.interval r; .mem asn i.1 i.2
  else .tile h.uid r.r0 r.c0 r.rows r.cols lane

/-- The region of a whole handle, whatever its layout. -/
def Handle.all (la : Launch) (h : Handle) : Region :=
  if h.lvl == 2 then
    if h.lay == 0 then h.region la.asp.asn.toNat h.whole none
    else .mem la.asp.asn.toNat h.loc.toNat (h.loc.toNat + shapeSize la 2 h.shape)
  else .tile h.uid 0 0 h.rows h.cols none

/-- Storage of a core by its number; storage that has gone reads 0. -/
def tileOf (k : Core) (uid : Nat) : Tile := findD k.tiles uid ⟨0, 0, 0, [], [], false, false⟩

/-! Acceptance (R179, R184, R185). -/

/-- What the acceptance of a job finds. -/
inductive Accept where
  | ok
  | trap (ti : TrapInfo)
  | wait (s : State)
  | hole

/-- The pages of a memory interval translated one by one (R184); a destination at the bank cores must
lie in tier 1 (R195): every page of its interval, also one that holds nothing but the gap between two rows (DESIGN
CHOICE, log 60). -/
def acceptPages (s : State) (e : Env) (n : Need) (bankOf : Option Nat) (hi : Nat) : Nat → Nat → Accept
  | 0, _ => .ok
  | fuel + 1, va =>
    if hi ≤ va then .ok
    else match xlatChk s e (va % 2 ^ 57) n (fun _ => .ok s) with
    | .trap ti => .trap ti
    | .wait s => .wait s
    | .ok _ =>
      match e.xlat s (va % 2 ^ 57) n with
      | .ok p =>
        match bankOf with
        | some h => if p.tgt != 0 || !tier1 p.pa then .trap (trapTile 7 h)
                    else acceptPages s e n bankOf hi fuel ((va / 65536 + 1) * 65536)
        | none => if p.hole then .hole else acceptPages s e n bankOf hi fuel ((va / 65536 + 1) * 65536)
      | _ => .ok

/-- The memory intervals of some regions accepted in order; `dest` names the handle of a destination. -/
def acceptRegions (s : State) (e : Env) (n : Need) (dest : Region → Option Nat) : List Region → Accept
  | [] => .ok
  | r :: rs =>
    match r with
    | .mem _ lo hi =>
      match acceptPages s e n (dest r) hi ((hi - lo) / 65536 + 2) lo with
      | .ok => acceptRegions s e n dest rs
      | x => x
    | _ => acceptRegions s e n dest rs

/-- The memory intervals of some regions: address and bytes. -/
def memSpans (rs : List Region) : List (Nat × Nat) :=
  rs.filterMap (fun r => match r with | .mem _ lo hi => some (lo, hi - lo) | _ => none)

/-- The first byte of a region list at which a job is a schedule miss (R278). -/
def missAt (la : Launch) (tm : Team) (rs : List Region) : Option Nat :=
  ((memSpans rs).find? (fun m => schedMiss la tm m.1 m.2)).map (·.1)

/-- The timetable entries that the regions of a job miss (R278). -/
def missOf (la : Launch) (tm : Team) (rs : List Region) : List Nat :=
  ((memSpans rs).flatMap (fun m => missEntries la tm m.1 m.2)).dedup

/-- What a unit hands over when its job is accepted: the engine, the captured registers (R183), the
handle-table entries, the regions, the handle that each written region belongs to, and where the job
executes: at bank cores (R195), at slices, or at the core. -/
structure Draft where
  engine : Engine
  caps   : List DWord
  hs     : List Handle
  reads  : List Region
  writes : List Region
  dest   : Region → Option Nat
  bank   : Bool
  slice  : Bool

/-- An engine unit whose handle conditions hold is accepted (R179): its pages are translated, its job
enters the footprint table and its engine's queue, and its flag counts. It is dispatched only once the unit has
committed. `more` is what acceptance changes besides. -/
def submit (s : State) (e : Env) (c : Ctl) (i : Instr) (d : Draft) (more : State → State) : Outcome :=
  let k := s.core (tCore e.t)
  let go (a : Accept) (next : Outcome) : Outcome :=
    match a with
    | .trap ti => .next (raiseTrap s e.t ti)
    | .wait s => .next s
    | .hole => .fault .physicalHole
    | .ok => next
  go (acceptRegions s e .r (fun _ => none) d.reads) <|
  go (acceptRegions s e .w d.dest d.writes) <|
    match missAt e.la e.tm (d.reads ++ d.writes), e.la.smm with
    | some va, true => .next (raiseTrap s e.t (trapOf 0x06 va))
    | _, _ =>
      let job : Job :=
        { id := k.nextJob, thread := e.t, ua := e.th.ctx.pc, cmd := i, word := (encode i).headD 0
          engine := d.engine, caps := d.caps, hs := d.hs, flag := some (e.flagNo c)
          reads := d.reads, writes := d.writes, bank := d.bank, slice := d.slice
          state := .queued, seq := e.th.nextSeq, prog := 0, part := 0, width := 0, stat := 0, miss := missOf e.la e.tm (d.reads ++ d.writes)
          hint := c.h, gok := false, walks := false }
      let s := settle s { e with th := e.th.flagUp (e.flagNo c) } c 1 []
      let k := s.core (tCore e.t)
      .next (more (s.setCore (tCore e.t) { k with jobs := k.jobs ++ [job], nextJob := k.nextJob + 1 }))

/-- An engine unit waits at issue while all 64 footprint entries of its core are in use (R185). -/
def withEntry (s : State) (e : Env) (k : Outcome) : Outcome :=
  if 64 ≤ (s.core (tCore e.t)).jobs.length then s.stall else k

/-- The mode of an engine command: it counts on a flag and does not wait for its guard (R199). -/
def engineMode : Mode := { long := true, lane := false, held := true }

/-- An engine unit: a free footprint entry, its register operands, then the handle conditions in the order of its
rule, then acceptance. Its acceptance checks run, and trap, whatever its guard is or becomes (R199 accepts it
without reading the guard; DESIGN CHOICE, log 60). -/
def engineUnit (s : State) (c : Ctl) (i : Instr) (rs : List Reg)
    (conds : Env → List (Bool × Nat × Nat)) (draft : Env → Draft) (more : Env → State → State) : Outcome :=
  unit s engineMode c 1 fun e =>
  withEntry s e <|
  gather s e rs [] fun s e =>
    match firstFail (conds e) with
    | some ti => .next (raiseTrap s e.t ti)
    | none => submit s e c i (draft e) (more e)

end Sys2Proof.Machine
end

