-- ==== Sys2Proof/Machine/Epilogue.lean ====
section
/-! DEFINITION. Epilogue programs (R52, R53, R216 to R219): their words, the check at `epild`, and the
values that each word computes. -/

namespace Sys2Proof.Machine

/-! Words (R217). -/

def epEop (w : Word) : Nat := (w.extractLsb' 27 5).toNat
def epSel (w : Word) : Nat := (w.extractLsb' 25 2).toNat
def epD (w : Word) : Nat := (w.extractLsb' 23 2).toNat
def epA (w : Word) : Nat := (w.extractLsb' 21 2).toNat
def epB (w : Word) : Nat := (w.extractLsb' 19 2).toNat
def epH (w : Word) : Nat := (w.extractLsb' 13 6).toNat
def epFs (w : Word) : Nat := (w.extractLsb' 10 3).toNat
def epAx (w : Word) : Bool := w.getLsbD 9
def epLo (w : Word) : BitVec 8 := w.extractLsb' 11 8
def epHi (w : Word) : BitVec 8 := w.extractLsb' 3 8

/-- Whether a word uses a handle; whether it names a slot. -/
def epUsesH (w : Word) : Bool := epEop w == 1 || epEop w == 2 || epEop w == 8 || epEop w == 9
def epUsesFs (w : Word) : Bool := epEop w == 7 || epEop w == 8

/-- The bits that a word of an opcode may set (R217). -/
def epMask (eop : Nat) : Option Word :=
  match eop with
  | 0 => some 0
  | 1 | 2 => some 0xF9E7E200
  | 3 | 4 => some 0xF9F80000
  | 5 => some 0xFFE00000
  | 6 => some 0xF9E7FFF8
  | 7 => some 0xF9E01C00
  | 8 => some 0xF9E7FC00
  | 9 => some 0xF9E7E000
  | 10 => some 0xF8600000
  | _ => none

/-- A word that R53 accepts. -/
def epWordOk (w : Word) : Bool :=
  match epMask (epEop w) with
  | some m => w &&& ~~~m == 0 && !(epEop w == 5 && epSel w == 3)
  | none => false

/-- The words of a program up to and with its first `eend`, none where no `eend` comes within the words
given. -/
def epCut : List Word → Option (List Word)
  | [] => none
  | w :: ws => if w == 0 then some [0] else (epCut ws).map (fun r => w :: r)

/-! Activation functions (R218): gelu and silu are x / (1 + e^(-y)) with y = x for silu and
y = 2 * sqrt(2/pi) * x * (1 + 0.044715 * x * x) for gelu. -/

/-- Fraction bits of the fixed-point computation. -/
def actF : Nat := 640

/-- 2 * sqrt(2/pi) in units of 2^-640. -/
def geluC : Nat :=
  0x19884533d436508d0fcb3c500bab8e2ff4e0a7cc1449c1b63011c6d20098e74ba77e2b15511f4f6dc8fd74eaecdd3a237ac509de5c2f8544c9e3a64d117c233fe60a0b87f651f392d3b36f5b99708ce57

/-- The sum of (-u)^k / k! from k up, given the term of k - 1 (even terms are added). -/
def expTerms (u : Nat) : Nat → Nat → Nat → Int
  | 0, _, _ => 0
  | fuel + 1, k, term =>
    let t := term * u / 2 ^ actF / k
    (if k % 2 = 0 then (t : Int) else -(t : Int)) + expTerms u fuel (k + 1) t

/-- A number squared n times, in fixed point. -/
def sqrN : Nat → Nat → Nat
  | 0, v => v
  | n + 1, v => sqrN n (v * v / 2 ^ actF)

/-- e^(-t) for t in units of 2^-640, below 256. -/
def expNeg (t : Nat) : Nat :=
  let u := t / 2 ^ 16
  sqrN 16 (((2 ^ actF : Nat) : Int) + expTerms u 90 1 (2 ^ actF)).toNat

/-- |y| in units of 2^-640 for the magnitude m * 2^e of x. -/
def actArg (gelu : Bool) (m : Nat) (e : Int) : Nat :=
  let x := m * pow2 e
  let d := pow2 (-e)
  if gelu then geluC * x * (1000000 * d * d + 44715 * x * x) / (1000000 * d * d * d)
  else x * 2 ^ actF / d

/-- gelu and silu, rounded once to FP32 (R216, R218). -/
def sigmoidMul (gelu : Bool) (x : Word) : Word :=
  match decode32 x with
  | .nan _ => nan32
  | .inf s => if s then 0x80000000 else 0x7F800000
  | .fin n m e =>
    if m = 0 then x
    else
      let t := actArg gelu m e
      let big : Bool := t ≥ 256 * 2 ^ actF
      let ex := if big then 0 else expNeg t
      let num := if n then ex else 2 ^ actF
      let q := m * num * 2 ^ 300 / (2 ^ actF + ex)
      if big && n then 0x80000000
      else if big then x
      else BitVec.ofNat 32 (deliver fmt32 .rne n q (e - 300) true).1

/-- `eact` (R218). -/
def eactOp (sel : Nat) (x : Word) : Word :=
  match sel with
  | 0 =>
    match decode32 x with
    | .nan _ => nan32
    | .inf s => if s then 0 else x
    | .fin n m _ => if n || m = 0 then 0 else x
  | 1 => sigmoidMul true x
  | _ => sigmoidMul false x

/-! The other words. -/

/-- A value with every NaN canonical. -/
def canonNan (x : Word) : Word :=
  match decode32 x with
  | .nan _ => nan32
  | _ => x

/-- `eclamp` (R217): a bound whose code is NaN is omitted. -/
def eclampOp (x : Word) (lo hi : BitVec 8) : Word :=
  match decode32 x with
  | .nan _ => nan32
  | _ =>
    let bound (mx : Bool) (v : Word) (c : BitVec 8) : Word :=
      match decodeElem 4 c.toNat with
      | .nan _ => v
      | b => (fminmaxOp mx v (toF32 b)).1
    bound false (bound true x lo) hi

/-- `ecvt` (R217). -/
def ecvtOp (slot : DWord) (x : Word) : Word :=
  let ef := slotEF slot
  toF32 (decodeElem ef (drainElem ef (slotSat slot) (slotNanp slot) (decode32 x)))

/-- x times or plus an exact value, rounded once (R216). -/
def emulOp (x : Word) (v : Val) : Word := (deliver32 .rne (mulVal (decode32 x) v)).1
def eaddOp (x : Word) (v : Val) : Word := (deliver32 .rne (addVal .rne (decode32 x) v)).1

/-- emax(O) of R219; none for a format that `emxq` does not take. -/
def mxEmax (ef : Nat) : Option Int :=
  match ef with
  | 4 => some 8
  | 5 => some 15
  | 6 => some 4
  | 7 => some 2
  | 8 => some 2
  | _ => none

/-- `emxq` on one block (R219): the code and the values that stand in eD. -/
def emxqBlock (ef : Nat) (xs : List Word) : Nat × List Word :=
  let vals := xs.map decode32
  let odd := vals.any (fun v => match v with | .fin _ _ _ => false | _ => true)
  if odd then (255, xs.map (fun _ => nan32))
  else
    let logs := vals.filterMap log2Val
    let x : Int := if logs.isEmpty then -127
      else clampInt (logs.foldl max (logs.headD 0) - (mxEmax ef).getD 0) (-127) 127
    ((x + 127).toNat, vals.map (fun v => match v with
      | .fin n m e => (deliver32 .rne (.fin n m (e - x), 0)).1
      | _ => nan32))

end Sys2Proof.Machine
end

