-- ==== Sys2Proof/Machine/Tiles.lean ====
section
/-! DEFINITION. The tile instructions as they issue (R176, R177, R187 to R194): handles made and freed,
element accesses, and the jobs of the copy and tile engines, performed in Machine/Work.lean. -/

namespace Sys2Proof.Machine

/-! Handles made and freed (R187). -/

/-- The allocator's queue that serves a level for a core (R176). -/
def tallocQueue (s : State) (core : Nat) (lvl : BitVec 2) : List TallocReq :=
  if lvl == 1 then s.allocS.filter (fun r => dieOf (tCore r.thread) == dieOf core)
  else (s.core core).allocs.filter (fun r => r.lvl == lvl)

/-- Whether a request can be granted now (R176). -/
def tallocFits (s : State) (r : TallocReq) : Bool :=
  let core := tCore r.thread
  if r.lvl == 0 then r.gran ≤ freeC (s.core core)
  else if r.lvl == 1 then r.gran ≤ freeS s (dieOf core)
  else !(freeAcc (s.core core)).isEmpty

/-- A grant (R176): storage that reads 0, and the handle valid; granules of level S take ways of the die's slices (R171,
R260). -/
def grantTile (s : State) (r : TallocReq) : State :=
  let core := tCore r.thread
  let k := s.core core
  let acc := (freeAcc k).headD 0
  let s := s.setCore core { k with
    tiles := put k.tiles k.nextUid ⟨r.lvl, r.gran, acc, [], [], false, false⟩, nextUid := k.nextUid + 1 }
  let s := if r.lvl == 1 then yieldWays s (dieOf core) else s
  let loc : BitVec 57 := if r.lvl == 3 then BitVec.ofNat 57 acc else BitVec.ofNat 57 r.gran
  s.modTeam (teamKey r.thread) (fun tm => { tm with handles := put tm.handles r.h ⟨r.shape, r.lvl, loc, k.nextUid⟩ })

/-- The order of the requests of one clk at an allocator (R176): ascending cluster, then LANE. -/
def tallocRank (s : State) (t : Nat) : Nat := (s.env t).elim 0 (fun e => e.cluster * 32 + tLane t)

/-- A request joins an allocator's queue: after every request of an older clk, and in the order of R176 among those
of its own. -/
def enqueue (s : State) (r : TallocReq) (q : List TallocReq) : List TallocReq :=
  let first (x : TallocReq) : Bool := x.at_ != r.at_ || tallocRank s x.thread ≤ tallocRank s r.thread
  q.takeWhile first ++ r :: q.dropWhile first

/-- `talloc` (R187): at a core's allocator it is granted at once where no older request waits and enough is free,
else it waits in the queue. A die's allocator serves the requests of a clk once all of them have arrived (R176). -/
def execTalloc (c : Ctl) (lvlS : Bool) (hd : BitVec 8) (xv : Reg) (s : State) : Outcome :=
  unit s { settled := true } c 1 fun e =>
  gather s e [xv, xv + 1] [] fun s e =>
    let d := e.th.read64 xv
    let lvl : BitVec 2 := if lvlS then 1 else if shLay d == 4 then 3 else 0
    let h := hd.toNat
    match firstFail [((e.tm.handle? h).isSome, 2, h), (shapeRefused e.la lvl d, 3, h)] with
    | some ti => .next (raiseTrap s e.t ti)
    | none =>
      let r : TallocReq := ⟨e.t, h, lvl, if lvl == 3 then 0 else shapeGran e.la lvl d, d, s.clk⟩
      if lvl != 1 && (tallocQueue s (tCore e.t) lvl).isEmpty && tallocFits s r then
        .next (grantTile (settle s e c 1 []) r)
      else
        let s := s.modThread e.t (·.issueWait s.clk .talloc)
        if lvl == 1 then .next { s with allocS := enqueue s r s.allocS }
        else
          let k := s.core (tCore e.t)
          .next (s.setCore (tCore e.t) { k with allocs := enqueue s r k.allocs })

/-- `tfree` (R187, R177). -/
def execTfree (c : Ctl) (hd : BitVec 8) (s : State) : Outcome :=
  unit s { settled := true } c 1 fun e =>
    match e.tm.handle? hd.toNat with
    | none => .next (raiseTrap s e.t (trapTile 1 hd.toNat))
    | some h =>
      let s := (settle s e c 1 []).modTeam (teamKey e.t) (fun tm =>
        { tm with handles := del tm.handles hd.toNat, binds := del tm.binds hd.toNat })
      .next (freeHandle s (tCore e.t) h)

/-- A level-M entry made (R187, R228): base bits [56:0] and the descriptor. -/
def makeView (s : State) (e : Env) (hd : Nat) (base d : DWord) (bind : Option Nat) : State :=
  s.modTeam (teamKey e.t) (fun tm => { tm with
    handles := put tm.handles hd ⟨d, 2, base.extractLsb' 0 57, 0⟩
    binds := match bind with | some fs => put tm.binds hd fs | none => del tm.binds hd })

/-- `tmap` (R187). -/
def execTmap (c : Ctl) (hd : BitVec 8) (xa xv : Reg) (s : State) : Outcome :=
  unit s { settled := true } c 1 fun e =>
  gather s e [xa, xa + 1, xv, xv + 1] [] fun s e =>
    let d := e.th.read64 xv
    let base := e.th.read64 xa
    let h := hd.toNat
    match firstFail [((e.tm.handle? h).isSome, 2, h), (shapeRefused e.la 2 d || base.toNat % 16 != 0, 3, h)] with
    | some ti => .next (raiseTrap s e.t ti)
    | none => .next (makeView (settle s e c 1 []) e h base d none)

/-! Element accesses (R189). -/

/-- The conditions of `tld` and `tst`. -/
def elemConds (tm : Team) (h : Nat) (x : Word) : List (Bool × Nat × Nat) :=
  let t := tm.handle h
  [((tm.handle? h).isNone, 1, h), (t.lvl == 3, 7, h), (t.lay != 0, 8, h)
  , (decide (t.rows ≤ coordRow x) || decide (t.cols ≤ coordCol x), 6, h), (t.lvl == 2 && decide (t.w < 8), 5, h)]

/-- The address of an element of a view (R189). -/
def Handle.elemAddr (h : Handle) (x : Word) : Nat :=
  (h.loc.toNat + h.grid.bit (coordRow x) (coordCol x) / 8) % 2 ^ 57

/-- The place of a byte of tile storage in the order of a thread's accesses (R294): past every virtual address. -/
def tileVa (uid byte : Nat) : Nat := 2 ^ 60 + uid * 2 ^ 48 + byte

/-- The storage that such a place names, and the byte. -/
def tileOfVa (va : Nat) : Nat × Nat := ((va - 2 ^ 60) / 2 ^ 48, va % 2 ^ 48)

/-- What an access to an element of tile storage takes along: the value to write, the width of the code, whether a
load extends its sign, the bit of its first byte at which the code begins, and the bytes of a row (R174). -/
def tileData (h : Handle) (bit v : Nat) : Nat :=
  v + 2 ^ 32 * h.w + (if efInt h.ef then 2 ^ 40 else 0) + 2 ^ 41 * (bit % 8) + 2 ^ 48 * h.grid.rb

/-- The access of an element of tile storage (R398): its bytes, whole ones (R158, R294). -/
def tileAccess (s : State) (e : Env) (kind : AccKind) (h : Handle) (x : Word) (v : Nat) (c : Ctl) (kbit : Bool) : Access :=
  let bit := h.grid.bit (coordRow x) (coordCol x)
  mkAccess s e kind (tileVa h.uid (bit / 8)) ((bit % 8 + h.w + 7) / 8) (tileData h bit v) [] 0 kbit (some (e.flagNo c))

/-- How an element of tile storage lies there, as its access took it along: the width of its code, whether a load extends
its sign, its bit, and its row and column. -/
def Access.codeWidth (a : Access) : Nat := a.data / 2 ^ 32 % 2 ^ 8
def Access.codeSigned (a : Access) : Bool := a.data.testBit 40
def Access.codeBit (a : Access) : Nat := 8 * (tileOfVa a.va).2 + a.data / 2 ^ 41 % 8
def Access.element (a : Access) : Nat × Nat :=
  let row := 8 * max 1 (a.data / 2 ^ 48)
  (a.codeBit / row, a.codeBit % row / max 1 a.codeWidth)

/-- `tld` (R189): at level M as `ld` of the element's bytes; else from tile storage. -/
def execTld (c : Ctl) (xd : Reg) (ha : BitVec 8) (xc : Reg) (s : State) : Outcome :=
  unit s Mode.counted c 1 fun e =>
  operands s e [xc, xd] fun s e =>
    let x := e.th.read xc
    let h := e.tm.handle ha.toNat
    match firstFail (elemConds e.tm ha.toNat x) with
    | some ti => .next (raiseTrap s e.t ti)
    | none =>
      if h.lvl == 2 then
        accessCheck s e (h.elemAddr x) (h.w / 8) .r (needsRequest s (tCore e.t) · (h.w / 8)) fun p =>
          .next (issueAccess s e 1 [xc] (mkAccess s e (.load (efInt h.ef) [xd]) (h.elemAddr x) (h.w / 8) 0 [p] 0 c.k
            (some (e.flagNo c))) true id)
      else if heldByJob s (tCore e.t) false [.tile h.uid (coordRow x) (coordCol x) 1 1 none] then s.stall
      else .next (issueAccess s e 1 [xc] (tileAccess s e (.tld (teamKey e.t) ha.toNat xd) h x 0 c c.k) true id)

/-- `tst` (R189). -/
def execTst (c : Ctl) (ha : BitVec 8) (xc xb : Reg) (s : State) : Outcome :=
  unit s Mode.counted c 1 fun e =>
  operands s e [xc, xb] fun s e =>
    let x := e.th.read xc
    let h := e.tm.handle ha.toNat
    match firstFail (elemConds e.tm ha.toNat x) with
    | some ti => .next (raiseTrap s e.t ti)
    | none =>
      let v := (e.th.read xb).toNat % 2 ^ h.w
      if h.lvl == 2 then
        accessCheck s e (h.elemAddr x) (h.w / 8) .w (fun _ => false) fun p =>
          .next (issueAccess s e 1 [xc, xb] (mkAccess s e .store (h.elemAddr x) (h.w / 8) v [p] 0 false
            (some (e.flagNo c))) false id)
      else if heldByJob s (tCore e.t) true [.tile h.uid (coordRow x) (coordCol x) 1 1 none] then s.stall
      else .next (issueAccess s e 1 [xc, xb] (tileAccess s e (.tst (teamKey e.t) ha.toNat) h x v c false) false id)

/-! Jobs of the copy and tile engines. -/

/-- The conditions that every tile job puts on its handles: valid, and no accumulator (R178). No rule of these
instructions lists the accumulator, sub-cause 7; it follows validity here (DESIGN CHOICE, log 60). -/
def jobHandles (tm : Team) (hs : List Nat) : List (Bool × Nat × Nat) :=
  validity tm hs ++ hs.map (fun h => ((tm.handle h).lvl == 3, 7, h))

/-- Row-major handles (R178, sub-cause 8). -/
def rowMajor (tm : Team) (hs : List Nat) : List (Bool × Nat × Nat) := hs.map (fun h => ((tm.handle h).lay != 0, 8, h))

/-- A draft whose destination is a handle: it executes where the destination lives (R171). -/
def draftTo (engine : Engine) (caps : List DWord) (hd : Nat) (h : Handle) (hs : List Handle)
    (reads writes : List Region) : Draft :=
  ⟨engine, caps, hs, reads, writes, fun _ => some hd, h.lvl == 2, h.lvl == 1⟩

/-- The draft of `tcopy` (R188). -/
def tcopyDraft (hd ha : BitVec 8) (xr xo : Reg) (e : Env) : Draft :=
  let d := e.tm.handle hd.toNat
  let a := e.tm.handle ha.toNat
  let r := rectOf (e.th.read64 xr)
  let o : Rect := { r with r0 := coordRow (e.th.read xo), c0 := coordCol (e.th.read xo) }
  let asn := e.la.asp.asn.toNat
  let regs : Region × Region := if d.lay == 0 then (a.region asn o none, d.region asn r none)
    else (a.all e.la, d.all e.la)
  draftTo .copy [e.th.read64 xr, (e.th.read xo).setWidth 64] hd.toNat d [d, a] [regs.1] [regs.2]

/-- `tcopy` (R188). Formats that differ are reported at hd (DESIGN CHOICE, log 60). -/
def execTcopy (c : Ctl) (hd ha : BitVec 8) (xr xo : Reg) (s : State) : Outcome :=
  engineUnit s c (.tcopy c hd ha xr xo) [xr, xr + 1, xo]
    (fun e =>
      let d := e.tm.handle hd.toNat
      let a := e.tm.handle ha.toNat
      let r := rectOf (e.th.read64 xr)
      let o : Rect := { r with r0 := coordRow (e.th.read xo), c0 := coordCol (e.th.read xo) }
      let same := d.shape.extractLsb' 0 44 == a.shape.extractLsb' 0 44 && r == d.whole && o == a.whole
      jobHandles e.tm [hd.toNat, ha.toNat] ++
      [ (d.ef != a.ef, 5, hd.toNat), (!(d.lay == 0 && a.lay == 0) && !same, 8, if d.lay != 0 then hd.toNat else ha.toNat)
      , (!r.inside d, 6, hd.toNat), (!o.inside a, 6, ha.toNat) ])
    (tcopyDraft hd ha xr xo)
    (fun _ s => s)

/-- The draft of `tfill` (R190). -/
def tfillDraft (hd : BitVec 8) (xr xb : Reg) (e : Env) : Draft :=
  let d := e.tm.handle hd.toNat
  draftTo .copy [e.th.read64 xr, (e.th.read xb).setWidth 64] hd.toNat d [d] []
    [d.region e.la.asp.asn.toNat (rectOf (e.th.read64 xr)) none]

/-- `tfill` (R190). -/
def execTfill (c : Ctl) (hd : BitVec 8) (xr xb : Reg) (s : State) : Outcome :=
  engineUnit s c (.tfill c hd xr xb) [xr, xr + 1, xb]
    (fun e => jobHandles e.tm [hd.toNat] ++ rowMajor e.tm [hd.toNat] ++
      [(!(rectOf (e.th.read64 xr)).inside (e.tm.handle hd.toNat), 6, hd.toNat)])
    (tfillDraft hd xr xb)
    (fun _ s => s)

/-- Whether some formats are all floating or all integer (R191). -/
def oneClass (efs : List Nat) : Bool := efs.all efFloat || efs.all efInt

/-- The handle that a failing class names (R178, R191): the first in field order of neither class or of another
class than the first operand's (DESIGN CHOICE, log 18). -/
def classCulprit (tm : Team) (hs : List Nat) : Nat :=
  let ef (h : Nat) : Nat := (tm.handle h).ef
  let first := hs.headD 0
  (hs.find? (fun h => !(if efFloat (ef first) then efFloat (ef h) else efInt (ef h)))).getD first

/-- The whole of a row-major handle as a region. -/
def Handle.reg (e : Env) (h : Handle) : Region := h.region e.la.asp.asn.toNat h.whole none

/-- The draft of an element-wise tile job (R191). -/
def elementwiseDraft (hd ha hb : BitVec 8) (acc : Bool) (e : Env) : Draft :=
  let d := e.tm.handle hd.toNat
  let a := e.tm.handle ha.toNat
  let b := e.tm.handle hb.toNat
  draftTo .tile [] hd.toNat d [d, a, b] ([a.reg e, b.reg e] ++ if acc then [d.reg e] else []) [d.reg e]

/-- An element-wise tile job (R191); `acc` says whether it reads its destination. A shape that differs from hd's is
reported at ha or hb (DESIGN CHOICE, log 60). -/
def elementwise (s : State) (c : Ctl) (i : Instr) (hd ha hb : BitVec 8) (acc : Bool) : Outcome :=
  let hs := [hd.toNat, ha.toNat, hb.toNat]
  engineUnit s c i []
    (fun e =>
      let d := e.tm.handle hd.toNat
      jobHandles e.tm hs ++
      [ha.toNat, hb.toNat].map (fun h =>
        ((e.tm.handle h).rows != d.rows || (e.tm.handle h).cols != d.cols, 5, h)) ++
      rowMajor e.tm hs ++ [(!oneClass (hs.map (fun h => (e.tm.handle h).ef)), 5, classCulprit e.tm hs)])
    (elementwiseDraft hd ha hb acc)
    (fun _ s => s)

/-- `tadd` (R191). -/
def execTadd (c : Ctl) (hd ha hb : BitVec 8) (s : State) : Outcome := elementwise s c (.tadd c hd ha hb) hd ha hb false

/-- `tmul` (R191). -/
def execTmul (c : Ctl) (hd ha hb : BitVec 8) (s : State) : Outcome := elementwise s c (.tmul c hd ha hb) hd ha hb false

/-- `tfma` (R191). -/
def execTfma (c : Ctl) (hd ha hb : BitVec 8) (s : State) : Outcome := elementwise s c (.tfma c hd ha hb) hd ha hb true

/-- The draft of a tile job from one handle to another. -/
def convertDraft (hd ha : BitVec 8) (e : Env) : Draft :=
  let d := e.tm.handle hd.toNat
  let a := e.tm.handle ha.toNat
  draftTo .tile [] hd.toNat d [d, a] [a.reg e] [d.reg e]

/-- A tile job from one handle to another, with its own conditions after the common ones. A shape or format in
which the two differ is reported at hd, the first in field order (DESIGN CHOICE, log 60). -/
def convertJob (s : State) (c : Ctl) (i : Instr) (hd ha : BitVec 8)
    (conds : Env → Handle → Handle → List (Bool × Nat × Nat)) : Outcome :=
  engineUnit s c i []
    (fun e => jobHandles e.tm [hd.toNat, ha.toNat] ++ conds e (e.tm.handle hd.toNat) (e.tm.handle ha.toNat))
    (convertDraft hd ha)
    (fun _ s => s)

/-- `tcvt` (R192). -/
def execTcvt (c : Ctl) (sat : Bool) (fs : BitVec 3) (hd ha : BitVec 8) (s : State) : Outcome :=
  withSlot s fs fun slot =>
  convertJob s c (.tcvt c sat fs hd ha) hd ha fun e d a =>
    [(a.rows != d.rows || a.cols != d.cols, 5, hd.toNat)] ++ rowMajor e.tm [hd.toNat, ha.toNat] ++
    [(slotEF slot != d.ef || d.ef == 9, 5, hd.toNat)]

/-- `tred` (R193). It needs row-major handles, a check that stands after those of shape and class (DESIGN CHOICE,
log 60: R193 says neither). -/
def reduceJob (s : State) (c : Ctl) (i : Instr) (axis : Bool) (hd ha : BitVec 8) : Outcome :=
  convertJob s c i hd ha fun e d a =>
    [(if axis then d.rows != 1 || d.cols != a.cols else d.rows != a.rows || d.cols != 1, 5, hd.toNat)
    , (!oneClass [d.ef, a.ef], 5, classCulprit e.tm [hd.toNat, ha.toNat])] ++ rowMajor e.tm [hd.toNat, ha.toNat]

/-- `tred.add` (R193). -/
def execTredAdd (c : Ctl) (axis : Bool) (hd ha : BitVec 8) (s : State) : Outcome :=
  reduceJob s c (.tredAdd c axis hd ha) axis hd ha

/-- `tred.max` (R193). -/
def execTredMax (c : Ctl) (axis : Bool) (hd ha : BitVec 8) (s : State) : Outcome :=
  reduceJob s c (.tredMax c axis hd ha) axis hd ha

/-- `tred.min` (R193). -/
def execTredMin (c : Ctl) (axis : Bool) (hd ha : BitVec 8) (s : State) : Outcome :=
  reduceJob s c (.tredMin c axis hd ha) axis hd ha

/-- `ttr` (R194). -/
def execTtr (c : Ctl) (hd ha : BitVec 8) (s : State) : Outcome :=
  convertJob s c (.ttr c hd ha) hd ha fun e d a =>
    [(d.rows != a.cols || d.cols != a.rows || d.ef != a.ef, 5, hd.toNat)] ++ rowMajor e.tm [hd.toNat, ha.toNat] ++
    [(hd == ha, 5, hd.toNat)]

end Sys2Proof.Machine
end

