-- ==== Sys2Proof/Machine/Matrix.lean ====
section
/-! DEFINITION. The matrix instructions as they issue (R203 to R215): their conditions, captured values
and footprints. The sequencer performs their jobs in Machine/Work.lean. -/

namespace Sys2Proof.Machine

/-- The accumulator rows of a lane (R205). -/
def ownRows (lane n : Nat) : List Nat := (List.range n).filter (fun r => r % 32 == lane)

/-- The rows of an accumulator that a job names (R206). -/
def accRegion (e : Env) (c : Handle) : Region := c.region 0 c.whole (some (tLane e.t))

/-- The slot that sizes a handle in block-plane form. -/
def Env.planeSlot (e : Env) (h : Handle) : DWord := e.la.fs (shFSN h.shape)

/-- The conditions of a matrix product, after validity (R203). Shapes that disagree and an INT32 accumulator without its
pairing are reported at hc (DESIGN CHOICE, log 60). -/
def productConds (e : Env) (hc ha hb : Nat) : List (Bool × Nat × Nat) :=
  let c := e.tm.handle hc
  let a := e.tm.handle ha
  let b := e.tm.handle hb
  let sa := e.planeSlot a
  let sb := e.planeSlot b
  [ (a.lvl != 0, 7, ha), (a.lay != 1, 5, ha), (a.ef != slotEF sa || a.ef == 14 || a.ef == 9, 5, ha)
  , (!(b.lvl == 0 || b.lvl == 1), 7, hb), (b.lay != 2, 5, hb)
  , (b.ef != slotEF sb || b.ef == 13 || b.ef == 14 || b.ef == 9, 5, hb)
  , (c.lvl != 3, 7, hc), (a.rows != c.rows || b.cols != c.cols || a.cols != b.rows, 5, hc)
  , (c.ef == 14 && !(intBlockSlot sb && (intBlockSlot sa || (slotEF sa == 13 && slotSF sa == 0))), 5, hc) ]

/-- A job of the matrix sequencer on level-C storage or an accumulator. -/
def matrixDraft (caps : List DWord) (hs : List Handle) (reads writes : List Region) : Draft :=
  ⟨.matrix, caps, hs, reads, writes, fun _ => none, false, false⟩

/-- The draft of `mplane` (R209). -/
def mplaneDraft (fs : BitVec 3) (hd ha hs : BitVec 8) (e : Env) : Draft :=
  let scaled := slotSF (e.la.fs fs.toNat) != 0
  let d := e.tm.handle hd.toNat
  let a := e.tm.handle ha.toNat
  let x := e.tm.handle hs.toNat
  matrixDraft [] (if scaled then [d, a, x] else [d, a]) (a.reg e :: if scaled then [x.reg e] else [])
    [d.all e.la]

/-- `mplane` (R209). A B that is not 0 under a slot without a scale is reported at hd (DESIGN CHOICE, log 60). -/
def execMplane (c : Ctl) (fs : BitVec 3) (hd ha hs : BitVec 8) (s : State) : Outcome :=
  withSlot s fs fun slot =>
  let scaled := slotSF slot != 0
  engineUnit s c (.mplane c fs hd ha hs) []
    (fun e =>
      let d := e.tm.handle hd.toNat
      let a := e.tm.handle ha.toNat
      let x := e.tm.handle hs.toNat
      let bs := slotBS slot
      validity e.tm ([hd.toNat, ha.toNat] ++ if scaled then [hs.toNat] else []) ++
      [ (a.lay != 0, 8, ha.toNat), (a.lvl == 3, 7, ha.toNat), (d.lvl != 0, 7, hd.toNat)
      , (d.lay != 1 && d.lay != 2, 5, hd.toNat), (shFSN d.shape != fs.toNat, 5, hd.toNat)
      , (d.ef != slotEF slot || d.ef == 14 || d.ef == 9, 5, hd.toNat), (a.ef != slotEF slot, 5, ha.toNat)
      , (a.rows != d.rows || a.cols != d.cols, 5, hd.toNat)
      , (slotEF slot == 13 && (d.lay != 1 || (slotSF slot == 1 && decide (bs < 32))), 5, hd.toNat)
      , (!scaled && hs != 0, 5, hd.toNat) ] ++
      if scaled then
        [ (x.lay != 0 || x.ef != scaleEF (slotSF slot), 5, hs.toNat)
        , (if d.lay == 1 then decide (x.rows < a.rows) || decide (x.cols < (a.cols + bs - 1) / bs)
           else decide (x.rows < (a.rows + bs - 1) / bs) || decide (x.cols < a.cols), 6, hs.toNat) ]
      else [])
    (mplaneDraft fs hd ha hs)
    (fun _ s => s)

/-- What `mma`, `mmas` and `gmm` share: the operands and the footprint. -/
def productDraft (e : Env) (hc ha hb : BitVec 8) (caps : List DWord) (masks : List Handle) : Draft :=
  let c := e.tm.handle hc.toNat
  let a := e.tm.handle ha.toNat
  let b := e.tm.handle hb.toNat
  matrixDraft caps ([c, a, b] ++ masks) ([a.all e.la, b.all e.la] ++ masks.map (·.reg e)) [accRegion e c]

/-- `mma` (R210). -/
def execMma (c : Ctl) (hc ha hb : BitVec 8) (s : State) : Outcome :=
  engineUnit s c (.mma c hc ha hb) []
    (fun e => validity e.tm [hc.toNat, ha.toNat, hb.toNat] ++ productConds e hc.toNat ha.toNat hb.toNat)
    (fun e => productDraft e hc ha hb [] [])
    (fun _ s => s)

/-- The mask handles that a selector names (R211). -/
def maskA (x : Word) : Nat := (x.extractLsb' 0 6).toNat
def maskB (x : Word) : Nat := (x.extractLsb' 8 6).toNat

/-- The draft of `mmas` (R211). -/
def mmasDraft (hc ha hb : BitVec 8) (xm : Reg) (e : Env) : Draft :=
  let x := e.th.read xm
  productDraft e hc ha hb [x.setWidth 64] [e.tm.handle (maskA x), e.tm.handle (maskB x)]

/-- `mmas` (R211). A reserved bit of xm that is not zero is reported at hc (DESIGN CHOICE, log 60). -/
def execMmas (c : Ctl) (hc ha hb : BitVec 8) (xm : Reg) (s : State) : Outcome :=
  engineUnit s c (.mmas c hc ha hb xm) [xm]
    (fun e =>
      let x := e.th.read xm
      let a := e.tm.handle ha.toNat
      let masks := [maskA x, maskB x]
      let shape (bad : Handle → Bool) (sub : Nat) : List (Bool × Nat × Nat) := masks.map (fun h => (bad (e.tm.handle h), sub, h))
      let mask (h ef need : Nat) : List (Bool × Nat × Nat) :=
        [((e.tm.handle h).ef != ef, 5, h), (decide ((e.tm.handle h).cols < need), 6, h)]
      validity e.tm [hc.toNat, ha.toNat, hb.toNat] ++ productConds e hc.toNat ha.toNat hb.toNat ++
      [(x &&& 0xFFFFC0C0 != 0, 5, hc.toNat)] ++ validity e.tm masks ++
      shape (·.lay != 0) 5 ++ shape (fun m => !(m.lvl == 0 || m.lvl == 1)) 7 ++ shape (·.rows != 1) 5 ++
      mask (maskA x) 12 a.cols ++ mask (maskB x) 14 ((a.cols + 31) / 32))
    (mmasDraft hc ha hb xm)
    (fun _ s => s)

/-! `gmm` and the group table. -/

/-- The fields of a piece descriptor (R212). -/
def pcStop (p : DWord) : Bool := p.getLsbD 63
def pcFix (p : DWord) : Bool := p.getLsbD 62
def pcGrp (p : DWord) : Nat := bits p 52 10
def pcTr (p : DWord) : Nat := bits p 44 8
def pcTc (p : DWord) : Nat := bits p 36 8
def pcKb (p : DWord) : Nat := bits p 18 18
def pcKe (p : DWord) : Nat := bits p 0 18

/-- n consecutive 32-bit words read by the thread's load path. -/
def readWords (s : State) (e : Env) (va : Nat) : Nat → (State → List Word → Outcome) → Outcome
  | 0, k => k s []
  | n + 1, k =>
    match readNow s e (va % 2 ^ 57) 4 with
    | .trap ti => .next (raiseTrap s e.t ti)
    | .wait s => .next s
    | .stall s => s.stall
    | .ok s v => readWords s e (va + 4) n (fun s ws => k s (BitVec.ofNat 32 v :: ws))

/-- The trimmed span of a piece (R212): the handle indices that take part. -/
def pieceSpan (p : DWord) (k : Nat) : Nat := min (32 * pcKe p) k - 32 * pcKb p

/-- The conditions of `gmm` once the words of the group's entry are read (R212): the entry, the handles, the span. GRP
beyond the table and a span above K are reported at hc (DESIGN CHOICE, log 60). -/
def gmmConds (e : Env) (hc ha hb : Nat) (p : DWord) (k : Nat) : List (Bool × Nat × Nat) :=
  (!pcStop p && decide (e.la.ng ≤ pcGrp p), 6, hc) :: validity e.tm [hc, ha, hb] ++ productConds e hc ha hb ++
  [(!pcStop p && decide ((e.tm.handle ha).cols < pieceSpan p k), 6, hc)]

/-- `gmm` (R212): it reads words 0 to 2 of the group's entry as it executes. -/
def execGmm (c : Ctl) (hc ha hb : BitVec 8) (xp : Reg) (s : State) : Outcome :=
  unit s engineMode c 1 fun e =>
  withEntry s e <|
  gather s e [xp, xp + 1] [] fun s e =>
    let p := e.th.read64 xp
    let go (s : State) (ws : List Word) : Outcome :=
      let n (i : Nat) : Nat := (ws.getD i 0).toNat
      match firstFail (gmmConds e hc.toNat ha.toNat hb.toNat p (n 2)) with
      | some ti => .next (raiseTrap s e.t ti)
      | none =>
        submit s e c (.gmm c hc ha hb xp)
          (productDraft e hc ha hb
            [p, BitVec.ofNat 64 (n 1 * 2 ^ 32 + n 0), BitVec.ofNat 64 (n 2)] []) (fun s => s)
    if pcStop p then go s [] else readWords s e (e.la.groupTable + 16 * pcGrp p) 3 go

/-- The draft of `mzero` (R213). -/
def mzeroDraft (hc : BitVec 8) (e : Env) : Draft :=
  matrixDraft [] [e.tm.handle hc.toNat] [] [accRegion e (e.tm.handle hc.toNat)]

/-- `mzero` (R213). -/
def execMzero (c : Ctl) (hc : BitVec 8) (s : State) : Outcome :=
  engineUnit s c (.mzero c hc) []
    (fun e => validity e.tm [hc.toNat] ++ [((e.tm.handle hc.toNat).lvl != 3, 7, hc.toNat)])
    (mzeroDraft hc)
    (fun _ s => s)

/-! `epild` and program stores (R215). -/

/-- Words of an epilogue program read in ascending order up to its first zero word, at most n. -/
def readProgram (s : State) (e : Env) (va : Nat) : Nat → (State → List Word → Outcome) → Outcome
  | 0, k => k s []
  | n + 1, k =>
    match readNow s e (va % 2 ^ 57) 4 with
    | .trap ti => .next (raiseTrap s e.t ti)
    | .wait s => .next s
    | .stall s => s.stall
    | .ok s v =>
      if v == 0 then k s [0]
      else readProgram s e (va + 4) n (fun s ws => k s (BitVec.ofNat 32 v :: ws))

/-- Whether words form a program that R53 accepts. -/
def programOk (ws : List Word) : Bool := (epCut ws).isSome && ws.all epWordOk

/-- The draft of `epild` (R215): its address, and the words that it has checked. -/
def epildDraft (n : BitVec 8) (a : DWord) (ws : List DWord) (len : Nat) (e : Env) : Draft :=
  let va := a.toNat % 2 ^ 57
  matrixDraft (a :: ws) [] [.mem e.la.asp.asn.toNat va (va + 4 * len)] [.store n.toNat]

/-- `epild` (R215): the program is read and checked as the unit executes. The job keeps its words after
its address, and in `prog` the record that it replaced, as a team's number plus 1. -/
def execEpild (c : Ctl) (n : BitVec 8) (xa : Reg) (s : State) : Outcome :=
  unit s engineMode c 1 fun e =>
  withEntry s e <|
  gather s e [xa, xa + 1] [] fun s e =>
    let a := e.th.read64 xa
    let va := a.toNat % 2 ^ 57
    if a.toNat % 4 != 0 then .next (raiseTrap s e.t (trapOf 0x03 va))
    else if !canonical a then .next (raiseTrap s e.t (trapOf 0x04 va))
    else readProgram s e va 32 fun s ws =>
      if !programOk ws then .next (raiseTrap s e.t (trapUndef 8))
      else
        let k := s.core (tCore e.t)
        let old := (k.prog n.toNat).owner
        submit s e c (.epild c n xa)
          (epildDraft n a (ws.map (·.setWidth 64)) ws.length e)
          (fun s =>
            let k := s.core (tCore e.t)
            let mark (j : Job) : Job :=
              if j.id + 1 == k.nextJob then { j with prog := match old with | some t => t + 1 | none => 0 } else j
            s.setCore (tCore e.t) { k with
              jobs := k.jobs.map mark
              progs := put k.progs n.toNat { k.prog n.toNat with owner := some (teamKey e.t) } })

/-- The words that a store will hold once every accepted `epild` has performed. -/
def storeWords (k : Core) (n : Nat) : List Word :=
  match (k.jobs.filter (fun j => epildStore j == some n && 1 < j.caps.length)).getLast? with
  | some j => (j.caps.drop 1).map (·.setWidth 32)
  | none => (k.prog n).words

/-! `mdrain` (R214, R217, R219). -/

/-- The handles that an epilogue program names, in the order of its words. -/
def epHandles (ws : List Word) : List Nat := (ws.filter epUsesH).map epH

/-- The conditions that a word of the program puts on its handle and its slot (R217, R219): accumulator
of `rows` by `cols`, the last own row `last`, the origin. A slot without a format is reported at hd, an output format
that `emxq` lacks and an origin within a block at its handle (DESIGN CHOICE, log 60). -/
def epConds (e : Env) (hd : Nat) (row0 col0 cols last : Nat) (w : Word) : List (Bool × Nat × Nat) :=
  let h := epH w
  let x := e.tm.handle h
  let slot := e.la.fs (epFs w)
  let bs := slotBS slot
  let need : Nat × Nat :=
    if epEop w == 9 then (row0 + last, col0 + cols)
    else if epEop w == 8 then (row0 + last, col0 / bs + (cols + bs - 1) / bs)
    else if epAx w then (last, 1) else (1, cols)
  (if epUsesH w then
    [ ((e.tm.handle? h).isNone, 1, h), (x.lay != 0, 8, h)
    , (if epEop w == 8 then x.ef != 9 else x.ef == 13, 5, h)
    , (last != 0 && (decide (x.rows < need.1) || decide (x.cols < need.2)), 6, h) ]
  else []) ++
  (if epUsesFs w then [(slotEF slot == 0, 5, hd)] else []) ++
  (if epEop w == 8 then [((mxEmax (slotEF slot)).isNone, 5, h), (col0 % bs != 0, 6, h)] else [])

/-- The regions that an epilogue program reads and writes through its handles (R206, R219). -/
def epRegions (e : Env) (row0 col0 rows cols : Nat) (w : Word) : List Region × List Region :=
  let x := e.tm.handle (epH w)
  let asn := e.la.asp.asn.toNat
  if epEop w == 8 then
    let bs := slotBS (e.la.fs (epFs w))
    ([], (ownRows (tLane e.t) rows).map (fun r =>
      x.region asn ⟨row0 + r, col0 / bs, 1, (cols + bs - 1) / bs⟩ none))
  else if epUsesH w then ([x.reg e], []) else ([], [])

/-- The epilogue program of a drain: none with EN = 0 (R214). -/
def drainWords (s : State) (e : Env) (en : Bool) (prg : BitVec 2) : List Word :=
  if en then storeWords (s.core (tCore e.t)) prg.toNat else []

/-- The draft of `mdrain` (R214). -/
def mdrainDraft (s : State) (z en : Bool) (prg : BitVec 2) (hd hc : BitVec 8) (xo : Reg) (e : Env) : Draft :=
  let ws := drainWords s e en prg
  let d := e.tm.handle hd.toNat
  let a := e.tm.handle hc.toNat
  let row0 := coordRow (e.th.read xo)
  let col0 := coordCol (e.th.read xo)
  let lane := tLane e.t
  let rg := ws.map (epRegions e row0 col0 a.rows a.cols)
  let dst : List Region :=
    if d.lvl == 2 then
      (ownRows lane a.rows).map (fun r => d.region e.la.asp.asn.toNat ⟨row0 + r, col0, 1, a.cols⟩ none)
    else [d.region 0 ⟨row0, col0, a.rows, a.cols⟩ (some ((row0 + lane) % 32))]
  let names := epHandles ws
  { draftTo .matrix ((e.th.read xo).setWidth 64 :: names.map (BitVec.ofNat 64)) hd.toNat d
      ([d, a] ++ names.map e.tm.handle)
      ([accRegion e a] ++ (if en then [.store prg.toNat] else []) ++ rg.flatMap (·.1))
      (dst ++ rg.flatMap (·.2) ++ if z then [accRegion e a] else []) with
    slice := false
    bank := d.lvl == 2 || ws.any (fun w => epEop w == 8 && (e.tm.handle (epH w)).lvl == 2)
    dest := fun r => some <| if dst.contains r then hd.toNat else
      (ws.find? (fun w => (epRegions e row0 col0 a.rows a.cols w).2.contains r)).elim hd.toNat epH }

/-- `mdrain` (R214). -/
def execMdrain (c : Ctl) (fs : BitVec 3) (z en : Bool) (prg : BitVec 2) (hd hc : BitVec 8) (xo : Reg) (s : State) :
    Outcome :=
  withSlot s fs fun slot =>
  engineUnit s c (.mdrain c fs z en prg hd hc xo) [xo]
    (fun e =>
      let d := e.tm.handle hd.toNat
      let a := e.tm.handle hc.toNat
      let row0 := coordRow (e.th.read xo)
      let col0 := coordCol (e.th.read xo)
      let last := match (ownRows (tLane e.t) a.rows).getLast? with | some r => r + 1 | none => 0
      validity e.tm [hd.toNat, hc.toNat] ++
      [ (a.lvl != 3, 7, hc.toNat)
      , (decide (d.rows < row0 + a.rows) || decide (d.cols < col0 + a.cols), 6, hd.toNat)
      , (d.lvl == 3, 7, hd.toNat), (d.lay != 0, 8, hd.toNat), (d.ef != slotEF slot, 5, hd.toNat)
      , (en && ((s.core (tCore e.t)).prog prg.toNat).owner != some (teamKey e.t), 1, prg.toNat) ] ++
      (drainWords s e en prg).flatMap (epConds e hd.toNat row0 col0 a.cols last))
    (mdrainDraft s z en prg hd hc xo)
    (fun _ s => s)

end Sys2Proof.Machine
end

