-- ==== Sys2Proof/Machine/Engines.lean ====
section
/-! DEFINITION. How engines read and write (R184, R195, R224 to R226): through the core's L1, at the home
slices, in DRAM at the bank cores, and through the fetch cache; codes of tile storage and of views. -/

namespace Sys2Proof.Machine

/-- Where a read is made. -/
inductive Path where
  | core (h : BitVec 2)
  | slice (h : BitVec 2)
  | bank
  | damson (h : BitVec 2)
  deriving DecidableEq, Repr

/-- What a read finds: a value, a wait, or a page that cannot be read (cause and address). -/
inductive Got (α : Type) where
  | ok (s : State) (a : α)
  | wait (s : State)
  | fault (code : BitVec 8) (va : Nat)

/-- The rest of a read once its first part is known. -/
def Got.andThen {α β : Type} (g : Got α) (k : State → α → Got β) : Got β :=
  match g with
  | .ok s a => k s a
  | .wait s => .wait s
  | .fault c va => .fault c va

/-! The fetch cache. -/

/-- A line installed in the fetch cache (R224, R226): eight ways, first the lines that hint 01 filled,
then the default ones; protected lines take up to four ways of a set. -/
def fcInstall (k : Core) (ln : Nat) (l : RoLine) : Core :=
  if k.fcache.length < 4 then { k with fcache := put k.fcache ln l }
  else
    let peers := k.fcache.filter (fun e => Config.fcSet e.1 == Config.fcSet ln)
    let l := if l.rank == 2 && 4 ≤ (peers.filter (fun e => e.2.rank == 2)).length then { l with rank := 0 } else l
    if peers.length < 8 then { k with fcache := put k.fcache ln l }
    else
      let pick (r : BitVec 2) := lru (fun x : RoLine => x.used) (peers.filter (fun e => e.2.rank == r))
      match (pick 1).orElse (fun _ => (pick 0).orElse fun _ => pick 2) with
      | some v => { k with fcache := put (del k.fcache v.1) ln l }
      | none => k

/-- n bytes within a line through the fetch cache (R224): a line is filled with the words that the L1
holds, which counts as a read of it (R265), and with the home's where it holds none. -/
def fcRead (s : State) (core : Nat) (rd : Reader) (p : Phys) (n : Nat) (h : BitVec 2) : ReadRes :=
  let ln := lineOf p.pa
  let o := p.pa % 128
  match find? (s.core core).fcache ln with
  | some l =>
    let k := s.core core
    .ok (s.setCore core { k with fcache := put k.fcache ln { l with used := s.clk } }) (lineNum l.data o n)
  | none =>
    let l1 := (find? (s.core core).l1 ln).getD (L1Line.empty false p.pte 0 0 0)
    let rd : Reader := { rd with iset := none, ldc := none, turn := 4 }
    let home (s : State) : ReadRes :=
      let d := merge (homeLine s ln) l1.data l1.valid
      let k := s.core core
      .ok (countRead (if h == 3 then s else s.setCore core (fcInstall k ln ⟨d, h, s.clk⟩)) core ln
        rd) (lineNum d o n)
    if rd.late l1 s.clk then .wait s
    else if l1.valid == BitVec.allOnes 128 then home s
    else match classify s core p with
      | .wait s => .wait s
      | .ok s _ => if fillWaits s core ln then .wait s else home (l2Fill s ln h rd.rc)

/-! Ranges. -/

/-- Whether a read of an engine through the L1 or the fetch cache waits for a request entry (R267). -/
def entryWaits (s : State) (core : Nat) (path : Path) (p : Phys) (n : Nat) : Bool :=
  (match path with
    | .core _ => needsRequest s core p n
    | .damson _ => needsRequest s core p n && (p.tgt != 0 || (find? (s.core core).fcache (lineOf p.pa)).isNone)
    | _ => false) && requestsFull s core

/-- Bytes within one line at a translated address, by a path. The entry of an `fget` is its thread's own. -/
def chunkRead (s : State) (core : Nat) (path : Path) (rd : Reader) (p : Phys) (n : Nat) : ReadRes :=
  if rd.iset.isNone && entryWaits s core path p n then .wait s
  else if p.tgt != 0 then .ok s (physRead s p n)
  else match path with
  | .core h => l1Read s core rd p n h
  | .slice h => if homeWaits s (lineOf p.pa) then .wait s else .ok (l2Fill s (lineOf p.pa) h rd.rc) (homeRead s p.pa n)
  | .bank => if ticketHeld s p.pa then .wait s else .ok s (Memory.readN s.dram p.pa n)
  | .damson h => fcRead s core rd p n h

/-- The reuse class of a line that a job fills (R263): the highest of the timetable entries whose ranges hold it,
0 where none does. -/
def jobRc (la : Launch) (va : Nat) : BitVec 2 :=
  BitVec.ofNat 2 ((la.timetab.filter (fun t => !t.isEmpty && meets (va / 128 * 128) 128 (ttBase t) (ttLen t))).foldl
    (fun r t => max r (ttRc t)) 0)

/-- n bytes of virtual memory as a number, line by line. -/
def pull (s : State) (e : Env) (path : Path) (rd : Reader) : Nat → Nat → Nat → Got Nat
  | 0, _, _ => .ok s 0
  | fuel + 1, va, n =>
    if n = 0 then .ok s 0
    else
      let va := va % 2 ^ 57
      let m := min n (128 - va % 128)
      match e.xlat s va .r with
      | .trap c => .fault c va
      | .moving => .wait s
      | .ats page => .wait (s.request (dieOf (tCore e.t)) e.la.asp.pasid page false)
      | .ok p =>
        match chunkRead s (tCore e.t) path { rd with rc := if rd.iset.isSome then rd.rc else jobRc e.la va } p m with
        | .wait s => .wait s
        | .ok s v => (pull s e path rd fuel (va + m) (n - m)).andThen fun s hi => .ok s (v + 2 ^ (8 * m) * hi)

/-- n bytes of virtual memory by a path. -/
def pullRange (s : State) (e : Env) (path : Path) (rd : Reader) (va n : Nat) : Got Nat :=
  pull s e path rd (n / 128 + 2) va n

/-! Codes. -/

/-- The codes of a rectangle, by row and column. -/
abbrev Codes := Nat → Nat → Nat

/-- The rows of a rectangle of a view, each from the byte of its first code. -/
def viewRows (s : State) (e : Env) (path : Path) (rd : Reader) (g : Grid) (c0 cols : Nat) : Nat → Nat → Got (List Nat)
  | 0, _ => .ok s []
  | n + 1, r =>
    let b0 := g.bit r c0 / 8
    let b1 := (g.bit r (c0 + cols - 1) + g.w - 1) / 8 + 1
    (pullRange s e path rd (g.base + b0) (b1 - b0)).andThen fun s v =>
      (viewRows s e path rd g c0 cols n (r + 1)).andThen fun s vs => .ok s (v :: vs)

/-- The codes of a rectangle of a grid (R174): from tile storage, or from memory by a path. -/
def pullRect (s : State) (e : Env) (path : Path) (rd : Reader) (g : Grid) (r : Rect) : Got Codes :=
  if g.lvl == 2 then
    (viewRows s e path rd g r.c0 r.cols r.rows r.r0).andThen fun s rows =>
      .ok s (fun i j => rows.getD (i - r.r0) 0 / 2 ^ (g.bit i j - 8 * (g.bit i r.c0 / 8)) % 2 ^ g.w)
  else
    let b := (tileOf (s.core (tCore e.t)) g.uid).bytes
    .ok s (fun i j => getBits b (g.bit i j) g.w)

/-- Whether a row operation holds the bank of some byte of an interval of memory (R325). -/
def spanBusy (s : State) (e : Env) (hi : Nat) : Nat → Nat → Bool
  | 0, _ => false
  | fuel + 1, va =>
    if hi ≤ va then false
    else (match e.xlat s (va % 2 ^ 57) .w with | .ok p => p.tgt == 0 && ticketHeld s p.pa | _ => false)
      || spanBusy s e hi fuel ((va / 1024 + 1) * 1024)

/-- The same of the regions that a job writes. -/
def regionBusy (s : State) (e : Env) (r : Region) : Bool :=
  match r with
  | .mem _ lo hi => spanBusy s e hi ((hi - lo) / 1024 + 2) lo
  | _ => false

/-- w bits from a bit offset of a view written in DRAM by the bank cores that own the bytes (R195). -/
def putView (s : State) (e : Env) (base bit w v : Nat) : State :=
  let m := (2 ^ w - 1) * 2 ^ (bit % 8)
  let x := v % 2 ^ w * 2 ^ (bit % 8)
  (List.range ((bit % 8 + w + 7) / 8)).foldl (fun s i =>
    match e.xlat s ((base + bit / 8 + i) % 2 ^ 57) .w with
    | .ok p =>
      let old := Memory.read s.dram p.pa
      let mi : Byte := BitVec.ofNat 8 (m / 256 ^ i)
      { s with dram := Memory.write s.dram p.pa ((old &&& ~~~mi) ||| (BitVec.ofNat 8 (x / 256 ^ i) &&& mi)) }
    | _ => s) s

/-- A code written in a view or in tile storage. -/
def putCode (s : State) (e : Env) (g : Grid) (r c v : Nat) : State :=
  if g.lvl == 2 then putView s e g.base (g.bit r c) g.w v
  else
    let k := s.core (tCore e.t)
    s.setCore (tCore e.t) { k with tiles := adjust k.tiles g.uid (fun t => { t with bytes := setBits t.bytes (g.bit r c) g.w v }) }

/-- Codes written in order. -/
def putCodes (s : State) (e : Env) (g : Grid) (ws : List (Nat × Nat × Nat)) : State :=
  ws.foldl (fun s w => putCode s e g w.1 w.2.1 w.2.2) s

/-- All positions of a rectangle of r rows and c columns from 0, in row-major order. -/
def positions (r c : Nat) : List (Nat × Nat) := (List.range r).flatMap (fun i => (List.range c).map (fun j => (i, j)))

end Sys2Proof.Machine
end

