-- ==== Sys2Proof/Machine/FetchUnit.lean ====
section
/-! DEFINITION. The fetch unit and the key sorter as their units issue (R227 to R239), and the fetch
decoder (R229 to R231). Jobs are performed in Machine/Work.lean, `fget` in Machine/Perform.lean. -/

namespace Sys2Proof.Machine

/-! Fetch handles (R227, R228). -/

/-- Bytes of a scaled block (R159, R229). -/
def blockBytes (slot : DWord) (w : Nat) : Nat := scaleBytes (slotSF slot) + slotBS slot * w / 8

/-- `fbind` (R228). -/
def execFbind (c : Ctl) (fs : BitVec 3) (hd : BitVec 8) (xa xv : Reg) (s : State) : Outcome :=
  withSlot s fs fun slot =>
  unit s { settled := true } c 1 fun e =>
  gather s e [xa, xa + 1, xv, xv + 1] [] fun s e =>
    let d := e.th.read64 xv
    let base := e.th.read64 xa
    let h := hd.toNat
    let scaled := slotSF slot != 0
    let w := efWidth (shEF d)
    match firstFail
        [ ((e.tm.handle? h).isSome, 2, h), (shapeRefused e.la 2 d || base.toNat % 16 != 0, 3, h)
        , (shLay d != 0 && shLay d != 3, 8, h), (shEF d != slotEF slot, 5, h)
        , (scaled && (shLay d == 3 || shCols d % slotBS slot != 0), 5, h)
        , (scaled && decide (shPitch d < shCols d / slotBS slot * blockBytes slot w), 3, h) ] with
    | some ti => .next (raiseTrap s e.t ti)
    | none => .next (makeView (settle s e c 1 []) e h base d (some fs.toNat))

/-- The slot that a fetch handle is bound to. -/
def Env.bound? (e : Env) (h : Nat) : Option Nat := find? e.tm.binds h

/-! The decoder (R229 to R231). -/

/-- Start and length of the packed bitmap of a compressed handle, and of a row's values (R229). -/
def bitmapBytes (h : Handle) : Nat := (h.elems + 7) / 8
def valuesAt (h : Handle) (r : Nat) : Nat := h.loc.toNat + bitmapBytes h + packBytes h.cols h.w * r

/-- The bitmap bytes that locate element (r, c): address and count. -/
def bitmapSpan (h : Handle) (r c : Nat) : Nat × Nat :=
  (h.loc.toNat + h.cols * r / 8, (h.cols * r + c) / 8 - h.cols * r / 8 + 1)

/-- What the bitmap bytes of a row say of element c: whether its bit is 1, and the set bits below it. -/
def bitmapBit (h : Handle) (r c v : Nat) : Bool × Nat :=
  let o := h.cols * r % 8
  (v.testBit (o + c), popNat c (v / 2 ^ o % 2 ^ c))

/-- The span of bytes that holds w bits from a bit offset of an address. -/
def bitSpan (addr bit w : Nat) : Nat × Nat := (addr + bit / 8, (bit % 8 + w + 7) / 8)

/-- Where the block of a scaled element starts, and the element's bit offset after the scale. -/
def blockAt (h : Handle) (slot : DWord) (r c : Nat) : Nat × Nat :=
  (h.loc.toNat + shPitch h.shape * r + c / slotBS slot * blockBytes slot h.w, h.w * (c % slotBS slot))

/-- The spans of bytes that hold an element without its bitmap (R232): the scale first where there is
one; `n` is the packed position of a compressed element. -/
def elemSpans (h : Handle) (slot : DWord) (r c n : Nat) : List (Nat × Nat) :=
  if h.lay == 3 then [bitSpan (valuesAt h r) (h.w * n) h.w]
  else if slotSF slot == 0 then [bitSpan (h.loc.toNat + shPitch h.shape * r) (h.w * c) h.w]
  else
    let b := blockAt h slot r c
    let sb := scaleBytes (slotSF slot)
    [(b.1, sb), bitSpan (b.1 + sb) b.2 h.w]

/-- The bit offset of the element within its span. -/
def elemShift (h : Handle) (slot : DWord) (c n : Nat) : Nat :=
  if h.lay == 3 then h.w * n % 8
  else if slotSF slot == 0 then h.w * c % 8
  else h.w * (c % slotBS slot) % 8

/-- The decoded value of a code under a slot, with its scale code, and whether DW is set (R231). -/
def decodeFetch (slot : DWord) (code scale : Nat) : Word × Bool :=
  let ef := slotEF slot
  let dw := ef == 13 && code == 2
  if slotSF slot != 0 then (toF32 (scaleVal (decodeElem ef code) (decodeElem (scaleEF (slotSF slot)) scale)), dw)
  else if efInt ef then (BitVec.ofInt 32 (signedOf (efWidth ef) code), false)
  else if ef == 13 then (if code == 1 then 1 else if code == 3 then 0xFFFFFFFF else 0, dw)
  else (toF32 (decodeElem ef code), false)

/-- The address of a malformed padding bit (R230): the last bitmap byte, when its span is read. -/
def badPadding (h : Handle) (span : Nat × Nat) (v : Nat) : Option Nat :=
  let last := h.loc.toNat + bitmapBytes h - 1
  let b := v / 2 ^ (8 * (last - span.1)) % 256
  if span.1 ≤ last && last < span.1 + span.2 && h.elems % 8 != 0 && b / 2 ^ (h.elems % 8) != 0 then some last else none

/-- A trap "fetch decode error" (R230). -/
def trapDecode (addr : Nat) : TrapInfo := trapOf 0x0D (addr % 2 ^ 57)

/-! `fget` (R232). -/

/-- A byte as Damson would see it now, without any effect: what the issue of an `fget` looks at to find
which bytes it will read. -/
def peekByte (s : State) (e : Env) (va : Nat) : Nat :=
  match e.xlat s (va % 2 ^ 57) .r with
  | .ok p =>
    let k := s.core (tCore e.t)
    let ln := lineOf p.pa
    if p.tgt != 0 then physRead s p 1
    else match find? k.fcache ln, find? k.l1 ln with
    | some l, _ => lineNum l.data (p.pa % 128) 1
    | none, some l => if l.valid.getLsbD (p.pa % 128) then lineNum l.data (p.pa % 128) 1 else homeRead s p.pa 1
    | none, none => homeRead s p.pa 1
  | _ => 0

/-- n such bytes as a number. -/
def peek (s : State) (e : Env) (va : Nat) : Nat → Nat
  | 0 => 0
  | n + 1 => peekByte s e va + 256 * peek s e (va + 1) n

/-- The bytes of an `fget` that its coordinate names (R232): the bitmap bytes of a compressed element, else the
element with its scale. -/
def fgetFirst (h : Handle) (slot : DWord) (x : Word) : List (Nat × Nat) :=
  if h.lay == 3 then [bitmapSpan h (coordRow x) (coordCol x)] else elemSpans h slot (coordRow x) (coordCol x) 0

/-- The bytes that the bitmap of a compressed element then names (R232), and the element's packed position. -/
def fgetRest (s : State) (e : Env) (h : Handle) (slot : DWord) (x : Word) : List (Nat × Nat) × Nat :=
  if h.lay == 3 then
    let b := bitmapSpan h (coordRow x) (coordCol x)
    let bit := bitmapBit h (coordRow x) (coordCol x) (peek s e b.1 b.2)
    if bit.1 then (elemSpans h slot (coordRow x) (coordCol x) bit.2, bit.2) else ([], 0)
  else ([], 0)

/-- Whether bytes that an `fget` reads wait: for a job that writes them (R182), or for an older access of the thread
to them (R294). -/
def spansWait (s : State) (e : Env) (spans : List (Nat × Nat)) : Bool :=
  heldByJob s (tCore e.t) false (spans.map (fun p => .mem e.la.asp.asn.toNat p.1 (p.1 + p.2)))
    || e.th.accs.any (fun a => !a.kind.isLoad && a.ranges.any (fun r => spans.any (fun p => meets r.1 r.2 p.1 p.2)))

/-- The addresses of some spans, one by one. -/
def spanBytes (spans : List (Nat × Nat)) : List Nat := spans.flatMap (fun p => (List.range p.2).map (fun i => (p.1 + i) % 2 ^ 57))

/-- The translations of some bytes, in order. -/
def xlatBytes (s : State) (e : Env) (k : List Phys → Outcome) : List Nat → List Phys → Outcome
  | [], ps => k ps.reverse
  | va :: vs, ps =>
    match xlatChk s e va .r (fun _ => .ok s) with
    | .trap ti => .next (raiseTrap s e.t ti)
    | .wait s => .next s
    | .ok _ =>
      match e.xlat s va .r with
      | .ok p => if p.hole then .fault .physicalHole else xlatBytes s e k vs (p :: ps)
      | _ => s.stall

/-- `fget` (R232): its checks, on the bytes that its bitmap names at issue; the value is read and decoded when the access
returns. -/
def execFget (c : Ctl) (xd : Reg) (hf : BitVec 8) (xc : Reg) (s : State) : Outcome :=
  unit s Mode.counted c 1 fun e =>
  operands s e [xc, xd] fun s e =>
    let x := e.th.read xc
    let n := hf.toNat
    let h := e.tm.handle n
    match firstFail
        [ ((e.tm.handle? n).isNone, 1, n), ((e.bound? n).isNone, 7, n)
        , (decide (h.rows ≤ coordRow x) || decide (h.cols ≤ coordCol x), 6, n) ] with
    | some ti => .next (raiseTrap s e.t ti)
    | none =>
      let slot := e.la.fs ((e.bound? n).getD 0)
      let first := fgetFirst h slot x
      xlatBytes s e (fun _ =>
        if h.lay == 3 && spansWait s e first then s.stall
        else
          let rest := fgetRest s e h slot x
          let spans := first ++ rest.1
          xlatBytes s e (fun ps =>
            match spans.find? (fun p => schedMiss e.la e.tm p.1 p.2), e.la.smm with
            | some p, true => .next (raiseTrap s e.t (trapOf 0x06 p.1))
            | _, _ =>
              let a := mkAccess s e (.fget n x xd spans) (spans.headD (0, 0)).1 1 rest.2 ps c.h c.k (some (e.flagNo c))
              let beyond := ps.any (fun p => p.tgt != 0) || !(a.missLines (s.core (tCore e.t))).isEmpty
              if spansWait s e spans || (beyond && requestsFull s (tCore e.t)) then s.stall
              else .next (issueAccess s e 1 [xc] a true id))
            (spanBytes spans) [])
        (spanBytes first) []

/-! `fgett` (R233). -/

/-- The fields of a gather request. -/
def gqRow0 (q : DWord) : Nat := bits q 48 16
def gqNm1 (q : DWord) : Nat := bits q 32 16
def gqP0 (q : DWord) : Nat := bits q 0 32

/-- Bytes of a row of a fetch handle of LAY 0. -/
def fetchRowBytes (h : Handle) (slot : DWord) : Nat :=
  if slotSF slot == 0 then packBytes h.cols h.w else h.cols / slotBS slot * blockBytes slot h.w

/-- The whole interval of a fetch handle's view (R233). -/
def fetchRegion (e : Env) (h : Handle) (slot : DWord) : Region :=
  let n := if h.lay == 3 then shapeSize e.la 2 h.shape else shPitch h.shape * (h.rows - 1) + fetchRowBytes h slot
  .mem e.la.asp.asn.toNat h.loc.toNat (h.loc.toNat + n)

/-- The slot that a fetch handle is bound to (R227). -/
def boundSlot (e : Env) (hf : BitVec 8) : DWord := e.la.fs ((e.bound? hf.toNat).getD 0)

/-- The draft of `fgett` (R233): Damson reads (R224), wherever the destination lives. -/
def fgettDraft (hd hf hi : BitVec 8) (xq : Reg) (e : Env) : Draft :=
  let q := e.th.read64 xq
  let d := e.tm.handle hd.toNat
  let f := e.tm.handle hf.toNat
  let i := e.tm.handle hi.toNat
  { draftTo .damson [q, BitVec.ofNat 64 ((e.bound? hf.toNat).getD 0)] hd.toNat d [d, f, i]
      [fetchRegion e f (boundSlot e hf), i.reg e] [d.region 0 ⟨gqRow0 q, 0, gqNm1 q + 1, d.cols⟩ none] with slice := false }

/-- `fgett` (R233). -/
def execFgett (c : Ctl) (hd hf hi : BitVec 8) (xq : Reg) (s : State) : Outcome :=
  engineUnit s c (.fgett c hd hf hi xq) [xq, xq + 1]
    (fun e =>
      let q := e.th.read64 xq
      let d := e.tm.handle hd.toNat
      let f := e.tm.handle hf.toNat
      let i := e.tm.handle hi.toNat
      let slot := boundSlot e hf
      validity e.tm [hf.toNat] ++ ((e.bound? hf.toNat).isNone, 7, hf.toNat) :: validity e.tm [hi.toNat] ++
      [ (i.lay != 0, 8, hi.toNat), (i.ef != 14, 5, hi.toNat), (decide (i.elems ≤ gqP0 q + gqNm1 q), 6, hi.toNat) ] ++
      validity e.tm [hd.toNat] ++
      [ (!(d.lvl == 0 || d.lvl == 1), 7, hd.toNat), (d.lay != 0, 8, hd.toNat)
      , (decide (d.rows ≤ gqRow0 q + gqNm1 q), 6, hd.toNat), (decide (d.cols < f.cols), 5, hd.toNat)
      , (if slotSF slot == 0 then d.ef != slotEF slot else d.ef == 13 || d.ef == 9, 5, hd.toNat) ])
    (fgettDraft hd hf hi xq)
    (fun _ s => s)

/-! `ksort` and `kpack` (R235 to R239). -/

/-- The fields of a Currant selector. -/
def ksStart (x : Word) : Nat := (x.extractLsb' 16 16).toNat
def ksHt (x : Word) : Nat := (x.extractLsb' 8 6).toNat
def ksHx (x : Word) : Nat := (x.extractLsb' 0 6).toNat

/-- The first handle of a list that stands in it again. -/
def repeated : List Nat → Option Nat
  | [] => none
  | h :: hs => if hs.contains h then some h else repeated hs

/-- The conditions on every Currant job (R235): three named handles, the status handle and the offsets
handle. A reserved bit of xs is reported at the first operand (R235 names no handle; DESIGN CHOICE, log 60). -/
def currantConds (e : Env) (hs : List Nat) (x : Word) : List (Bool × Nat × Nat) :=
  let all := hs ++ [ksHt x, ksHx x]
  let t := e.tm.handle (ksHt x)
  (x &&& 0xC0C0 != 0, 5, hs.headD 0) :: validity e.tm all ++ rowMajor e.tm all ++
  all.map (fun h => ((e.tm.handle h).lvl == 3, 7, h)) ++
  [ ((repeated all).isSome, 5, (repeated all).getD 0), (t.ef != 14, 5, ksHt x), (decide (t.elems < 4), 6, ksHt x) ]

/-- The first four elements of a status handle, as regions (R237, R239). -/
def statusRegions (e : Env) (t : Handle) : List Region :=
  (List.range 4).map (fun i => t.region e.la.asp.asn.toNat ⟨i / t.cols, i % t.cols, 1, 1⟩ none)

/-- The draft of a Currant job: destinations `ds` with their numbers, then the status handle. -/
def currantDraft (e : Env) (x : Word) (src : Nat) (dsts : List Nat) : Draft :=
  let h := e.tm.handle
  let t := h (ksHt x)
  let all := dsts ++ [ksHx x]
  { engine := .currant, caps := [x.setWidth 64], hs := [h src] ++ dsts.map h ++ [h (ksHx x), t]
    reads := [(h src).reg e], writes := all.map (fun n => (h n).reg e) ++ statusRegions e t
    dest := fun r => some ((all.find? (fun n => (h n).reg e == r)).getD (ksHt x))
    bank := (all ++ [ksHt x]).any (fun n => (h n).lvl == 2), slice := false }

/-- `ksort` (R237). A START that is not below NK is reported at hc (the rule names no handle; DESIGN CHOICE, log 60). -/
def execKsort (c : Ctl) (o32 : Bool) (hp hk hc : BitVec 8) (xs : Reg) (s : State) : Outcome :=
  engineUnit s c (.ksort c o32 hp hk hc xs) [xs]
    (fun e =>
      let x := e.th.read xs
      let p := e.tm.handle hp.toNat
      let k := e.tm.handle hk.toNat
      let n := e.tm.handle hc.toNat
      let o := e.tm.handle (ksHx x)
      currantConds e [hp.toNat, hk.toNat, hc.toNat] x ++
      [ (k.ef != 12, 5, hk.toNat), (decide (2 ^ 24 < k.elems), 6, hk.toNat)
      , (n.ef != 14, 5, hc.toNat), (decide (1024 < n.elems), 6, hc.toNat)
      , (o.ef != (if o32 then 14 else 12), 5, ksHx x), (decide (o.elems < n.elems), 6, ksHx x)
      , (p.ef != 14, 5, hp.toNat), (decide (p.elems < k.elems), 6, hp.toNat)
      , (decide (n.elems ≤ ksStart x), 6, hc.toNat) ])
    (fun e => currantDraft e (e.th.read xs) hk.toNat [hp.toNat, hc.toNat])
    (fun _ s => s)

/-- `kpack` (R239). A START that is not below the rows of hs is reported at hs (the rule names no handle; DESIGN CHOICE,
log 60). -/
def execKpack (c : Ctl) (hv hs hb : BitVec 8) (xs : Reg) (s : State) : Outcome :=
  engineUnit s c (.kpack c hv hs hb xs) [xs]
    (fun e =>
      let x := e.th.read xs
      let v := e.tm.handle hv.toNat
      let a := e.tm.handle hs.toNat
      let b := e.tm.handle hb.toNat
      let o := e.tm.handle (ksHx x)
      currantConds e [hv.toNat, hs.toNat, hb.toNat] x ++
      [ (a.ef == 9, 5, hs.toNat), (v.ef != a.ef, 5, hv.toNat), (decide (v.elems < a.elems), 6, hv.toNat)
      , (b.ef != 14, 5, hb.toNat), (decide (b.elems < (a.elems + 31) / 32), 6, hb.toNat)
      , (o.ef != 11, 5, ksHx x), (decide (o.elems < a.rows), 6, ksHx x), (decide (a.rows ≤ ksStart x), 6, hs.toNat) ])
    (fun e => currantDraft e (e.th.read xs) hs.toNat [hv.toNat, hb.toNat])
    (fun _ s => s)

end Sys2Proof.Machine
end

