-- ==== Sys2Proof/Machine/Distributor.lean ====
section
/-! DEFINITION. The work distributor (R253 to R256): the snapshot of the group table, pieces, `wtake` and
`wfix`. The fix-up itself is performed in Machine/Work.lean. -/

namespace Sys2Proof.Machine

/-- The shape of a group (R253): m, n and k. -/
abbrev Group := Nat × Nat × Nat

/-- Chunks of each tile of a group, tile columns, and steps of the whole group (R253). -/
def grpKC (g : Group) : Nat := (g.2.2 + 31) / 32
def grpTC (g : Group) : Nat := (g.2.1 + 255) / 256
def grpSteps (g : Group) : Nat := (g.1 + 255) / 256 * grpTC g * grpKC g

/-- T: the steps of a table (R253). -/
def totalSteps (t : List Group) : Nat := (t.map grpSteps).foldl (· + ·) 0

/-- A tile of the list: its first step, its chunks, and its group, row and column. -/
structure TileAt where
  first : Nat
  kc    : Nat
  grp   : Nat
  tr    : Nat
  tc    : Nat
  deriving DecidableEq, Repr

/-- The tile that holds a step; g counts the groups passed and `start` their steps. -/
def tileAt : List Group → Nat → Nat → Nat → Option TileAt
  | [], _, _, _ => none
  | x :: xs, g, start, step =>
    if step < start + grpSteps x then
      let q := (step - start) / grpKC x
      some ⟨start + q * grpKC x, grpKC x, g, q / grpTC x, q % grpTC x⟩
    else tileAt xs (g + 1) (start + grpSteps x) step

/-- The first step of a team's range (R253). -/
def teamLo (total nteam t : Nat) : Nat := total * t / nteam

/-- A piece: its descriptor (R212), its tile, its first step and the step after its last. -/
structure Piece where
  desc : DWord
  tile : TileAt
  lo   : Nat
  hi   : Nat
  deriving DecidableEq, Repr

/-- The piece of team t that begins at a step of its range (R253). -/
def pieceAt (table : List Group) (nteam t step : Nat) : Option Piece :=
  let total := totalSteps table
  let lo := teamLo total nteam t
  let hi := teamLo total nteam (t + 1)
  if step < lo || hi ≤ step then none
  else (tileAt table 0 0 step).map (fun x =>
    let stop := min (x.first + x.kc) hi
    let fix := !(lo ≤ x.first && x.first + x.kc ≤ hi)
    let d := (if fix then 2 ^ 62 else 0) + x.grp * 2 ^ 52 + x.tr * 2 ^ 44 + x.tc * 2 ^ 36
      + (step - x.first) * 2 ^ 18 + (stop - x.first)
    ⟨BitVec.ofNat 64 d, x, step, stop⟩)

/-- The step at which a team's next piece begins. -/
def distPos (la : Launch) (table : List Group) (t : Nat) : Nat :=
  findD la.dist.pos t (teamLo (totalSteps table) la.nteam t)

/-- The group table as the snapshot reads it (R253, R254), from entry g up. -/
inductive Table where
  | ok (s : State) (t : List Group)
  | trap (ti : TrapInfo)
  | stall (s : State)
  | wait (s : State)

/-- n words at an address through the thread's load path. -/
def tableWords (s : State) (e : Env) (va : Nat) : Nat → Now
  | 0 => .ok s 0
  | n + 1 =>
    match readNow s e (va % 2 ^ 57) 4 with
    | .ok s v =>
      match tableWords s e (va + 4) n with
      | .ok s hi => .ok s (v + 2 ^ 32 * hi)
      | r => r
    | r => r

/-- The snapshot of the entries from g, `n` of them left. -/
def snapshot (s : State) (e : Env) (g : Nat) : Nat → Table
  | 0 => .ok s []
  | n + 1 =>
    match tableWords s e (e.la.groupTable + 16 * g) 3 with
    | .trap ti => .trap ti
    | .stall s => .stall s
    | .wait s => .wait s
    | .ok s v =>
      let x : Group := (v % 2 ^ 32, v / 2 ^ 32 % 2 ^ 32, v / 2 ^ 64)
      if 65536 < x.1 || 65536 < x.2.1 || 8388576 < x.2.2 then .trap (trapOf 0x0C g)
      else match snapshot s e (g + 1) n with
        | .ok s t => .ok s (x :: t)
        | r => r

/-- The distributor of a launch changed. -/
def State.modDist (s : State) (lid : Nat) (f : Dist → Dist) : State :=
  s.modLaunch lid (fun l => { l with dist := f l.dist })

/-- The STOP descriptor (R255). -/
def stopPiece : DWord := 0x8000000000000000

/-- The team's next piece under a table, written to xd (R255). -/
def takePiece (s : State) (e : Env) (c : Ctl) (xd : Reg) (table : List Group) : State :=
  let t := e.tm.index
  match pieceAt table e.la.nteam t (distPos e.la table t) with
  | none => settle s e c 1 (write64 xd stopPiece)
  | some p => (settle s e c 1 (write64 xd p.desc)).modDist e.tm.lid (fun d => { d with pos := put d.pos t p.hi })

/-- Whether another thread's `wtake` reads the group table (R253). -/
def Dist.busy (d : Dist) (t : Nat) : Bool := d.reader.any (· != t)

/-- `wtake` (R255). The first of the launch reads the group table, and the others wait meanwhile (R253). A table that
could not be read traps every `wtake` also after pre-emption has been requested, where the spec asks for the trap (R254)
and for STOP (R255, R259) (DESIGN CHOICE, log 60). -/
def execWtake (c : Ctl) (xd : Reg) (s : State) : Outcome :=
  unit s { settled := true, long := true } c 1 fun e =>
  operands s e [xd, xd + 1] fun s e =>
    match e.la.dist.failed with
    | some ti => .next (raiseTrap s e.t ti)
    | none =>
      if e.la.ng == 0 || e.la.preempt.isSome then .next (settle s e c 1 (write64 xd stopPiece))
      else match e.la.dist.table with
        | some t => .next (takePiece s e c xd t)
        | none =>
          if e.la.dist.busy e.t then s.stall
          else match snapshot (acquire s (tCore e.t)) e 0 e.la.ng with
          | .stall s => s.stall
          | .wait s => .next (s.modDist e.tm.lid (fun d => { d with reader := some e.t }))
          | .trap ti => .next (raiseTrap (s.modDist e.tm.lid (fun d => { d with failed := some ti, reader := none })) e.t ti)
          | .ok s t => .next (takePiece (s.modDist e.tm.lid (fun d => { d with table := some t, reader := none })) e c xd t)

/-! `wfix` (R256). -/

/-- The piece of the team that a descriptor names, if the team was issued it. -/
def issuedPiece (la : Launch) (t : Nat) (p : DWord) : Option Piece :=
  match la.dist.table with
  | none => none
  | some table =>
    let start := ((table.take (pcGrp p)).map grpSteps).foldl (· + ·) 0
    let x := table.getD (pcGrp p) (0, 0, 0)
    let step := start + (pcTr p * grpTC x + pcTc p) * grpKC x + pcKb p
    match pieceAt table la.nteam t step with
    | some q => if q.desc == p && step < distPos la table t then some q else none
    | none => none

/-- Every piece of a tile, in ascending KB, with its team. -/
def tilePieces (table : List Group) (nteam : Nat) (x : TileAt) : List (Nat × Piece) :=
  let total := totalSteps table
  (List.range nteam).filterMap (fun t =>
    let lo := teamLo total nteam t
    let hi := teamLo total nteam (t + 1)
    let a := max lo x.first
    if a < min hi (x.first + x.kc) then (pieceAt table nteam t a).map (fun p => (t, p)) else none)

/-- The fix-up slot of a piece (R256): the first of its team's two for the piece that begins its range. -/
def fixSlot (table : List Group) (nteam t : Nat) (p : Piece) : Nat :=
  if p.lo == teamLo (totalSteps table) nteam t then 2 * t else 2 * t + 1

/-- The address of a fix-up slot. -/
def slotAddr (la : Launch) (n : Nat) : Nat := la.fixBuffer + 4096 + 262144 * n

/-- Whether a piece has arrived, or a job of its arrival in the same launch is in the table. -/
def pieceArrived (s : State) (e : Env) (p : Piece) : Bool :=
  e.la.dist.arrived.any (fun a => a.1 == p.tile.first && a.2.1 == p.lo)
    || (s.core (tCore e.t)).jobs.any (fun j =>
      (match j.cmd with | .wfix _ _ _ _ => j.caps.headD 0 == p.desc | _ => false)
        && (s.team? (teamKey j.thread)).any (·.lid == e.tm.lid))

/-- `wfix` (R256): its unit completes when its job retires, which then writes xd. -/
def execWfix (c : Ctl) (xd : Reg) (hc : BitVec 8) (xp : Reg) (s : State) : Outcome :=
  unit s engineMode c 1 fun e =>
  withEntry s e <|
  gather s e [xp, xp + 1] [xd] fun s e =>
    let d := e.th.read64 xp
    let h := e.tm.handle hc.toNat
    let n := hc.toNat
    let p := issuedPiece e.la e.tm.index d
    match firstFail
        [ ((e.tm.handle? n).isNone, 1, n), (h.lvl != 3, 7, n), (pcStop d || !pcFix d, 5, n), (p.isNone, 5, n)
        , (p.any (pieceArrived s e), 5, n) ] with
    | some ti => .next (raiseTrap s e.t ti)
    | none =>
      let table := e.la.dist.table.getD []
      let slot := match p with | some q => slotAddr e.la (fixSlot table e.la.nteam e.tm.index q) | none => 0
      let mem : Region := .mem e.la.asp.asn.toNat slot (slot + 262144)
      let acc := h.region 0 h.whole none
      let u := { WUnit.start e.th with done := false, kbit := c.k, pend := [xd] }
      submit s e c (.wfix c xd hc xp) (matrixDraft [d] [h] [acc, mem] [acc, mem])
        (fun s => s.modThread e.t (fun th => { th with window := e.th.window ++ [u] }))

end Sys2Proof.Machine
end

