-- ==== Sys2Proof/Machine/Perform.lean ====
section
/-! DEFINITION. What an engine job computes and writes (R188 to R194, R209 to R219, R233 to R239, R256), part by
part: a row of its destination, a chunk of a product, or the whole. The events that dispatch and retire jobs stand in
Machine/Work.lean. -/

namespace Sys2Proof.Machine

/-- How a part of a job ends: performed, with the status bits that it found (R162); waiting for memory; stopped by an
engine fault of a kind (R347); ended at a malformed row (R234); a fix-up whose parts do not agree (R256). -/
inductive Ran where
  | ok (s : State) (st : BitVec 4)
  | wait (s : State)
  | lost (kind : BitVec 4)
  | decode (ti : TrapInfo)
  | mismatch

/-- Work that begins with a read; a page lost meanwhile is an engine fault of kind 1. -/
def Got.ran {α : Type} (g : Got α) (k : State → α → Ran) : Ran :=
  match g with
  | .ok s a => k s a
  | .wait s => .wait s
  | .fault _ _ => .lost 1

/-- A handle and a value that a job captured at acceptance (R179, R183). -/
def Job.h (j : Job) (i : Nat) : Handle := j.hs.getD i Handle.absent
def Job.cap (j : Job) (i : Nat) : DWord := j.caps.getD i 0

/-- Where a job reads its sources (R184, R195, R224, R235). A drain whose one level-M destination is a scale handle reads
at the core. -/
def Job.path (j : Job) : Path :=
  if j.engine == .currant || j.engine == .damson || (j.engine == .matrix && (j.h 0).lvl != 2) then .core j.hint
  else if j.bank then .bank else if j.slice then .slice j.hint else .core j.hint

/-- The reader that a job is at the L1 (R265): each of its requests is a read of its own. -/
def Job.reader (j : Job) : Reader := ⟨gKey j.thread, none, false, none, 0, 5⟩

/-- The codes of a captured handle's rectangle. -/
def Job.codes (j : Job) (s : State) (e : Env) (i : Nat) (r : Rect) : Got Codes :=
  pullRect s e j.path j.reader (j.h i).grid r

/-- One row of a captured handle. -/
def Job.row (j : Job) (s : State) (e : Env) (i r : Nat) : Got Codes := j.codes s e i ⟨r, 0, 1, (j.h i).cols⟩

/-- Codes for one row of a handle, from a function of the column. -/
def rowWith (h : Handle) (r : Nat) (f : Nat → Nat) : List (Nat × Nat × Nat) := (List.range h.cols).map (fun c => (r, c, f c))

/-- Status bits of a format slot set by a job (R162). -/
def setStatus (s : State) (team fs : Nat) (b : BitVec 4) : State :=
  if b == 0 then s
  else s.modTeam team (fun tm => { tm with status := putD 0 tm.status fs (findD tm.status fs 0 ||| b.setWidth 32) })

/-! Copy engine. -/

/-- Whether a `tcopy` is one part: storage of another layout, or a handle copied onto itself, whose every source
element is read before any is written (R188). -/
def Job.copyWhole (j : Job) : Bool :=
  match j.cmd with
  | .tcopy _ hd ha _ _ => (j.h 0).lay != 0 || hd == ha
  | _ => false

/-- Rows of the destination rectangle copied, `n` of them from row i (R188). -/
def copyRows (s : State) (e : Env) (j : Job) (i n : Nat) : Ran :=
  let r := rectOf (j.cap 0)
  let o := (j.cap 1).setWidth 32
  (j.codes s e 1 ⟨coordRow o + i, coordCol o, n, r.cols⟩).ran fun s f =>
    .ok (putCodes s e (j.h 0).grid ((positions n r.cols).map (fun p =>
      (r.r0 + i + p.1, r.c0 + p.2, f (coordRow o + i + p.1) (coordCol o + p.2))))) 0

/-- A part of a `tcopy` (R188). -/
def workCopy (s : State) (e : Env) (j : Job) (i : Nat) : Ran :=
  let d := j.h 0
  if !j.copyWhole then copyRows s e j i 1
  else if d.lay == 0 then copyRows s e j 0 (rectOf (j.cap 0)).rows
  else
    let n := shapeSize e.la d.lvl d.shape
    (pullRect s e j.path j.reader (j.h 1).flat ⟨0, 0, 1, n⟩).ran fun s f =>
      .ok (putCodes s e d.flat ((List.range n).map (fun i => (0, i, f 0 i)))) 0

/-- A row of a `tfill` (R190). -/
def workFill (s : State) (e : Env) (j : Job) (i : Nat) : Ran :=
  let r := rectOf (j.cap 0)
  .ok (putCodes s e (j.h 0).grid ((List.range r.cols).map (fun c => (r.r0 + i, r.c0 + c, (j.cap 1).toNat)))) 0

/-! Tile engine. -/

/-- The arithmetic of an element-wise job on codes (R191): `fl` on exact values, `int` on integers. -/
def tileOp (efd : Nat) (fl : Val → Val → Val → Val) (int : Int → Int → Int → Int)
    (efa efb a b d : Nat) : Nat :=
  if efFloat efd then (narrowElem efd false (fl (decodeElem efa a) (decodeElem efb b) (decodeElem efd d))).1
  else
    let v := int (signedOf (efWidth efa) a) (signedOf (efWidth efb) b) (signedOf (efWidth efd) d)
    intCode efd (clampInt v (efMin efd) (efMax efd))

/-- A row of `tadd`, `tmul` and `tfma` (R191): `acc` says whether the destination is read. -/
def workElementwise (s : State) (e : Env) (j : Job) (r : Nat) (acc : Bool) (fl : Val → Val → Val → Val)
    (int : Int → Int → Int → Int) : Ran :=
  let d := j.h 0
  (j.row s e 1 r).ran fun s fa =>
  (j.row s e 2 r).ran fun s fb =>
  (if acc then j.row s e 0 r else .ok s (fun _ _ => 0)).ran fun s fd =>
    .ok (putCodes s e d.grid (rowWith d r (fun c =>
      tileOp d.ef fl int (j.h 1).ef (j.h 2).ef (fa r c) (fb r c) (fd r c)))) 0

/-- A row of `tcvt` (R192). -/
def workConvert (s : State) (e : Env) (j : Job) (r : Nat) (sat : Bool) : Ran :=
  let d := j.h 0
  let a := j.h 1
  (j.row s e 1 r).ran fun s f =>
    .ok (putCodes s e d.grid (rowWith d r (fun c => (narrowElem d.ef sat (decodeElem a.ef (f r c))).1)))
      (if a.ef == 13 && (List.range a.cols).any (fun c => f r c == 2) then sDW else 0)

/-- The fold of a reduction over codes in ascending index (R193). -/
def reduceCodes (efd efa : Nat) (fl : Word → Word → FRes) (int : Int → Int → Int) (cs : List Nat) : Nat :=
  if efFloat efd then
    match cs.map (fun c => toF32 (decodeElem efa c)) with
    | [] => 0
    | v :: vs => (narrowElem efd false (decode32 (vs.foldl (fun s x => (fl s x).1) v))).1
  else
    match cs.map (signedOf (efWidth efa)) with
    | [] => 0
    | v :: vs => intCode efd (clampInt (vs.foldl int v) (efMin efd) (efMax efd))

/-- A row of the destination of `tred` (R193). -/
def workReduce (s : State) (e : Env) (j : Job) (r : Nat) (axis : Bool) (fl : Word → Word → FRes)
    (int : Int → Int → Int) : Ran :=
  let d := j.h 0
  let a := j.h 1
  (if axis then j.codes s e 1 a.whole else j.row s e 1 r).ran fun s f =>
    .ok (putCodes s e d.grid (rowWith d r (fun c =>
      reduceCodes d.ef a.ef fl int
        (if axis then (List.range a.rows).map (fun i => f i c) else (List.range a.cols).map (fun i => f r i))))) 0

/-- A row of the destination of `ttr` (R194): a column of the source. -/
def workTranspose (s : State) (e : Env) (j : Job) (r : Nat) : Ran :=
  let d := j.h 0
  (j.codes s e 1 ⟨0, r, (j.h 1).rows, 1⟩).ran fun s f => .ok (putCodes s e d.grid (rowWith d r (fun c => f c r))) 0

/-! Block-plane form in storage (R204). -/

/-- A trit from its code (R157). -/
def tritOf (c : Nat) : Int := if c = 1 then 1 else if c = 3 then -1 else 0

/-- The code of a trit. -/
def codeOfTrit (t : Int) : Nat := if t = 1 then 1 else if t = -1 then 3 else 0

/-- A plane-operand block at a byte offset of storage. -/
def planeAt (m : Memory) (slot : DWord) (off : Nat) : Block :=
  let p := slotP slot
  let ef := (Memory.read m off).toNat
  if slotEF slot = 13 then ⟨ef, (List.range 32).map (fun i => tritOf (getBits m (8 * (off + 1) + 2 * i) 2))⟩
  else
    let plane (k : Nat) : Nat := Memory.readN m (off + 1 + 4 * k) 4
    ⟨ef, (List.range 32).map (fun i =>
      signedOf p ((List.range p).foldl (fun r k => if (plane k).testBit i then r + 2 ^ k else r) 0))⟩

/-- A word-operand block at a byte offset of storage. -/
def wordAt (m : Memory) (slot : DWord) (off : Nat) : Block :=
  let w := wordW (slotP slot)
  ⟨(Memory.read m off).toNat, (List.range 32).map (fun i => signedOf w (getBits m (8 * (off + 1) + w * i) w))⟩

/-- The bytes of a plane-operand block. -/
def planeOut (slot : DWord) (b : Block) : List Nat :=
  if slotEF slot = 13 then
    b.ef :: (List.range 8).map (fun k => (List.range 4).foldl (fun r i => r + codeOfTrit (b.q.getD (4 * k + i) 0) * 4 ^ i) 0)
  else
    let word (k : Nat) : Nat := (List.range 32).foldl (fun r i =>
      if (codeOf (slotP slot) (b.q.getD i 0)).testBit k then r + 2 ^ i else r) 0
    b.ef :: (List.range (4 * slotP slot)).map (fun i => word (i / 4) / 256 ^ (i % 4) % 256)

/-- The bytes of a word-operand block. -/
def wordOut (slot : DWord) (b : Block) : List Nat :=
  let w := wordW (slotP slot)
  let n := (List.range 32).foldl (fun r i => r + codeOf w (b.q.getD i 0) * 2 ^ (w * i)) 0
  b.ef :: (List.range (4 * w)).map (fun i => n / 256 ^ i % 256)

/-- A line of `mplane` (R209): blocks run along rows for layout 1 and along columns for layout 2. -/
def workPlane (s : State) (e : Env) (j : Job) (n : Nat) (fs : Nat) : Ran :=
  let slot := e.la.fs fs
  let d := j.h 0
  let a := j.h 1
  let x := j.h 2
  let scaled := slotSF slot != 0
  let ef := slotEF slot
  let bs := slotBS slot
  let rowsLay := d.lay == 1
  let line (h : Handle) : Rect := if rowsLay then ⟨n, 0, 1, h.cols⟩ else ⟨0, n, h.rows, 1⟩
  (j.codes s e 1 (line a)).ran fun s f =>
  (if scaled then j.codes s e 2 (line x) else .ok s (fun _ _ => 0)).ran fun s fsc =>
    -- element k of the line, and its scale code
    let len := if rowsLay then a.cols else a.rows
    let elem (k : Nat) : Nat := if rowsLay then f n k else f k n
    let sc (k : Nat) : Nat := if rowsLay then fsc n (k / bs) else fsc (k / bs) n
    let val (k : Nat) : Val :=
      if len ≤ k then .fin false 0 0
      else if scaled then scaleVal (decodeElem ef (elem k)) (decodeElem (scaleEF (slotSF slot)) (sc k))
      else decodeElem ef (elem k)
    let block (b : Nat) : Block × BitVec 4 :=
      let ks := (List.range 32).map (fun i => 32 * b + i)
      let r := toBlock slot (ks.map val) (ks.map (fun k => if len ≤ k then 0 else tritOf (elem k))) (sc (32 * b))
      (r.1, r.2 ||| if ef == 13 && ks.any (fun k => k < len && elem k == 2) then sDW else 0)
    let nb := (len + 31) / 32
    let size := if rowsLay then planeBytes slot else wordBytes slot
    let at_ (b : Nat) : Nat := (if rowsLay then n * nb + b else b * a.cols + n) * size
    let bytes (b : Nat) (x : Block) : List (Nat × Nat × Nat) :=
      let bs := if rowsLay then planeOut slot x else wordOut slot x
      (List.range bs.length).map (fun i => (0, at_ b + i, bs.getD i 0))
    let blocks := (List.range nb).map (fun b => (b, block b))
    .ok (putCodes s e d.flat (blocks.flatMap (fun x => bytes x.1 x.2.1))) (blocks.foldl (fun r x => r ||| x.2.2) 0)

/-! Accumulators and products (R205, R210 to R213, R220, R223). -/

/-- A cell of an accumulator. -/
def Tile.cell (t : Tile) (r c : Nat) : Word := findD t.cells (256 * r + c) 0

/-- Cells of an accumulator written. -/
def setCells (s : State) (e : Env) (uid : Nat) (ws : List (Nat × Nat × Word)) (asat : Bool → Bool) : State :=
  let k := s.core (tCore e.t)
  s.setCore (tCore e.t) { k with tiles := adjust k.tiles uid (fun t => { t with
    cells := ws.foldl (fun m w => putD 0 m (256 * w.1 + w.2.1) w.2.2) t.cells, asat := asat t.asat }) }

/-- Width of the array in columns (R220). -/
def arrayWidth (k : Core) : Nat := 256 - 64 * popNat 4 k.fenced.toNat

/-- The part of a product that the array performs (R210 to R212): rows and columns of the accumulator, positions. -/
structure Span where
  rows : Nat
  cols : Nat
  len  : Nat
  deriving DecidableEq, Repr

/-- The span of a product: the whole of its operands, or the trimmed shape of a piece. -/
def Job.span (j : Job) : Span :=
  match j.cmd with
  | .gmm _ _ _ _ _ =>
    let p := j.cap 0
    if pcStop p then ⟨0, 0, 0⟩
    else ⟨min (bits (j.cap 1) 0 32 - 256 * pcTr p) (j.h 0).rows, min (bits (j.cap 1) 32 32 - 256 * pcTc p) (j.h 0).cols,
      pieceSpan p (j.cap 2).toNat⟩
  | _ => ⟨(j.h 0).rows, (j.h 0).cols, (j.h 1).cols⟩

/-- Chunks of a pass of a product, and its passes under the width that it counts by (R220). -/
def Job.chunks (j : Job) : Nat := (j.span.len + 31) / 32
def Job.passes (j : Job) : Nat := ((j.h 0).cols + j.width - 1) / max 1 j.width

/-- A cell after one chunk of `n` positions (R166, R168): the value and whether a clamp changed it. -/
def chunkStep (i32 : Bool) (n : Nat) (ua ub : Block → Int) (a b : Block) (acc : Word) : Word × Bool :=
  let x := dot (a.q.take n) (b.q.take n)
  if i32 then accI32 acc x else (accF32 acc (a.special || b.special) x (ua a + ub b), false)

/-- One chunk of one pass of a product (R210): `ma` and `mb` are the masks of R211. -/
def productPart (s : State) (e : Env) (j : Job) (i : Nat) (ma : Nat → Int → Int) (mb : Nat → Bool) : State :=
  let c := j.h 0
  let a := j.h 1
  let b := j.h 2
  let sp := j.span
  let sa := e.planeSlot a
  let sb := e.planeSlot b
  let k := s.core (tCore e.t)
  let acc := tileOf k c.uid
  let ch := i % j.chunks
  let ablk (r : Nat) : Block :=
    let x := planeAt (tileOf k a.uid).bytes sa ((r * ((a.cols + 31) / 32) + ch) * planeBytes sa)
    ⟨x.ef, (List.range 32).map (fun i => ma (32 * ch + i) (x.q.getD i 0))⟩
  let bblk (col : Nat) : Block :=
    let x := wordAt (tileOf k b.uid).bytes sb ((ch * b.cols + col) * wordBytes sb)
    ⟨x.ef, (List.range 32).map (fun i => if mb (32 * ch + i) then x.q.getD i 0 else 0)⟩
  let ua (x : Block) : Int := unitExp (slotEF sa == 13) (slotP sa) x.ef
  let ub (x : Block) : Int := unitExp false (slotP sb) x.ef
  let bs := ((List.range sp.cols).filter (fun col => col / max 1 j.width == i / j.chunks)).map (fun col => (col, bblk col))
  let res := (ownRows (tLane j.thread) sp.rows).flatMap (fun r =>
    let x := ablk r
    bs.map (fun y => (r, y.1, chunkStep (c.ef == 14) (sp.len - 32 * ch) ua ub x y.2 (acc.cell r y.1))))
  setCells s e c.uid (res.map (fun x => (x.1, x.2.1, x.2.2.1))) (fun z => z || res.any (fun x => x.2.2.2))

/-- A chunk of `mma` (R210) or of `gmm` (R212). -/
def workMma (s : State) (e : Env) (j : Job) (i : Nat) : Ran := .ok (productPart s e j i (fun _ q => q) (fun _ => true)) 0

/-- A chunk of `mmas` (R211). -/
def workMmas (s : State) (e : Env) (j : Job) (i : Nat) : Ran :=
  let slot := e.planeSlot (j.h 1)
  let ch := i % j.chunks
  (j.codes s e 3 ⟨0, 32 * ch, 1, min 32 ((j.h 1).cols - 32 * ch)⟩).ran fun s fa =>
  (j.codes s e 4 ⟨0, ch, 1, 1⟩).ran fun s fb =>
    let ma (k : Nat) (q : Int) : Int :=
      if slotEF slot == 13 then (if (fa 0 k).testBit 0 then q else 0)
      else signedOf (slotP slot) (codeOf (slotP slot) q &&& fa 0 k)
    .ok (productPart s e j i ma (fun k => (fb 0 ch).testBit (k % 32))) 0

/-- The cells of a lane's rows zeroed, and ASAT cleared (R213). -/
def zeroRows (s : State) (e : Env) (j : Job) (h : Handle) : State :=
  setCells s e h.uid ((ownRows (tLane j.thread) h.rows).flatMap (fun r => (List.range h.cols).map (fun c => (r, c, 0))))
    (fun _ => false)

/-- `mzero` (R213). -/
def workMzero (s : State) (e : Env) (j : Job) : Ran := .ok (zeroRows s e j (j.h 0)) 0

/-! Drains (R214, R216 to R219). -/

/-- The accumulator value of a cell. -/
def accVal (i32 : Bool) (x : Word) : Val := if i32 then Val.ofInt x.toInt else decode32 x

/-- What the epilogue processor knows of the row that it works on (R216): the job's destination slot, the origin in
the destination, the row of the accumulator and its columns. -/
structure EpRow where
  slot : DWord
  row0 : Nat
  col0 : Nat
  r    : Nat
  cols : Nat

/-- The registers e0 to e3 of every column. -/
abbrev EpRegs := List (List Word)

/-- A register of a column. -/
def EpRegs.get (x : EpRegs) (c i : Nat) : Word := (x.getD c []).getD i 0

/-- The rectangle of its handle that a word reads for the row (R217). -/
def EpRow.rect (x : EpRow) (w : Word) : Rect :=
  if epEop w == 9 then ⟨x.row0 + x.r, x.col0, 1, x.cols⟩ else if epAx w then ⟨x.r, 0, 1, 1⟩ else ⟨0, 0, 1, x.cols⟩

/-- The registers after a word, from the codes of its handle (R216, R217). -/
def epRegs (e : Env) (x : EpRow) (w : Word) (ef : Nat) (f : Codes) (regs : EpRegs) : EpRegs :=
  let each (g : Nat → Word → Word) : EpRegs :=
    (List.range x.cols).map (fun c => (regs.getD c []).set (epD w) (g c (regs.get c (epA w))))
  let s (c : Nat) : Val :=
    let code := if epEop w == 9 then f (x.row0 + x.r) (x.col0 + c) else if epAx w then f x.r 0 else f 0 c
    decode32 (toF32 (decodeElem ef code))
  match epEop w with
  | 1 => each (fun c a => emulOp a (s c))
  | 2 => each (fun c a => eaddOp a (s c))
  | 3 => each (fun c a => eaddOp a (decode32 (regs.get c (epB w))))
  | 4 => each (fun c a => emulOp a (decode32 (regs.get c (epB w))))
  | 5 => each (fun _ a => eactOp (epSel w) a)
  | 6 => each (fun _ a => eclampOp a (epLo w) (epHi w))
  | 7 => each (fun _ a => ecvtOp (e.la.fs (epFs w)) a)
  | 9 => each (fun c a => eaddOp a (s c))
  | _ => regs

/-- `emxq` on the row (R219): the scale codes by column block, and the registers. -/
def epScale (e : Env) (x : EpRow) (w : Word) (regs : EpRegs) : List Nat × EpRegs :=
  let fs := e.la.fs (epFs w)
  let bs := slotBS fs
  let blk (b : Nat) : Nat × List Word :=
    emxqBlock (slotEF fs) (((List.range x.cols).filter (fun c => c / bs == b)).map (fun c => regs.get c (epA w)))
  ((List.range ((x.cols + bs - 1) / bs)).map (fun b => (blk b).1),
    (List.range x.cols).map (fun c => (regs.getD c []).set (epD w) ((blk (c / bs)).2.getD (c % bs) 0)))

/-- One word on the row: what it reads, writes and leaves in the registers. `i` is the index of its handle among those
named. -/
def epWord (s : State) (e : Env) (j : Job) (x : EpRow) (w : Word) (i : Nat) (regs : EpRegs) : Got EpRegs :=
  let h := j.h (2 + i)
  if epEop w == 8 then
    let r := epScale e x w regs
    let b0 := x.col0 / slotBS (e.la.fs (epFs w))
    .ok (putCodes s e h.grid (r.1.zipIdx.map (fun p => (x.row0 + x.r, b0 + p.2, p.1)))) r.2
  else if epEop w == 10 then
    .ok (putCodes s e (j.h 0).grid ((List.range x.cols).map (fun c => (x.row0 + x.r, x.col0 + c,
      drainElem (slotEF x.slot) (slotSat x.slot) (slotNanp x.slot) (decode32 (regs.get c (epA w))))))) regs
  else if epUsesH w then (j.codes s e (2 + i) (x.rect w)).andThen fun s f => .ok s (epRegs e x w h.ef f regs)
  else .ok s (epRegs e x w 0 (fun _ _ => 0) regs)

/-- The words of a program up to its end on the row, one after the other (R216). -/
def epRun (e : Env) (j : Job) (x : EpRow) : List Word → Nat → State → EpRegs → Got EpRegs
  | [], _, s, regs => .ok s regs
  | w :: ws, i, s, regs =>
    if w == 0 then .ok s regs
    else (epWord s e j x w i regs).andThen fun s regs => epRun e j x ws (if epUsesH w then i + 1 else i) s regs

/-- A row of `mdrain` (R214), plainly or through a program. -/
def workDrain (s : State) (e : Env) (j : Job) (i fs : Nat) (en : Bool) (prg : Nat) : Ran :=
  let a := j.h 1
  let slot := e.la.fs fs
  let o := (j.cap 0).setWidth 32
  let k := s.core (tCore e.t)
  let acc := tileOf k a.uid
  let r := (ownRows (tLane j.thread) a.rows).getD i 0
  let i32 := a.ef == 14
  if !en then
    .ok (putCodes s e (j.h 0).grid ((List.range a.cols).map (fun c => (coordRow o + r, coordCol o + c,
      drainElem (slotEF slot) (slotSat slot) (slotNanp slot) (accVal i32 (acc.cell r c)))))) 0
  else
    let start : EpRegs := (List.range a.cols).map (fun c =>
      [if i32 then toF32 (accVal true (acc.cell r c)) else acc.cell r c, 0, 0, 0])
    (epRun e j ⟨slot, coordRow o, coordCol o, r, a.cols⟩ (k.prog prg).words 0 s start).ran fun s _ => .ok s 0

/-- The words of a program from an address up to its first zero word, at most n (R215). -/
def pullProgram (s : State) (e : Env) (j : Job) (va : Nat) : Nat → Got (List Word)
  | 0 => .ok s []
  | n + 1 => (pullRange s e j.path j.reader (va % 2 ^ 57) 4).andThen fun s v =>
    if v == 0 then .ok s [0] else (pullProgram s e j (va + 4) n).andThen fun s ws => .ok s (BitVec.ofNat 32 v :: ws)

/-- `epild` (R215): the words that the unit checked; a restored job reads them again. -/
def workEpild (s : State) (e : Env) (j : Job) (n : Nat) : Ran :=
  let put_ (s : State) (ws : List Word) : Ran :=
    let k := s.core (tCore e.t)
    .ok (s.setCore (tCore e.t) { k with progs := put k.progs n { k.prog n with words := ws } }) 0
  if 1 < j.caps.length then put_ s ((j.caps.drop 1).map (·.setWidth 32))
  else (pullProgram s e j (j.cap 0).toNat 32).ran fun s ws =>
    match epCut ws with
    | some ws => if ws.all epWordOk then put_ s ws else .ok s 0
    | none => .ok s 0

/-! The fix-up of a split tile (R256). -/

/-- The cells of a part in its slot, read at the home row by row: each row as a number. -/
def partRows (s : State) (e : Env) (j : Job) (addr cols : Nat) : Nat → Got (List Nat)
  | 0 => .ok s []
  | n + 1 => (partRows s e j addr cols n).andThen fun s rows =>
    (pullRange s e (.slice 0) j.reader (addr + 1024 * n) (4 * cols)).andThen fun s v => .ok s (rows ++ [v])

/-- The parts of a tile other than one's own, in order, each with its rows. -/
def partsRows (s : State) (e : Env) (j : Job) (cols rows : Nat) : List Nat → Got (List (List Nat))
  | [] => .ok s []
  | a :: as => (partRows s e j a cols rows).andThen fun s x => (partsRows s e j cols rows as).andThen fun s xs => .ok s (x :: xs)

/-- Whether a row operation uses the place of a part in memory (R325, R326). -/
def partWaits (s : State) (e : Env) (addr : Nat) (h : Handle) : Bool :=
  (List.range h.rows).any (fun r => (List.range ((4 * h.cols + 127) / 128)).any (fun i =>
    match e.xlat s ((addr + 1024 * r + 128 * i) % 2 ^ 57) .w with
    | .ok q => q.tgt == 0 && writeWaits s (lineOf q.pa)
    | _ => false))

/-- A part written to its slot, at the home. -/
def putPart (s : State) (e : Env) (addr : Nat) (h : Handle) (t : Tile) : State :=
  (positions h.rows h.cols).foldl (fun s p =>
    match e.xlat s ((addr + 4 * (256 * p.1 + p.2)) % 2 ^ 57) .w with
    | .ok q => physWrite s q 4 (t.cell p.1 p.2).toNat
    | _ => s) s

/-- One cell of the merge: the parts added in ascending KB (R256, R166, R168). -/
def mergeCell (i32 : Bool) : List Word → Word × Bool
  | [] => (0, false)
  | v :: vs => vs.foldl (fun r x =>
      if i32 then let y := accI32 r.1 x.toInt; (y.1, r.2 || y.2) else ((faddOp .rne r.1 x).1, false)) (v, false)

/-- `wfix` (R256): the result stands after the piece in the job's captured values until it retires. A job that the
array replays after a failing test (R222) keeps the part that it had in the fix-up. -/
def workWfix (s : State) (e : Env) (j : Job) : Ran :=
  let h := j.h 0
  let la := e.la
  let table := la.dist.table.getD []
  let res (s : State) (v : DWord) : State :=
    let k := s.core (tCore e.t)
    s.setCore (tCore e.t) { k with jobs := k.jobs.map (fun x => if x.id == j.id then { x with caps := [j.cap 0, v] } else x) }
  match issuedPiece la e.tm.index (j.cap 0) with
  | none => .ok s 0
  | some p =>
    let parts := tilePieces table la.nteam p.tile
    let t := tileOf (s.core (tCore e.t)) h.uid
    let others := parts.filter (fun q => q.2.lo != p.lo)
    let out := others.any (fun q => !la.dist.arrived.any (fun a => a.1 == p.tile.first && a.2.1 == q.2.lo))
    let arrive (s : State) : State := s.modDist e.tm.lid (fun d => { d with
      arrived := d.arrived ++ [(p.tile.first, p.lo, e.tm.index)] })
    let replayed := 1 < j.caps.length
    if replayed && j.cap 1 == 0 then .ok s 0
    else if out && !replayed then
      let n := fixSlot table la.nteam e.tm.index p
      if partWaits s e (slotAddr la n) h then .wait s else
      let s := putPart s e (slotAddr la n) h t
      let s := s.modDist e.tm.lid (fun d => { d with shapes := put d.shapes n h.shape })
      .ok (res (arrive s) 0) 0
    else
      let slotOf (q : Nat × Piece) : Nat := fixSlot table la.nteam q.1 q.2
      let agree (q : Nat × Piece) : Bool :=
        let d := findD la.dist.shapes (slotOf q) 0
        shRows d == h.rows && shCols d == h.cols && shEF d == h.ef
      if !others.all agree then .mismatch
      else
        (partsRows s e j h.cols h.rows (others.map (fun q => slotAddr la (slotOf q)))).ran fun s rows =>
        let i32 := h.ef == 14
        let other (q : Nat × Piece) (r c : Nat) : Word :=
          let n := (others.map (·.2.lo)).idxOf q.2.lo
          BitVec.ofNat 32 ((rows.getD n []).getD r 0 / 2 ^ (32 * c))
        let cell (r c : Nat) : Word × Bool :=
          mergeCell i32 (parts.map (fun q => if q.2.lo == p.lo then t.cell r c else other q r c))
        let ws := (positions h.rows h.cols).map (fun x => (x.1, x.2, cell x.1 x.2))
        let s := setCells s e h.uid (ws.map (fun w => (w.1, w.2.1, w.2.2.1))) (fun z => z || ws.any (fun w => w.2.2.2))
        .ok (res (if replayed then s else arrive s) 1) 0

/-! Gathers (R233, R234). -/

/-- A decoded row: its codes with their values and DW, or the address of a malformed byte. -/
inductive RowRead where
  | ok (els : List (Nat × Word × Bool))
  | bad (addr : Nat)

/-- Row r of a fetch handle read and decoded (R229 to R231). Of two faults of one row, a set padding bit and an
all-zero element, the padding byte is the one reported (R230 gives no order; DESIGN CHOICE, log 60). -/
def readRow (s : State) (e : Env) (path : Path) (rd : Reader) (h : Handle) (slot : DWord) (r : Nat) : Got RowRead :=
  let cs := List.range h.cols
  let el (code scale : Nat) : Nat × Word × Bool := (code, decodeFetch slot code scale)
  if h.lay == 3 then
    let b := bitmapSpan h r (h.cols - 1)
    (pullRange s e path rd b.1 b.2).andThen fun s v =>
      match badPadding h b v with
      | some a => .ok s (.bad a)
      | none =>
        let n := (bitmapBit h r h.cols v).2
        (pullRange s e path rd (valuesAt h r) (packBytes n h.w)).andThen fun s x =>
          let code (i : Nat) : Nat := x / 2 ^ (h.w * i) % 2 ^ h.w
          match (List.range n).find? (fun i => code i == 0) with
          | some i => .ok s (.bad (valuesAt h r + h.w * i / 8))
          | none => .ok s (.ok (cs.map (fun c =>
              let b := bitmapBit h r c v
              if b.1 then el (code b.2) 0 else (0, 0, false))))
  else
    (pullRange s e path rd (h.loc.toNat + shPitch h.shape * r) (fetchRowBytes h slot)).andThen fun s x =>
      if slotSF slot == 0 then .ok s (.ok (cs.map (fun c => el (x / 2 ^ (h.w * c) % 2 ^ h.w) 0)))
      else
        let bb := blockBytes slot h.w
        let sb := scaleBytes (slotSF slot)
        .ok s (.ok (cs.map (fun c =>
          let o := 8 * (c / slotBS slot * bb)
          el (x / 2 ^ (o + 8 * sb + h.w * (c % slotBS slot)) % 2 ^ h.w) (x / 2 ^ o % 2 ^ (8 * sb)))))

/-- Row i of a gather (R233): the index read, and the row decoded and written whole. A T2 code 0b10 is never written on
(R157): it is the 0 that it decodes as. -/
def workGather (s : State) (e : Env) (j : Job) (i : Nat) : Ran :=
  let d := j.h 0
  let f := j.h 1
  let ix := j.h 2
  let slot := e.la.fs (j.cap 1).toNat
  let q := j.cap 0
  let pos := gqP0 q + i
  (j.codes s e 2 ⟨pos / ix.cols, pos % ix.cols, 1, 1⟩).ran fun s fi =>
    let row := fi (pos / ix.cols) (pos % ix.cols)
    let out (g : Nat → Nat) : List (Nat × Nat × Nat) := (List.range f.cols).map (fun c => (gqRow0 q + i, c, g c))
    if row == 0xFFFFFFFF then .ok (putCodes s e d.grid (out (fun _ => 0))) 0
    else if f.rows ≤ row then .lost 2
    else (readRow s e (.damson j.hint) j.reader f slot row).ran fun s r =>
      match r with
      | .bad a => .decode (trapAttr 0x0D (a % 2 ^ 57) j.ua)
      | .ok els =>
        let raw := slotSF slot == 0 && d.ef == slotEF slot
        .ok (putCodes s e d.grid (out (fun c =>
          let x := els.getD c (0, 0, false)
          if raw then (if d.ef == 13 && x.1 == 2 then 0 else x.1) else (narrowElem d.ef false (decode32 x.2.1)).1)))
          (if els.any (fun x => x.2.2) then sDW else 0)

/-! Currant (R236 to R239). -/

/-- Element e of a handle written, counted row-major (R235). -/
def putElem (s : State) (e : Env) (h : Handle) (i v : Nat) : State := putCode s e h.grid (i / h.cols) (i % h.cols) v

/-- Elements written in order. -/
def putElems (s : State) (e : Env) (h : Handle) (ws : List (Nat × Nat)) : State :=
  ws.foldl (fun s w => putElem s e h w.1 w.2) s

/-- The status record (R236). -/
def putStatus (s : State) (e : Env) (t : Handle) (stop : Option Nat) (a next : Nat) : State :=
  let w := match stop with | some j => j * 65536 + 2 | none => 1
  putElems s e t [(0, w), (1, a), (2, next), (3, 0)]

/-- The placing loop of `ksort` (R237) from key value j: offsets and positions, and where it stopped. -/
def sortFrom (keys : List Nat) (o32 : Bool) (base nk : Nat) :
    Nat → Nat → Nat → List (Nat × Nat) × List (Nat × Nat) × Option Nat × Nat
  | 0, _, pos => ([], [], none, pos)
  | fuel + 1, j, pos =>
    if nk ≤ j then ([], [], none, pos)
    else if !o32 && 65535 < pos - base then ([], [], some j, pos)
    else
      let here := (List.range keys.length).filter (fun i => keys.getD i 0 == j)
      let r := sortFrom keys o32 base nk fuel (j + 1) (pos + here.length)
      ((j, pos - base) :: r.1, (List.range here.length).map (fun n => (pos + n, here.getD n 0)) ++ r.2.1, r.2.2)

/-- `ksort` (R237): captured handles keys, permutation, counts, offsets, status. -/
def workSort (s : State) (e : Env) (j : Job) (o32 : Bool) : Ran :=
  let k := j.h 0
  (j.codes s e 0 k.whole).ran fun s f =>
    let keys := (List.range k.elems).map (fun i => f (i / k.cols) (i % k.cols))
    let nk := (j.h 2).elems
    let cnt (v : Nat) : Nat := (keys.filter (· == v)).length
    let counts := (List.range nk).map cnt
    let start := ksStart ((j.cap 0).setWidth 32)
    let base := (counts.take start).foldl (· + ·) 0
    let r := sortFrom keys o32 base nk (nk + 1) start base
    let s := putElems s e (j.h 2) ((List.range nk).map (fun v => (v, counts.getD v 0)))
    let s := putElems s e (j.h 3) r.1
    let s := putElems s e (j.h 1) r.2.1
    .ok (putStatus s e (j.h 4) r.2.2.1 (keys.length - counts.foldl (· + ·) 0) r.2.2.2) 0

/-- The packing loop of `kpack` (R239) from row r: row offsets, stream writes and bitmap bits, and where it
stopped. -/
def packFrom (nz : Nat → Nat → Bool) (code : Nat → Nat → Nat) (rows cols p0 : Nat) :
    Nat → Nat → Nat → List (Nat × Nat) × List (Nat × Nat) × List (Nat × Bool) × Option Nat × Nat
  | 0, _, pos => ([], [], [], none, pos)
  | fuel + 1, r, pos =>
    if rows ≤ r then ([], [], [], none, pos)
    else if 255 < pos - p0 then ([], [], [], some r, pos)
    else
      let cs := (List.range cols).filter (nz r)
      let x := packFrom nz code rows cols p0 fuel (r + 1) (pos + cs.length)
      ((r, pos - p0) :: x.1, (List.range cs.length).map (fun n => (pos + n, code r (cs.getD n 0))) ++ x.2.1,
        (List.range cols).map (fun c => (cols * r + c, nz r c)) ++ x.2.2.1, x.2.2.2)

/-- An element that is not zero under R153. -/
def elemNonzero (ef code : Nat) : Bool :=
  match decodeElem ef code with
  | .fin _ m _ => m != 0
  | _ => true

/-- Bit e of a bitmap handle written. -/
def putBit (s : State) (e : Env) (h : Handle) (i : Nat) (b : Bool) : State :=
  let g := h.grid
  let bit := g.bit (i / 32 / h.cols) (i / 32 % h.cols) + i % 32
  if g.lvl == 2 then putView s e g.base bit 1 (if b then 1 else 0)
  else
    let k := s.core (tCore e.t)
    s.setCore (tCore e.t) { k with tiles := adjust k.tiles g.uid (fun t =>
      { t with bytes := setBits t.bytes bit 1 (if b then 1 else 0) }) }

/-- `kpack` (R239): captured handles source, stream, bitmap, row offsets, status. -/
def workPack (s : State) (e : Env) (j : Job) : Ran :=
  let a := j.h 0
  (j.codes s e 0 a.whole).ran fun s f =>
    let nz (r c : Nat) : Bool := elemNonzero a.ef (f r c)
    let start := ksStart ((j.cap 0).setWidth 32)
    let p0 := ((positions start a.cols).filter (fun p => nz p.1 p.2)).length
    let x := packFrom nz f a.rows a.cols p0 (a.rows + 1) start p0
    let s := putElems s e (j.h 3) x.1
    let s := x.2.2.1.foldl (fun s w => putBit s e (j.h 2) w.1 w.2) s
    let s := if x.2.2.2.1.isNone then
        (List.range ((a.elems + 31) / 32 * 32 - a.elems)).foldl (fun s i => putBit s e (j.h 2) (a.elems + i) false) s
      else s
    let s := putElems s e (j.h 1) x.2.1
    .ok (putStatus s e (j.h 4) x.2.2.2.1 x.2.2.2.2 x.2.2.2.2) 0

/-- The virtual addresses that two regions of memory both hold. -/
def Region.common : Region → Region → List Nat
  | .mem a lo hi, .mem a' lo' hi' =>
    if a == a' then (List.range (min hi hi' - max lo lo')).map (max lo lo' + ·) else []
  | _, _ => []

/-- The bytes that some write of a job shares with a read or with a later write of it. -/
def sharedBytes (reads : List Region) : List Region → List Nat
  | [] => []
  | w :: ws => (reads ++ ws).flatMap w.common ++ sharedBytes reads ws

/-- The overlapping bytes of a Currant job's level-M regions are left unspecified (R235, log 2). -/
def Ran.freed (r : Ran) (e : Env) (j : Job) : Ran :=
  match r with
  | .ok s st => .ok ((sharedBytes j.reads j.writes).foldl (fun s v =>
      match e.xlat s (v % 2 ^ 57) .w with
      | .ok p => { s with dram := Memory.write s.dram p.pa (Config.freeByte s.free), free := s.free + 1 }
      | _ => s) s) st
  | r => r

/-! Any job. -/

/-- The parts in which a job performs: rows of its destination or lines of it, chunks of a product, rows of a drain or
gather, or the whole. -/
def Job.parts (j : Job) : Nat :=
  let d := j.h 0
  match j.cmd with
  | .tcopy _ _ _ _ _ => if j.copyWhole then 1 else (rectOf (j.cap 0)).rows
  | .tfill _ _ _ _ => (rectOf (j.cap 0)).rows
  | .tadd _ _ _ _ | .tmul _ _ _ _ | .tfma _ _ _ _ | .tcvt _ _ _ _ _ | .ttr _ _ _
  | .tredAdd _ _ _ _ | .tredMax _ _ _ _ | .tredMin _ _ _ _ => d.rows
  | .mplane _ _ _ _ _ => if d.lay == 1 then d.rows else d.cols
  | .mma _ _ _ _ | .mmas _ _ _ _ _ | .gmm _ _ _ _ _ => j.passes * j.chunks
  | .mdrain _ _ _ _ _ _ _ _ => (ownRows (tLane j.thread) (j.h 1).rows).length
  | .fgett _ _ _ _ _ => gqNm1 (j.cap 0) + 1
  | _ => 1

/-- A part of a job (R179). -/
def work (s : State) (e : Env) (j : Job) (i : Nat) : Ran :=
  match j.cmd with
  | .tcopy _ _ _ _ _ => workCopy s e j i
  | .tfill _ _ _ _ => workFill s e j i
  | .tadd _ _ _ _ => workElementwise s e j i false (fun a b _ => (addVal .rne a b).1) (fun a b _ => a + b)
  | .tmul _ _ _ _ => workElementwise s e j i false (fun a b _ => (mulVal a b).1) (fun a b _ => a * b)
  | .tfma _ _ _ _ => workElementwise s e j i true (fun a b d => (fmaVal .rne a b d).1) (fun a b d => a * b + d)
  | .tcvt _ sat _ _ _ => workConvert s e j i sat
  | .tredAdd _ axis _ _ => workReduce s e j i axis (faddOp .rne) (· + ·)
  | .tredMax _ axis _ _ => workReduce s e j i axis (fminmaxOp true) max
  | .tredMin _ axis _ _ => workReduce s e j i axis (fminmaxOp false) min
  | .ttr _ _ _ => workTranspose s e j i
  | .mplane _ fs _ _ _ => workPlane s e j i fs.toNat
  | .mma _ _ _ _ | .gmm _ _ _ _ _ => workMma s e j i
  | .mmas _ _ _ _ _ => workMmas s e j i
  | .mzero _ _ => workMzero s e j
  | .mdrain _ fs _ en prg _ _ _ => workDrain s e j i fs.toNat en prg.toNat
  | .epild _ n _ => workEpild s e j n.toNat
  | .wfix _ _ _ _ => workWfix s e j
  | .fgett _ _ _ _ _ => workGather s e j i
  | .ksort _ o32 _ _ _ _ => (workSort s e j o32).freed e j
  | .kpack _ _ _ _ _ => (workPack s e j).freed e j
  | _ => .ok s 0

/-- What a job does once its last part has performed: the status bits that it gathered (R162), and the drained cells of
a drain with Z = 1 (R214). -/
def finishWork (s : State) (e : Env) (j : Job) : State :=
  match j.cmd with
  | .tcvt _ _ fs _ _ | .mplane _ fs _ _ _ => setStatus s (teamKey j.thread) fs.toNat j.stat
  | .fgett _ _ _ _ _ => setStatus s (teamKey j.thread) (j.cap 1).toNat j.stat
  | .mdrain _ _ z _ _ _ _ _ => if z then zeroRows s e j (j.h 1) else s
  | _ => s

/-- Whether a job writes an accumulator, and so retires only after a passing self-test (R221). -/
def writesAcc (i : Instr) : Bool :=
  match i with
  | .mma _ _ _ _ | .mmas _ _ _ _ _ | .gmm _ _ _ _ _ | .mzero _ _ | .wfix _ _ _ _ => true
  | .mdrain _ _ z _ _ _ _ _ => z
  | _ => false

/-! The order of parts, and step counters (R223, R234, R318). -/

/-- A number placed in a list sorted by a key. -/
def insertBy (key : Nat → Nat) (x : Nat) : List Nat → List Nat
  | [] => [x]
  | y :: ys => if key x ≤ key y then x :: y :: ys else y :: insertBy key x ys

/-- The numbers below n in the order of a key. -/
def sortBy (key : Nat → Nat) : Nat → List Nat
  | 0 => []
  | n + 1 => insertBy key n (sortBy key n)

/-- The part that a job performs next, none left being none: in ascending order, but that the parts of a tile or copy job at the bank cores
proceed independently (R318). -/
def Job.nextPart (j : Job) : Option Nat :=
  if j.parts ≤ j.part then none
  else if j.bank && (j.engine == .tile || j.engine == .copy) then
    (sortBy (Config.partKey (tCore j.thread) j.id) j.parts)[j.part]?
  else some j.part

/-- An interval of memory. -/
def Region.isMem : Region → Bool
  | .mem _ _ _ => true
  | .tile _ _ _ _ _ _ | .store _ => false

/-- The destination rows of a part at the bank cores (R318): a row of its rectangle, those of a drain's row, or
everything that the job writes. -/
def Job.target (j : Job) (asn i : Nat) : List Region :=
  let d := j.h 0
  match j.cmd with
  | .tcopy _ _ _ _ _ =>
    let r := rectOf (j.cap 0)
    if j.copyWhole then j.writes else [d.region asn ⟨r.r0 + i, r.c0, 1, r.cols⟩ none]
  | .tfill _ _ _ _ => let r := rectOf (j.cap 0); [d.region asn ⟨r.r0 + i, r.c0, 1, r.cols⟩ none]
  | .mdrain _ _ _ _ _ _ _ _ => ((j.writes.filter (·.isMem)).zipIdx.filter (fun w => w.2 % max 1 j.parts == i)).map (·.1)
  | _ => if j.engine == .tile then [d.region asn ⟨i, 0, 1, d.cols⟩ none] else j.writes

/-- Whether a part of a job waits for a bank that a row operation holds (R325). -/
def Job.bankWaits (j : Job) (s : State) (e : Env) (i : Nat) : Bool :=
  j.bank && (j.target e.la.asp.asn.toNat i).any (regionBusy s e)

/-- Whether a job's step counter or gather index resumes it (R223, R234). -/
def resumable (i : Instr) : Bool :=
  match i with
  | .mma _ _ _ _ | .mmas _ _ _ _ _ | .gmm _ _ _ _ _ | .mdrain _ _ _ _ _ _ _ _ | .fgett _ _ _ _ _ => true
  | _ => false

/-- The progress of a job as its record holds it (R223, R409): the step counter of a matrix job, the gather index. -/
def Job.counter (j : Job) : Nat :=
  match j.cmd with
  | .mma _ _ _ _ | .mmas _ _ _ _ _ | .gmm _ _ _ _ _ =>
    if j.part = 0 then 0 else 2 ^ 31 + j.part / max 1 j.chunks % 4 * 2 ^ 18 + j.part % max 1 j.chunks
  | .mdrain _ _ _ _ _ _ _ _ => if j.part = 0 then 0 else 2 ^ 31 + j.part
  | .fgett _ _ _ _ _ => j.part
  | _ => 0

/-- The parts that a recorded counter says are done, under the width that the job counts by; at or beyond the last
the job has none left (R223). -/
def Job.partOf (j : Job) (p : Nat) : Nat :=
  match j.cmd with
  | .mma _ _ _ _ | .mmas _ _ _ _ _ | .gmm _ _ _ _ _ =>
    if p.testBit 31 then p / 2 ^ 18 % 4 * j.chunks + p % 2 ^ 18 else 0
  | .mdrain _ _ _ _ _ _ _ _ => if p.testBit 31 then p % 2 ^ 18 else 0
  | .fgett _ _ _ _ _ => p
  | _ => 0

end Sys2Proof.Machine
end

