-- ==== Sys2Proof/Machine/Rows.lean ====
section
/-! DEFINITION. Row operations and `bkfence` (R314 to R328): their checks, the events that start and
complete them, and the errors of bank cores. -/

namespace Sys2Proof.Machine

/-- Whether two tier 1 offsets lie in one subarray (R315): bits [38:32] and [22:10]. -/
def sameSubarray (a b : Nat) : Bool := a / 2 ^ 32 % 2 ^ 7 == b / 2 ^ 32 % 2 ^ 7 && a / 2 ^ 10 % 2 ^ 13 == b / 2 ^ 10 % 2 ^ 13

/-- The trap of a row's condition (R321): the address, and the kind in TINFO[63:57]. -/
def trapRow (code : BitVec 8) (va kind : Nat) : TrapInfo := trapOf code (va % 2 ^ 57 + kind * 2 ^ 57)

/-- What the check of one row address finds. -/
inductive RowChk where
  | ok (p : Phys)
  | trap (ti : TrapInfo)
  | wait (s : State)

/-- The conditions of R321 on one address, in their order; `dst` is the destination's offset, none for the
destination itself. -/
def checkRow (s : State) (e : Env) (a : DWord) (dst : Option Nat) : RowChk :=
  let va := a.toNat % 2 ^ 57
  if a.toNat % 1024 != 0 then .trap (trapRow 0x03 va 0)
  else if !canonical a then .trap (trapRow 0x04 va 0)
  else match e.xlat s va (if dst.isNone then .w else .r) with
  | .trap c => .trap (trapRow c va 0)
  | .moving => .wait (s.waitWalk e.t va)
  | .ats page => .wait (s.waitAts e page va dst.isNone)
  | .ok p =>
    if p.tgt != 0 || !tier1 p.pa then .trap (trapRow 0x0F va 9)
    else match dst with
    | some d => if sameSubarray p.pa d then .ok p else .trap (trapRow 0x0F va 8)
    | none => .ok p

/-- The operand rows checked in field order after the destination, with their addresses and translations. -/
def checkRows (s : State) (e : Env) (dst : Nat) : List DWord → List Phys → (List Phys → Outcome) → Outcome
  | [], ps, k => k ps.reverse
  | a :: as, ps, k =>
    match checkRow s e a (some dst) with
    | .trap ti => .next (raiseTrap s e.t ti)
    | .wait s => .next s
    | .ok p => checkRows s e dst as (p :: ps) k

/-- A row operation as it issues (R320, R321): op 0 majority, 1 and, 2 or, 3 not, 4 copy. -/
def rowIssue (s : State) (c : Ctl) (op : BitVec 3) (xd : Reg) (srcs : List Reg) : Outcome :=
  unit s Mode.counted c 1 fun e =>
  operands s e ((xd :: srcs).flatMap (fun r => [r, r + 1])) fun s e =>
    let d := e.th.read64 xd
    let as := srcs.map e.th.read64
    match checkRow s e d none with
    | .trap ti => .next (raiseTrap s e.t ti)
    | .wait s => .next s
    | .ok p =>
      checkRows s e p.pa as [] fun ps =>
        .next (issueAccess s e 1 ((xd :: srcs).flatMap (fun r => [r, r + 1])) (mkAccess s e (.rowop op (as.map (fun a => a.toNat % 2 ^ 57))) (d.toNat % 2 ^ 57) 1024 0
          (p :: ps) 0 false (some (e.flagNo c))) false id)

/-- `rowmaj` (R320). -/
def execRowmaj (c : Ctl) (xd xa xb xc : Reg) (s : State) : Outcome := rowIssue s c 0 xd [xa, xb, xc]
/-- `rowand` (R320). -/
def execRowand (c : Ctl) (xd xa xb : Reg) (s : State) : Outcome := rowIssue s c 1 xd [xa, xb]
/-- `rowor` (R320). -/
def execRowor (c : Ctl) (xd xa xb : Reg) (s : State) : Outcome := rowIssue s c 2 xd [xa, xb]
/-- `rownot` (R320). -/
def execRownot (c : Ctl) (xd xa : Reg) (s : State) : Outcome := rowIssue s c 3 xd [xa]
/-- `rowcp` (R320). -/
def execRowcp (c : Ctl) (xd xa : Reg) (s : State) : Outcome := rowIssue s c 4 xd [xa]

/-- Row operations. -/
def AccKind.isRow : AccKind → Bool
  | .rowop _ _ => true
  | _ => false

/-- `bkfence` (R324): it completes once the thread's row operations and maintenance have completed and its
jobs at the bank cores have retired; no younger unit issues before. -/
def execBkfence (c : Ctl) (s : State) : Outcome :=
  unit s { settled := true, long := true } c 1 fun e =>
    if e.th.accs.any (fun a => a.kind.isRow || a.kind.isMaint)
      || (s.core (tCore e.t)).jobs.any (fun j => j.thread == e.t && j.bank) then s.stall
    else .next (settle s e c 1 [])

/-! The microprogram (R320, R322). -/

/-- All ones of a row. -/
def rowOnes : Nat := 2 ^ 8192 - 1

/-- The result row from the operand rows. -/
def rowResult (op : BitVec 3) (rows : List Nat) : Nat :=
  let a := rows.getD 0 0
  let b := rows.getD 1 0
  let c := rows.getD 2 0
  match op.toNat with
  | 0 => (a &&& b) ||| (b &&& c) ||| (a &&& c)
  | 1 => a &&& b
  | 2 => a ||| b
  | 3 => a ^^^ rowOnes
  | _ => a

/-- An access of a thread by its number. -/
def Thread.acc? (th : Thread) (id : Nat) : Option Access := th.accs.find? (fun a => a.id == id)

/-- An access of a thread changed. -/
def Thread.modAcc (th : Thread) (id : Nat) (f : Access → Access) : Thread :=
  { th with accs := th.accs.map (fun a => if a.id == id then f a else a) }

/-- An access that has performed leaves the thread's list and its flag is decremented (R30). -/
def Thread.dropAcc (th : Thread) (a : Access) : Thread :=
  { (th.flagDown? a.flag) with accs := th.accs.filter (fun x => x.id != a.id) }

/-- The thread and the access that an event names. -/
def withAccess (s : State) (t acc : Nat) (k : Env → Access → Outcome) : Outcome :=
  match s.env t with
  | none => .fault .noSuchInstance
  | some e =>
    match e.th.acc? acc with
    | none => .fault .noSuchInstance
    | some a => k e a

/-- An access that halted its team for good: it leaves the list and its flag stands (R327). -/
def abandon (s : State) (t : Nat) (a : Access) (ti : TrapInfo) : State :=
  attributedTrap (s.modThread t (fun th => { th with accs := th.accs.filter (fun x => x.id != a.id) })) t ti

/-- Whether a row operation of a lower LANE of the issue set has still to reach its job queue (R323). -/
def rowLaneFirst (s : State) (t : Nat) (a : Access) : Bool :=
  s.threads.any (fun x => tCore x.1 == tCore t && decide (tLane x.1 < tLane t) && x.2.accs.any (fun b =>
    b.iset == a.iset && b.kind.isRow && b.arrived.isNone))

/-- Whether a row operation that reached the job queue of a bank core earlier has still to start (R318, R325). -/
def queuedBefore (s : State) (rank bankCore : Nat) : Bool :=
  s.threads.any (fun x => x.2.accs.any (fun b => b.kind.isRow && !b.started && !b.moved
    && b.arrived.any (fun r => decide (r < rank)) && (b.phys.head?).any (fun p => bankCoreOf p.pa == bankCore)))

/-- ROW_OPERATION_START: once its unit has committed and every older access of the thread to its rows has performed,
the operation reaches its bank core's job queue, the threads of an issue set in ascending LANE (R323, R318). There it
starts in its turn, when the bank's ticket is free (R325); the operand rows are read from DRAM as the microprogram
starts (R322). A bank out of service halts the team (R357). -/
def execRowOperationStart (t acc : Nat) (s : State) : Outcome :=
  withAccess s t acc fun e a =>
    match a.kind, a.phys with
    | .rowop op _, d :: ps =>
      if !a.commit || a.started || a.moved || !e.th.inOrder a then s.stall
      else match a.arrived with
      | none =>
        if rowLaneFirst s t a then s.stall
        else .next ({ s with nextPub := s.nextPub + 1 }.setThread t
          (e.th.modAcc acc (fun a => { a with arrived := some s.nextPub })))
      | some rank =>
      if queuedBefore s rank (bankCoreOf d.pa) then s.stall
      else if s.badBanks.contains (bankOf d.pa) then
        .next (abandon s t a (trapAttr 0x0F (a.va + 3 * 2 ^ 57) a.ua))
      else if ticketHeld s d.pa then s.stall
      else
        let v := rowResult op (ps.map (fun p => Memory.readN s.dram p.pa 1024))
        .next ({ s with tickets := put s.tickets (bankOf d.pa) t }.setThread t
          (e.th.modAcc acc (fun a => { a with started := true, data := v })))
    | _, _ => .fault .noSuchInstance

/-- ROW_OPERATION_COMPLETE (R322): the destination row is written in DRAM, no cache changes, the ticket is
released and the flag decremented. -/
def execRowOperationComplete (t acc : Nat) (s : State) : Outcome :=
  withAccess s t acc fun e a =>
    match a.kind, a.phys with
    | .rowop _ _, d :: _ =>
      if !a.started then s.stall
      else .next ({ s with
        dram := Memory.writeN s.dram d.pa 1024 a.data
        tickets := del s.tickets (bankOf d.pa) }.setThread t (e.th.dropAcc a))
    | _, _ => .fault .noSuchInstance

/-! Errors (R327, R328). -/

/-- n bytes of DRAM given values that nothing constrains. -/
def freeBytes (m : Memory) (a free : Nat) : Nat → Memory
  | 0 => m
  | n + 1 => freeBytes (m.write a (Config.freeByte free)) (a + 1) (free + 1) n

/-- An entry of a bank core's error log (R328); the slot and the tag are the device's. -/
def errorEntry (kind : BitVec 4) (pa core : Nat) (free : Word) : DWord :=
  BitVec.ofNat 64 (2 ^ 63 + kind.toNat * 2 ^ 59 + pa / 2 ^ 19 % 16 * 2 ^ 55 + pa / 2 ^ 32 % 128 * 2 ^ 48
    + pa / 2 ^ 23 % 512 * 2 ^ 39 + free.toNat % 16 * 2 ^ 35 + core % 256 * 2 ^ 27 + free.toNat / 16 % 2 ^ 11 * 2 ^ 16)

/-- An entry joins the log of the bank core, which keeps the eight most recent (R328). -/
def logError (s : State) (kind : BitVec 4) (pa core : Nat) : State :=
  let b := bankCoreOf pa
  let l := findD s.errlog b [] ++ [errorEntry kind pa core (Config.freeWord s.free)]
  { s with errlog := put s.errlog b (l.drop (l.length - 8)), free := s.free + 1 }

/-- The DRAM rows of an interval of virtual memory, by number. -/
def Region.dramRows : Region → List Nat
  | .mem _ lo hi => (List.range ((hi - 1) / 1024 + 1 - lo / 1024)).map (lo / 1024 + ·)
  | .tile _ _ _ _ _ _ | .store _ => []

/-- A fault of a bank core's ALU in the next part of a job (R327, kind 4): the part is abandoned, its destination row
of DRAM holds a value that nothing constrains, the flag stays counted until the team is restored, and the team halts
with 0x0F, attributed. The job's other parts proceed (R318). Of a part that writes several rows of DRAM, which of them
the fault meets is a free value (log 2). -/
def partError (s : State) (e : Env) (j : Job) (i : Nat) : Outcome :=
  let core := tCore e.t
  let rows := (j.target e.la.asp.asn.toNat i).flatMap (·.dramRows)
  match rows[(Config.freeWord s.free).toNat % rows.length]? with
  | none => s.stall
  | some row =>
    let va := 1024 * row % 2 ^ 57
    let s := { s with free := s.free + 1 }
    let s := s.setCore core { s.core core with jobs := (s.core core).jobs.map (fun x =>
      if x.id == j.id then { x with part := x.part + 1, flag := none } else x) }
    let s := match e.xlat s va .w with
      | .ok p => { logError s 4 p.pa core with
          dram := freeBytes s.dram (p.pa / 1024 * 1024) (s.free + 1) 1024, free := s.free + 1025 }
      | _ => s
    .next (attributedTrap s e.t (trapAttr 0x0F (va + 4 * 2 ^ 57) j.ua))

/-- BANK_COMPUTE_ERROR (R327): of a started row operation (kinds 1 to 3), or of a job part at a bank core
(kind 4, the job of that number). The work is abandoned, the destination row holds a value that nothing
constrains, and the team halts with 0x0F, attributed. -/
def execBankComputeError (t acc : Nat) (kind : BitVec 4) (s : State) : Outcome :=
  if kind == 4 then
    match s.env t with
    | none => .fault .noSuchInstance
    | some e =>
      match (s.core (tCore t)).jobs.find? (fun j => j.id == acc && j.thread == t && j.bank) with
      | none => .fault .noSuchInstance
      | some j =>
        match j.nextPart with
        | some i => if j.state == .running then partError s e j i else s.stall
        | none => s.stall
  else withAccess s t acc fun _ a =>
    match a.kind, a.phys with
    | .rowop _ _, d :: _ =>
      if !a.started then s.stall
      else
        let s := { logError s kind d.pa (tCore t) with
          dram := freeBytes s.dram d.pa (s.free + 1) 1024, free := s.free + 1025
          tickets := del s.tickets (bankOf d.pa) }
        .next (abandon s t a (trapAttr 0x0F (a.va + kind.toNat * 2 ^ 57) a.ua))
    | _, _ => .fault .noSuchInstance

end Sys2Proof.Machine
end

