-- ==== Sys2Proof/Machine/Work.lean ====
section
/-! DEFINITION. The events of engine jobs: grants and timeouts of the allocators (R176), dispatch and
retirement (R181 to R185, R199), the array's self-test (R221, R222) and engine faults (R347). -/

namespace Sys2Proof.Machine

/-! Allocators (R176). -/

/-- A request leaves its allocator's queue. -/
def dropReq (s : State) (r : TallocReq) : State := s.dropTalloc r.thread

/-- TALLOC_GRANT (R176): the oldest request of an allocator is granted once enough is free and before its time is
over, and its unit completes; a handle that became valid meanwhile raises sub-cause 2 (R187). The allocator of a die
serves the requests of a clk once all of them have arrived. -/
def execTallocGrant (core : Nat) (lvl : BitVec 2) (s : State) : Outcome :=
  match tallocQueue s core lvl with
  | [] => s.stall
  | r :: _ =>
    match s.env r.thread with
    | none => .fault .noSuchInstance
    | some e =>
      if r.at_ + 4096 ≤ s.clk || (lvl == 1 && r.at_ == s.clk) then s.stall
      else if (e.tm.handle? r.h).isSome then
        .next (raiseTrap ((dropReq s r).waitFor r.thread .none) r.thread (trapTile 2 r.h))
      else if tallocFits s r then .next (grantTile (settle (dropReq s r) e Ctl.zero 1 []) r)
      else s.stall

/-- TALLOC_TIMEOUT (R176): the acting thread's request was not granted within 4,096 clk. -/
def execTallocTimeout (s : State) : Outcome :=
  match (s.allocS ++ (s.core (tCore s.cur)).allocs).find? (fun r => r.thread == s.cur) with
  | none => s.stall
  | some r =>
    if s.clk < r.at_ + 4096 then s.stall
    else .next (raiseTrap ((dropReq s r).waitFor s.cur .none) s.cur (trapTile 4 r.h))

/-! Jobs. -/

/-- A job of a core by its number. -/
def Core.job? (k : Core) (id : Nat) : Option Job := k.jobs.find? (fun j => j.id == id)

/-- A job of a core changed. -/
def State.modJob (s : State) (core id : Nat) (f : Job → Job) : State :=
  let k := s.core core
  s.setCore core { k with jobs := k.jobs.map (fun j => if j.id == id then f j else j) }

/-- A unit of the window completes with its register writes and its act at commit (R112). -/
def completeUnit (th : Thread) (seq : Nat) (ws : List (Reg × Word)) (act : CommitAct) : Thread :=
  let kbit := match th.window.find? (fun u => u.seq == seq) with | some u => u.kbit | none => false
  let undo := th.undoOf kbit ws
  { (th.writes kbit seq ws) with
    window := th.window.map (fun u => if u.seq == seq then { u with done := true, pend := [], undo := undo, act := act } else u) }

/-- A job discarded by its guard (R199, R185); a `wfix` unit then completes without effect. -/
def discardJob (s : State) (core : Nat) (j : Job) : State :=
  let s := dropJob s core j
  let s := match j.cmd with
    | .wfix _ _ _ _ => s.modThread j.thread (fun th => completeUnit th j.seq [] .none)
    | _ => s
  tryEndTeam s (teamKey j.thread)

/-- Whether a job waits for older accesses of its thread (R182, R323): overlapping stores; for a job at
the bank cores, every overlapping access and maintenance. -/
def jobWaits (e : Env) (j : Job) : Bool :=
  let asn := e.la.asp.asn.toNat
  let touches (a : Access) : Bool :=
    match a.kind with
    | .tld _ _ _ | .tst _ _ =>
      (j.reads ++ j.writes).any (Region.tile (tileOfVa a.va).1 a.element.1 a.element.2 1 1 none).overlaps
    | _ => a.ranges.any (fun r => (j.reads ++ j.writes).any (Region.mem asn r.1 (r.1 + r.2)).overlaps)
  e.th.accs.any (fun a => a.seq < j.seq && (j.bank || a.kind.isStore) && touches a)

/-- Whether the unit of a job has still to commit (R179): an older unit of its thread has, or it has not itself. The unit
of a `wfix` completes only as its job retires (R256). A restored job is of no unit. -/
def uncommitted (e : Env) (j : Job) : Bool :=
  j.seq != 0 && e.th.window.any (fun u => u.seq < j.seq || (u.seq == j.seq && u.done))

/-- Whether an older job of the footprint table conflicts (R181). -/
def hasEdge (k : Core) (j : Job) : Bool :=
  k.jobs.any (fun o => o.id < j.id && (o.conflicts true j.writes || o.conflicts false j.reads))

/-- Whether a job is the first undispatched one of its engine's queue (R179). -/
def atHead (k : Core) (j : Job) : Bool :=
  !k.jobs.any (fun o => o.id < j.id && o.engine == j.engine && (o.state == .queued || o.state == .stopped))

/-- The pages of an interval as a job at work finds them: translated, lost, moving, or asked of the host. -/
inductive Pages where
  | ok
  | lost (va : Nat)
  | moving
  | wait (s : State)

/-- The pages from an address up to `hi` (R184). -/
def pagesNow (s : State) (e : Env) (n : Need) (hi : Nat) : Nat → Nat → Pages
  | 0, _ => .ok
  | fuel + 1, va =>
    if hi ≤ va then .ok
    else match e.xlat s (va % 2 ^ 57) n with
    | .ok _ => pagesNow s e n hi fuel ((va / 65536 + 1) * 65536)
    | .trap _ => .lost (va % 2 ^ 57)
    | .moving => .moving
    | .ats page => .wait (s.request (dieOf (tCore e.t)) e.la.asp.pasid page (n == .w))

/-- The pages of all memory regions of a job. -/
def regionPages (s : State) (e : Env) (n : Need) : List Region → Pages
  | [] => .ok
  | .mem _ lo hi :: rs =>
    match pagesNow s e n hi ((hi - lo) / 65536 + 2) lo with
    | .ok => regionPages s e n rs
    | p => p
  | _ :: rs => regionPages s e n rs

/-- The pages that a job reads and then those that it writes. -/
def Job.pages (j : Job) (s : State) (e : Env) : Pages :=
  match regionPages s e .r j.reads with
  | .ok => regionPages s e .w j.writes
  | p => p

/-- The core writes back the dirty L1 words of a job's read intervals before a job that executes at a
slice (R184): the home takes the bytes, the words stay valid and clean, owned words stay owned. -/
def flushSpan (s : State) (e : Env) (hi : Nat) : Nat → Nat → State
  | 0, _ => s
  | fuel + 1, va =>
    if hi ≤ va then s
    else
      let n := min (hi - va) (128 - va % 128)
      let s := match e.xlat s (va % 2 ^ 57) .r with
        | .ok p =>
          if p.tgt != 0 then s
          else
            let core := tCore e.t
            let ln := lineOf p.pa
            match find? (s.core core).l1 ln with
            | none => s
            | some l =>
              let m := l.dirty &&& bytesOfMask (wordsOf (spanMask (p.pa % 128) n))
              if m == 0 then s
              else
                let s := homeMerge s ln l.data m
                let k := s.core core
                s.setCore core { k with l1 := put k.l1 ln { l with dirty := l.dirty &&& ~~~m, fresh := l.fresh &&& ~~~m } }
        | _ => s
      flushSpan s e hi fuel (va + n)

/-- Whether the home cannot take some dirty word of an interval now, a row operation using its place (R325, R326). -/
def flushHeld (s : State) (e : Env) (hi : Nat) : Nat → Nat → Bool
  | 0, _ => false
  | fuel + 1, va =>
    if hi ≤ va then false
    else
      let n := min (hi - va) (128 - va % 128)
      (match e.xlat s (va % 2 ^ 57) .r with
        | .ok p => p.tgt == 0 && writeWaits s (lineOf p.pa) && (match find? (s.core (tCore e.t)).l1 (lineOf p.pa) with
          | some l => l.dirty &&& bytesOfMask (wordsOf (spanMask (p.pa % 128) n)) != 0
          | none => false)
        | _ => false) || flushHeld s e hi fuel (va + n)

/-- Whether the write-back before a dispatch at a slice waits so. -/
def readsHeld (s : State) (e : Env) (j : Job) : Bool :=
  j.slice && j.reads.any (fun r => match r with | .mem _ lo hi => flushHeld s e hi ((hi - lo) / 128 + 2) lo | _ => false)

/-- The write-back before dispatch at a slice. -/
def flushReads (s : State) (e : Env) (j : Job) : State :=
  if !j.slice then s
  else j.reads.foldl (fun s r => match r with | .mem _ lo hi => flushSpan s e hi ((hi - lo) / 128 + 2) lo | _ => s) s

/-- A job suspended by an engine fault (R347): it keeps its entry, its flag and its progress. Kind 2 traps the team
at once. -/
def suspendJob (s : State) (core : Nat) (j : Job) (kind : BitVec 4) : State :=
  let s := s.modJob core j.id (fun x => { x with state := .suspended kind })
  if kind == 2 then attributedTrap s j.thread (trapAttr 0x0C (j.ua.toNat % 2 ^ 57 + kind.toNat * 2 ^ 57) j.ua) else s

/-- Whether the power limiter withholds the issue sets and the plane steps of a core in this clk (R367). -/
def withheld (s : State) (core : Nat) : Bool :=
  (s.throttle || s.hotDies.getLsbD (dieOf core)) && Config.withheld s.clk (dieOf core)

/-- The width of the array of a core (R220); a service core holds none (R356). -/
def coreWidth (s : State) (core : Nat) : Nat := if 256 ≤ core then 0 else arrayWidth (s.core core)

/-- Whether a job adds products chunk by chunk (R221). -/
def Job.product (j : Job) : Bool :=
  match j.cmd with
  | .mma _ _ _ _ | .mmas _ _ _ _ _ | .gmm _ _ _ _ _ => true
  | _ => false

/-- Whether the sequencer holds a part of a job back: after 1,024 chunk operations until a self-test has passed
(R221), and a plane step that the power limiter withholds (R367). -/
def sequencerWaits (s : State) (core : Nat) (j : Job) : Bool :=
  j.engine == .matrix && (1024 ≤ (s.core core).chunks || (j.product && withheld s core))

/-- A job whose last part has performed: it awaits a passing self-test if it writes an accumulator (R221). -/
def completeJob (s : State) (core : Nat) (e : Env) (j : Job) : State :=
  (finishWork s e j).modJob core j.id (fun x => { x with state := if writesAcc j.cmd then .ran else .done })

/-- What follows a part that has performed: the status bits gathered, the progress, one more chunk operation of the
array for a product, and the end of the job after its last part. -/
def partDone (s : State) (core : Nat) (e : Env) (j : Job) (st : BitVec 4) : State :=
  let j' := { j with part := j.part + 1, stat := j.stat ||| st }
  let s := s.modJob core j.id (fun x => { x with part := j'.part, stat := j'.stat })
  let s := if j.product then
      s.setCore core { s.core core with chunks := (s.core core).chunks + 1 }
    else s
  if j'.nextPart.isNone then completeJob s core e j' else s

/-- The next part of a dispatched job performs (R179, R223, R234, R318), once nothing holds it back. -/
def runPart (s : State) (core : Nat) (e : Env) (j : Job) : Outcome :=
  match j.nextPart with
  | none => .next (completeJob s core e j)
  | some i =>
    if j.engine == .matrix && coreWidth s core == 0 then .next (suspendJob s core j 3)
    else if j.walks || sequencerWaits s core j || j.bankWaits s e i then s.stall
    else match j.pages s e with
    | .lost va => .next (suspendJob (s.tell e.la.asp va) core j 1)
    | .moving => .next (s.modJob core j.id (fun x => { x with walks := true }))
    | .wait s => .next s
    | .ok =>
      match work s e j i with
      | .ok s st => .next (partDone s core e j st)
      | .wait s' => .next { s with reclass := s'.reclass, ats := s'.ats }
      | .lost kind => .next (suspendJob s core j kind)
      | .decode ti => .next (attributedTrap (s.modJob core j.id (fun x => { x with state := .done })) j.thread ti)
      | .mismatch => .next (trapUnit (freeJob s core j) j.thread j.seq (trapOf 0x0C 0))

/-- A job is dispatched (R181): a drain waits for a passing self-test first (R214), and a job of the matrix sequencer
is recorded with the parts that it has done (R222). A product counts its chunks under the width that the array has
when it is first dispatched (DESIGN CHOICE, log 16). -/
def dispatchJob (s : State) (core : Nat) (e : Env) (j : Job) : State :=
  let s := flushReads s e j
  let k := s.core core
  let drain := match j.cmd with | .mdrain _ _ _ _ _ _ _ _ => true | _ => false
  let j' := { j with
    state := if drain then .testing else .running, gok := true
    width := if j.width = 0 then coreWidth s core else j.width }
  s.setCore core { k with
    jobs := k.jobs.map (fun x => if x.id == j.id then j' else x)
    chkProg := if j.engine == .matrix then put k.chkProg j.id j.part else k.chkProg }

/-- Whether a job at the head of its queue is still held: by an older conflicting job (R181), an older access of its
thread (R182, R323), a schedule miss (R278), before it executes at a slice, write-backs on their way or held back
(R184, R325, R326), or, at Currant, a job still at work there (R235). -/
def dispatchWaits (s : State) (core : Nat) (e : Env) (j : Job) : Bool :=
  hasEdge (s.core core) j || jobWaits e j || j.miss.any (fun i => !e.la.resident i)
    || (j.slice && s.pubs.any (fun p => p.core == core)) || readsHeld s e j
    || (j.engine == .currant && (s.core core).jobs.any (fun o => o.engine == .currant && o.state == .running))

/-- Whether a save of a team stops its engines (R223, R234, R352 step 4): jobs that resume stop at their boundaries and
none is dispatched, once no `wfix` is left whose unit waits for it. -/
def stopped (s : State) (core : Nat) (e : Env) : Bool :=
  e.tm.quieting && !(s.core core).jobs.any (fun j => teamKey j.thread == teamKey e.t
    && (match j.cmd with | .wfix _ _ _ _ => true | _ => false))

/-- JOB_DISPATCH (R181, R199): the first job of its engine's queue, its guard resolved once, is discarded by a guard
that fails, else dispatched when nothing holds it; a dispatched job performs its next part. -/
def execJobDispatch (core job : Nat) (s : State) : Outcome :=
  match (s.core core).job? job with
  | none => .fault .noSuchInstance
  | some j =>
    match s.env j.thread with
    | none => .fault .noSuchInstance
    | some e =>
      if j.state == .running then (if resumable j.cmd && stopped s core e then s.stall else runPart s core e j)
      else if !(j.state == .queued || j.state == .stopped) || !atHead (s.core core) j || uncommitted e j || stopped s core e then
        s.stall
      else
        let open_ := j.guard != 0 && !j.gok
        if open_ && e.tm.guard j.guard == 2 then s.stall
        else if open_ && (e.tm.guard j.guard == 1) == j.gn then .next (discardJob s core j)
        else if dispatchWaits s core e j then
          (if open_ then .next (s.modJob core job (fun x => { x with gok := true })) else s.stall)
        else .next (dispatchJob s core e j)

/-- JOB_RETIRE (R185): a job whose writes have performed, and whose accumulator has passed a test (R221),
leaves the table; a `wfix` writes its register and its unit completes (R256). -/
def execJobRetire (core job : Nat) (s : State) : Outcome :=
  match (s.core core).job? job with
  | none => .fault .noSuchInstance
  | some j =>
    if j.state != .done then s.stall
    else
      let s := freeJob s core j
      let s := match j.cmd with
        | .wfix _ xd _ _ => s.modThread j.thread (fun th => completeUnit th j.seq [(xd, (j.cap 1).setWidth 32)] .none)
        | _ => s
      .next (tryEndTeam s (teamKey j.thread))

/-! The array's self-test (R221, R222). -/

/-- Whether a matrix job has performed parts since the last passing self-test (R221, R223). -/
def Job.untested (k : Core) (j : Job) : Bool := j.engine == .matrix && findD k.chkProg j.id 0 != j.part

/-- A matrix job at work or past its last part. -/
def Job.inFlight (j : Job) : Bool := j.engine == .matrix && (j.state == .running || j.state == .ran || j.state == .testing)

/-- Whether the sequencer tests the array now (R221, R223): after 1,024 chunk operations, before a drain, when it
falls idle or saves a team while a job awaits retirement, and for the jobs that a save stops. -/
def testDue (k : Core) : Bool :=
  1024 ≤ k.chunks || k.jobs.any (fun j => j.state == .testing)
    || (k.jobs.any (fun j => j.state == .ran)
      && (k.teams.any (·.2.quieting) || !k.jobs.any (fun j => j.engine == .matrix && j.state == .running)))
    || k.jobs.any (fun j => j.state == .running && resumable j.cmd && j.untested k
      && ((find? k.teams (teamKey j.thread % 4)).any (·.quieting)))

/-- A passing test: the checkpoint of every accumulator and the counters of the jobs in flight are recorded, the jobs
that awaited it may retire, and drains begin. -/
def testPassed (k : Core) : Core :=
  { k with
    chk := (k.tiles.filter (fun t => t.2.lvl == 3)).map (fun t => (t.1, t.2.cells))
    chkProg := (k.jobs.filter (fun j => j.engine == .matrix && j.state != .queued)).map (fun j => (j.id, j.part))
    chunks := 0
    jobs := k.jobs.map (fun j =>
      if j.state == .ran then { j with state := .done }
      else if j.state == .testing then { j with state := .running }
      else j) }

/-- A job rewound to its recorded counter (R222). -/
def rewind (prog : List (Nat × Nat)) (j : Job) : Job :=
  if j.engine != .matrix || j.state == .done then j
  else match find? prog j.id with
    | none => j
    | some n => { j with part := n, state := if j.state == .ran then .running else j.state }

/-- Every matrix job of a core suspended once all its bands are fenced (R222). -/
def suspendMatrix (k : Core) : Core :=
  { k with jobs := k.jobs.map (fun j =>
      if j.engine == .matrix && (j.inFlight || j.state == .queued || j.state == .stopped) then { j with state := .suspended 3 }
      else j) }

/-- A failing test (R222): its column bands are fenced, the accumulators restored from the checkpoint, the jobs
rewound, and the array is to be tested again before it works. -/
def testFailed (k : Core) (failed : BitVec 4) : Core :=
  let k := { k with
    fenced := k.fenced ||| failed
    tiles := k.tiles.map (fun t => (t.1, if t.2.lvl == 3 then { t.2 with cells := findD k.chk t.1 [] } else t.2))
    jobs := k.jobs.map (rewind k.chkProg)
    chunks := 1024 }
  if arrayWidth k == 0 then suspendMatrix k else k

/-- ARRAY_SELF_TEST (R221, R222): a test at one of the sequencer's points, with the column bands that failed. -/
def execArraySelfTest (core : Nat) (failed : BitVec 4) (s : State) : Outcome :=
  let k := s.core core
  if !testDue k then s.stall
  else .next (s.setCore core (if failed == 0 then testPassed k else testFailed k failed))

/-- ENGINE_FAULT (R347): a job that has dispatched or waits meets a fault and is suspended. -/
def execEngineFault (core job : Nat) (kind : BitVec 4) (s : State) : Outcome :=
  match (s.core core).job? job with
  | none => .fault .noSuchInstance
  | some j =>
    if j.state == .queued || j.state == .stopped || j.state == .running then .next (suspendJob s core j kind)
    else s.stall

/-- ENGINE_FAULT_RESUME (R347): firmware resumes a suspended job whose cause is resolved, or traps its team
with 0x0C. -/
def execEngineFaultResume (core job : Nat) (resolved : Bool) (s : State) : Outcome :=
  match (s.core core).job? job with
  | none => .fault .noSuchInstance
  | some j =>
    match j.state with
    | .suspended kind =>
      if resolved && kind != 2 then .next (s.modJob core job (fun x => { x with state := .stopped }))
      else .next (attributedTrap s j.thread (trapAttr 0x0C (j.ua.toNat % 2 ^ 57 + kind.toNat * 2 ^ 57) j.ua))
    | _ => s.stall

end Sys2Proof.Machine
end

