-- ==== Sys2Proof/Machine/Performing.lean ====
section
/-! DEFINITION. The events in which issued accesses perform: loads return, stores and atomics perform,
requests refused as moved are sent again (R293 to R305, R338, R408). -/

namespace Sys2Proof.Machine

/-! What holds an access back. -/

/-- Whether an access waits for timetable entries that it missed as it issued (R278). -/
def Access.stalls (e : Env) (a : Access) : Bool := a.miss.any (fun i => !e.la.resident i)

/-- Whether the unit of an access has met a trap in the window. -/
def Thread.trapped (th : Thread) (seq : Nat) : Bool := th.window.any (fun u => u.seq == seq && u.trap.isSome)

/-- Whether the sources of an access's unit have still to arrive (R107). -/
def Thread.awaits (th : Thread) (seq : Nat) : Bool := th.window.any (fun u => u.seq == seq && !u.sends.isEmpty)

/-- Whether an access cannot perform yet: refused as moved, after older accesses (R294), its unit trapped or without
its sources, or a stalling schedule miss. -/
def Access.held (e : Env) (a : Access) : Bool :=
  a.moved || e.th.trapped a.seq || e.th.awaits a.seq || !e.th.inOrder a || a.stalls e

/-- The virtual address and the needs of an access's translations, in the order of its `phys` (R333). -/
def Access.needs (a : Access) : List (Nat × Need) :=
  match a.kind with
  | .load _ _ | .loadc _ _ => [(a.va, .r)]
  | .fget _ _ _ spans => (spanBytes spans).map (fun v => (v, .r))
  | .store | .push => [(a.va, .w)]
  | .atom _ _ _ | .cas _ _ _ => [(a.va, .rw)]
  | .rowop _ srcs => (a.va, .w) :: srcs.map (fun v => (v, .r))
  | .tld _ _ _ | .tst _ _ | .cclean | .cinval | .pref => []

/-- The fault of an access that cannot be translated any more: precise at a unit that has not committed,
attributed to one that has (R299, R408, R347). -/
def faultAccess (s : State) (e : Env) (a : Access) (code : BitVec 8) (tinfo : Nat) : State :=
  let s := if code == 0x04 then s.tell e.la.asp tinfo else s
  if a.commit then
    attributedTrap (s.modThread e.t (fun th => th.dropAcc a)) e.t (trapAttr code tinfo a.ua)
  else trapUnit s e.t a.seq (trapOf code tinfo)

/-! Loads. -/

/-- The words of a value of a size, the lowest first; one register holds it zero- or sign-extended
(R300). -/
def loadWords (sgn : Bool) (size v : Nat) (rs : List Reg) : List (Reg × Word) :=
  match rs with
  | [r] => [(r, if sgn then BitVec.ofInt 32 (signedOf (8 * size) v) else BitVec.ofNat 32 v)]
  | _ => rs.zipIdx.map (fun p => (p.1, BitVec.ofNat 32 (v / 2 ^ (32 * p.2))))

/-- A load completes (R300, R112): its registers are written at their places, its flag is decremented. -/
def finishLoad (s : State) (t : Nat) (a : Access) (ws : List (Reg × Word)) (act : CommitAct) : State :=
  tryEndTeam (s.modThread t (fun th => completeUnit (th.dropAcc a) a.seq ws act)) (teamKey t)

/-- The reader that a thread's access is at the L1 (R265): `more` while other loads of its issue set to
the line have still to return. -/
def Access.reader (s : State) (e : Env) (a : Access) (ln : Nat) : Reader :=
  let other (t : Nat) (b : Access) : Bool :=
    b.iset == a.iset && (t != e.t || b.id != a.id) && b.kind.isLoad && b.phys.any (fun p => p.tgt == 0 && lineOf p.pa == ln)
  { g := gKey e.t, iset := some a.iset
    more := s.threads.any (fun x => tCore x.1 == tCore e.t && x.2.accs.any (other x.1))
    ldc := match a.kind with | .loadc n _ => some n | _ => none
    rc := 2
    turn := clusterOf e.tm (tGrp e.t) }

/-- The spans of an element read in order through Damson. -/
def readSpans (s : State) (e : Env) (a : Access) : List (Nat × Nat) → Got (List Nat)
  | [] => .ok s []
  | p :: ps =>
    (pullRange s e (.damson a.hint) (a.reader s e 0) p.1 p.2).andThen fun s v =>
      (readSpans s e a ps).andThen fun s vs => .ok s (v :: vs)

/-- What a read of Damson comes to for an `fget`. -/
def Got.fget {α : Type} (g : Got α) (e : Env) (a : Access) (k : State → α → Outcome) (s : State) : Outcome :=
  match g with
  | .ok s v => k s v
  | .wait s => .next s
  | .fault c va => .next (faultAccess s e a c va)

/-- The value of the element at a coordinate (R230, R231), `n` its packed position in a compressed handle: a compressed
element of code 0 is malformed. -/
def fgetElem (s : State) (e : Env) (a : Access) (h : Handle) (fs : Nat) (x : Word) (n : Nat) (reg : Reg) : Outcome :=
  let slot := e.la.fs fs
  let spans := elemSpans h slot (coordRow x) (coordCol x) n
  (readSpans s e a spans).fget e a (fun s vs =>
    let code := (vs.getLast?.getD 0) / 2 ^ elemShift h slot (coordCol x) n % 2 ^ h.w
    if h.lay == 3 && code == 0 then
      .next (trapUnit s e.t a.seq (trapDecode (spans.headD (0, 0)).1))
    else
      let v := decodeFetch slot code (vs.headD 0)
      .next (finishLoad s e.t a [(reg, v.1)] (if v.2 then .status fs sDW.toNat else .none))) s

/-- `fget` returns (R232): its bytes are read and decoded, those of a compressed element where the bitmap bytes, as they
are read, name them. -/
def fgetReturn (s : State) (e : Env) (a : Access) (hf : Nat) (x : Word) (reg : Reg) : Outcome :=
  match e.tm.handle? hf, e.bound? hf with
  | some h, some fs =>
    if h.lay == 3 then
      let b := bitmapSpan h (coordRow x) (coordCol x)
      (pullRange s e (.damson a.hint) (a.reader s e 0) b.1 b.2).fget e a (fun s v =>
        let bit := bitmapBit h (coordRow x) (coordCol x) v
        match badPadding h b v with
        | some bad => .next (trapUnit s e.t a.seq (trapDecode bad))
        | none =>
          if !bit.1 then .next (finishLoad s e.t a [(reg, (decodeFetch (e.la.fs fs) 0 0).1)] .none)
          else fgetElem s e a h fs x bit.2 reg) s
    else fgetElem s e a h fs x 0 reg
  | none, _ => .next (trapUnit s e.t a.seq (trapTile 1 hf))
  | some _, none => .next (trapUnit s e.t a.seq (trapTile 7 hf))

/-- Whether an older command of the thread still waits at the place that a load writes (R108). -/
def behindCommand (s : State) (e : Env) (a : Access) : Bool :=
  match e.th.unit? a.seq, a.kind.regs with
  | some u, r :: _ => olderCommand s e a.seq (siteOf s e u.before r) false
  | _, _ => false

/-- LOAD_RETURN (R293, R300): the value of a load is bound from the L1, the home, a remote or host home, or
tile storage, and written at its destination once the older commands of the thread there have been processed (R108). -/
def execLoadReturn (t acc : Nat) (s : State) : Outcome :=
  withAccess s t acc fun e a =>
    let load (sgn : Bool) (rs : List Reg) : Outcome :=
      match a.phys with
      | p :: _ =>
        if p.tgt != 0 then .next (finishLoad s t a (loadWords sgn a.size (physRead s p a.size) rs) .none)
        else match l1Read s (tCore t) (a.reader s e (lineOf p.pa)) p a.size a.hint with
          | .ok s v => .next (finishLoad s t a (loadWords sgn a.size v rs) .none)
          | .wait s => .next s
      | [] => .fault .noSuchInstance
    if a.held e || behindCommand s e a then s.stall
    else match a.kind with
    | .load sgn rs => load sgn rs
    | .loadc _ rs => load false rs
    | .fget hf x reg _ => fgetReturn s e a hf x reg
    | .tld _ h reg =>
      match find? (s.core (tCore t)).tiles (tileOfVa a.va).1 with
      | none => .next (trapUnit s t a.seq (trapTile 1 h))
      | some x =>
        let v := getBits x.bytes a.codeBit a.codeWidth
        .next (finishLoad s t a
          [(reg, if a.codeSigned then BitVec.ofInt 32 (signedOf a.codeWidth v) else BitVec.ofNat 32 v)] .none)
    | _ => .fault .noSuchInstance

/-! Stores. -/

/-- An access without a register result has performed: its flag is decremented (R301). -/
def finishStore (s : State) (t : Nat) (a : Access) : State :=
  tryEndTeam (s.modThread t (fun th => th.dropAcc a)) (teamKey t)

/-- A store's bytes written in the core's L1 or at a host or remote home (R287, R293). -/
def storeBytes (s : State) (t : Nat) (p : Phys) (size v : Nat) (h : BitVec 2) : ReadRes :=
  if p.tgt != 0 then .ok (physWrite s p size v) 0 else l1Write s (tCore t) (gKey t) p size v h t

/-- A store performs: its bytes are written, and it is done with. -/
def performStore (s : State) (t : Nat) (a : Access) (p : Phys) : ReadRes :=
  match storeBytes s t p a.size a.data a.hint with
  | .ok s v => .ok (finishStore s t a) v
  | .wait s => .wait s

/-- The other stores of an issue set to the line that a store writes, with their threads. -/
def storeSet (s : State) (t : Nat) (a : Access) : List (Nat × Nat) :=
  s.threads.flatMap (fun x => if tCore x.1 != tCore t || x.1 == t then [] else
    (x.2.accs.filter (fun b => b.iset == a.iset && (match b.kind with | .store | .push => true | _ => false)
      && b.phys.any (fun q => a.phys.any (fun p => q.tgt == p.tgt && lineOf q.pa == lineOf p.pa)))).map (fun b => (x.1, b.id)))

/-- A store of the issue set performs if it can: its unit, and those before it, commit where they have completed; not
between the atomics of an issue set on its bytes (R400). -/
def storeToo (s : State) (x : Nat × Nat) : State :=
  let s := commitAll s x.1 8
  match s.env x.1 with
  | none => s
  | some e =>
    match e.th.acc? x.2 with
    | none => s
    | some a =>
      match a.phys with
      | [] => s
      | p :: _ =>
        if !a.commit || a.held e || siteTaken s none p.tgt p.pa a.size then s
        else match performStore s x.1 a p with
        | .ok s _ | .wait s => s

/-- STORE_PERFORM (R301, R112, R398): a committed store, call-stack push or `tst` writes its bytes. The stores of one
issue set to one line are one access to it: after the first, the others perform with it, in ascending LANE order
(R265, R401; DEDUCED, log 1). Storage that has gone takes nothing (R177). -/
def execStorePerform (t acc : Nat) (s : State) : Outcome :=
  withAccess s t acc fun e a =>
    let store : Outcome :=
      match a.phys with
      | [] => .fault .noSuchInstance
      | p :: _ =>
        if siteTaken s none p.tgt p.pa a.size then s.stall
        else match performStore s t a p with
        | .ok s' _ => .next ((storeSet s t a).foldl storeToo s')
        | .wait s => .next s
    if !a.commit || a.held e then s.stall
    else match a.kind with
    | .store | .push => store
    | .tst _ _ =>
      let k := s.core (tCore t)
      .next (finishStore (s.setCore (tCore t) { k with tiles := adjust k.tiles (tileOfVa a.va).1 (fun x =>
        { x with bytes := setBits x.bytes a.codeBit a.codeWidth (a.data % 2 ^ 32) }) }) t a)
    | _ => .fault .noSuchInstance

/-! Atomics. -/

/-- The new value of an atomic operation on w bits (R303). -/
def atomNew (op : BitVec 4) (w old v : Nat) : Nat :=
  let s (x : Nat) : Int := signedOf w x
  match op.toNat with
  | 0 => (old + v) % 2 ^ w
  | 1 => if s v < s old then v else old
  | 2 => min old v
  | 3 => if s old < s v then v else old
  | 4 => max old v
  | 5 => old &&& v
  | 6 => old ||| v
  | 7 => old ^^^ v
  | 8 => v
  | _ => (faddOp .rne (BitVec.ofNat 32 old) (BitVec.ofNat 32 v)).1.toNat

/-- What an atom or cas writes over an old value; none when it writes nothing (R303, R304). -/
def Access.update (a : Access) (old : Nat) : Option Nat :=
  match a.kind with
  | .atom op _ _ => some (atomNew op (8 * a.size) old a.data)
  | .cas _ _ expect => if old == expect then some a.data else none
  | _ => none

/-- The place suffix of an atom or cas. -/
def AccKind.site : AccKind → BitVec 2
  | .atom _ pl _ | .cas pl _ _ => pl
  | _ => 0

/-- An atom or cas has performed: its registers take the old value, in its thread's place of program
order (R305). -/
def finishAtom (s : State) (t : Nat) (a : Access) (old : Nat) : State :=
  let ws := loadWords false a.size old a.kind.regs
  tryEndTeam (s.modThread t (fun th => (th.dropAcc a).writes a.kbit a.seq ws)) (teamKey t)

/-- The other atomics of an issue set that address the same word (R400), with their threads. -/
def atomSet (s : State) (t : Nat) (a : Access) : List (Nat × Access) :=
  s.threads.flatMap (fun x => if tCore x.1 != tCore t || x.1 == t then [] else
    (x.2.accs.filter (fun b => b.iset == a.iset && b.kind.isAtom && (meets b.va b.size a.va a.size
      || b.phys.any (fun q => a.phys.any (fun p => q.tgt == p.tgt && meets q.pa b.size p.pa a.size))))).map (fun b => (x.1, b)))

/-- Whether an atomic waits for its issue set (R400): for a lower LANE, or, before the first of them performs, until
all of them can. -/
def laneFirst (s : State) (t : Nat) (a : Access) : Bool :=
  let others := atomSet s t a
  others.any (fun x => decide (tLane x.1 < tLane t))
    || (!a.started && others.any (fun x => !x.2.commit || (s.env x.1).any (fun e => x.2.held e)))

/-- The rest of an issue set's atomics on a word are to perform next at its site (R400). -/
def beginSet (s : State) (t : Nat) (a : Access) : State :=
  (atomSet s t a).foldl (fun s x => s.modThread x.1 (fun th => th.modAcc x.2.id (fun b => { b with started := true }))) s

/-- A core's own copy of the words of a mask given up before an atomic at the home (R302): dirty bytes go
home, published on a shared page and written back on a private one; clean copies are dropped. None while
a publication of them is still to complete, or while the home cannot take them (R326). -/
def yieldWords (s : State) (core ln : Nat) (m : BitVec 128) : Option State × State :=
  let s := fcDrop s core ln
  let drop (s : State) (l : L1Line) : State :=
    let l' := { l.invalidate m with owned := l.owned &&& ~~~wordsOf m }
    let k := s.core core
    s.setCore core { k with l1 := if l'.valid == 0 then del k.l1 ln else put k.l1 ln l' }
  match find? (s.core core).l1 ln with
  | none => (if sending s core ln then none else some s, s)
  | some l =>
    if l.dirty &&& m == 0 then
      if s.pubs.any (fun p => p.core == core && p.line == ln) then (none, s) else (some (drop s l), s)
    else if l.shared then (none, publish s core ln l)
    else if homeWaits s ln then (none, s)
    else
      (some (drop (homeMerge s ln l.data (l.dirty &&& m))
        { l with dirty := l.dirty &&& ~~~m, fresh := l.fresh &&& ~~~m }), s)

/-- Every other core's ownership of some words revoked (R289): the revocations are sent, and nothing is
left to wait for once all of them have been acknowledged. -/
def revokeOwners (s : State) (core ln : Nat) (w : BitVec 32) : Option State × State :=
  let owners := s.registry.filter (fun e => e.line == ln && e.core != core && e.mask &&& w != 0)
  if !owners.isEmpty then
    let revs := owners.zipIdx.map (fun p => (⟨s.nextPub + p.2, p.1.core, ln, p.1.mask &&& w, false, none⟩ : Revoke))
    (none, { s with registry := dropOwners s.registry ln w, revs := s.revs ++ revs, nextPub := s.nextPub + owners.length })
  else if s.revs.any (fun r => r.line == ln && r.words &&& w != 0) then (none, s)
  else
    let s := { s with registry := dropOwners s.registry ln w }
    (some s, s)

/-- An atomic at the home slice (R302): the issuer gives up its copy, the home revokes every owner, and
the word is read and written there. -/
def atomHome (s : State) (t : Nat) (a : Access) (p : Phys) : Outcome :=
  let core := tCore t
  let ln := lineOf p.pa
  let m := spanMask (p.pa % 128) a.size
  match yieldWords s core ln m with
  | (none, s) => .next s
  | (some s, _) =>
    match revokeOwners s core ln (wordsOf m) with
    | (none, s) => .next s
    | (some s, _) =>
      if homeWaits s ln then .next s
      else
        let old := homeRead s p.pa a.size
        let s := match a.update old with | some v => homeWrite s p.pa a.size v | none => s
        .next (finishAtom (beginSet s t a) t a old)

/-- An atomic in the issuing core's L1 (R302, `.grp` on a private page). -/
def atomL1 (s : State) (e : Env) (a : Access) (p : Phys) : Outcome :=
  match l1Read s (tCore e.t) (a.reader s e (lineOf p.pa)) p a.size 0 with
  | .wait s => .next s
  | .ok s old =>
    match a.update old with
    | none => .next (finishAtom (beginSet s e.t a) e.t a old)
    | some v =>
      match l1Write s (tCore e.t) (gKey e.t) p a.size v 0 e.t with
      | .wait s => .next s
      | .ok s _ => .next (finishAtom (beginSet s e.t a) e.t a old)

/-- ATOMIC_PERFORM (R302, R305, R400): a committed atom or cas performs at its site. On device memory it
first counts as a miss of its core for the page's class (R284). -/
def execAtomicPerform (t acc : Nat) (s : State) : Outcome :=
  withAccess s t acc fun e a =>
    match a.phys with
    | [] => .fault .noSuchInstance
    | p :: _ =>
      if !a.kind.isAtom then .fault .noSuchInstance
      else if !a.commit || a.held e || laneFirst s t a || siteTaken s (some a.iset) p.tgt p.pa a.size then s.stall
      else if p.tgt != 0 then
        let old := physRead s p a.size
        let s := match a.update old with | some v => physWrite s p a.size v | none => s
        .next (finishAtom (beginSet s t a) t a old)
      else match classify s (tCore t) p with
        | .wait s => .next s
        | .ok s shared => if a.kind.site == 0 && !shared then atomL1 s e a p else atomHome s t a p

/-! Refused requests (R338). -/

/-- What the translations of a refused request come to. -/
inductive Again where
  | ok (ps : List Phys)
  | trap (code : BitVec 8) (va : Nat)
  | moving
  | ats (page : Nat) (write : Bool)

/-- The addresses of a request translated again, in order. -/
def xlatAgain (s : State) (e : Env) : List (Nat × Need) → Again
  | [] => .ok []
  | (va, n) :: as =>
    match e.xlat s va n with
    | .trap c => .trap c va
    | .moving => .moving
    | .ats page => .ats page (n == .w || n == .rw)
    | .ok p => match xlatAgain s e as with
      | .ok ps => .ok (p :: ps)
      | r => r

/-- The condition of R321 that the new rows of a row operation break: the kind and the address. -/
def rowsBreak (ps : List Phys) (vas : List Nat) : Option (Nat × Nat) :=
  match ps with
  | [] => none
  | d :: _ =>
    (ps.zip vas).findSome? (fun p =>
      if p.1.tgt != 0 || !tier1 p.1.pa then some (9, p.2)
      else if !sameSubarray p.1.pa d.pa then some (8, p.2) else none)

/-- Whether the host home performs an atomic operation (R302): add, xchg and cas. -/
def AccKind.hostAtom : AccKind → Bool
  | .atom op _ _ => op == 0 || op == 8
  | _ => true

/-- MOVED_REFUSAL (R338, R408): the request is translated again and sent once more. A walk that meets a moving page
waits for the next `tinv` that covers it (R332). -/
def execMovedRefusal (t acc : Nat) (s : State) : Outcome :=
  withAccess s t acc fun e a =>
    if !a.moved || a.walks || e.th.trapped a.seq then s.stall
    else match xlatAgain s e a.needs with
    | .trap c va => .next (faultAccess s e a c va)
    | .moving => .next (s.setThread t (e.th.modAcc acc (fun a => { a with walks := true })))
    | .ats page w => .next (s.request (dieOf (tCore t)) e.la.asp.pasid page w)
    | .ok ps =>
      match if a.kind.isRow then rowsBreak ps (a.needs.map (·.1)) else none with
      | some (kind, va) => .next (faultAccess s e a 0x0F (va + kind * 2 ^ 57))
      | none =>
        if ps.any (·.hole) then .fault .physicalHole
        else if ps.any (fun p => p.tgt == 1) && !a.kind.hostAtom then .next (faultAccess s e a 0x05 a.va)
        else .next (s.setThread t (e.th.modAcc acc (fun a =>
          { a with phys := ps, moved := false, started := false, arrived := none, sent := none })))

/-- The remote access timeout in clk: firmware's, from 10 µs to 2 ms (R11, R366). -/
def remoteTimeout (s : State) : Nat := max 9400 (min s.policy.remote 1880000)

/-- Whether an access's request to another module is on its way (R311): nothing holds it back, and a store has
committed. -/
def Access.onWay (e : Env) (a : Access) : Bool :=
  a.phys.any (fun p => p.tgt == 2) && !a.held e && (a.commit || a.kind.isLoad || a.kind.isAtom)

/-- A store or atomic that a remote home refused (R309): the fault is that of a younger `rel` or of a `fence` that
waits for it, which traps precisely, else the team's, attributed to the thread's unit that commits next: the unit that
releases where it waits in a `qpush` or a save. -/
def refusedStore (s : State) (e : Env) (a : Access) : State :=
  let t := e.t
  let s := s.modThread t (fun th => th.dropAcc a)
  match e.th.window.find? (fun u => a.seq < u.seq && (match u.act with | .rel _ => true | _ => false)) with
  | some u => trapUnit s t u.seq (trapOf 0x13 a.va)
  | none =>
    match e.th.window, e.th.wait with
    | u :: _, _ => attributedTrap s t (trapAttr 0x13 a.va u.ua)
    | [], .fence true _ => raiseTrap (s.waitFor t .none) t (trapOf 0x13 a.va)
    | [], _ => attributedTrap s t (trapAttr 0x13 a.va e.th.ctx.pc)

/-- REMOTE_ACCESS_TIMEOUT (R371): a request that was sent to another module got no response within firmware's
timeout. A load, and an atomic that has not committed, raise 0x13 precisely; a committed store or atomic is refused by
its home. -/
def execRemoteAccessTimeout (t acc : Nat) (s : State) : Outcome :=
  withAccess s t acc fun e a =>
    if !a.sent.any (fun c => decide (c + remoteTimeout s ≤ s.clk)) || !a.onWay e then s.stall
    else if !a.commit then .next (trapUnit s t a.seq (trapOf 0x13 a.va))
    else .next (refusedStore s e a)

end Sys2Proof.Machine
end

