-- ==== Sys2Proof/Machine/Coherence.lean ====
section
/-! DEFINITION. The events of copies and homes: publications, revocations and recalls (R288 to R290),
deadlines (R292), reclassification (R284, R285), maintenance and prefetch (R313, R402, R266), and errors of
write-backs (R309). -/

namespace Sys2Proof.Machine

/-! Publications (R288, R289). -/

/-- A publication by its number. -/
def pub? (s : State) (id : Nat) : Option Pub := s.pubs.find? (fun p => p.id == id)

/-- A publication changed. -/
def modPub (s : State) (id : Nat) (f : Pub → Pub) : State :=
  { s with pubs := s.pubs.map (fun p => if p.id == id then f p else p) }

/-- What a new registration finds in its slice's registry (R290): room, an entry to recall first, or only entries whose
recalls are on their way. -/
inductive RegRoom where
  | room
  | recall (e : RegEntry)
  | full
  deriving DecidableEq, Repr

/-- Whether an entry is being recalled. -/
def RegEntry.recalled (s : State) (e : RegEntry) : Bool :=
  s.revs.any (fun r => r.isRecall && r.core == e.core && r.line == e.line)

/-- The entry that a slice evicts for a new registration is its oldest, when all 4,096 are in use (R290); it stands until
its recall has been acknowledged. -/
def registryRoom (s : State) (core ln : Nat) : RegRoom :=
  if s.registry.length < 4096 || s.registry.any (fun e => e.line == ln && e.core == core) then .room
  else
    let mine := s.registry.filter (fun e => Config.homeSlice e.line == Config.homeSlice ln)
    if mine.length < 4096 then .room
    else match mine.find? (fun e => !e.recalled s) with
    | some e => .recall e
    | none => .full

/-- Whether atomics of an issue set stand between each other at bytes of a line (R400). -/
def bytesTaken (s : State) (ln : Nat) (m : BitVec 128) : Bool :=
  (List.range 32).any (fun w => m.extractLsb' (4 * w) 4 != 0 && siteTaken s none 0 (128 * ln + 4 * w) 4)

/-- PUBLICATION_REQUEST (R288, R289): the home writes the masked bytes at the line's rank (R261), registers the words
and revokes other owners. Publications of one line by one core are served in order; one waits for a request entry
(R267) and where it meets a locked compute region (R326); a registration that finds the registry full first recalls the
oldest entry (R290). -/
def execPublicationRequest (s : State) : Outcome :=
  match pub? s s.cur with
  | none => .fault .noSuchInstance
  | some p =>
    if p.acted || p.acks != 0 || writeWaits s p.line || bytesTaken s p.line p.mask || p.queued s
      || s.pubs.any (fun q => q.core == p.core && q.line == p.line && decide (q.id < p.id)) then s.stall
    else match registryRoom s p.core p.line with
    | .full => s.stall
    | .recall v =>
      .next (modPub { s with
        revs := s.revs ++ [⟨s.nextPub, v.core, v.line, v.mask, true, some p.id⟩]
        nextPub := s.nextPub + 1 } p.id (fun p => { p with acks := 1 }))
    | .room =>
      let s := homeMergeAs s p.rank p.line p.data p.mask
      let r := registerWords s.registry p.line p.core (wordsOf p.mask)
      let revs := r.2.zipIdx.map (fun q => (⟨s.nextPub + q.2, q.1.1, p.line, q.1.2, false, some p.id⟩ : Revoke))
      .next (modPub { s with registry := r.1, revs := s.revs ++ revs, nextPub := s.nextPub + r.2.length } p.id
        (fun p => { p with acted := true, acks := r.2.length }))

/-- The line after the reply of a publication (R288): the words become valid, clean and owned. Bytes stored
since keep their values and stay dirty; words that the registry has meanwhile given away are not owned. -/
def installReply (l : L1Line) (home : BitVec 1024) (mask later : BitVec 128) (owned : BitVec 32) : L1Line :=
  let words := bytesOfMask (wordsOf mask)
  let keep := (l.dirty &&& ~~~mask) ||| (l.dirty &&& (l.fresh ||| later))
  let take := words &&& ~~~keep
  { l with
    data := merge l.data home take
    valid := l.valid ||| take
    dirty := l.dirty &&& ~~~(mask &&& ~~~keep)
    owned := l.owned ||| (wordsOf mask &&& owned) }

/-- The teams of a core that wait for publications may end now (R76). -/
def endTeams (s : State) (core : Nat) : State :=
  ((s.core core).teams.map (·.1)).foldl (fun s i => tryEndTeam s (core * 4 + i)) s

/-- Whether a revocation of some of a publication's words at another core is on its way: the publication completes after
it, whichever registration sent it (R289, R291, R296). -/
def Pub.revoking (s : State) (p : Pub) : Bool :=
  s.revs.any (fun r => !r.isRecall && r.line == p.line && r.core != p.core && r.words &&& wordsOf p.mask != 0)

/-- PUBLICATION_REPLY (R288): every revocation has been acknowledged, the L1 installs the words, and the
publication is complete. The fetch cache drops the line, of which its core may now hold newer bytes (R293). -/
def execPublicationReply (s : State) : Outcome :=
  match pub? s s.cur with
  | none => .fault .noSuchInstance
  | some p =>
    if !p.acted || p.acks != 0 || p.revoking s then s.stall
    else
      let k := s.core p.core
      let later := (s.pubs.filter (fun q => q.core == p.core && q.line == p.line && decide (p.id < q.id))).foldl
        (fun m q => m ||| q.mask) 0#128
      let owned := (s.registry.filter (fun e => e.line == p.line && e.core == p.core)).foldl (fun m e => m ||| e.mask) 0#32
      let l1 := adjust k.l1 p.line (fun l => if l.shared then installReply l (homeLine s p.line) p.mask later owned else l)
      let s := { s with pubs := s.pubs.filter (fun q => q.id != p.id) }
      .next (endTeams (fcDrop (s.setCore p.core { k with l1 := l1 }) p.core p.line) p.core)

/-- A revocation or recall by its number. -/
def rev? (s : State) (id : Nat) : Option Revoke := s.revs.find? (fun r => r.id == id)

/-- The registry once a core has acknowledged the recall of some words (R290). -/
def dropRecalled (reg : List RegEntry) (r : Revoke) : List RegEntry :=
  (reg.map (fun e => if e.line == r.line && e.core == r.core then { e with mask := e.mask &&& ~~~r.words } else e)).filter
    (fun e => e.mask != 0)

/-- A revocation or recall acknowledged (R289, R290). -/
def acknowledge (s : State) (r : Revoke) : State :=
  let s := { s with
    revs := s.revs.filter (fun q => q.id != r.id)
    registry := if r.isRecall then dropRecalled s.registry r else s.registry }
  match r.pub with
  | some p => modPub s p (fun p => { p with acks := p.acks - 1 })
  | none => s

/-- REVOCATION (R289). -/
def execRevocation (s : State) : Outcome :=
  match rev? s s.cur with
  | none => .fault .noSuchInstance
  | some r => if r.isRecall then s.stall else .next (acknowledge (revokeAt s r.core r.line r.words) r)

/-- REGISTRY_RECALL (R290): the dirty bytes of the words that the core still owns go home unregistered, but for those
that a publication carries, and the words become unowned. A publication of the line that the home has still to take goes
first; a locked line waits (R326). -/
def execRegistryRecall (s : State) : Outcome :=
  match rev? s s.cur with
  | none => .fault .noSuchInstance
  | some r =>
    if !r.isRecall || sending s r.core r.line || writeWaits s r.line || bytesTaken s r.line (bytesOfMask r.words) then s.stall
    else match find? (s.core r.core).l1 r.line with
    | none => .next (acknowledge s r)
    | some l =>
      let m := unsent s r.core r.line l &&& bytesOfMask (r.words &&& l.owned)
      let s := if m == 0 then s else homeMergeAs s l.rank r.line l.data m
      let k := s.core r.core
      let l' := { l with dirty := l.dirty &&& ~~~m, fresh := l.fresh &&& ~~~m, owned := l.owned &&& ~~~r.words }
      .next (acknowledge (s.setCore r.core { k with l1 := put k.l1 r.line l' }) r)

/-! Deadlines (R292). -/

/-- PUBLISH_DEADLINE (R292). -/
def execPublishDeadline (core line : Nat) (s : State) : Outcome :=
  match find? (s.core core).l1 line with
  | none => .fault .noSuchInstance
  | some l =>
    if !l.shared || unsent s core line l == 0 || s.clk < l.dirtyAt + 4096 then s.stall
    else .next (publish s core line l)

/-- The clean bytes of a line that its core does not own. -/
def L1Line.loose (l : L1Line) : BitVec 128 := l.valid &&& ~~~l.dirty &&& ~~~bytesOfMask l.owned

/-- CLEAN_DROP_DEADLINE (R292). -/
def execCleanDropDeadline (core line : Nat) (s : State) : Outcome :=
  let k := s.core core
  match find? k.l1 line with
  | none => .fault .noSuchInstance
  | some l =>
    if !l.shared || l.loose == 0 || s.clk < l.cleanAt + 4096 then s.stall
    else
      let l' := l.invalidate l.loose
      .next (s.setCore core { k with l1 := if l'.valid == 0 then del k.l1 line else put k.l1 line l' })

/-- Whether a byte of a shared page has reached its deadline (R292): dirty and not yet published, its publication not yet
taken by the home, or clean, unowned and not yet dropped. No clk passes meanwhile. -/
def lineOverdue (s : State) : Bool :=
  s.pubs.any (fun p => !p.acted && decide (p.since + 4096 ≤ s.clk)) || s.cores.any (fun k => k.2.l1.any (fun l => l.2.shared
    && ((l.2.dirty != 0 && decide (l.2.dirtyAt + 4096 ≤ s.clk)) || (l.2.loose != 0 && decide (l.2.cleanAt + 4096 ≤ s.clk)))))

/-! Classes (R284, R285). -/

/-- Whether an `.grp` atomic of a core to a page is in flight (R285 step 2). -/
def grpInFlight (s : State) (core pte : Nat) : Bool :=
  s.threads.any (fun x => tCore x.1 == core && x.2.accs.any (fun a =>
    a.kind.isAtom && a.kind.site == 0 && a.commit && a.phys.any (fun p => p.pte == pte)))

/-- The lines of a core's L1 that it reached through a page-table entry. -/
def pageLines (s : State) (core pte : Nat) : List (Nat × L1Line) := (s.core core).l1.filter (fun e => e.2.pte == pte)

/-- A core gives up its copies of some lines: dirty bytes written home without registering, every copy
dropped, and with them its fetch cache (R285 step 3). -/
def giveUp (s : State) (core : Nat) (ls : List (Nat × L1Line)) : State :=
  let s := ls.foldl (fun s e => writeBack s e.1 e.2) s
  let k := s.core core
  s.setCore core { k with l1 := ls.foldl (fun m e => del m e.1) k.l1, fcache := [] }

/-- A private page made shared once its owner has given up its copies (R285); none while it has to wait. -/
def reclassify (s : State) (pte : Nat) (c : PageClass) : Option State :=
  let core := c.own.toNat
  let ls := pageLines s core pte
  if grpInFlight s core pte || ls.any (fun e => e.2.dirty != 0 && writeWaits s e.1) then none
  else
    let s := giveUp s core ls
    some { setClass s ⟨0, 0, pte, c.entry, c.page, c.size⟩ 2 0 with reclass := s.reclass.filter (· != pte) }

/-- RECLASSIFICATION (R285) of the page whose entry the subject names. -/
def execReclassification (s : State) : Outcome :=
  let pte := s.cur
  if !s.reclass.contains pte then .fault .noSuchInstance
  else match find? s.pages pte with
  | none => .next { s with reclass := s.reclass.filter (· != pte) }
  | some c =>
    let now := BitVec.ofNat 64 (homeRead s pte 8)
    if (classOf s pte now).1 != 1 then .next { s with reclass := s.reclass.filter (· != pte) }
    else match reclassify s pte c with
    | none => s.stall
    | some s => .next s

/-- REMOTE_OR_HOST_ACCESS_ARRIVAL (R284, R311): an access to a page arrives at the home. The page
becomes shared first; a write revokes the owners of its words as every write at the home that is not a publication (R289,
log 10). The bytes lie within one line. -/
def execRemoteOrHostAccessArrival (at_ : ArrivalPage) (pa : Nat) (write : Option DWord) (size : Nat) (s : State) : Outcome :=
  if !physOk pa then .fault .physicalHole
  else
    let entry := BitVec.ofNat 64 (homeRead s at_.pte 8)
    let c := classOf s at_.pte entry
    if c.1 == 1 then
      if s.reclass.contains at_.pte then s.stall else .next { s with reclass := s.reclass ++ [at_.pte] }
    else
      let s := if c.1 == 0 then setClass s ⟨0, 0, at_.pte, entry, at_.page, at_.bytes⟩ 2 0 else s
      let ln := lineOf pa
      if homeWaits s ln || (write.isSome && siteTaken s none 0 pa size) then s.stall
      else match write with
      | none => .next s
      | some v =>
        match revokeOwners s 512 ln (wordsOf (spanMask (pa % 128) size)) with
        | (none, s) => .next s
        | (some s, _) => .next (homeWrite s pa size (v.toNat % 2 ^ (8 * size)))

/-! Maintenance (R313, R402) and prefetch (R266). -/

/-- What the pages of a range come to: intervals of device memory, each by its virtual address, its physical address
and its bytes, a wait for a page that moves, or an address whose walk ends at a malformed entry of which firmware has
still to be told (R332). -/
inductive Spans where
  | ok (l : List (Nat × Nat × Nat))
  | moving
  | tell (va : Nat)

/-- The device memory that a range maps, page by page; pages that are absent, of the register arena, of the
host or of another module are left out (R313). `read` leaves out pages without read permission (R266). -/
def spansFrom (s : State) (e : Env) (read : Bool) (hi : Nat) : Nat → Nat → Spans
  | 0, _ => .ok []
  | fuel + 1, va =>
    if hi ≤ va then .ok []
    else
      let stop := min hi ((va / 65536 + 1) * 65536)
      match walk s e.la.asp (va % 2 ^ 57) with
      | .moving => .moving
      | .none => if s.untold e.la.asp (va % 2 ^ 57) then .tell (va % 2 ^ 57) else spansFrom s e read hi fuel stop
      | .page p =>
        match spansFrom s e read hi fuel stop with
        | .moving => .moving
        | .tell va => .tell va
        | .ok l =>
          if p.tgt != 0 || p.entry.getLsbD 5 || (read && !p.entry.getLsbD 2) then .ok l
          else .ok ((va, p.pa, stop - va) :: l)

/-- The device memory of the rest of an access's range, at most `n` bytes of it: `data` counts those behind it. -/
def Access.spans (s : State) (e : Env) (a : Access) (read : Bool) (n : Nat) : Spans :=
  spansFrom s e read (a.va + min a.size (a.data + n)) (min n a.size / 65536 + 2) (a.va + a.data)

/-- The lines that some cache holds, that are registered, or that are on their way home. -/
def cachedLines (s : State) : List Nat :=
  s.cores.flatMap (fun e => e.2.l1.map (·.1) ++ e.2.fcache.map (·.1)) ++ s.l2.map (·.1) ++ s.registry.map (·.line)
    ++ s.pubs.map (·.line)

/-- The place of a line in the order in which an access passes the lines of its range (R407): by its key, and of one
key by its address. -/
def Access.turn (a : Access) (ln : Nat) : Nat := Config.lineKey a.iset ln * 2 ^ 64 + ln

/-- The first such line of some intervals that an access has still to pass: `data` counts the places behind it. -/
def nextLine (s : State) (a : Access) (l : List (Nat × Nat × Nat)) : Option Nat :=
  ((cachedLines s).filter (fun ln => decide (a.data ≤ a.turn ln)
      && l.any (fun p => decide (p.2.1 ≤ 128 * ln) && decide (128 * ln < p.2.1 + p.2.2)))).foldl (fun m ln =>
    match m with
    | some x => some (if a.turn ln < a.turn x then ln else x)
    | none => some ln) none

/-- Every core's dirty bytes of a line of a private page written home; those of a shared page published
(R313). -/
def cleanCopies (s : State) (ln : Nat) : State :=
  s.cores.foldl (fun s e =>
    match find? (s.core e.1).l1 ln with
    | none => s
    | some l => if l.shared then publish s e.1 ln l else flushCoreLine s e.1 ln) s

/-- Whether a shared page's dirty bytes of a line stand in some L1, or some that no publication carries. -/
def dirtyShared (s : State) (ln : Nat) : Bool :=
  s.cores.any (fun e => match find? e.2.l1 ln with | some l => l.shared && l.dirty != 0 | none => false)
def unsentShared (s : State) (ln : Nat) : Bool :=
  s.cores.any (fun e => match find? e.2.l1 ln with | some l => l.shared && unsent s e.1 ln l != 0 | none => false)

/-- How far an access has come in its range. -/
def Access.passed (t : Nat) (a : Access) (n : Nat) (s : State) : State :=
  s.modThread t (fun th => th.modAcc a.id (fun a => { a with data := n }))

/-- `cclean` of a line (R313, R402): it publishes until no shared copy of the line is dirty or on its way home, and
at one moment writes what is dirty to tier memory. -/
def cleanLine (s : State) (ln : Nat) (k : State → Outcome) : Outcome :=
  if lineBusy s ln then s.stall
  else if unsentShared s ln then .next (cleanCopies s ln)
  else if dirtyShared s ln || s.pubs.any (fun p => p.line == ln) then s.stall
  else k (l2Clean (cleanCopies s ln) ln)

/-- MAINTENANCE_COMPLETION (R313, R402): a committed `cclean` or `cinval`, after the thread's older stores, acts on
the lines of its range one by one, in no given order (R407), each at a moment of its own, and completes after the last.
A `cinval` waits for a publication of the line that is on its way, and while atomics stand one behind the other at it
(R400). -/
def execMaintenanceCompletion (t acc : Nat) (s : State) : Outcome :=
  withAccess s t acc fun e a =>
    if !a.commit || a.walks || !e.th.inOrder a then s.stall
    else if !a.kind.isMaint then .fault .noSuchInstance
    else match ({ a with data := 0 } : Access).spans s e false a.size with
    | .moving => .next (s.setThread t (e.th.modAcc acc (fun a => { a with walks := true })))
    | .tell va => .next (s.tell e.la.asp va)
    | .ok l =>
      match nextLine s a l with
      | none => .next (finishStore s t a)
      | some ln =>
        let pass (s : State) : Outcome := .next (a.passed t (a.turn ln + 1) s)
        if a.kind == .cclean then cleanLine s ln pass
        else if s.pubs.any (fun p => p.line == ln) || siteTaken s none 0 (128 * ln) 128 then s.stall
        else pass (l2Drop (dropCopies s ln) ln)

/-- The lines of an interval. -/
def linesOf (lo hi : Nat) : List Nat := (List.range ((hi + 127) / 128 - lo / 128)).map (fun i => lo / 128 + i)

/-- PREF_COMPLETION (R266): a committed `pref` sends its next request, of up to 8 KiB: it fills the lines that are
absent from their home slices and skips the locked ones; after the last request it completes. -/
def execPrefCompletion (t acc : Nat) (s : State) : Outcome :=
  withAccess s t acc fun e a =>
    if !a.commit || a.walks then s.stall
    else if a.kind != .pref then .fault .noSuchInstance
    else match a.spans s e true 8192 with
    | .moving => .next (s.setThread t (e.th.modAcc acc (fun a => { a with walks := true })))
    | .tell va => .next (s.tell e.la.asp va)
    | .ok l =>
      let ls := (l.flatMap (fun p => linesOf p.2.1 (p.2.1 + p.2.2))).filter (fun ln =>
        (find? s.l2 ln).isNone && !lineLocked s ln && physOk (128 * ln))
      if ls.any (fun ln => ticketHeld s (128 * ln)) then s.stall
      else
        let s := ls.foldl (fun s ln => l2Fill s ln a.hint 2) s
        .next (if a.size ≤ a.data + 8192 then finishStore s t a else a.passed t (a.data + 8192) s)

/-! Errors of write-backs (R309). -/

/-- The trap "uncorrectable memory error" (R309). -/
def trapMem (addr : Nat) : TrapInfo := trapOf 0x13 (addr % 2 ^ 57)

/-- The fault of a write-back at a thread that did not wait for it: its team halts, attributed to the
thread's unit that commits next. -/
def blameNext (s : State) (t addr : Nat) : State :=
  match s.thread? t with
  | none => s
  | some th =>
    let ua := match th.window with | u :: _ => u.ua | [] => th.ctx.pc
    attributedTrap s t (trapAttr 0x13 (addr % 2 ^ 57) ua)

/-- The threads that wait for a publication: by a `rel` of the window (with its sequence number), by a
`fence` (precise), or by another release. -/
def pubWaiters (s : State) (id : Nat) : List (Nat × Option Nat × Bool) :=
  s.threads.filterMap (fun x =>
    match x.2.window, x.2.wait with
    | u :: _, _ => match u.act with
      | .rel (some ids) => if ids.contains id then some (x.1, some u.seq, true) else none
      | _ => none
    | [], .fence precise ids => if ids.contains id then some (x.1, none, precise) else none
    | [], _ => none)

/-- The fault of a publication at a thread that waits for it (R309): a `rel` or `fence` traps precisely; the team of
another release halts, attributed to its unit. A `ctxsave` of the thread's own team runs in its handler, where an
attributed trap would stay pending while the save goes on, but a write-back error halts the saving (R352): it is taken at
once, and so escalates (DEDUCED, log 62). -/
def waiterFault (addr : Nat) (s : State) (w : Nat × Option Nat × Bool) : State :=
  match w with
  | (t, some seq, _) => trapUnit s t seq (trapMem addr)
  | (t, none, true) => raiseTrap (s.waitFor t .none) t (trapMem addr)
  | (t, none, false) =>
    match s.env t with
    | some e =>
      let ti := trapAttr 0x13 (addr % 2 ^ 57) e.th.ctx.pc
      let s := s.waitFor t .none
      if e.tm.quieting && e.th.inh then
        deliverTrap (s.modTeam (teamKey t) (fun tm => { tm with quieting := false })) t ti
      else attributedTrap s t ti
    | none => s

/-- A write-back that no thread waits for (R309): the team that last stored to the line halts. -/
def blameStorer (s : State) (by_ : Option Nat) (addr : Nat) : State :=
  match by_ with
  | some t => blameNext s t addr
  | none => s

/-- The publications for which those that wait for one wait beside it: of the releases that its error faults. -/
def releasedWith (s : State) (id : Nat) : List Nat :=
  let of (ids : List Nat) : List Nat := if ids.contains id then ids else []
  s.threads.flatMap (fun x => (match x.2.wait with | .fence _ ids => of ids | _ => [])
    ++ x.2.window.flatMap (fun u => match u.act with | .rel (some ids) => of ids | _ => []))

/-- A publication ends without its reply, its bytes still dirty; the other publications proceed, and those of a release
that faults with it are blamed on no one else. -/
def pubFault (s : State) (p : Pub) (addr : Nat) : State :=
  let waiters := pubWaiters s p.id
  let same := releasedWith s p.id
  let s := { s with
    pubs := (s.pubs.filter (fun q => q.id != p.id)).map (fun q => if same.contains q.id then { q with lastBy := none } else q)
    cores := adjust s.cores p.core (fun k => { k with l1 := adjust k.l1 p.line (fun l =>
      { l with fresh := l.fresh ||| (p.mask &&& l.dirty) }) }) }
  if waiters.isEmpty then blameStorer s p.lastBy addr else waiters.foldl (waiterFault addr) s

/-- The thread whose save writes back the private bytes of a core (R352 step 5). -/
def flusher (s : State) (core : Nat) : Option Nat :=
  (s.threads.find? (fun x => x.2.wait == .flush core)).map (·.1)

/-- WRITEBACK_ERROR (R309): a write-back meets an uncorrectable error, or a host or remote home refuses a store. A
recall is acknowledged, its bytes still dirty; a line of a private page that is evicted or given up is lost, but one that
a save writes back halts that save and stays. -/
def execWritebackError (what : WriteBack) (addr : Nat) (s : State) : Outcome :=
  match what with
  | .publication id =>
    match pub? s id with
    | none => .fault .noSuchInstance
    | some p => if p.acted then s.stall else .next (pubFault s p addr)
  | .recall id =>
    match rev? s id with
    | none => .fault .noSuchInstance
    | some r =>
      match find? (s.core r.core).l1 r.line with
      | none => s.stall
      | some l =>
        if !r.isRecall || l.dirty &&& bytesOfMask r.words == 0 then s.stall
        else
          let k := s.core r.core
          let s := s.setCore r.core { k with l1 := put k.l1 r.line { l with owned := l.owned &&& ~~~r.words } }
          .next (blameStorer (acknowledge s r) l.lastBy addr)
  | .line core ln =>
    match find? (s.core core).l1 ln with
    | none => .fault .noSuchInstance
    | some l =>
      if l.shared || l.dirty == 0 then s.stall
      else match flusher s core with
      | some t => .next (waiterFault addr s (t, none, false))
      | none => .next (blameStorer (s.setCore core { s.core core with l1 := del (s.core core).l1 ln }) l.lastBy addr)
  | .store t acc =>
    withAccess s t acc fun e a =>
      if !(a.kind.isStore || a.kind.isAtom) || !a.commit || a.held e || !a.phys.any (fun p => p.tgt != 0) then s.stall
      else .next (refusedStore s e a)

end Sys2Proof.Machine
end

