-- ==== Sys2Proof/Machine/Fetch.lean ====
section
/-! DEFINITION. Instruction fetch (R268, R334) and control transfers to a target (R36, R73). -/

namespace Sys2Proof.Machine

/-- What fetching a word finds. -/
inductive Fetch where
  | ok (s : State) (w : DWord)
  | trap (ti : TrapInfo)
  | wait (s : State)
  | hole

/-- Bytes within one line as the issuing thread sees them: what its core's L1 holds, else the home's (R294). -/
def seenBytes (s : State) (core : Nat) (p : Phys) (n : Nat) : Nat :=
  if p.tgt != 0 then physRead s p n
  else
    let ln := lineOf p.pa
    let d := match find? (s.core core).l1 ln with
      | some l => merge (homeLine s ln) l.data l.valid
      | none => homeLine s ln
    lineNum d (p.pa % 128) n

/-- A line placed in the instruction cache (R260): 8 ways, the least recently used gives way. -/
def icInstall (k : Core) (ln : Nat) (l : RoLine) : Core :=
  if k.icache.length < 8 then { k with icache := put k.icache ln l }
  else
    let peers := k.icache.filter (fun e => Config.icSet e.1 == Config.icSet ln)
    if peers.length < 8 then { k with icache := put k.icache ln l }
    else match lru (fun l : RoLine => l.used) peers with
      | some v => { k with icache := put (del k.icache v.1) ln l }
      | none => k

/-- A word of device memory through the core's instruction cache, which fills through the home slices
with streaming rank and is not kept coherent (R268). -/
def icRead (s : State) (core pa : Nat) : State × DWord :=
  let ln := lineOf pa
  match find? (s.core core).icache ln with
  | some l =>
    let k := s.core core
    (s.setCore core { k with icache := put k.icache ln { l with used := s.clk } }, BitVec.ofNat 64 (lineNum l.data (pa % 128) 8))
  | none =>
    let s := l2Fill s ln 1 2
    let d := homeLine s ln
    (s.setCore core (icInstall (s.core core) ln ⟨d, 1, s.clk⟩), BitVec.ofNat 64 (lineNum d (pa % 128) 8))

/-- The instruction word at an address (R334): TINFO of a fault holds the word's address. -/
def fetchWord (s : State) (e : Env) (a : DWord) : Fetch :=
  let va := a.toNat % 2 ^ 57
  if !canonical a then .trap (trapOf 0x04 va)
  else match e.xlat s va .x with
    | .trap c => .trap (trapOf c va)
    | .moving => .wait (s.waitWalk e.t va)
    | .ats page => .wait (s.waitAts e page va false)
    | .ok p =>
      if p.hole then .hole
      else if p.tgt != 0 then .ok s (BitVec.ofNat 64 (physRead s p 8))
      else if (find? (s.core (tCore e.t)).icache (lineOf p.pa)).isNone && homeWaits s (lineOf p.pa) then
        .wait { s with stalled := true }
      else let r := icRead s (tCore e.t) p.pa; .ok r.1 r.2

/-- Whether a word is a clause header (R16). -/
def isHeader (w : DWord) : Bool := w.extractLsb' 62 2 == 2

/-- What the search for the clause of a resume address finds: the clause with the words left in it, no header within
its reach, or a word that cannot be read now. -/
inductive ClauseSearch where
  | found (c : Clause) (left : Nat)
  | absent
  | unread (a : DWord)

/-- The clause that a resume address lies in, found at its header: the nearest header word before it (DEDUCED, log 61).
A thread record keeps no flag choice (R353), so the choice, R and Y are read there again; the words left follow from
LEN. -/
def clauseAt (s : State) (e : Env) (pc : DWord) : ClauseSearch :=
  ((List.range 63).findSome? (fun i =>
    let n := i + 1
    let a := pc.toNat - 8 * n
    if pc.toNat < 8 * n then none
    else match e.xlat s (a % 2 ^ 57) .x with
    | .ok p =>
      let w := BitVec.ofNat 64 (seenBytes s (tCore e.t) p 8)
      if isHeader w then
        some (match decodeHeader w with
          | some h => .found ⟨h.set0, h.set1, h.r, h.y⟩ (h.len.toNat + 1 - n)
          | none => .found Clause.empty 0)
      else none
    | _ => some (.unread (BitVec.ofNat 64 a)))).getD .absent

/-- The checks of a transfer's target (R36, R73): aligned, canonical, fetchable, a clause header. Each
fault is raised at the transferring unit, which then has no effect. -/
def transfer (s : State) (e : Env) (target : DWord) (k : State → Outcome) : Outcome :=
  let va := target.toNat % 2 ^ 57
  if target.extractLsb' 0 3 != 0 then .next (raiseTrap s e.t (trapOf 0x02 va))
  else match fetchWord s e target with
    | .trap ti => .next (raiseTrap s e.t ti)
    | .wait s => .next s
    | .hole => .fault .physicalHole
    | .ok s w => if isHeader w then k s else .next (raiseTrap s e.t (trapOf 0x02 va))

/-- The context at a transfer's target: a clause header that is not yet consumed. -/
def Ctx.goto (c : Ctx) (target : DWord) : Ctx := { c with pc := target, crem := 0 }

/-- The target of an offset counted in words from the branch's own word (R35). -/
def Ctx.target (c : Ctx) (off : Int) : DWord := c.pc + BitVec.ofInt 64 (8 * off)

end Sys2Proof.Machine
end

