-- ==== Sys2Proof/Machine/Control.lean ====
section
/-! DEFINITION. The control instructions (R69 to R79) and `trap`, `brk`, `eret` (R350). -/

namespace Sys2Proof.Machine

/-- A unit without effect on registers completes, and the thread continues at a context. -/
def stepTo (s : State) (e : Env) (next : Ctx) : State :=
  s.setThread e.t (e.th.enter s.clk (WUnit.start e.th) next)

/-- `nop` (R79): a sequence number and a window entry. -/
def execNop (c : Ctl) (s : State) : Outcome :=
  unit s .queued c 1 fun e => .next (stepTo s e (e.th.ctx.advance 1))

/-- `br` (R70). -/
def execBr (c : Ctl) (off : BitVec 32) (s : State) : Outcome :=
  unit s {} c 1 fun e =>
    let t := e.th.ctx.target off.toInt
    transfer s e t fun s => .next (stepTo s e (e.th.ctx.goto t))

/-- `brc.cc` (R71): the first compared register is xd. -/
def execBrc (c : Ctl) (cc : BitVec 3) (w64 : Bool) (xd xa : Reg) (off : BitVec 16) (s : State) : Outcome :=
  unit s {} c 1 fun e =>
  gather s e (if w64 then [xd, xd + 1, xa, xa + 1] else [xd, xa]) [] fun s e =>
    let taken := if w64 then condInt 64 cc (e.th.read64 xd) (e.th.read64 xa)
      else condInt 32 cc (e.th.read xd) (e.th.read xa)
    if taken then
      let t := e.th.ctx.target off.toInt
      transfer s e t fun s => .next (stepTo s e (e.th.ctx.goto t))
    else .next (stepTo s e (e.th.ctx.advance 1))

/-- `brg` (R72): it waits while its guard is Open, and branches on the guard's value XOR GN. -/
def execBrg (c : Ctl) (off : BitVec 32) (s : State) : Outcome :=
  unit s { held := true } c 1 fun e =>
    let g := e.guard c.g.toNat
    if g == 2 then s.stall
    else if (g == 1) != c.gn then
      let t := e.th.ctx.target off.toInt
      transfer s e t fun s => .next (stepTo s e (e.th.ctx.goto t))
    else .next (stepTo s e (e.th.ctx.advance 1))

/-- `jmp` (R73). -/
def execJmp (c : Ctl) (xa : Reg) (s : State) : Outcome :=
  unit s {} c 1 fun e =>
  gather s e [xa, xa + 1] [] fun s e =>
    let t := e.th.read64 xa
    transfer s e t fun s => .next (stepTo s e (e.th.ctx.goto t))

/-- A call to a target (R74): the target's checks, then the depth limit (R59), then the push, a store
that performs when the call commits. -/
def callTo (s : State) (e : Env) (t : DWord) : Outcome :=
  transfer s e t fun s =>
    let va := e.stackAddr e.th.ctx.depth
    if e.th.ctx.depth == e.la.depthLimit then .next (raiseTrap s e.t (trapOf 0x05 va))
    else match xlatChk s e va .w (fun _ => .ok s) with
      | .trap ti => .next (raiseTrap s e.t ti)
      | .wait s => .next s
      | .ok _ =>
        match e.xlat s va .w with
        | .ok p =>
          if p.hole then .fault .physicalHole
          else
            let ret := e.th.ctx.pc + 8
            .next (issueAccess s e 1 [] (mkAccess s e .push va 8 ret.toNat [p] 0 false none) false
              (fun c => { c.goto t with depth := c.depth + 1 }))
        | _ => s.stall

/-- `call` (R74). -/
def execCall (c : Ctl) (off : BitVec 32) (s : State) : Outcome :=
  unit s {} c 1 fun e => callTo s e (e.th.ctx.target off.toInt)

/-- `callr` (R74). -/
def execCallr (c : Ctl) (xa : Reg) (s : State) : Outcome :=
  unit s {} c 1 fun e =>
  gather s e [xa, xa + 1] [] fun s e => callTo s e (e.th.read64 xa)

/-- `ret` (R75): at DEPTH 0 it raises "bad branch target"; else it loads the return address. -/
def execRet (c : Ctl) (s : State) : Outcome :=
  unit s {} c 1 fun e =>
    if e.th.ctx.depth == 0 then .next (raiseTrap s e.t (trapOf 0x02 0))
    else match readNow s e (e.stackAddr (e.th.ctx.depth - 1)) 8 with
      | .trap ti => .next (raiseTrap s e.t ti)
      | .wait s => .next s
      | .stall s => s.stall
      | .ok s v =>
        let t := BitVec.ofNat 64 v
        transfer s e t fun s =>
          .next (stepTo s e { e.th.ctx.goto t with depth := e.th.ctx.depth - 1 })

/-- The exit of the acting thread (R76, R128), once its far values can reach their backing words (R325); words that do
not translate trap at it (R101). Behind older units it enters the window and acts when it commits. -/
def exitNow (s : State) (e : Env) : Outcome :=
  if !e.th.window.isEmpty then
    .next (s.setThread e.t (e.th.enter s.clk { WUnit.start e.th with act := .exit } e.th.ctx))
  else match spillChecks s e (List.range 32) with
  | .trap ti => .next (raiseTrap s e.t ti)
  | .wait s => .next s
  | .ok _ =>
    if spillsWait s e.t then s.stall else .next (exitThread (s.setThread e.t (e.th.issued s.clk e.th.ctx)) e.t)

/-- `exit` (R76): it acts when it commits. -/
def execExit (c : Ctl) (s : State) : Outcome := unit s .queued c 1 fun e => exitNow s e

/-- `refill` (R77, R247): with no item left the thread exits; else it takes the item at the team's head
and restarts at depth 0. -/
def execRefill (c : Ctl) (xd : Reg) (s : State) : Outcome :=
  unit s { settled := true } c 1 fun e =>
    if e.tm.wqHead ≥ e.la.wqn then exitNow s e
    else
      operands s e [xd, xd + 1] fun s e =>
        match readNow s e ((e.la.wqb + 8 * (e.la.wqn * e.gt + e.tm.wqHead)) % 2 ^ 57) 8 with
        | .trap ti => .next (raiseTrap s e.t ti)
        | .wait s => .next s
        | .stall s => s.stall
        | .ok s v =>
          let th := e.th.writes c.k e.th.nextSeq (write64 xd (BitVec.ofNat 64 v))
          let s := s.setThread e.t (th.issued s.clk { th.ctx.advance 1 with depth := 0 })
          .next (s.modTeam (teamKey e.t) (fun tm => { tm with wqHead := tm.wqHead + 1 }))

/-- `repack` (R78). -/
def execRepack (c : Ctl) (xa : Reg) (s : State) : Outcome :=
  unit s .queued c 1 fun e =>
  gather s e [xa] [] fun s e =>
    .next (stepTo s e { e.th.ctx.advance 1 with key := e.th.read xa })

/-- `yld` (R79): it starts a yield exclusion (R66). -/
def execYld (c : Ctl) (s : State) : Outcome :=
  unit s .queued c 1 fun e =>
    .next ((stepTo s e (e.th.ctx.advance 1)).modThread e.t (fun th => { th with yieldEnd := some (s.clk + 64) }))

/-- `trap` and `brk` commit and then trap, the resume address past them (R350). -/
def trapNow (s : State) (c : Ctl) (ti : TrapInfo) : Outcome :=
  unit s { settled := true } c 1 fun e =>
    .next (takeTrap (s.setThread e.t (e.th.issued s.clk (e.th.ctx.advance 1))) e.t ti)

/-- `trap` (R350). -/
def execTrap (c : Ctl) (imm : BitVec 8) (s : State) : Outcome := trapNow s c (trapOf 0x10 imm.toNat)

/-- `brk` (R350). -/
def execBrk (c : Ctl) (s : State) : Outcome := trapNow s c (trapOf 0x11 0)

/-- The wait at a barrier that a handler interrupted goes on while the phase is still its token (R345 step 3, R89). -/
def Team.resumes (tm : Team) (w : Wait) : Wait :=
  match w with
  | .barrier b tok => if (tm.bar b).phase == tok then w else .none
  | _ => .none

/-- The return from a handler (R350): the in-handler state is left, the thread resumes at EPC, inside
its clause where that is TA, and the team resumes or the next pending trap is delivered. -/
def eretTo (s : State) (e : Env) : State :=
  let t := e.th.epc
  let inside := t == e.th.ta
  let c := { e.th.ctx with
    pc := t
    crem := if inside then e.th.taCrem else 0
    clause := if inside then e.th.taClause else Clause.empty
    fwd := [] }
  resumeTeam (s.setThread e.t { e.th.issued s.clk c with
    wait := e.tm.resumes e.th.kept, kept := .none, stale := inside && e.th.taStale, taStale := false
    inh := false, yieldEnd := if e.th.ctx.clause.y then some (s.clk + 64) else e.th.yieldEnd }) (teamKey e.t)

/-- `eret` (R350): outside a handler it is an undefined encoding with reason 9. -/
def execEret (c : Ctl) (s : State) : Outcome :=
  unit s { settled := true } c 1 fun e =>
    if !e.th.inh then .next (raiseTrap s e.t (trapUndef 9))
    else if e.th.epc.extractLsb' 0 3 != 0 then .next (raiseTrap s e.t (trapOf 0x02 (e.th.epc.toNat % 2 ^ 57)))
    else if e.th.epc == e.th.ta then .next (eretTo s e)
    else transfer s e e.th.epc fun s => .next (eretTo s e)

end Sys2Proof.Machine
end

