-- ==== Sys2Proof/Machine/Translation.lean ====
section
/-! DEFINITION. Changing a mapping (R336 to R338), walks that wait (R332, R335), and host translations
(R340 to R342). -/

namespace Sys2Proof.Machine

/-! Ranges of an address space. -/

/-- A range of one address space: its number and the addresses [lo, hi). -/
structure VRange where
  asn : BitVec 16
  lo  : Nat
  hi  : Nat
  deriving DecidableEq, Repr

/-- Whether some bytes of an address space meet a range. -/
def VRange.meets (r : VRange) (va n : Nat) : Bool := va < r.hi && r.lo < va + n

/-- Whether a page that the device has classified lies in a range. -/
def VRange.page (r : VRange) (c : PageClass) : Bool :=
  c.size != 0 && c.page / 2 ^ 57 == r.asn.toNat && r.meets (c.page % 2 ^ 57) c.size

/-- The page-table entries of a range through which copies have been made. -/
def VRange.ptes (r : VRange) (s : State) : List Nat := (s.pages.filter (fun c => r.page c.2)).map (·.1)

/-- Whether a line lies in the frame of a classified page. -/
def PageClass.holds (c : PageClass) (ln : Nat) : Bool :=
  let frame := c.entry.toNat / 2 ^ 16 % 2 ^ 41 * 2 ^ 16
  frame ≤ 128 * ln && 128 * ln < frame + c.size

/-- Whether a line lies in a page of a range. -/
def VRange.line (r : VRange) (s : State) (ln : Nat) : Bool :=
  s.pages.any (fun c => r.page c.2 && c.2.holds ln)

/-- The threads of an address space, with what their units know. -/
def envsOf (s : State) (asn : BitVec 16) : List Env :=
  s.threads.filterMap (fun x => match s.env x.1 with
    | some e => if e.la.asp.asn == asn then some e else none
    | none => none)

/-- Whether an access holds a translation of a range (R337). -/
def Access.uses (r : VRange) (a : Access) : Bool :=
  !a.phys.isEmpty && !a.moved && a.ranges.any (fun x => r.meets x.1 x.2)

/-- Whether an access performs under a translation that is being removed (R337 step 2): a committed store,
atomic or row operation that is on its way. The others are refused and sent again. -/
def Access.stays (e : Env) (r : VRange) (a : Access) : Bool :=
  a.uses r && a.commit && !a.kind.isLoad && !a.stalls e

/-- Whether the drain of a range is not complete (R337 step 4): committed accesses, publications, or locked
lines that have dirty copies. -/
def draining (s : State) (r : VRange) : Bool :=
  (envsOf s r.asn).any (fun e => e.th.accs.any (fun a => a.stays e r))
    || s.pubs.any (fun p => r.line s p.line)
    || s.cores.any (fun k => k.2.l1.any (fun l => (r.ptes s).contains l.2.pte && l.2.dirty != 0 && writeWaits s l.1))

/-- A core's lines of some pages written home without registering; dropped, or kept clean (R337 step 3). -/
def flushCore (ptes : List Nat) (keep : Bool) (s : State) (core : Nat) : State :=
  let ls := (s.core core).l1.filter (fun e => ptes.contains e.2.pte)
  let s := ls.foldl (fun s e => writeBack s e.1 e.2) s
  let k := s.core core
  let l1 := if keep then k.l1.map (fun e => if ptes.contains e.2.pte then (e.1, { e.2 with dirty := 0, fresh := 0 }) else e)
    else k.l1.filter (fun e => !ptes.contains e.2.pte)
  s.setCore core { k with l1 := l1, icache := [], fcache := if keep then k.fcache else [] }

/-- Whether an access or a job names an address of a range of the thread's own address space. -/
def Access.inRange (r : VRange) (a : Access) : Bool := a.ranges.any (fun x => r.meets x.1 x.2)
def Job.inRange (r : VRange) (j : Job) : Bool :=
  (j.reads ++ j.writes).any (fun x => match x with | .mem a lo hi => a == r.asn.toNat && r.meets lo (hi - lo) | _ => false)

/-- The translations of a range dropped everywhere (R337): copies flushed, requests refused as moved, and
walks that wait on it released (R332). `keep` is the downgrade, which leaves clean copies and classes. -/
def dropRange (s : State) (r : VRange) (keep : Bool) : State :=
  let ptes := r.ptes s
  let gone (e : RegEntry) : Bool := r.line s e.line
  let registry := if keep then s.registry else s.registry.filter (fun e => !gone e)
  let s := (s.cores.map (·.1)).foldl (flushCore ptes keep) s
  let s := (envsOf s r.asn).foldl (fun s e => s.setThread e.t { e.th with
    accs := e.th.accs.map (fun a =>
      { a with moved := a.moved || a.uses r, walks := a.walks && !a.inRange r }) }) s
  let act (l : Launch) (a : MedAct) : MedAct :=
    let e := l.timetab.getD a.entry []
    { a with walks := a.walks && !(l.asp.asn == r.asn && r.meets (ttBase e) (ttLen e)) }
  let s : State := { s with
    cores := s.cores.map (fun k => (k.1, { k.2 with jobs := k.2.jobs.map (fun j => { j with walks := j.walks && !j.inRange r }) }))
    launches := s.launches.map (fun l => (l.1, { l.2 with acts := l.2.acts.map (act l.2) })) }
  let free (t : Nat) : Bool := match s.env t with
    | some e => e.la.asp.asn == r.asn && (match e.th.wait with | .walk va => r.meets va 1 | _ => false)
    | none => false
  { s with
    registry := registry
    devWalks := s.devWalks.filter (fun w => !(w.1 == r.asn.toNat && r.meets (65536 * w.2) 65536))
    pages := if keep then s.pages else s.pages.filter (fun c => !ptes.contains c.1)
    reclass := if keep then s.reclass else s.reclass.filter (fun p => !ptes.contains p)
    walks := s.walks.map (fun w => if free w.1 then (w.1, 1) else w) }

/-! `tinv` (R336, R337). -/

/-- A unit that executes only in firmware (R38): elsewhere it is an undefined encoding with reason 9. -/
def firmwareUnit (s : State) (c : Ctl) (n : Nat) (k : Env → Outcome) : Outcome :=
  unit s { settled := true } c n fun e => if e.tm.firmware then k e else .next (raiseTrap s e.t (trapUndef 9))

/-- The address space and the range that the operands of `tinv` name. -/
def tinvRange (base count : DWord) : VRange :=
  let lo := base.toNat / 65536 * 65536
  ⟨count.extractLsb' 48 16, lo, lo + 65536 * (count.extractLsb' 0 48).toNat⟩

/-- `tinv` of a range: it waits for the drain and completes with it. -/
def tinvOver (s : State) (e : Env) (c : Ctl) (r : VRange) (keep : Bool) : Outcome :=
  if draining s r then s.stall else
    let s := dropRange s r keep
    match s.env e.t with
    | none => .fault .noSuchInstance
    | some e => .next (settle s e c 1 [])

/-- `tinv`, unmap (R337). -/
def execTinvUnmap (c : Ctl) (xa xb : Reg) (s : State) : Outcome :=
  firmwareUnit s c 1 fun e =>
  gather s e [xa, xa + 1, xb, xb + 1] [] fun s e =>
    tinvOver s e c (tinvRange (e.th.read64 xa) (e.th.read64 xb)) false

/-- `tinv`, downgrade (R337). -/
def execTinvDowngrade (c : Ctl) (xa xb : Reg) (s : State) : Outcome :=
  firmwareUnit s c 1 fun e =>
  gather s e [xa, xa + 1, xb, xb + 1] [] fun s e =>
    tinvOver s e c (tinvRange (e.th.read64 xa) (e.th.read64 xb)) true

/-- `tinv`, unmap of a whole address space (R336, R337). -/
def execTinvUnmapAll (c : Ctl) (xb : Reg) (s : State) : Outcome :=
  firmwareUnit s c 1 fun e =>
  gather s e [xb, xb + 1] [] fun s e =>
    tinvOver s e c ⟨(e.th.read64 xb).extractLsb' 48 16, 0, 2 ^ 57⟩ false

/-! Walks (R332, R335). -/

/-- PAGE_WALK (R332): the acting thread's walk is taken up again after a `tinv` of its range. -/
def execPageWalk (s : State) : Outcome :=
  match s.env s.cur, find? s.walks s.cur with
  | some e, some n =>
    match e.th.wait with
    | .walk va =>
      if n == 0 then s.stall
      else match walk s e.la.asp va with
      | .moving => .next { s with walks := put s.walks s.cur 0 }
      | _ => .next { s.waitFor s.cur .none with walks := del s.walks s.cur }
    | _ => .next { s with walks := del s.walks s.cur }
  | _, _ => .fault .noSuchInstance

/-! Host pages (R340 to R342). -/

/-- Whether a request is the one of a die, a PASID and a page. -/
def AtsReq.is (r : AtsReq) (die pasid page : Nat) : Bool := r.die == die && r.pasid == pasid && r.page == page

/-- The threads of a die that wait for a host page. -/
def atsWaiters (s : State) (die pasid page : Nat) : List (Env × Nat) :=
  s.threads.filterMap (fun x => match s.env x.1 with
    | some e => match e.th.wait with
      | .ats p va => if p == page && e.la.asp.pasid == pasid && dieOf (tCore e.t) == die then some (e, va) else none
      | _ => none
    | none => none)

/-- The first `n` requests that ask for a PRI Page Request send it (R342). -/
def sendPri (clk : Nat) : Nat → List AtsReq → List AtsReq
  | _, [] => []
  | 0, rs => rs
  | n + 1, r :: rs =>
    if r.asks then { r with pri := some clk, asks := false } :: sendPri clk n rs else r :: sendPri clk (n + 1) rs

/-- PRI Page Requests are sent in arrival order while the host's allocation leaves room (R342). -/
def priFill (s : State) : State :=
  { s with ats := sendPri s.clk (Config.priRoom - (s.ats.filter (·.pri.isSome)).length) s.ats }

/-- TRANSLATION_REQUEST_COMPLETION (R340, R342): a translation joins the die's cache, and the waiting units
go on; where none is given or a permission is missing the device sends a PRI Page Request, after those that ask for one
already. -/
def execTranslationRequestCompletion (die pasid page : Nat) (result : Option AtsResult) (s : State) : Outcome :=
  match s.ats.find? (fun r => r.is die pasid page) with
  | none => .fault .noSuchInstance
  | some r =>
    if r.pri.isSome || r.asks then s.stall
    else
      let atc := s.atc.filter (fun e => !(e.die == die && e.pasid == pasid && e.page == page))
      let s := match result with
        | some x => { s with atc := atc ++ [⟨die, pasid, page, x⟩] }
        | none => { s with atc := atc }
      let enough := match result with | some x => if r.write then x.w else x.r | none => false
      if enough then
        let s := (atsWaiters s die pasid page).foldl (fun s w => s.waitFor w.1.t .none) s
        .next { s with ats := s.ats.filter (fun r => !r.is die pasid page) }
      else .next (priFill { s with ats := s.ats.filter (fun r => !r.is die pasid page) ++ [{ r with asks := true }] })

/-- The accesses translated through some host pages of a PASID (R341), by thread and number. -/
def hostUses (s : State) (pasid : Nat) (frames : List Nat) : List (Nat × Nat) :=
  s.threads.flatMap (fun x => match s.env x.1 with
    | some e => if e.la.asp.pasid != pasid then [] else
        (e.th.accs.filter (fun a => a.phys.any (fun p => p.tgt == 1 && frames.contains (p.pa / 65536)))).map (fun a => (x.1, a.id))
    | none => [])

/-- Whether an access has still to perform. -/
def accPending (s : State) (w : Nat × Nat) : Bool := (s.thread? w.1).any (fun th => (th.acc? w.2).isSome)

/-- INVALIDATE_REQUEST (R341): as the request arrives the matching entries are dropped, so that later requests
translate again; once every request translated through them has performed, the Invalidate Completion is sent. -/
def execInvalidateRequest (pasid page count : Nat) (s : State) : Outcome :=
  let mine (v : Inval) : Bool := v.pasid == pasid && v.page == page && v.count == count && !v.done
  match s.invs.find? mine with
  | some v =>
    if v.waits.any (accPending s) then s.stall
    else .next { s with invs := s.invs.map (fun v => if mine v then { v with done := true } else v) }
  | none =>
    let hit (e : AtcEntry) : Bool := e.pasid == pasid && decide (page ≤ e.page) && decide (e.page < page + count)
    let waits := hostUses s pasid ((s.atc.filter hit).map (·.res.page))
    .next { s with
      atc := s.atc.filter (fun e => !hit e)
      invs := s.invs ++ [⟨pasid, page, count, waits, waits.isEmpty⟩] }

/-- Whether a job waits for a host page (R342). -/
def jobWants (s : State) (e : Env) (page : Nat) (n : Need) (rs : List Region) : Bool :=
  rs.any (fun r => match r with
    | .mem _ lo hi => (List.range ((hi - lo) / 65536 + 2)).any (fun i =>
        let va := (lo / 65536 + i) * 65536
        va < hi && (match e.xlat s (va % 2 ^ 57) n with | .ats p => p == page | _ => false))
    | _ => false)

/-- The jobs of a core that wait for a host page suspended as engine faults of kind 4 (R342, R347). -/
def suspendWaiting (s : State) (core pasid page : Nat) : State :=
  (s.core core).jobs.foldl (fun s j =>
    match s.env j.thread with
    | none => s
    | some e =>
      if j.state == .running && e.la.asp.pasid == pasid
        && (jobWants s e page .r j.reads || jobWants s e page .w j.writes) then suspendJob s core j 4 else s) s

/-- The unit of a waiting thread traps; a `wtake` that reads its launch's table fails it for every other (R254). -/
def failWaiter (code : BitVec 8) (s : State) (w : Env × Nat) : State :=
  let ti := trapOf code w.2
  let s := if w.1.la.dist.reader == some w.1.t then
      s.modDist w.1.tm.lid (fun d => { d with reader := none, failed := some ti })
    else s
  raiseTrap (s.waitFor w.1.t .none) w.1.t ti

/-- The accesses of a die that wait for a host page fail: 0x05 where the host gives a translation without
the permission, else 0x04 (R342). -/
def failPage (s : State) (die pasid page : Nat) : State :=
  let code : BitVec 8 := if (atcFind s die pasid page).isSome then 0x05 else 0x04
  let again (e : Env) (a : Access) : Option Nat :=
    if a.moved && !e.th.trapped a.seq then
      match xlatAgain s e a.needs with
      | .ats p _ => if p == page && e.la.asp.pasid == pasid && dieOf (tCore e.t) == die then some a.va else none
      | _ => none
    else none
  let moved := s.threads.flatMap (fun x => match s.env x.1 with
    | some e => e.th.accs.filterMap (fun a => (again e a).map (fun va => (e.t, a.id, va)))
    | none => [])
  let waiters := atsWaiters s die pasid page
  let cores := (s.cores.map (·.1)).filter (fun c => dieOf c == die)
  let s := cores.foldl (fun s c => suspendWaiting s c pasid page) s
  let dev := s.ats.any (fun r => r.is die pasid page && r.dev)
  let s := { s with
    ats := s.ats.filter (fun r => !r.is die pasid page)
    devFail := if dev then s.devFail ++ [(die, pasid, page)] else s.devFail }
  let s := waiters.foldl (failWaiter code) s
  priFill (moved.foldl (fun s m => match s.env m.1 with
    | some e => match e.th.acc? m.2.1 with
      | some a => faultAccess s e a code m.2.2
      | none => s
    | none => s) s)

/-- The outstanding PRI Page Requests for a page. -/
def priReqs (s : State) (pasid page : Nat) : List AtsReq :=
  s.ats.filter (fun r => r.pasid == pasid && r.page == page && r.pri.isSome)

/-- PRG_RESPONSE (R342): success makes the device translate again; any other response fails the access. -/
def execPrgResponse (pasid page : Nat) (success : Bool) (s : State) : Outcome :=
  let rs := priReqs s pasid page
  if rs.isEmpty then .fault .noSuchInstance
  else if success then
    .next (priFill { s with ats := s.ats.map (fun r => if r.pasid == pasid && r.page == page then { r with pri := none } else r) })
  else .next (rs.foldl (fun s r => failPage s r.die pasid page) s)

/-- The PRI timeout in clk: firmware's, at most 10 ms (R11, R366). -/
def priTimeout (s : State) : Nat := min s.policy.pri 9400000

/-- PRI_TIMEOUT (R342, R366): no response within firmware's timeout. -/
def execPriTimeout (pasid page : Nat) (s : State) : Outcome :=
  let late := (priReqs s pasid page).filter (fun r => match r.pri with | some c => c + priTimeout s ≤ s.clk | none => false)
  if late.isEmpty then s.stall
  else .next (late.foldl (fun s r => failPage s r.die pasid page) s)

end Sys2Proof.Machine
end

