-- ==== Sys2Proof/Machine/Threads.lean ====
section
/-! DEFINITION. The events of a thread: clause headers (R63) with their markers (R275), commands at places
(R107, R108), commit and rollback (R112, R114), starvation and yield (R62, R66). -/

namespace Sys2Proof.Machine

/-! Markers (R275). -/

/-- One more consumption of a marker: saturating at 65,535. -/
def bump (m : List (Nat × Nat)) (i : Nat) : List (Nat × Nat) := putD 0 m i (min (findD m i 0 + 1) 65535)

/-- An entry fires in a clk (R275, R277): it adds an action unless the entry has one, which it then shares. -/
def fireEntry (clk : Nat) (la : Launch) (i : Nat) : Launch :=
  if la.acts.any (fun a => a.entry == i) then la
  else { la with acts := la.acts ++ [⟨la.acts.length, i, clk, false, false, false, false⟩] }

/-- The counters of one entry after a thread of a team reaches a marker. -/
def reachEntry (lid k : Nat) (m : Nat) (s : State) (i : Nat) (e : List DWord) : State :=
  if e.isEmpty then s
  else
    let s := if ttDlm e != m then s
      else if ttGrid e then s.modLaunch lid (fun l => { l with dead := bump l.dead i })
      else s.modTeam k (fun tm => { tm with dead := bump tm.dead i })
    if ttTrig e != m then s
    else
      let old := if ttGrid e then (find? s.launches lid).elim 0 (fun l => findD l.trig i 0)
        else (s.team? k).elim 0 (fun tm => findD tm.trig i 0)
      let s := if ttGrid e then s.modLaunch lid (fun l => { l with trig := bump l.trig i })
        else s.modTeam k (fun tm => { tm with trig := bump tm.trig i })
      if old < 65535 && old + 1 == ttTcnt e then s.modLaunch lid (fun l => fireEntry s.clk l i) else s

/-- A thread reaches a marker (R275). -/
def reachMarker (s : State) (e : Env) (m : Nat) : State :=
  e.la.timetab.zipIdx.foldl (fun s p => reachEntry e.tm.lid (teamKey e.t) m s p.2 p.1) s

/-! Clause headers (R29 to R32, R63). -/

/-- Whether every flag of a mask is zero (R30). -/
def Thread.flagsZero (th : Thread) (mask : BitVec 12) : Bool :=
  (List.range 12).all (fun f => !mask.getLsbD f || th.flag f == 0)

/-- The context past a header. -/
def Ctx.enterClause (c : Ctx) (h : Header) : Ctx :=
  { c with pc := c.pc + 8, crem := h.len.toNat, clause := ⟨h.set0, h.set1, h.r, h.y⟩ }

/-- CLAUSE_HEADER (R63): a header inside a clause is an undefined encoding (R32); else it waits for the
flags of WAIT, acquires when WAIT is not zero (R295), and counts its marker. -/
def execClauseHeader (h : Header) (s : State) : Outcome :=
  match s.env s.cur with
  | none => .fault .noSuchInstance
  | some e =>
    if e.th.exited || e.th.exiting || e.th.wait != .none || e.th.window.any (fun u => u.trap.isSome) then s.stall
    else if e.th.ctx.crem != 0 then .next (raiseTrap s e.t (trapUndef 6))
    else if !e.th.flagsZero h.wait then s.stall
    else
      let s := if h.wait == 0 then s else acquire s (tCore e.t)
      let s := s.modThread e.t (fun th => { th with ctx := th.ctx.enterClause h })
      match h.mark with
      | some m => .next (reachMarker s e m.toNat)
      | none => .next s

/-! Commands at places (R107, R108). -/

/-- A unit of the window changed. -/
def Thread.modUnit (th : Thread) (seq : Nat) (f : WUnit → WUnit) : Thread :=
  { th with window := th.window.map (fun u => if u.seq == seq then f u else u) }

/-- The thread and the unit that a command names. -/
def withCommand (s : State) (t seq : Nat) (k : Env → WUnit → Outcome) : Outcome :=
  match s.env t with
  | none => .fault .noSuchInstance
  | some e =>
    match e.th.unit? seq with
    | none => .fault .noSuchInstance
    | some u => k e u

/-- A unit of the window after one of its operands has been sent (R107): one with a memory destination completes when
its last source has arrived (R112). -/
def WUnit.sent (u : WUnit) (r : Reg) : WUnit :=
  let rest := u.sends.erase r
  { u with
    sends := rest
    done := u.done || (rest.isEmpty && (match u.act with | .access _ => true | _ => false)) }

/-- OPERAND_SEND (R107): a source place sends the value of a register that the unit still awaits, once every
older command of the thread there has been processed (R108). The unit may be the thread's next one, which executes at
the lane when the last of them has arrived (R71). -/
def execOperandSend (t seq : Nat) (r : Reg) (s : State) : Outcome :=
  match s.env t with
  | none => .fault .noSuchInstance
  | some e =>
    match e.th.unit? seq, e.th.arriving with
    | some u, _ =>
      if !u.sends.contains r || u.trap.isSome || olderCommand s e seq (siteOf s e u.before r) true then s.stall
      else .next (s.setThread t (e.th.modUnit seq (·.sent r)))
    | none, some rs =>
      if seq != e.th.nextSeq then .fault .noSuchInstance
      else if !rs.contains r || olderCommand s e seq (siteOf s e e.th.ctx r) true then s.stall
      else .next (s.setThread t { e.th with arriving := some (rs.erase r) })
    | none, none => .fault .noSuchInstance

/-- The physical address and the virtual one that back a unit's destination, where it executes at a bank place. -/
def bankOfUnit (s : State) (e : Env) (u : WUnit) : Option (Nat × Nat) :=
  match u.pend with
  | [] => none
  | r :: _ =>
    match u.before.place r with
    | .bank k =>
      let va := u.before.backing k (blockOf r)
      match e.xlat s va .arena with
      | .ok p => some (p.pa, va)
      | _ => none
    | _ => none

/-- EXECUTE_COMMAND (R107): with every operand arrived and every older command at the place processed, the
unit's result is written there. An error of the bank core's ALU is logged and traps precisely (R327). -/
def execExecuteCommand (t seq : Nat) (err : Bool) (s : State) : Outcome :=
  withCommand s t seq fun e u =>
    match u.cmd with
    | none => s.stall
    | some o =>
      if !u.sends.isEmpty || u.trap.isSome || olderCommand s e seq (homeOf s e u) true then s.stall
      else if err then
        match bankOfUnit s e u with
        | none => s.stall
        | some (pa, va) =>
          .next (trapUnit (logError s 5 pa (tCore t)) t seq (trapOf 0x0F (va % 2 ^ 57 / 1024 * 1024 + 5 * 2 ^ 57)))
      else match o.trap with
      | some ti => .next (trapUnit s t seq ti)
      | none =>
        let undo := e.th.undoOf u.kbit o.writes
        .next (s.setThread t ((e.th.writes u.kbit seq o.writes).modUnit seq (fun u => { u with
          cmd := none, pend := [], done := true, fps := o.fps, act := o.act, undo := undo })))

/-! Commit and rollback (R112, R114). -/

/-- UNIT_COMMIT (R112): the oldest unit of the acting thread. -/
def execUnitCommit (s : State) : Outcome :=
  match s.thread? s.cur with
  | none => .fault .noSuchInstance
  | some _ => match commitHead s s.cur with | some s => .next s | none => s.stall

/-- TRAP_ROLLBACK (R114, R346): every older unit has completed, so the thread becomes precise at the
trapping unit; or a trap recorded for it is delivered once its window is empty. -/
def execTrapRollback (s : State) : Outcome :=
  match s.thread? s.cur with
  | none => .fault .noSuchInstance
  | some _ =>
    match rollbackTrap s s.cur with
    | some s => .next s
    | none => match deliverPending s s.cur with | some s => .next s | none => s.stall

/-! Selection (R62, R66). -/

/-- STARVATION (R62): the acting thread's Age reaches 4,096. -/
def execStarvation (s : State) : Outcome :=
  match s.thread? s.cur with
  | none => .fault .noSuchInstance
  | some th =>
    if th.age < 4096 || th.starved.isSome then s.stall
    else .next (s.setThread s.cur { th with starved := some s.clk })

/-- YIELD_EXCLUSION_END (R66): 64 clk have passed. -/
def execYieldExclusionEnd (s : State) : Outcome :=
  match s.thread? s.cur with
  | none => .fault .noSuchInstance
  | some th =>
    match th.yieldEnd with
    | none => s.stall
    | some c => if s.clk < c then s.stall else .next (s.setThread s.cur { th with yieldEnd := none })

end Sys2Proof.Machine
end

