-- ==== Sys2Proof/Machine/Leases.lean ====
section
/-! DEFINITION. The lease unit (R269 to R273, R91) and Medlar's actions (R276, R277, R339). -/

namespace Sys2Proof.Machine

/-! The activation rule (R272). -/

/-- Lines that active groups may lease together (R272). -/
def leaseCap : Nat := 1792

/-- The rank of a lease: the clk of residency, then cluster, then group slot (R272). -/
def Lease.rank (l : Lease) : Nat := l.born * 64 + l.cluster * 16 + l.slot

/-- A lease inserted by age, oldest first. -/
def insertAge (x : Nat × Lease) : List (Nat × Lease) → List (Nat × Lease)
  | [] => [x]
  | y :: ys => if x.2.rank ≤ y.2.rank then x :: y :: ys else y :: insertAge x ys

/-- The leases of a core, oldest first. -/
def byAge (ls : List (Nat × Lease)) : List (Nat × Lease) := ls.foldr insertAge []

/-- The active groups and the sum of their leases. -/
def activeOf (ls : List (Nat × Lease)) : List (Nat × Lease) := ls.filter (fun x => x.2.parked.isNone)
def leaseSum (ls : List (Nat × Lease)) : Nat := ((activeOf ls).map (fun x => x.2.lines)).foldl (· + ·) 0

/-- A group parked, activated, or activated and protected (R272). -/
def park (clk : Nat) (ls : List (Nat × Lease)) (g : Nat) : List (Nat × Lease) :=
  ls.map (fun x => if x.1 == g then (g, { x.2 with parked := some clk }) else x)
def activate (ls : List (Nat × Lease)) (g : Nat) : List (Nat × Lease) :=
  ls.map (fun x => if x.1 == g then (g, { x.2 with parked := none }) else x)
def protect (clk : Nat) (ls : List (Nat × Lease)) (g : Nat) : List (Nat × Lease) :=
  ls.map (fun x => if x.1 == g then (g, { x.2 with parked := none, protect := some (clk + 16384) }) else x)

/-- Step 1: the youngest unprotected groups are parked while the leases exceed the cap. -/
def shrink (clk : Nat) : Nat → List (Nat × Lease) → List (Nat × Lease)
  | 0, ls => ls
  | n + 1, ls =>
    let open_ := (activeOf ls).filter (fun x => x.2.protect.isNone)
    if leaseCap < leaseSum ls && 1 < open_.length then
      match (byAge open_).getLast? with
      | some x => shrink clk n (park clk ls x.1)
      | none => ls
    else ls

/-- The groups parked for 100,000 clk, oldest first. -/
def overdue (clk : Nat) (ls : List (Nat × Lease)) : List Nat :=
  ((byAge ls).filter (fun x => match x.2.parked with | some c => c + 100000 ≤ clk | none => false)).map (·.1)

/-- Whether a thread waits at `barw` or `bars`. -/
def Thread.atBarrier (th : Thread) : Bool := match th.wait with | .barrier _ _ => true | _ => false

/-- Whether every live thread of a group waits at a barrier. -/
def groupAtBarrier (s : State) (g : Nat) : Bool := (liveThreads s g).all (fun x => x.2.atBarrier)

/-- Whether some thread of a group's team waits at a barrier. -/
def teamAtBarrier (s : State) (g : Nat) : Bool :=
  s.threads.any (fun x => teamKey x.1 == g / 16 && !x.2.exited && x.2.atBarrier)

/-- The barrier condition (R272): some group is active, and every live thread of every active group waits at a
barrier. -/
def barrierHolds (s : State) (ls : List (Nat × Lease)) : Bool :=
  !(activeOf ls).isEmpty && (activeOf ls).all (fun x => groupAtBarrier s x.1)

/-- The group that the barrier rule activates (R91, R272 step 2). -/
def barrierGroup (s : State) (ls : List (Nat × Lease)) : Option Nat :=
  if !barrierHolds s ls then none
  else ((byAge ls).find? (fun x => x.2.parked.isSome && !groupAtBarrier s x.1 && teamAtBarrier s x.1)).map (·.1)

/-- Step 3: parked groups are activated in order of age while they fit; one that exceeds the cap runs
alone. -/
def letIn (ls : List (Nat × Lease)) : List (Nat × Lease) → List (Nat × Lease)
  | [] => ls
  | x :: xs =>
    if leaseCap < x.2.lines then (if (activeOf ls).isEmpty then activate ls x.1 else ls)
    else if leaseCap < leaseSum ls + x.2.lines then ls
    else letIn (activate ls x.1) xs

/-- The activation rule on a core's leases (R272). -/
def evaluate (s : State) (ls : List (Nat × Lease)) : List (Nat × Lease) :=
  let ls := shrink s.clk ls.length ls
  let ls := (overdue s.clk ls).foldl (protect s.clk) ls
  let ls := match barrierGroup s ls with | some g => protect s.clk ls g | none => ls
  letIn ls ((byAge ls).filter (fun x => x.2.parked.isSome))

/-- The lease unit of a core evaluates the rule. An evaluation that is due in a later clk stays due. -/
def evaluateCore (s : State) (core : Nat) : State :=
  let k := s.core core
  let next := (s.clk / 1024 + 1) * 1024
  s.setCore core { k with
    leases := evaluate s k.leases, nextEval := if s.clk < k.nextEval then min k.nextEval next else next
    atBar := barrierHolds s k.leases }

/-- The barrier condition of a core that no longer holds may begin to hold again (R272). -/
def barrierOver (s : State) (k : Core) : Core := { k with atBar := k.atBar && barrierHolds s k.leases }

/-- LEASE_EVALUATION (R272) at the acting core: every 1,024 clk, after a group became resident or ended, when
a group has been parked for 100,000 clk, and when the barrier condition begins to hold. -/
def execLeaseEvaluation (s : State) : Outcome :=
  let k := s.core s.cur
  if s.clk < k.nextEval && (overdue s.clk k.leases).isEmpty && (k.atBar || !barrierHolds s k.leases) then s.stall
  else .next (evaluateCore s s.cur)

/-- Whether the lease unit of a core has something due in this clk (R270, R272, R273): an evaluation, the end of a
protection, or the decay of a measured lease. No clk passes meanwhile. -/
def leaseDue (s : State) (k : Core) : Bool :=
  !k.leases.isEmpty && (decide (k.nextEval ≤ s.clk) || !(overdue s.clk k.leases).isEmpty
    || (!k.atBar && barrierHolds s k.leases)
    || k.leases.any (fun l => l.2.protect.any (fun c => decide (c ≤ s.clk)) || (l.2.measured && decide (65536 ≤ l.2.quiet))))

/-- A lease of a group changed. -/
def modLease (s : State) (g : Nat) (f : Lease → Lease) : State :=
  let k := s.core (g / 64)
  s.setCore (g / 64) { k with leases := adjust k.leases g f }

/-- LEASE_QUIET_DECAY (R270): the acting group's quiet count reaches 65,536. -/
def execLeaseQuietDecay (s : State) : Outcome :=
  match find? (s.core (s.cur / 64)).leases s.cur with
  | none => .fault .noSuchInstance
  | some l =>
    if !l.measured || l.quiet < 65536 then s.stall
    else .next (modLease s s.cur (fun l => { l with lines := l.lines - l.lines / 8, quiet := 0 }))

/-- PARKED_TIME_EXPIRY (R272): the acting group has been parked for 100,000 clk; the unit evaluates the
rule, whose second step activates and protects it. -/
def execParkedTimeExpiry (s : State) : Outcome :=
  let core := s.cur / 64
  if (overdue s.clk (s.core core).leases).contains s.cur then .next (evaluateCore s core) else s.stall

/-- PROTECTION_END (R272). -/
def execProtectionEnd (s : State) : Outcome :=
  match find? (s.core (s.cur / 64)).leases s.cur with
  | none => .fault .noSuchInstance
  | some l =>
    match l.protect with
    | none => s.stall
    | some c => if s.clk < c then s.stall else .next (modLease s s.cur (fun l => { l with protect := none }))

/-! Medlar (R276, R277). -/

/-- What the pages of a range are: a list, one that moves, or an address whose walk ends at a malformed entry of which
firmware has still to be told (R332). -/
inductive PageList where
  | ok (ps : List Phys)
  | moving
  | tell (va : Nat)
  deriving DecidableEq, Repr

/-- A page before the rest. -/
def PageList.cons (p : Phys) : PageList → PageList
  | .ok ps => .ok (p :: ps)
  | r => r

/-- The pages that map a range, in ascending order; unmapped parts are skipped (R276). -/
def pagesIn (s : State) (asp : AddrSpace) (hi : Nat) : Nat → Nat → PageList
  | 0, _ => .ok []
  | fuel + 1, va =>
    if hi ≤ va then .ok []
    else match walk s asp va with
    | .page p => (pagesIn s asp hi fuel (p.page % 2 ^ 57 + p.size)).cons p
    | .none => if s.untold asp va then .tell va else pagesIn s asp hi fuel ((va / 65536 + 1) * 65536)
    | .moving => .moving

/-- The pages of an entry's range. -/
def entryPages (s : State) (la : Launch) (e : List DWord) : PageList :=
  pagesIn s la.asp (ttBase e + ttLen e) (ttLen e / 65536 + 1) (ttBase e)

/-- The first frame address of a page. -/
def Phys.frame (p : Phys) : Nat := p.pa - p.pa % p.size

/-- The range of a page. -/
def Phys.range (p : Phys) (asn : BitVec 16) : VRange := ⟨asn, p.page % 2 ^ 57, p.page % 2 ^ 57 + p.size⟩

/-- The bytes of memory from `src` copied over those from `dst`. -/
def copyMem (m : Memory) (src dst n : Nat) : Memory :=
  let kept := m.filter (fun c => !(decide (dst ≤ c.1) && decide (c.1 < dst + n)))
  (m.filter (fun c => decide (src ≤ c.1) && decide (c.1 < src + n))).foldl (fun k c => Memory.write k (c.1 - src + dst) c.2) kept

/-- Whether a line lies in a frame. -/
def inFrame (frame n ln : Nat) : Bool := frame ≤ 128 * ln && 128 * ln < frame + n

/-- A page moved to a new frame (R339): unmapped with its copies flushed, its frame written back and copied,
its entry written with the new frame and no class. -/
def migrate (asn : BitVec 16) (s : State) (p : Phys) (new : Nat) : State :=
  let s := dropRange s (p.range asn) false
  let s := ((s.l2.map (·.1)).filter (inFrame p.frame p.size)).foldl l2Clean s
  let s := { s with
    dram := copyMem s.dram p.frame new p.size
    l2 := s.l2.filter (fun e => !inFrame new p.size e.1)
    registry := s.registry.filter (fun e => !inFrame new p.size e.line) }
  let e : DWord := (p.entry &&& 0xFC0000000000003F) ||| BitVec.ofNat 64 (new % 2 ^ 57)
  homeWrite s p.pte 8 e.toNat

/-- A tier 2 address (R331). -/
def tier2 (pa : Nat) : Bool := 2 ^ 40 ≤ pa && pa < 2 ^ 41

/-- The pages of a range that an action moves: mapped in the tier it leaves, not of the register arena. -/
def movers (ps : List Phys) (fetch : Bool) : List Phys :=
  ps.filter (fun p => p.tgt == 0 && !p.entry.getLsbD 5 && (if fetch then tier2 p.pa else tier1 p.pa))

/-- Whether a frame shows no use: no byte of it is listed and no line of it is cached. -/
def frameSpare (s : State) (frame n : Nat) : Bool :=
  !s.dram.any (fun c => decide (frame ≤ c.1) && decide (c.1 < frame + n)) && !s.l2.any (fun l => inFrame frame n l.1)

/-- The frames that the address spaces of the device's launches and queue pairs map, each with its bytes. -/
def framesInUse (s : State) : List (Nat × Nat) :=
  (((s.launches.map (·.2.asp) ++ s.queues.map (·.2.asp)).map (·.root)).dedup).flatMap (mappedFrom s 5 0)

/-- Whether a frame keeps clear of some others. -/
def frameClear (frame n : Nat) (used : List (Nat × Nat)) : Bool := !used.any (fun u => meets frame n u.1 u.2)

/-- Whether intervals keep clear of each other. -/
def apart : List (Nat × Nat) → Bool
  | [] => true
  | x :: xs => frameClear x.1 x.2 xs && apart xs

/-- Whether frames can take the pages that an action moves: one for each, aligned, in the tier it fills, with no other use
(R276: no action changes a value). -/
def framesOk (s : State) (ps : List Phys) (frames : List Nat) (fetch : Bool) : Bool :=
  let fs := (ps.zip frames).map (fun x => (x.2, x.1.size))
  ps.length == frames.length && (ps.zip frames).all (fun x => x.2 % x.1.size == 0
      && (if fetch then tier1 x.2 && tier1 (x.2 + x.1.size - 1) else tier2 x.2 && tier2 (x.2 + x.1.size - 1))
      && frameSpare s x.2 x.1.size)
    && apart fs && (let used := framesInUse s; fs.all (fun f => frameClear f.1 f.2 used))

/-- Whether a bank lies in a frame of tier 1: banks repeat every 8 MiB (R314). -/
def bankIn (frame n bank : Nat) : Bool :=
  tier1 frame && (decide (2 ^ 23 ≤ n) || meets (frame % 2 ^ 23) n ((bank % 16 * 512 + bank / 16) * 1024) 1024)

/-- Whether a row operation holds a bank of a frame (R325). -/
def frameBusy (s : State) (frame n : Nat) : Bool := s.tickets.any (fun t => bankIn frame n t.1)

/-- The lines of device memory of some pages that lie in a range, the locked ones left out (R276). -/
def actionLines (s : State) (ps : List Phys) (lo hi : Nat) : List Nat :=
  (ps.flatMap (fun p =>
    if p.tgt != 0 then []
    else
      let v := p.page % 2 ^ 57
      linesOf (p.frame + (max lo v - v)) (p.frame + (min hi (v + p.size) - v)))).filter
    (fun ln => physOk (128 * ln) && !lineLocked s ln)

/-- Whether a line can be pinned (R260): pinned already, or its die has capacity beside its level-S granules and its
set fewer than four pinned ways. -/
def pinRoom (s : State) (ln : Nat) : Bool :=
  let die := (Config.homeSlice ln).val / 64
  (find? s.l2 ln).any (fun l => !l.pinned.isEmpty)
    || (pinnedLines s die + 32 * usedS s die < 131072
      && pinnedWays s ln + sWays s ln < 4)

/-- A line filled and pinned by a launch, if there is room (R260, R276). -/
def pinLine (lid : Nat) (rc : BitVec 2) (s : State) (ln : Nat) : State :=
  let s := if (find? s.l2 ln).isSome then s else l2Fill s ln 0 rc
  if pinRoom s ln then { s with l2 := adjust s.l2 ln (fun l => { l with pinned := (l.pinned.erase lid) ++ [lid], rc := rc }) }
  else s

/-- A line written back, dropped and unpinned (R276 EVICT). -/
def evictLine (s : State) (ln : Nat) : State :=
  let s := l2Clean s ln
  { s with l2 := del s.l2 ln }

/-- The work of an action (R276) on the pages of its range: fetch, pin, evict, write back, demote. None while a page
that moves is still in use under its old translation (R337), while a row operation holds a bank that the action needs
(R325), or for frames that cannot take the pages. -/
def actionWork (s : State) (lid : Nat) (la : Launch) (e : List DWord) (ps : List Phys) (frames : List Nat) : Option State :=
  let asn := la.asp.asn
  let lines := actionLines s ps (ttBase e) (ttBase e + ttLen e)
  let move (fetch : Bool) : Option State :=
    let ms := movers ps fetch
    if ms.any (fun p => draining s (p.range asn)) || (ms.zip frames).any (fun x => frameBusy s x.1.frame x.1.size || frameBusy s x.2 x.1.size)
      || !framesOk s ms frames fetch then none
    else some ((ms.zip frames).foldl (fun s x => migrate asn s x.1 x.2) s)
  let each (f : State → Nat → State) : Option State :=
    if lines.any (fun ln => ticketHeld s (128 * ln)) then none else some (lines.foldl f s)
  match ttAct e with
  | 0 => move true
  | 1 => each (pinLine lid (BitVec.ofNat 2 (ttRc e)))
  | 2 => each evictLine
  | 3 => each l2Clean
  | _ => move false

/-- The action of a launch by its number. -/
def Launch.act? (la : Launch) (n : Nat) : Option MedAct := la.acts.find? (fun a => a.id == n)

/-- Whether an action fired before another (R277): in an earlier clk, or in the same one by a lower entry index, then
by the launch. -/
def MedAct.firedBefore (b : MedAct) (bl : Nat) (a : MedAct) (al : Nat) : Bool :=
  b.fired < a.fired || (b.fired == a.fired && (b.entry < a.entry || (b.entry == a.entry && bl < al)))

/-- Whether an action waits for an earlier-fired one of the device (R277): for its start, and, where their ranges
overlap, for its end. -/
def actionWaits (s : State) (lid : Nat) (la : Launch) (a : MedAct) : Bool :=
  let e (l : Launch) (x : MedAct) : List DWord := l.timetab.getD x.entry []
  s.launches.any (fun l => l.2.acts.any (fun b => b.firedBefore l.1 a lid && (!b.started
    || (!b.done && l.2.asp.asn == la.asp.asn && meets (ttBase (e l.2 b)) (ttLen (e l.2 b)) (ttBase (e la a)) (ttLen (e la a))))))

/-- MEDLAR_ACTION_START (R277): an action starts once no earlier-fired one holds it back, and does its work when nothing
else does: a page that moves, a drain, a ticket. `frames` are the frames that the device gives to the pages that move. -/
def execMedlarActionStart (lid act : Nat) (frames : List Nat) (s : State) : Outcome :=
  match find? s.launches lid with
  | none => .fault .noSuchInstance
  | some la =>
    match la.act? act with
    | none => .fault .noSuchInstance
    | some a =>
      let mark (f : MedAct → MedAct) (s : State) : Outcome :=
        .next (s.modLaunch lid (fun l => { l with acts := l.acts.map (fun x => if x.id == act then f x else x) }))
      let en := la.timetab.getD a.entry []
      if a.worked || a.walks || (!a.started && actionWaits s lid la a) then s.stall
      else match entryPages s la en with
      | .moving => mark (fun x => { x with started := true, walks := true }) s
      | .tell va => mark (fun x => { x with started := true }) (s.tell la.asp va)
      | .ok ps =>
        match actionWork s lid la en ps frames with
        | none => if a.started then s.stall else mark (fun x => { x with started := true }) s
        | some s => mark (fun x => { x with started := true, worked := true }) s

/-- MEDLAR_ACTION_COMPLETE (R276): the range is resident, so stalled schedule misses go on (R278). -/
def execMedlarActionComplete (lid act : Nat) (s : State) : Outcome :=
  match find? s.launches lid with
  | none => .fault .noSuchInstance
  | some la =>
    match la.act? act with
    | none => .fault .noSuchInstance
    | some a =>
      if !a.worked || a.done then s.stall
      else .next (s.modLaunch lid (fun l => { l with
        acts := l.acts.map (fun x => if x.id == act then { x with done := true } else x) }))

end Sys2Proof.Machine
end

