-- ==== Sys2Proof/Machine/Records.lean ====
section
/-! DEFINITION. The checks that the device makes of a launch record at submission (R241, R243), with its
format slots (R162), its stage table (R249) and its device list (R257), and the timetable read at start
(R274). A record is read as 39 words (log 7). -/

namespace Sys2Proof.Machine

/-- A refusal: the code of R243 and the byte offset that the completion record reports. -/
structure Refused where
  code : Nat
  off  : Nat
  deriving DecidableEq, Repr

/-- The words of a launch record. -/
def recordWords : Nat := 39

/-- Bits that a record word may set, by its byte offset (R241): a reserved bit breaks code 1. -/
def recordMask (off : Nat) : DWord :=
  if off = 0x00 then 0xFFFFFFFF00FFFFFF
  else if off = 0x10 then 0x0000031F077F1F1F
  else if off = 0x20 then 0x00000FFF001F03FF
  else if off = 0x30 then 0x01FFFFFFFFFF0000
  else if off = 0x50 || off = 0x78 then 0xFFFFFFFF0000000F
  else if off = 0x38 || off = 0xA8 then 0x00000000FFFFFFFF
  else if off = 0x98 then 0x7FF
  else if off = 0xB8 then 0xF
  else if off = 0xC8 then 0xFFFF
  else if off = 0xD8 then 0xBFFFE
  else if off = 0xE8 then 0xFFFFFFFF0000007F
  else if [0x08, 0x18, 0x28, 0x90, 0xA0, 0xB0, 0xC0, 0xD0, 0xE0, 0xF0].contains off then 0x01FFFFFFFFFFFFFF
  else 0xFFFFFFFFFFFFFFFF

/-- The record word at an offset with its reserved bits zero. -/
def Launch.reservedOk (l : Launch) (off : Nat) : Bool := l.word off &&& ~~~recordMask off == 0

/-- The byte offsets of a record's words. -/
def recordOffs : List Nat := (List.range recordWords).map (8 * ·)

/-- Code 1: a reserved bit, or a version other than 1. -/
def Launch.check1 (l : Launch) : Option Nat :=
  recordOffs.find? (fun o => !l.reservedOk o || (o == 0 && bits (l.word 0) 0 8 != 1))

/-- Code 2: a count outside its range. -/
def Launch.check2 (l : Launch) : Option Nat :=
  if l.ngrp < 1 || 16 < l.ngrp || l.ngrp < l.nprod || l.nteam < 1 then some 0x00
  else if 96 < l.nbar then some 0x10
  else if l.depthLimit < 1 || 16 < l.npre || 2048 < l.lease0 then some 0x20
  else if 1024 < l.ng then some 0x98
  else if 8 < l.nstg then some 0xB8
  else if l.nd < 1 || 64 < l.nd then some 0xE8
  else none

/-- Code 3: an address not aligned. The reserved bits of code 1 make each canonical. -/
def Launch.check3 (l : Launch) : Option Nat :=
  if l.entry.toNat % 8 != 0 then some 0x08
  else if l.csb % 8 != 0 then some 0x18
  else if l.gtb % 16 != 0 then some 0x90
  else if l.wqb % 8 != 0 then some 0xA0
  else if l.stb % 8 != 0 then some 0xB0
  else if l.tvec.toNat % 8 != 0 then some 0xD0
  else if l.ng != 0 && l.fxb % 4096 != 0 then some 0xF0
  else none

/-- Code 4: a lane budget above 16 (R95). -/
def Launch.check4 (l : Launch) : Option Nat :=
  if 16 < l.budget false || 16 < l.budget true then some 0x10 else none

/-- A block whose place the role's budget or anchors do not allow (R95, R97, R127). -/
def Launch.blockBad (l : Launch) (consumer : Bool) (b : Nat) : Bool :=
  match placeOfCode (codeOfBlock (l.pmap consumer) b) with
  | .lane => l.budget consumer ≤ b || 16 ≤ b
  | .slice k | .bank k => !(l.anchorsSet consumer).getLsbD k
  | .unmapped => false

/-- The last TID of a role, none when the role has no group (R56). -/
def Launch.lastTid (l : Launch) (consumer : Bool) : Option Nat :=
  if consumer then (if l.nprod < l.ngrp then some (32 * l.ngrp - 1) else none)
  else (if 0 < l.nprod then some (32 * l.nprod - 1) else none)

/-- An anchor whose range leaves the arena (R100, R242): by its offset alone, or for the last thread of the role, by
the stride. -/
def Launch.offsetBad (l : Launch) (consumer : Bool) (k : Nat) : Bool :=
  (l.lastTid consumer).isSome && (l.anchorsSet consumer).getLsbD k &&
    decide (65536 * l.arPages < 32 * l.anchorOff consumer k + 1024)
def Launch.strideBad (l : Launch) (consumer : Bool) (k : Nat) : Bool :=
  match l.lastTid consumer with
  | none => false
  | some tid => (l.anchorsSet consumer).getLsbD k && !l.offsetBad consumer k &&
      decide (65536 * l.arPages < 32 * (l.anchorOff consumer k + l.anchorStride consumer * tid) + 1024)

/-- The first breach of a role's place plan in record order, by the word of its field (R127, R243): a place-map entry,
the stride, an anchor's offset. -/
def Launch.planBad (l : Launch) (consumer : Bool) : Option Nat :=
  match (List.range 32).find? (l.blockBad consumer) with
  | some b => some (planOff consumer + 8 * (b / 16))
  | none =>
    if (List.range 4).any (l.strideBad consumer) then some (planOff consumer + 0x10)
    else ((List.range 4).find? (l.offsetBad consumer)).map (fun k => planOff consumer + 0x18 + 8 * (k / 2))

/-- Code 5: a place plan. -/
def Launch.check5 (l : Launch) : Option Nat := (l.planBad false).orElse (fun _ => l.planBad true)

/-- A format-slot descriptor that R162 refuses. -/
def slotRefused (d : DWord) : Bool :=
  let ef := bits d 0 4
  let bs := bits d 4 2
  let sf := bits d 6 2
  let p := bits d 8 5
  d.extractLsb' 15 49 != 0 || ef == 15 || bs == 3 || (ef == 0 && d != 0)
    || (sf != 0 && !List.contains [4, 5, 6, 7, 8, 10, 11, 13] ef) || (sf == 0 && bs != 0)
    || (ef == 13 && (p != 1 || 2 ≤ sf))
    || (ef != 0 && ef != 13 && (p < 2 || 16 < p))

/-- Code 6: a format slot. -/
def Launch.check6 (l : Launch) : Option Nat :=
  ((List.range 8).find? (fun n => slotRefused (l.fs n))).map (fun n => 0xF8 + 8 * n)

/-- A stage-table entry that R249 refuses. -/
def stageRefused (d : DWord) : Bool :=
  d.extractLsb' 9 55 != 0 || bits d 1 4 < 1 || 12 < bits d 1 4 || bits d 7 2 == 0 || bits d 5 2 == 0

/-- A device list that R257 refuses: a reserved bit, a module above 1,535, or one listed twice. -/
def devsRefused (ds : List (List DWord)) : Bool :=
  let m (d : List DWord) : Nat := bits (d.getD 0 0) 0 16
  ds.any (fun d => bits (d.getD 0 0) 16 48 != 0 || 1535 < m d || bits (d.getD 1 0) 57 7 != 0
    || bits (d.getD 2 0) 57 7 != 0 || d.getD 3 0 != 0) || !(ds.map m).Nodup

/-- A list of words cut into entries of n words. -/
def chunksOf (n : Nat) (ws : List DWord) : Nat → List (List DWord)
  | 0 => []
  | k + 1 => ws.take n :: chunksOf n (ws.drop n) k

/-- The checks of the record alone, lowest code first (R243). -/
def Launch.checkRecord (l : Launch) : Option Refused :=
  match l.check1 with
  | some o => some ⟨1, o⟩
  | none => match l.check2 with
  | some o => some ⟨2, o⟩
  | none => match l.check3 with
  | some o => some ⟨3, o⟩
  | none => match l.check4 with
  | some o => some ⟨4, o⟩
  | none => match l.check5 with
  | some o => some ⟨5, o⟩
  | none => match l.check6 with
  | some o => some ⟨6, o⟩
  | none => none

/-- A launch that a record describes, before its checks. -/
def Launch.ofRecord (ident : DWord) (qp : Option Nat) (sseq : DWord) (asp : AddrSpace) (ws : List DWord) : Launch :=
  { ident, qp, sseq, record := ws, stages := [], devs := [], asp, didx := 0
    gen := (ws.getD 29 0).extractLsb' 32 32, started := false, startClk := 0, nextTeam := 0, preempt := none
    prec := 0, preempted := false, killed := false, trapped := false, saved := [], anySaved := false, gathered := [], ready := []
    repEnd := none, dist := ⟨none, none, none, [], [], []⟩, timetab := [], ttskip := 0, trig := [], dead := []
    acts := [], status := [], trec := none, ntrap := 0, wqHeads := [] }

/-! Reads of the device itself (R241, R274, R127): at the homes, under an address space. -/

/-- What a read of the device finds: the value, a trap cause and the address that it failed at, or a wait: for the
`tinv` of a page that moves, for firmware to be told of a malformed entry (R332), or for a host translation with the
request made (R340). -/
inductive Dev (α : Type) where
  | ok (a : α)
  | bad (code : BitVec 8) (va : Nat)
  | wait (s : State)

/-- A request of the device itself for a host page. -/
def devRequest (s : State) (die pasid page : Nat) : State :=
  let s := s.request die pasid page false
  { s with ats := s.ats.map (fun r => if r.die == die && r.pasid == pasid && r.page == page then { r with dev := true } else r) }

/-- n bytes within one 8-byte unit read at a virtual address; a host page whose translation failed cannot
be read (R342). A walk that meets a page that moves waits for a `tinv` that covers it (R332). -/
def devUnit (s : State) (die : Nat) (asp : AddrSpace) (va n : Nat) : Dev Nat :=
  let page := (asp.asn.toNat, va / 65536)
  if s.devWalks.contains page then .wait { s with stalled := true }
  else match translate s die asp va .r with
  | .ok p => if p.hole then .bad 0x04 va else .ok (physRead s p n)
  | .trap c => if s.untold asp va then .wait (s.tell asp va) else .bad c va
  | .moving => .wait { s with devWalks := s.devWalks ++ [page] }
  | .ats page => if s.devFail.contains (die, asp.pasid, page) then .bad 0x04 va else .wait (devRequest s die asp.pasid page)

/-- n bytes at any virtual address. -/
def devBytes (s : State) (die : Nat) (asp : AddrSpace) (va : Nat) : Nat → Dev Nat
  | 0 => .ok 0
  | n + 1 =>
    match devUnit s die asp (va % 2 ^ 57) 1 with
    | .ok b =>
      match devBytes s die asp (va + 1) n with
      | .ok v => .ok (b + 256 * v)
      | r => r
    | r => r

/-- A value of n bytes, n at most 8, at any virtual address. -/
def devValue (s : State) (die : Nat) (asp : AddrSpace) (va n : Nat) : Dev Nat :=
  if va % n = 0 then devUnit s die asp (va % 2 ^ 57) n else devBytes s die asp va n

/-- Values of n bytes one after another. -/
def devValues (s : State) (die : Nat) (asp : AddrSpace) (n va : Nat) : Nat → Dev (List Nat)
  | 0 => .ok []
  | k + 1 =>
    match devValue s die asp va n with
    | .ok v =>
      match devValues s die asp n (va + n) k with
      | .ok vs => .ok (v :: vs)
      | r => r
    | .bad c a => .bad c a
    | .wait s => .wait s

/-- 64-bit words one after another. -/
def devWords (s : State) (asp : AddrSpace) (va n : Nat) : Dev (List DWord) :=
  match devValues s 0 asp 8 va n with
  | .ok vs => .ok (vs.map (BitVec.ofNat 64))
  | .bad c a => .bad c a
  | .wait s => .wait s

/-! Submission. -/

/-- What the reads and checks of submission find (R241, R243): the launch with its copies, a refusal, or a
read that waits. -/
inductive Submitted where
  | ok (l : Launch)
  | refused (l : Launch) (r : Refused)
  | wait (s : State)

/-- A read of submission, which refuses the launch where it fails. -/
def submitRead (s : State) (l : Launch) (va n : Nat) (r : Refused) (k : List DWord → Submitted) : Submitted :=
  match devWords s l.asp va n with
  | .ok ws => k ws
  | .bad _ _ => .refused l r
  | .wait s => .wait s

/-- The device list read and checked (R257, R258). -/
def checkDevices (s : State) (l : Launch) : Submitted :=
  if l.nd ≤ 1 then .ok l
  else submitRead s l l.devl (4 * l.nd) ⟨8, 0xE0⟩ fun ws =>
    let l := { l with devs := chunksOf 4 ws l.nd }
    if devsRefused l.devs then .refused l ⟨8, 0xE0⟩
    else if l.gen.toNat ≤ s.genMax.toNat then .refused l ⟨9, 0xE8⟩
    else .ok l

/-- The stage table read and checked (R249), then the device list. -/
def checkTables (s : State) (l : Launch) : Submitted :=
  submitRead s l l.stb l.nstg ⟨7, 0xB0⟩ fun st =>
    if st.any stageRefused then .refused l ⟨7, 0xB0⟩ else checkDevices s { l with stages := st }

/-- A launch record read and checked (R241, R243, R361): code 10 where it cannot be read or is not aligned
to 64 bytes. -/
def submitRecord (s : State) (ident : DWord) (qp : Option Nat) (sseq : DWord) (asp : AddrSpace) (lrec : Nat) : Submitted :=
  let l := Launch.ofRecord ident qp sseq asp []
  if lrec % 64 != 0 then .refused l ⟨10, 0⟩
  else submitRead s l lrec recordWords ⟨10, 0⟩ fun ws =>
    let l := Launch.ofRecord ident qp sseq asp ws
    match l.checkRecord with
    | some r => .refused l r
    | none => checkTables s l

/-! The timetable (R274). -/

/-- A timetable entry that is skipped for what it holds. -/
def entrySkipped (e : List DWord) : Bool :=
  bits (ttWord e 0) 32 2 != 0 || (ttWord e 0).getLsbD 14 || ttTcnt e == 0 || bits (ttWord e 1) 57 7 != 0
    || ttBase e % 65536 != 0 || bits (ttWord e 2) 40 24 != 0 || ttLen e == 0 || ttLen e % 65536 != 0
    || bits (ttWord e 3) 5 59 != 0 || 4 < ttAct e

/-- The entries as Medlar reads them; the empty list where one is skipped. -/
def readEntries (s : State) (asp : AddrSpace) (va : Nat) : Nat → Dev (List (List DWord))
  | 0 => .ok []
  | n + 1 =>
    match devWords s asp va 4, readEntries s asp (va + 32) n with
    | .ok e, .ok es => .ok ((if entrySkipped e then [] else e) :: es)
    | .bad _ _, .ok es => .ok ([] :: es)
    | .wait s, _ | _, .wait s => .wait s
    | _, .bad c a => .bad c a

/-- A launch starts on the device (R258): it counts elapsed clk, and Medlar reads its timetable (R274). -/
def startLaunch (s : State) (l : Launch) : Dev Launch :=
  match readEntries s l.asp l.ttb l.ttn with
  | .ok tt => .ok { l with
      started := true
      startClk := s.clk
      timetab := tt
      ttskip := (tt.filter (·.isEmpty)).length }
  | .bad c a => .bad c a
  | .wait s => .wait s

end Sys2Proof.Machine
end

