-- ==== Sys2Proof/Machine/Residency.lean ====
section
/-! DEFINITION. Teams become resident (R55, R116, R127, R242 to R249), launches start, are pre-empted and
end (R246, R257 to R259, R349, R361, R362). -/

namespace Sys2Proof.Machine

/-- What an event on a launch acts on. -/
def withLaunch (s : State) (lid : Nat) (k : Launch → Outcome) : Outcome :=
  match find? s.launches lid with
  | none => .fault .noSuchInstance
  | some l => k l

/-! Room for a team (R244). -/

/-- The group slots of a cluster that are free, in ascending order (R116). -/
def freeGroupSlots (k : Core) (cluster : Nat) : List Nat :=
  ((List.range 16).map (cluster * 16 + ·)).filter (fun n => (groupAt k n).isNone)

/-- The groups of a team that a start cluster places on a cluster (R55). -/
def groupsOn (ngrp c0 cluster : Nat) : List Nat := (List.range ngrp).filter (fun i => (c0 + i) % 4 == cluster)

/-- Whether every group of a team finds a slot (R55). -/
def groupsFit (k : Core) (ngrp c0 : Nat) : Bool :=
  (List.range 4).all (fun c => (groupsOn ngrp c0 c).length ≤ (freeGroupSlots k c).length)

/-- The lowest free team slot of a core (R54, R244). -/
def freeTeamSlot (k : Core) : Option Nat := (List.range 4).find? (fun i => (find? k.teams i).isNone)

/-- Barriers that the teams of a core hold (R245). -/
def barriersUsed (k : Core) : Nat := (k.teams.map (fun t => t.2.nbar)).foldl (· + ·) 0

/-- Granules that a stage table asks of a level (R249). -/
def stageGran (stages : List DWord) (lvlS : Bool) : Nat :=
  (stages.map (fun d => if queueS d == lvlS then queueGran d else 0)).foldl (· + ·) 0

/-- Whether a core has room for a team of a launch (R55, R244, R249). -/
def roomFor (s : State) (core c0 : Nat) (l : Launch) : Bool :=
  let k := s.core core
  c0 < 4 && groupsFit k l.ngrp c0 && barriersUsed k + l.nbar ≤ 96
    && stageGran l.stages false ≤ freeC k && stageGran l.stages true ≤ freeS s (dieOf core)

/-- Whether firmware started a launch (R361). -/
def Launch.byFirmware (l : Launch) : Bool := l.ident.getLsbD 63

/-- Whether a core is in service: a core that the configuration record enables, or a service core, on an enabled die
(R356, R369). -/
def enabledCore (c : ConfigRecord) (core : Nat) : Bool :=
  core < 260 && c.dies.getLsbD (dieOf core) && (256 ≤ core || c.cores.contains core)

/-- Whether a core may hold a team of a launch; a service core, one of firmware's own (R356). -/
def coreServes (s : State) (core : Nat) (l : Launch) : Bool :=
  enabledCore s.config core && (core < 256 || l.byFirmware)

/-! The start of a team (R127, R242, R245, R248). -/

/-- The group slots of a team's groups, the lowest free of each cluster (R116). -/
def placeGroups (k : Core) (key ngrp c0 : Nat) : List (Nat × Nat) :=
  (List.range 4).flatMap (fun c => (freeGroupSlots k c).zip ((groupsOn ngrp c0 c).map (key * 16 + ·)))

/-- The lease of a group at residency (R269, R272). -/
def startLease (s : State) (l : Launch) (slot : Nat) : Lease :=
  { lines := l.lease0, measured := l.lease0 == 0, quiet := 0, parked := some s.clk, protect := none
    born := s.clk, cluster := slot / 16, slot := slot % 16 }

/-- The team as it becomes resident. -/
def startTeam (lid core c0 index : Nat) (l : Launch) : Team :=
  { lid, index, ngrp := l.ngrp, c0, firmware := decide (256 ≤ core), halted := false, trapTid := none
    escal := false, late := none, saving := false, quieting := false, aua := 0, handles := [], binds := [], guards := 0, status := []
    wqHead := findD l.wqHeads index 0, nbar := l.nbar, bars := []
    queues := l.stages.zipIdx.map (fun d => (d.2, ⟨d.1, [], 0⟩)), trig := [], dead := [] }

/-- A thread with no history: its context, its registers, a trap that stands before its first unit. -/
def freshThread (ctx : Ctx) (regs : List (Nat × Word)) (param : Option TrapInfo) : Thread :=
  { ctx, regs, flags := [], fps := 0, tcause := 0, tinfo := 0, epc := 0, ta := 0, taCrem := 0
    taClause := Clause.empty, inh := false, pendTrap := none, exited := false, wait := .none, window := []
    nextSeq := 0, accs := [], nextAcc := 0, age := 0, starved := none, yieldEnd := none, skid := 0
    xhold := false, xreq := none, xsave := [], bound := [], param, gread := none, arriving := none, kept := .none
    unread := [], stale := false, taStale := false }

/-- The anchors of a thread at the start (R242): those that the plan sets. -/
def startAnchors (l : Launch) (consumer : Bool) (index tid : Nat) : List (Nat × DWord) :=
  let base := l.arBase + 65536 * l.arPages * index
  (List.range 4).foldl (fun m k =>
    if (l.anchorsSet consumer).getLsbD k then
      putD 0 m k (BitVec.ofNat 64 (base + 32 * (l.anchorOff consumer k + l.anchorStride consumer * tid)))
    else m) []

/-- The preloaded names of a thread whose blocks are mapped (R127). -/
def preloads (pmap : BitVec 128) (ws : List Word) : List (Nat × Word) :=
  ws.zipIdx.foldl (fun m w =>
    if placeOfCode (codeOfBlock pmap (w.2 / 8)) = .unmapped then m else putD 0 m w.2 w.1) []

/-- A thread of a team that becomes resident (R58, R127, R242). -/
def startThread (l : Launch) (index tid : Nat) (ws : List Word) (param : Option TrapInfo) : Thread :=
  let consumer : Bool := l.nprod ≤ tid / 32
  let pmap := l.pmap consumer
  freshThread { Ctx.start l.entry with
    fpc := l.fpc0, pmap := pmap, anc := startAnchors l consumer index tid
    aset := l.anchorsSet consumer } (preloads pmap ws) param

/-- The backing words of a thread's far blocks written with zero (R127). -/
def zeroBacking (s : State) (t : Nat) : State :=
  match s.env t with
  | none => s
  | some e =>
    let e := { e with th := { e.th with regs := [] } }
    (List.range 32).foldl (fun s b => spillBlock s e b) s

/-- Whether the backing words of a team's threads can all be written (R325). -/
def backingFree (s : State) (k n : Nat) : Bool := !(List.range n).any (fun i => spillsWait s (threadOf k i))

/-- The team's groups, leases, threads and queues in place. -/
def installTeam (s : State) (core slot c0 : Nat) (tm : Team) (l : Launch) (ths : List Thread) : State :=
  let key := core * 4 + slot
  let k := s.core core
  let gs := placeGroups k key l.ngrp c0
  let k := { k with
    teams := put k.teams slot tm
    gslots := gs.foldl (fun m g => put m g.1 g.2) k.gslots
    leases := gs.foldl (fun m g => put m g.2 (startLease s l g.1)) k.leases
    nextEval := if k.leases.isEmpty then s.clk + 1 else min k.nextEval (s.clk + 1) }
  let s := yieldWays (s.setCore core k) (dieOf core)
  ths.zipIdx.foldl (fun s t => s.setThread (threadOf key t.2) t.1) s

/-- The next team of a launch resident on a core (R127, R244, R295), once the backing words of its far blocks can be
written: it acquires, and its threads start. -/
def makeResident (s : State) (lid core slot c0 : Nat) (l : Launch) (ws : List Word) (param : Option TrapInfo) : Outcome :=
  let stay := s
  let s := acquire s core
  let index := l.nextTeam
  let ths := (List.range (32 * l.ngrp)).map (fun tid => startThread l index tid ws param)
  let s := installTeam s core slot c0 (startTeam lid core c0 index l) l ths
  let s := s.modLaunch lid (fun l => { l with nextTeam := l.nextTeam + 1 })
  if backingFree s (core * 4 + slot) (32 * l.ngrp) then
    .next ((List.range (32 * l.ngrp)).foldl (fun s i => zeroBacking s (threadOf (core * 4 + slot) i)) s)
  else stay.stall

/-- The rank of a launch under firmware's priorities (R244, R366): that of its queue pair, lower going first; a launch
of firmware's own has rank 0. -/
def rankOf (s : State) (l : Launch) : Nat := match l.qp with | some q => findD s.policy.prio q 0 | none => 0

/-- Whether a team of a launch waits to become resident (R244). -/
def Launch.waitsRoom (l : Launch) : Bool :=
  l.started && !l.preempted && l.preempt.isNone && decide (l.nextTeam < l.nteam)

/-- Whether a core goes first to a launch of a better rank, which has a team that it could take (R244). -/
def otherFirst (s : State) (core : Nat) (l : Launch) : Bool :=
  s.launches.any (fun x => decide (rankOf s x.2 < rankOf s l) && x.2.waitsRoom && coreServes s core x.2
    && (List.range 4).any (fun c0 => roomFor s core c0 x.2))

/-- TEAM_RESIDENT (R244): the launch's next team, on a core and a start cluster that the device chose. The
launch parameters are read now; one that cannot be read traps each thread before its first unit (R127). -/
def execTeamResident (lid core c0 : Nat) (s : State) : Outcome :=
  withLaunch s lid fun l =>
    match freeTeamSlot (s.core core) with
    | none => s.stall
    | some slot =>
      if !l.waitsRoom || !coreServes s core l || !roomFor s core c0 l || otherFirst s core l then s.stall
      else match devValues s (dieOf core) l.asp 4 l.param l.npre with
      | .wait s => .next s
      | .bad c va => makeResident s lid core slot c0 l [] (some (trapOf c (va % 2 ^ 57)))
      | .ok vs => makeResident s lid core slot c0 l (vs.map (BitVec.ofNat 32)) none

/-! Deadlines (R259, R366). -/

/-- The hardware limit of 100 ms in clk, 940 clk to the microsecond (R11). -/
def deadlineLimit : Nat := 94000000

/-- The deadline of a launch's class, in clk. -/
def deadlineOf (s : State) (l : Launch) : Nat := min (findD s.policy.deadline l.dclass deadlineLimit) deadlineLimit

/-! The completion record (R362). -/

/-- The status of a launch that ends: the highest that applies. -/
def Launch.endStatus (l : Launch) : Nat :=
  if l.killed then 4 else if l.preempt.isSome || l.anySaved then 3 else if l.trapped then 2 else 0

/-- Two slot status words in one. -/
def statusPair (l : Launch) (n : Nat) : DWord := pairVal (findD l.status (2 * n + 1) 0) (findD l.status (2 * n) 0)

/-- The lost pages of an address space (R365): how many, and the lowest. -/
def lostOf (s : State) (asp : AddrSpace) : List Nat := (s.lost.filter (fun p => p.1 == asp.root)).map (·.2)

/-- The 16 words of a completion record, CSEQ still 0 (R362). -/
def completionRecord (s : State) (l : Launch) (status : Nat) (r : Refused) : List DWord :=
  let lost := lostOf s l.asp
  let refused := status == 1
  let w (n : Nat) : DWord := BitVec.ofNat 64 n
  let (tc, tid, team, tinfo, epc, aua) := l.trec.getD (0, 0, 0, 0, 0, 0)
  [0, l.sseq, w (status + 256 * r.code + 65536 * r.off + 2 ^ 32 * l.ttskip), w (if refused then 0 else s.clk - l.startClk),
   statusPair l 0, statusPair l 1, statusPair l 2, statusPair l 3,
   w (tc + 2 ^ 32 * tid), w (team + 2 ^ 32 * l.ntrap), w tinfo, w epc, w aua,
   w ((if refused then 0 else l.nextTeam) + 2 ^ 32 * lost.length), w (if status == 3 then l.prec else 0),
   w (lost.foldl min (lost.headD 0))]

/-- A launch reported in the completion ring of its queue pair, in the order in which launches end. -/
def report (s : State) (l : Launch) (status : Nat) (r : Refused) : State :=
  match l.qp with
  | none => s
  | some q => { s with queues := adjust s.queues q (fun p => { p with held := p.held ++ [completionRecord s l status r] }) }

/-- Whether a team of a launch is resident. -/
def hasTeam (s : State) (lid : Nat) : Bool := s.cores.any (fun k => k.2.teams.any (fun t => t.2.lid == lid))

/-- The keys of the resident teams of a launch. -/
def teamsOf (s : State) (lid : Nat) : List Nat :=
  s.cores.flatMap (fun k => (k.2.teams.filter (fun t => t.2.lid == lid)).map (fun t => k.1 * 4 + t.1))

/-- The pins of a launch ended (R276). -/
def unpinOf (s : State) (lid : Nat) : State :=
  { s with l2 := s.l2.map (fun e => (e.1, { e.2 with pinned := e.2.pinned.erase lid })) }

/-- LAUNCH_END (R246): every team of the acting launch has ended. A launch whose pre-emption was requested
ends with teams that never started or that are saved; its pre-emption record keeps it (R259, R279, R362). -/
def execLaunchEnd (s : State) : Outcome :=
  withLaunch s s.cur fun l =>
    if !l.started || l.preempted || (l.nextTeam < l.nteam && l.preempt.isNone) || hasTeam s s.cur
        || l.saved.any (·.2) || (l.preempt.isNone && !l.saved.isEmpty) then s.stall
    else
      let s' := unpinOf (report s l l.endStatus ⟨0, 0⟩) s.cur
      if l.preempt.isSome then .next (s'.modLaunch s.cur (fun l => { l with preempted := true }))
      else .next { s' with launches := del s'.launches s.cur }

/-! Multi-device launches (R257, R258). -/

/-- A message to another device: 0 ready, 1 refused, 2 start, 3 abort, 4 the replicated record; the launch,
and GEN or the refusal code. -/
def send (s : State) (kind lid : Nat) (v : Word) : State := { s with msgs := s.msgs ++ [(kind, lid, v)] }

/-- The leader's abort (R258). -/
def sendAbort (s : State) (lid : Nat) (l : Launch) : State :=
  send (s.modLaunch lid (fun l => { l with ready := [], repEnd := none })) 3 lid l.gen

/-- Instruction caches keep nothing from before a launch's submission (R268). -/
def dropCode (s : State) : State := { s with cores := s.cores.map (fun e => (e.1, { e.2 with icache := [] })) }

/-- RECORD_REPLICATION (R257): a device of the list finds its copy at `lrec`, checks it and reports. -/
def execRecordReplication (lid lrec : Nat) (asp : AddrSpace) (s : State) : Outcome :=
  match submitRecord s (BitVec.ofNat 64 lid) none 0 asp lrec with
  | .wait s => .next s
  | .refused _ r => .next (send { s with devFail := [] } 1 lid (BitVec.ofNat 32 r.code))
  | .ok l =>
    let s := { s with devFail := [] }
    match l.devs.findIdx? (fun d => bits (d.getD 0 0) 0 16 == s.config.moduleNo) with
    | none => .next (send s 1 lid 8)
    | some i =>
      let n := s.nextLid
      .next (send { dropCode s with launches := put s.launches n { l with didx := i }, nextLid := n + 1 } 0 lid l.gen)

/-- READY_REPORT (R257, R258): the leader's launch hears from the device of an entry. With the last ready
report it sends start(GEN); a refusal makes it send abort(GEN). -/
def execReadyReport (lid didx : Nat) (ready : Bool) (s : State) : Outcome :=
  withLaunch s lid fun l =>
    if l.repEnd.isNone || l.nd ≤ didx then .next s
    else if !ready then .next (sendAbort s lid l)
    else
      let r := if l.ready.contains didx then l.ready else l.ready ++ [didx]
      let s := s.modLaunch lid (fun l => { l with ready := r, repEnd := if r.length == l.nd then none else l.repEnd })
      .next (if r.length == l.nd then send s 2 lid l.gen else s)

/-- Whether a launch waits for start(GEN) or abort(GEN): on the leader, once every report is in, or none
counts any longer. -/
def Launch.waitsGen (l : Launch) : Bool := !l.started && 1 < l.nd && l.repEnd.isNone

/-- START_GEN (R258): the launch starts and its GEN becomes the highest started; another GEN is ignored. -/
def execStartGen (lid : Nat) (gen : Word) (s : State) : Outcome :=
  withLaunch s lid fun l =>
    if gen != l.gen || !l.waitsGen || (l.didx == 0 && l.ready.length != l.nd) then .next s
    else match startLaunch s l with
    | .wait s => .next s
    | .bad _ _ => .next s
    | .ok l => .next { dropCode s with
        launches := put s.launches lid l
        genMax := if s.genMax.toNat < gen.toNat then gen else s.genMax }

/-- ABORT_GEN (R258): the launch is refused with code 8. -/
def execAbortGen (lid : Nat) (gen : Word) (s : State) : Outcome :=
  withLaunch s lid fun l =>
    if gen != l.gen || !l.waitsGen then .next s
    else
      let s := if l.didx == 0 then report s l 1 ⟨8, 0xE0⟩ else send s 1 lid 8
      .next { s with launches := del s.launches lid }

/-- READY_DEADLINE_EXPIRY (R258): at the acting launch's leader. -/
def execReadyDeadlineExpiry (s : State) : Outcome :=
  withLaunch s s.cur fun l =>
    match l.repEnd with
    | none => s.stall
    | some c => if s.clk < c then s.stall else .next (sendAbort s s.cur l)

/-! Submission (R361). -/

/-- A launch that has been accepted: with one device it starts; with more, the leader replicates its record
and counts itself ready (R257, R258). Instruction caches keep nothing from before (R268). -/
def acceptLaunch (s : State) (l : Launch) (k : State → Outcome) : Outcome :=
  let n := s.nextLid
  let s := { dropCode s with nextLid := n + 1 }
  if 1 < l.nd then
    k (send { s with launches := put s.launches n { l with ready := [0], repEnd := some (s.clk + deadlineOf s l) } } 4 n l.gen)
  else match startLaunch s l with
  | .wait s' => .next { s' with nextLid := n }
  | .bad _ _ => s.stall
  | .ok l => k { s with launches := put s.launches n l }

/-- FIRMWARE_LAUNCH_START (R361): firmware's own launch, with a number that it chooses. A refused one is
gone; it has no queue pair to be reported in. -/
def execFirmwareLaunchStart (num lrec : Nat) (asp : AddrSpace) (s : State) : Outcome :=
  match submitRecord s (BitVec.ofNat 64 (2 ^ 63 + num % 2 ^ 63)) none 0 asp lrec with
  | .wait s => .next s
  | .refused _ _ => .next { s with devFail := [] }
  | .ok l => acceptLaunch s l (fun s => .next { s with devFail := [] })

/-! Pre-emption (R259, R347). -/

/-- The suspended jobs of a launch's teams trap them with 0x0C, so that they can be saved (R347). -/
def trapSuspended (s : State) (lid : Nat) : State :=
  (teamsOf s lid).foldl (fun s k =>
    ((s.core (k / 4)).jobs.filter (fun j => teamKey j.thread == k)).foldl (fun s j =>
      match j.state with
      | .suspended kind => attributedTrap s j.thread (trapAttr 0x0C (j.ua.toNat % 2 ^ 57 + kind.toNat * 2 ^ 57) j.ua)
      | _ => s) s) s

/-- PREEMPTION_REQUEST (R259): firmware names the pre-emption record. -/
def execPreemptionRequest (lid prec : Nat) (s : State) : Outcome :=
  withLaunch s lid fun l =>
    if !l.started || l.preempted || l.preempt.isSome then s.stall
    else .next (trapSuspended (s.modLaunch lid (fun l => { l with preempt := some s.clk, prec := prec % 2 ^ 57 })) lid)

/-- A team killed (R259): recorded with cause 0x12, its context discarded. The record's TID and EPC are free
values: no thread of it trapped. -/
def killTeam (s : State) (k : Nat) : State :=
  match s.team? k with
  | none => s
  | some tm =>
    let tid := (Config.freeWord s.free).toNat % 512
    let epc := (pairVal (Config.freeWord (s.free + 2)) (Config.freeWord (s.free + 1))).toNat
    let s := { s with free := s.free + 3 }
    let s := s.modLaunch tm.lid (fun l => { l with
      killed := true, ntrap := l.ntrap + 1
      trec := some (l.trec.getD (0x12, tid, tm.index, 0, epc, 0)) })
    dropTeam (foldTeam s tm) k

/-- PREEMPTION_DEADLINE (R259): every team of the acting launch that is still resident is killed. -/
def execPreemptionDeadline (s : State) : Outcome :=
  withLaunch s s.cur fun l =>
    match l.preempt with
    | none => s.stall
    | some c =>
      if s.clk < c + deadlineOf s l || !hasTeam s s.cur then s.stall
      else .next ((teamsOf s s.cur).foldl killTeam s)

/-- ESCALATED_TEAM_END (R349): firmware ends a team of the acting launch, by its index: one that it has saved,
which a launch under pre-emption keeps for its resumption, or one halted at an escalated trap, whose context is discarded. -/
def execEscalatedTeamEnd (team : Nat) (saved : Bool) (s : State) : Outcome :=
  withLaunch s s.cur fun l =>
    if saved then
      match find? l.saved team with
      | none => s.stall
      | some esc =>
        if l.preempt.isSome && !esc then s.stall
        else .next (s.modLaunch s.cur (fun l => { l with
          saved := if l.preempt.isSome then put l.saved team false else del l.saved team
          ntrap := if esc then l.ntrap + 1 else l.ntrap }))
    else match (teamsOf s s.cur).find? (fun k => match s.team? k with | some tm => tm.index == team && tm.escal | none => false) with
      | none => s.stall
      | some k =>
        match s.team? k with
        | none => s.stall
        | some tm =>
          let s' := s.modLaunch s.cur (fun l => { l with trapped := true, ntrap := l.ntrap + 1 })
          .next (dropTeam (foldTeam s' tm) k)

end Sys2Proof.Machine
end

