-- ==== Sys2Proof/Machine/HostPort.lean ====
section
/-! DEFINITION. The host port: queue-pair windows and their registers (R358, R359, R363), submission
entries (R360, R361), and completion records (R362). -/

namespace Sys2Proof.Machine

/-- The registers of a queue pair at reset (R359). -/
def QueuePair.reset (asp : AddrSpace) : QueuePair :=
  { asp, sqbase := 0, sqlog := 0, cqbase := 0, cqlog := 0, sqtail := 0, cqhead := 0, lastcons := 0, lastdone := 0
    en := false, stop := false, err := false, held := [], msix := 0 }

/-- A write of the host to a window: ignored where the window is not open or not granted (R358, R372). -/
def hostWrite (s : State) (q : Nat) (f : QueuePair → QueuePair) : Outcome :=
  .next (if s.up then { s with queues := adjust s.queues q f } else s)

/-- An event of the device on a granted queue pair. -/
def withPair (s : State) (q : Nat) (k : QueuePair → Outcome) : Outcome :=
  match find? s.queues q with
  | none => .fault .noSuchInstance
  | some p => k p

/-- Ring sizes that a queue pair can be enabled with (R359). -/
def QueuePair.sizesOk (p : QueuePair) : Bool :=
  3 ≤ p.sqlog.toNat && p.sqlog.toNat ≤ 12 && 3 ≤ p.cqlog.toNat && p.cqlog.toNat ≤ 12

/-- A write of the control register at 0x40 (R359): EN, STOP, and ERR, which a 1 clears. A write that would
set EN with a ring size out of range is ignored. -/
def QueuePair.control (p : QueuePair) (en stop clr : Bool) : QueuePair :=
  if en && !p.en && !p.sizesOk then p
  else
    let p := if en && !p.en then { p with sqtail := 0, cqhead := 0, lastcons := 0, lastdone := 0 } else p
    { p with en := en, stop := stop, err := p.err && !clr }

/-- STOPPED (R359): a consumption is one step here, so none is ever in progress between steps. -/
def QueuePair.stopped (p : QueuePair) : Bool := p.stop

/-- SQTAIL beyond the ring (R361). -/
def QueuePair.overrun (p : QueuePair) : Bool := p.lastcons.toNat + 2 ^ p.sqlog.toNat < p.sqtail.toNat

/-- A write of SQTAIL (R359, R361): an overrun sets ERR. -/
def QueuePair.setTail (p : QueuePair) (v : DWord) : QueuePair :=
  let p := { p with sqtail := v }
  { p with err := p.err || (p.en && p.overrun) }

/-- A write of one of the registers that EN = 1 locks (R359). -/
def QueuePair.configure (p : QueuePair) (f : QueuePair → QueuePair) : QueuePair := if p.en then p else f p

/-- QUEUE_ENABLE (R359): a write that sets EN at the acting queue pair, STOP as it stands. -/
def execQueueEnable (s : State) : Outcome := hostWrite s s.cur (fun p => p.control true p.stop false)

/-- QUEUE_STOP (R363): a write of STOP, EN as it stands. -/
def execQueueStop (q : Nat) (stop : Bool) (s : State) : Outcome := hostWrite s q (fun p => p.control p.en stop false)

/-- ERR_CLEAR (R361): a write of 1 to ERR at the acting queue pair, EN and STOP as they stand. -/
def execErrClear (s : State) : Outcome := hostWrite s s.cur (fun p => p.control p.en p.stop true)

/-- SQTAIL_WRITE (R361). -/
def execSqtailWrite (q : Nat) (v : DWord) (s : State) : Outcome := hostWrite s q (fun p => p.setTail v)

/-- CQHEAD_WRITE (R362). -/
def execCqheadWrite (q : Nat) (v : DWord) (s : State) : Outcome := hostWrite s q (fun p => { p with cqhead := v })

/-- A register after a write at an offset of its window (R359); read-only registers ignore it. -/
def QueuePair.write (p : QueuePair) (off : Nat) (v : DWord) : QueuePair :=
  if off = 0x00 then p.configure (fun p => { p with sqbase := v &&& 0x01FFFFFFFFFFF000 })
  else if off = 0x08 then p.configure (fun p => { p with sqlog := v &&& 0xF })
  else if off = 0x10 then p.configure (fun p => { p with cqbase := v &&& 0x01FFFFFFFFFFF000 })
  else if off = 0x18 then p.configure (fun p => { p with cqlog := v &&& 0xF })
  else if off = 0x20 then p.setTail v
  else if off = 0x28 then { p with cqhead := v }
  else if off = 0x40 then p.control (v.getLsbD 0) (v.getLsbD 1) (v.getLsbD 3)
  else p

/-- REGISTER_WRITE (R359). -/
def execRegisterWrite (q off : Nat) (v : DWord) (s : State) : Outcome := hostWrite s q (fun p => p.write off v)

/-- What a read of a window gives (R358, R359). -/
def QueuePair.read (p : QueuePair) (off : Nat) : DWord :=
  if off = 0x00 then p.sqbase
  else if off = 0x08 then p.sqlog
  else if off = 0x10 then p.cqbase
  else if off = 0x18 then p.cqlog
  else if off = 0x20 then p.sqtail
  else if off = 0x28 then p.cqhead
  else if off = 0x30 then p.lastcons
  else if off = 0x38 then p.lastdone
  else if off = 0x40 then BitVec.ofNat 64 (p.en.toNat + 2 * p.stop.toNat + 4 * p.stopped.toNat + 8 * p.err.toNat)
  else 0

/-- A read of the host at an offset of a window: 0 where it is not open or not granted (R358, R372). -/
def hostRegister (s : State) (q off : Nat) : DWord :=
  match find? s.queues q with
  | some p => if s.up then p.read off else 0
  | none => 0

/-- QUEUE_PAIR_GRANT (R358): firmware grants a further queue pair with its address space. -/
def execQueuePairGrant (q : Nat) (asp : AddrSpace) (s : State) : Outcome :=
  if !s.up || 64 ≤ q || (find? s.queues q).isSome then s.stall
  else .next { s with queues := put s.queues q (QueuePair.reset asp) }

/-! Submission (R360, R361). -/

/-- The eight words of the submission entry of a sequence number, in host memory. -/
def entryWords (s : State) (p : QueuePair) (sseq : DWord) : List DWord :=
  let base := p.sqbase.toNat + 64 * (sseq.toNat % 2 ^ p.sqlog.toNat)
  (List.range 8).map (fun i => BitVec.ofNat 64 (Memory.readN s.hostMem (base + 8 * i) 8))

/-- Whether an entry is good (R360, R361): its SSEQ and its reserved bits. -/
def entryGood (ws : List DWord) (sseq : DWord) : Bool :=
  ws.getD 0 0 == sseq && canonical (ws.getD 1 0) && (ws.getD 2 0).toNat < 2 && canonical (ws.getD 3 0)
    && (List.range 4).all (fun i => ws.getD (4 + i) 0 == 0)

/-- The pre-empted launch of an address space that a pre-emption record describes (R361). -/
def preemptedAt (s : State) (asp : AddrSpace) (prec : Nat) : Option (Nat × Launch) :=
  s.launches.find? (fun e => e.2.preempted && e.2.prec == prec && e.2.asp == asp)

/-- A launch that continues from its pre-emption record (R259, R279, R361): a new submission, and the statuses
and the trap record of that submission alone. -/
def Launch.resume (l : Launch) (q : Nat) (sseq : DWord) : Launch :=
  { l with
    qp := some q, sseq := sseq, preempt := none, preempted := false, killed := false, trapped := false
    anySaved := false, trec := none, ntrap := 0 }

/-- LASTCONS after a good entry. -/
def consumed (s : State) (q : Nat) (sseq : DWord) : State :=
  { s with devFail := [], queues := adjust s.queues q (fun p => { p with lastcons := sseq }) }

/-- The launch of a RESUME entry (R361): it goes on with the record that it was started with; a PREC that cannot be read
(its first word, log 34) or describes no pre-empted launch refuses it. -/
def resumeEntry (s : State) (q : Nat) (p : QueuePair) (sseq : DWord) (prec : Nat) (l : Launch) : Outcome :=
  let done (s : State) : Outcome := .next (consumed s q sseq)
  match devWords s p.asp prec 1, preemptedAt s p.asp prec with
  | .wait s, _ => .next s
  | .bad _ _, _ | _, none => done (report s l 1 ⟨10, 0⟩)
  | .ok _, some (n, l) => done { s with launches := put s.launches n (l.resume q sseq) }

/-- A good entry taken (R361): its record is copied and checked, where a RESUME entry passes the check of GEN; then
the launch is resumed, or started, or refused. -/
def consumeEntry (s : State) (q : Nat) (p : QueuePair) (sseq : DWord) (ws : List DWord) : Outcome :=
  let resume := (ws.getD 2 0).getLsbD 0
  let ident := BitVec.ofNat 64 (q * 2 ^ 57 + sseq.toNat % 2 ^ 57)
  match submitRecord s ident (some q) sseq p.asp (ws.getD 1 0).toNat with
  | .wait s => .next s
  | .refused l r =>
    if resume && r.code == 9 then resumeEntry s q p sseq (ws.getD 3 0).toNat l else .next (consumed (report s l 1 r) q sseq)
  | .ok l =>
    if resume then resumeEntry s q p sseq (ws.getD 3 0).toNat l
    else acceptLaunch s l (fun s => .next (consumed s q sseq))

/-- SUBMISSION_CONSUME (R361) at the acting queue pair. -/
def execSubmissionConsume (s : State) : Outcome :=
  withPair s s.cur fun p =>
    let sseq := p.lastcons + 1
    if !s.up || !p.en || p.stop || p.err || p.sqtail.toNat ≤ p.lastcons.toNat then s.stall
    else
      let bad : State := { s with queues := adjust s.queues s.cur (fun p => { p with err := true }) }
      let ws := entryWords s p sseq
      if p.overrun || !entryGood ws sseq then .next bad else consumeEntry s s.cur p sseq ws

/-! Completion (R362). -/

/-- Words written to host memory one after another. -/
def putHost (m : Memory) (a : Nat) : List DWord → Memory
  | [] => m
  | w :: ws => putHost (Memory.writeN m a 8 w.toNat) (a + 8) ws

/-- COMPLETION_RECORD_WRITE (R362) at the acting queue pair: the oldest record that waits, once the ring has
room; its CSEQ is written last. -/
def execCompletionRecordWrite (s : State) : Outcome :=
  withPair s s.cur fun p =>
    match p.held with
    | [] => s.stall
    | r :: rs =>
      let cseq := p.lastdone + 1
      if p.cqhead.toNat + 2 ^ p.cqlog.toNat < cseq.toNat then s.stall
      else
        let a := p.cqbase.toNat + 128 * (cseq.toNat % 2 ^ p.cqlog.toNat)
        let m := putHost s.hostMem (a + 8) (r.drop 1)
        .next { s with
          hostMem := Memory.writeN m a 8 cseq.toNat
          queues := adjust s.queues s.cur (fun p => { p with held := rs, lastdone := cseq, msix := p.msix + 1 }) }

end Sys2Proof.Machine
end

