-- ==== Sys2Proof/Machine/Device.lean ====
section
/-! DEFINITION. Device services: bring-up and recovery (R368, R372), attestation (R369), power and
temperature (R367), loss of data (R365), the scale-up ports (R370, R371), and the device reset (R258,
R357). -/

namespace Sys2Proof.Machine

/-- Firmware's self-tests of every array and bank core at power-on (R357, R372): which bands and banks fail is a
free value (log 2). -/
def bringUpTests (conf : ConfigRecord) (s : State) : State :=
  let s' := ((List.range 256).filter (enabledCore conf)).foldl (fun s c =>
    s.setCore c { s.core c with fenced := (Config.freeWord (s.free + c)).extractLsb' 0 4 }) s
  { s' with
    badBanks := (List.range 8192).filter (fun b => (Config.freeWord (s.free + 256 + b / 16)).getLsbD (b % 16))
    free := s.free + 768 }

/-- A time of firmware's policy as the device measures it: 940 clk per µs, rounded up to a whole clk (R11). -/
def clkOfNs (ns : Nat) : Nat := (940 * ns + 999) / 1000

/-- Firmware's default policy as the device holds it (R366, R369). -/
def loadPolicy (d : DefaultPolicy) : Policy :=
  { prio := d.prio, deadline := d.deadline.map (fun c => (c.1, clkOfNs c.2)), pri := clkOfNs d.pri
    remote := clkOfNs d.remote, plim := d.plim }

/-- POWER_ON (R368, R369, R372): with a valid signature on the firmware, whose digest the event gives, and on the
configuration record, the record's policy holds, the arrays of the enabled cores and the banks are tested, the listed
queue pairs are granted and the windows open; else the device stays in recovery. -/
def execPowerOn (signed : Bool) (boot : Boot) (s : State) : Outcome :=
  let conf := boot.record
  if s.up || s.recovery then s.stall
  else if !signed || !conf.signed then .next { s with recovery := true }
  else .next { bringUpTests conf s with
    up := true
    config := conf
    fwDigest := boot.firmware
    policy := loadPolicy conf.policy
    powerAt := s.clk
    queues := conf.queues.foldl (fun m q => if q.1 < 64 then put m q.1 (QueuePair.reset q.2) else m) [] }

/-- RECOVERY_FIRMWARE_LOAD (R368): in recovery the host loads a firmware image; one whose signature fails is not
used. With a valid one the device leaves recovery for bring-up. -/
def execRecoveryFirmwareLoad (signed : Bool) (digest : BitVec 256) (s : State) : Outcome :=
  if !s.recovery then s.stall
  else if signed then .next { s with recovery := false, fwDigest := digest } else .next s

/-- ATTESTATION_REPORT (R369): a nonce bound to the digests of the running firmware and of the configuration
record. -/
def execAttestationReport (nonce : BitVec 256) (s : State) : Outcome :=
  if !s.up then s.stall else .next { s with attest := s.attest ++ [(nonce, s.fwDigest, s.config.digest)] }

/-- The length of a power window, 10 µs (R11, R367). -/
def powerWindow : Nat := clkOfNs 10000

/-- POWER_WINDOW (R367): at the end of a window its power against PLIM, which the hardware holds to 1,600 W
(R366). The limiter withholds until the next window is below the limit. -/
def execPowerWindow (watts : Nat) (s : State) : Outcome :=
  if s.clk < s.powerAt + powerWindow then s.stall
  else .next { s with throttle := decide (min s.policy.plim 1600 < watts), powerAt := s.clk }

/-- TEMPERATURE_LIMIT (R367): a die exceeds its limit, or falls below it. -/
def execTemperatureLimit (die : Nat) (hot : Bool) (s : State) : Outcome :=
  if 4 ≤ die then .fault .noSuchInstance
  else
    let bit := (1 : BitVec 4) <<< die
    .next { s with hotDies := if hot then s.hotDies ||| bit else s.hotDies &&& ~~~bit }

/-- The address spaces of a page-table root. -/
def spacesOf (s : State) (root : Nat) : List AddrSpace :=
  ((s.launches.map (·.2.asp) ++ s.queues.map (·.2.asp)).filter (fun a => a.root == root)).dedup

/-- DATA_LOSS (R365): the leaf of a page that holds lost bytes becomes not present, its mapping is dropped as by
a `tinv` of an unmap, and the page joins the lost pages. -/
def execDataLoss (root va : Nat) (s : State) : Outcome :=
  match walkFrom s 5 0 root va with
  | .page p =>
    let rs := (spacesOf s root).map (fun a => (⟨a.asn, p.page, p.page + p.size⟩ : VRange))
    if rs.any (draining s) then s.stall
    else
      let s := homeWrite s p.pte 8 (p.entry &&& 0xFDFFFFFFFFFFFFFE).toNat
      let s := rs.foldl (fun s r => dropRange s r false) s
      .next { s with lost := if s.lost.contains (root, p.page) then s.lost else s.lost ++ [(root, p.page)] }
  | _ => s.stall

/-- PORT_DOWN (R370, R371): the acting port's retries fail; traffic moves to the remaining ports. -/
def execPortDown (s : State) : Outcome :=
  if 24 ≤ s.cur then .fault .noSuchInstance
  else .next { s with ports := s.ports &&& ~~~((1 : BitVec 24) <<< s.cur) }

/-- FLIT_ERROR (R364, R370): link-level retry recovers it, and nothing else changes. -/
def execFlitError (s : State) : Outcome := .next s

/-- DEVICE_RESET (R258, R357): the stored GEN is 0 and failed banks are in service again; what has a reset value
takes it. Fenced bands stay fenced until a `selftest` (R222), memory keeps its bytes, and firmware its grants, its
policy and its configuration (log 12). -/
def execDeviceReset (s : State) : Outcome :=
  .next { State.reset with
    cores := s.cores.map (fun k => (k.1, { Core.reset with fenced := k.2.fenced }))
    dram := s.dram, hostMem := s.hostMem, remote := s.remote, policy := s.policy, up := s.up
    recovery := s.recovery, config := s.config, fwDigest := s.fwDigest, attest := s.attest, ports := s.ports
    hotDies := s.hotDies, powerAt := s.powerAt, clk := s.clk, agenda := s.agenda, free := s.free, nextLid := s.nextLid
    queues := s.queues.map (fun q => (q.1, QueuePair.reset q.2.asp)) }

end Sys2Proof.Machine
end

