-- ==== Sys2Proof/Machine/Fp.lean ====
section
/-! DEFINITION. The FP32, conversion and packed BF16 instructions (R142 to R154), each over its function
in Machine/Float.lean and Machine/Formats.lean, and the FP environment of R131 to R136. -/

namespace Sys2Proof.Machine

/-- The operand modifiers of A, B and C (R138). -/
def mdA (md : BitVec 6) : BitVec 2 := md.extractLsb' 0 2
def mdB (md : BitVec 6) : BitVec 2 := md.extractLsb' 2 2
def mdC (md : BitVec 6) : BitVec 2 := md.extractLsb' 4 2

/-- An FP unit of two operands (R142): the modifier of B acts on a register operand only (R138). -/
def fbinary (s : State) (c : Ctl) (md : BitVec 6) (xd xa : Reg) (v : Src2) (f : Rm → Word → Word → FRes) : Outcome :=
  binary s c xd xa v Imm.fp32 fun fpc a b =>
    f (rmOf fpc) (fmodOp (mdA md) a) (if v.isImm then b else fmodOp (mdB md) b)

/-- An FP unit of one operand. -/
def funary (s : State) (c : Ctl) (md : BitVec 6) (xd xa : Reg) (f : Rm → Word → FRes) : Outcome :=
  unary s c xd xa fun fpc a => f (rmOf fpc) (fmodOp (mdA md) a)

/-- `fadd` (R143). -/
def execFadd (c : Ctl) (md : BitVec 6) (xd xa : Reg) (v : Src2) (s : State) : Outcome :=
  fbinary s c md xd xa v faddOp

/-- `fsub` (R143). -/
def execFsub (c : Ctl) (md : BitVec 6) (xd xa : Reg) (v : Src2) (s : State) : Outcome :=
  fbinary s c md xd xa v fsubOp

/-- `fmul` (R143). -/
def execFmul (c : Ctl) (md : BitVec 6) (xd xa : Reg) (v : Src2) (s : State) : Outcome :=
  fbinary s c md xd xa v fmulOp

/-- `ffma` (R143). -/
def execFfma (c : Ctl) (md : BitVec 6) (xd xa xb xc : Reg) (s : State) : Outcome :=
  ternary s c xd xa xb xc fun fpc a b d =>
    ffmaOp (rmOf fpc) (fmodOp (mdA md) a) (fmodOp (mdB md) b) (fmodOp (mdC md) d)

/-- `fmin` (R144). -/
def execFmin (c : Ctl) (md : BitVec 6) (xd xa : Reg) (v : Src2) (s : State) : Outcome :=
  fbinary s c md xd xa v fun _ => fminmaxOp false

/-- `fmax` (R144). -/
def execFmax (c : Ctl) (md : BitVec 6) (xd xa : Reg) (v : Src2) (s : State) : Outcome :=
  fbinary s c md xd xa v fun _ => fminmaxOp true

/-- `fcmp.cc` (R145). -/
def execFcmp (c : Ctl) (cc : BitVec 3) (xd xa : Reg) (v : Src2) (s : State) : Outcome :=
  binary s c xd xa v Imm.fp32 fun _ a b => (boolWord (fcmpOp cc a b).1, (fcmpOp cc a b).2)

/-- `frcp` (R146). -/
def execFrcp (c : Ctl) (md : BitVec 6) (xd xa : Reg) (s : State) : Outcome := funary s c md xd xa frcpOp

/-- `frsq` (R146). -/
def execFrsq (c : Ctl) (md : BitVec 6) (xd xa : Reg) (s : State) : Outcome :=
  funary s c md xd xa fun _ => frsqOp

/-- `fsqrt` (R146). -/
def execFsqrt (c : Ctl) (md : BitVec 6) (xd xa : Reg) (s : State) : Outcome := funary s c md xd xa fsqrtOp

/-- `fex2` (R147). -/
def execFex2 (c : Ctl) (md : BitVec 6) (xd xa : Reg) (s : State) : Outcome :=
  funary s c md xd xa fun _ => fex2Op

/-- `flg2` (R148). -/
def execFlg2 (c : Ctl) (md : BitVec 6) (xd xa : Reg) (s : State) : Outcome :=
  funary s c md xd xa fun _ => flg2Op

/-- `fcls` (R149). -/
def execFcls (c : Ctl) (xd xa : Reg) (s : State) : Outcome :=
  unary s c xd xa fun _ a => plain (fclsOp a)

/-- `fcvt.f32.s32` (R151). -/
def execFcvtF32S32 (c : Ctl) (xd xa : Reg) (s : State) : Outcome :=
  unary s c xd xa fun _ a => fcvtF32IntOp false a

/-- `fcvt.f32.b32` (R151). -/
def execFcvtF32B32 (c : Ctl) (xd xa : Reg) (s : State) : Outcome :=
  unary s c xd xa fun _ a => fcvtF32IntOp true a

/-- `fcvt.s32.f32` (R151). -/
def execFcvtS32F32 (c : Ctl) (xd xa : Reg) (s : State) : Outcome :=
  unary s c xd xa fun _ a => fcvtIntF32Op false a

/-- `fcvt.b32.f32` (R151). -/
def execFcvtB32F32 (c : Ctl) (xd xa : Reg) (s : State) : Outcome :=
  unary s c xd xa fun _ a => fcvtIntF32Op true a

/-- `fcvt.f32.fs` (R153): a T2 code 0b10 sets DW of the slot's status at commit (R162). -/
def execFcvtF32Fs (c : Ctl) (fs : BitVec 3) (xd xa : Reg) (s : State) : Outcome :=
  withSlot s fs fun d =>
    compute s c 1 [xa] [xd] fun fpc read =>
      let o := out1 fpc xd (fcvtF32FsOp (slotEF d) (read xa))
      if slotEF d == 13 && (read xa).extractLsb' 0 2 == 2 then { o with act := .status fs.toNat 1 } else o

/-- `fcvt.fs.f32` (R152). -/
def execFcvtFsF32 (c : Ctl) (fs : BitVec 3) (xd xa : Reg) (s : State) : Outcome :=
  withSlot s fs fun d => unary s c xd xa fun _ a => fcvtFsF32Op (slotEF d) false a

/-- `fcvt.fs.f32.sat` (R152). -/
def execFcvtFsF32Sat (c : Ctl) (fs : BitVec 3) (xd xa : Reg) (s : State) : Outcome :=
  withSlot s fs fun d => unary s c xd xa fun _ a => fcvtFsF32Op (slotEF d) true a

/-- `fcvt.bf16x2.f32` (R151): xa gives the low half. -/
def execFcvtBf16x2F32 (c : Ctl) (xd xa xb : Reg) (s : State) : Outcome :=
  compute s c 1 [xa, xb] [xd] fun fpc read => out1 fpc xd (fcvtBf16x2Op false (read xa) (read xb))

/-- `fcvt.bf16x2.f32.sat` (R151, R152). -/
def execFcvtBf16x2F32Sat (c : Ctl) (xd xa xb : Reg) (s : State) : Outcome :=
  compute s c 1 [xa, xb] [xd] fun fpc read => out1 fpc xd (fcvtBf16x2Op true (read xa) (read xb))

/-- `fcvt.f32.bf16` (R151). -/
def execFcvtF32Bf16 (c : Ctl) (xd xa : Reg) (hi : Bool) (s : State) : Outcome :=
  unary s c xd xa fun _ a => fcvtF32Bf16Op hi a

/-- The result of a packed BF16 unit (R154): a trap names the halves that raised an enabled flag
(R136). -/
def packedOut (xd : Reg) (r : Word × BitVec 5 × BitVec 2) : AluOut :=
  ⟨[(xd, r.1)], r.2.1, if r.2.2 != 0 then some (trapOf 0x07 (r.2.1.toNat + 256 * r.2.2.toNat)) else none, .none⟩

/-- `fadd2.bf16` (R154). -/
def execFadd2Bf16 (c : Ctl) (md : BitVec 6) (xd xa xb : Reg) (s : State) : Outcome :=
  compute s c 1 [xa, xb] [xd] fun fpc read =>
    packedOut xd (packed2 (fun a b _ => addVal (rmOf fpc) a b) (rmOf fpc) (enablesOf fpc)
      (fmodOp2 (mdA md) (read xa)) (fmodOp2 (mdB md) (read xb)) 0)

/-- `fmul2.bf16` (R154). -/
def execFmul2Bf16 (c : Ctl) (md : BitVec 6) (xd xa xb : Reg) (s : State) : Outcome :=
  compute s c 1 [xa, xb] [xd] fun fpc read =>
    packedOut xd (packed2 (fun a b _ => mulVal a b) (rmOf fpc) (enablesOf fpc)
      (fmodOp2 (mdA md) (read xa)) (fmodOp2 (mdB md) (read xb)) 0)

/-- `ffma2.bf16` (R154). -/
def execFfma2Bf16 (c : Ctl) (md : BitVec 6) (xd xa xb xc : Reg) (s : State) : Outcome :=
  compute s c 1 [xa, xb, xc] [xd] fun fpc read =>
    packedOut xd (packed2 (fun a b d => fmaVal (rmOf fpc) a b d) (rmOf fpc) (enablesOf fpc)
      (fmodOp2 (mdA md) (read xa)) (fmodOp2 (mdB md) (read xb)) (fmodOp2 (mdC md) (read xc)))

end Sys2Proof.Machine
end

