-- ==== Sys2Proof/Machine/Integer.lean ====
section
/-! DEFINITION. The integer and address instructions (R139 to R141), each over its function in
Machine/Alu.lean. -/

namespace Sys2Proof.Machine

/-- `add.b32` (R140). -/
def execAdd (c : Ctl) (xd xa : Reg) (v : Src2) (s : State) : Outcome :=
  binary s c xd xa v Imm.signed32 fun _ a b => plain (a + b)

/-- `add.s32.sat` (R140). -/
def execAddSat (c : Ctl) (xd xa : Reg) (v : Src2) (s : State) : Outcome :=
  binary s c xd xa v Imm.signed32 fun _ a b => plain (addSatOp a b)

/-- `sub.b32` (R140). -/
def execSub (c : Ctl) (xd xa : Reg) (v : Src2) (s : State) : Outcome :=
  binary s c xd xa v Imm.signed32 fun _ a b => plain (a - b)

/-- `sub.s32.sat` (R140). -/
def execSubSat (c : Ctl) (xd xa : Reg) (v : Src2) (s : State) : Outcome :=
  binary s c xd xa v Imm.signed32 fun _ a b => plain (subSatOp a b)

/-- `addc` (R140): the sum and, in the odd register, the carry. -/
def execAddc (c : Ctl) (xd xa xb xc : Reg) (s : State) : Outcome :=
  compute s c 1 [xa, xb, xc] [xd, xd + 1] fun _ read => out64 xd (addcOp (read xa) (read xb) (read xc))

/-- `mul` (R140). -/
def execMul (c : Ctl) (xd xa : Reg) (v : Src2) (s : State) : Outcome :=
  binary s c xd xa v Imm.signed32 fun _ a b => plain (a * b)

/-- `mulh.s32` and `mulh.b32` (R140). -/
def execMulh (c : Ctl) (uns : Bool) (xd xa : Reg) (v : Src2) (s : State) : Outcome :=
  binary s c xd xa v Imm.signed32 fun _ a b => plain (mulhOp uns a b)

/-- `mad.b32` (R140). -/
def execMad (c : Ctl) (xd xa xb xc : Reg) (s : State) : Outcome :=
  ternary s c xd xa xb xc fun _ a b d => plain (a * b + d)

/-- `mad.s64` (R140). -/
def execMadS64 (c : Ctl) (xd xa xb xc : Reg) (s : State) : Outcome :=
  compute s c 1 [xa, xb, xc, xc + 1] [xd, xd + 1] fun _ read =>
    out64 xd (madS64Op (read xa) (read xb) (readPair read xc))

/-- `min.s32` and `min.b32` (R140); the immediate is sign-extended for `.s32` only (R137). -/
def execMin (c : Ctl) (uns : Bool) (xd xa : Reg) (v : Src2) (s : State) : Outcome :=
  binary s c xd xa v (if uns then Imm.zero32 else Imm.signed32) fun _ a b => plain (minOp uns a b)

/-- `max.s32` and `max.b32` (R140, R137). -/
def execMax (c : Ctl) (uns : Bool) (xd xa : Reg) (v : Src2) (s : State) : Outcome :=
  binary s c xd xa v (if uns then Imm.zero32 else Imm.signed32) fun _ a b => plain (maxOp uns a b)

/-- `abs` (R140). -/
def execAbs (c : Ctl) (xd xa : Reg) (s : State) : Outcome :=
  unary s c xd xa fun _ a => plain (absOp a)

/-- `and` (R140). -/
def execAnd (c : Ctl) (xd xa : Reg) (v : Src2) (s : State) : Outcome :=
  binary s c xd xa v Imm.zero32 fun _ a b => plain (a &&& b)

/-- `or` (R140). -/
def execOr (c : Ctl) (xd xa : Reg) (v : Src2) (s : State) : Outcome :=
  binary s c xd xa v Imm.zero32 fun _ a b => plain (a ||| b)

/-- `xor` (R140). -/
def execXor (c : Ctl) (xd xa : Reg) (v : Src2) (s : State) : Outcome :=
  binary s c xd xa v Imm.zero32 fun _ a b => plain (a ^^^ b)

/-- `andn` (R140). -/
def execAndn (c : Ctl) (xd xa : Reg) (v : Src2) (s : State) : Outcome :=
  binary s c xd xa v Imm.zero32 fun _ a b => plain (a &&& ~~~b)

/-- `not` (R140). -/
def execNot (c : Ctl) (xd xa : Reg) (s : State) : Outcome :=
  unary s c xd xa fun _ a => plain (~~~a)

/-- `shl.b32` and `shl.b64` (R140): the count is taken modulo the width. -/
def execShl (c : Ctl) (w64 : Bool) (xd xa : Reg) (v : Src2) (s : State) : Outcome :=
  if w64 then shift64 s c xd xa v (shlOp 64)
  else binary s c xd xa v Imm.zero32 fun _ a n => plain (shlOp 32 a n)

/-- `shr.b32` and `shr.b64` (R140). -/
def execShr (c : Ctl) (w64 : Bool) (xd xa : Reg) (v : Src2) (s : State) : Outcome :=
  if w64 then shift64 s c xd xa v (shrOp 64)
  else binary s c xd xa v Imm.zero32 fun _ a n => plain (shrOp 32 a n)

/-- `sar.b32` and `sar.b64` (R140). -/
def execSar (c : Ctl) (w64 : Bool) (xd xa : Reg) (v : Src2) (s : State) : Outcome :=
  if w64 then shift64 s c xd xa v (sarOp 64)
  else binary s c xd xa v Imm.zero32 fun _ a n => plain (sarOp 32 a n)

/-- `rol.b32` and `rol.b64` (R140). -/
def execRol (c : Ctl) (w64 : Bool) (xd xa : Reg) (v : Src2) (s : State) : Outcome :=
  if w64 then shift64 s c xd xa v (rolOp 64)
  else binary s c xd xa v Imm.zero32 fun _ a n => plain (rolOp 32 a n)

/-- `clz` (R140): a 32-bit result for either width. -/
def execClz (c : Ctl) (w64 : Bool) (xd xa : Reg) (s : State) : Outcome :=
  if w64 then unaryWide s c xd xa (clzOp 64) else unary s c xd xa fun _ a => plain (clzOp 32 a)

/-- `popc` (R140). -/
def execPopc (c : Ctl) (w64 : Bool) (xd xa : Reg) (s : State) : Outcome :=
  if w64 then unaryWide s c xd xa (popcOp 64) else unary s c xd xa fun _ a => plain (popcOp 32 a)

/-- `brev` (R140): a pair destination for `.b64`. -/
def execBrev (c : Ctl) (w64 : Bool) (xd xa : Reg) (s : State) : Outcome :=
  if w64 then unary64 s c xd xa (brevOp 64) else unary s c xd xa fun _ a => plain (brevOp 32 a)

/-- `bfe` (R141). -/
def execBfe (c : Ctl) (uns : Bool) (xd xa : Reg) (v : Src2) (s : State) : Outcome :=
  binary s c xd xa v Imm.signed32 fun _ a ctl => plain (bfeOp uns a ctl)

/-- `bfi` (R141): xb is the control, xc the value into which the field goes. -/
def execBfi (c : Ctl) (xd xa xb xc : Reg) (s : State) : Outcome :=
  ternary s c xd xa xb xc fun _ a ctl d => plain (bfiOp a ctl d)

/-- `prmt` (R141). -/
def execPrmt (c : Ctl) (xd xa xb xc : Reg) (s : State) : Outcome :=
  ternary s c xd xa xb xc fun _ a b sel => plain (prmtOp a b sel)

/-- `sel` (R140). -/
def execSel (c : Ctl) (xd xa xb xc : Reg) (s : State) : Outcome :=
  ternary s c xd xa xb xc fun _ a b d => plain (if d != 0 then a else b)

/-- `cmp.cc` (R140, R41): the immediate of a 32-bit compare is zero-extended under ltb and geb (R137). -/
def execCmp (c : Ctl) (cc : BitVec 3) (w64 : Bool) (xd xa : Reg) (v : Src2) (s : State) : Outcome :=
  if w64 then
    compute s c v.words (xa :: (xa + 1) :: v.regs64) [xd] fun fpc read =>
      out1 fpc xd (plain (boolWord (condInt 64 cc (readPair read xa) (v.value64 read))))
  else
    binary s c xd xa v (if cc.toNat < 6 then Imm.signed32 else Imm.zero32) fun _ a b =>
      plain (boolWord (condInt 32 cc a b))

/-- `add64` (R140). -/
def execAdd64 (c : Ctl) (xd xa : Reg) (v : Src2) (s : State) : Outcome :=
  compute s c v.words (xa :: (xa + 1) :: v.regs64) [xd, xd + 1] fun _ read =>
    out64 xd (readPair read xa + v.value64 read)

/-- `lea` (R140). -/
def execLea (c : Ctl) (xd xa xb : Reg) (sh : BitVec 3) (s : State) : Outcome :=
  compute s c 1 [xa, xa + 1, xb] [xd, xd + 1] fun _ read =>
    out64 xd (leaOp (readPair read xa) (read xb) sh.toNat)

/-- `mov` (R140). -/
def execMov (c : Ctl) (xd xa : Reg) (s : State) : Outcome :=
  unary s c xd xa fun _ a => plain a

/-- `li.b32` (R140). -/
def execLiB32 (c : Ctl) (xd : Reg) (imm : Imm) (s : State) : Outcome :=
  compute s c imm.words [] [xd] fun fpc _ => out1 fpc xd (plain imm.signed32)

/-- `li.b64` (R140). -/
def execLiB64 (c : Ctl) (xd : Reg) (imm : Imm) (s : State) : Outcome :=
  compute s c imm.words [] [xd, xd + 1] fun _ _ => out64 xd imm.signed64

end Sys2Proof.Machine
end

