-- ==== Sys2Proof/Machine/Memory.lean ====
section
/-! DEFINITION. The memory instructions as they issue (R264 to R266, R298 to R308, R313): their checks
and the accesses that perform later (Machine/Perform.lean). -/

namespace Sys2Proof.Machine

/-- Bytes that a size selector of `ld` and `st` moves (R300). -/
def sizeOf3 (sz : BitVec 3) : Nat :=
  match sz.toNat with
  | 0 | 1 => 1
  | 2 | 3 => 2
  | 4 => 4
  | 5 => 8
  | _ => 16

/-- The registers that hold a value of a size, from a first name (R300). -/
def regsOfSize (r : Reg) (size : Nat) : List Reg :=
  if size ≤ 4 then [r] else if size = 8 then [r, r + 1] else [r, r + 1, r + 2, r + 3]

/-- The value that registers hold, the first lowest (R300). -/
def numOfRegs (read : Reg → Word) : List Reg → Nat
  | [] => 0
  | r :: rs => (read r).toNat + 2 ^ 32 * numOfRegs read rs

/-- `ld` (R299, R300). -/
def execLd (c : Ctl) (sz : BitVec 3) (xd xa : Reg) (off : Imm) (s : State) : Outcome :=
  let size := sizeOf3 sz
  let dsts := regsOfSize xd size
  unit s Mode.counted c off.words fun e =>
  operands s e (xa :: (xa + 1) :: dsts) fun s e =>
    let va := effAddr (e.th.read64 xa) off
    accessCheck s e va size .r (needsRequest s (tCore e.t) · size) fun p =>
      .next (issueAccess s e off.words [xa, xa + 1]
        (mkAccess s e (.load (sz == 0 || sz == 2) dsts) va size 0 [p] c.h c.k (some (e.flagNo c))) true id)

/-- `ldc` (R264, R265): as `ld`, with an expected read count. -/
def execLdc (c : Ctl) (sz : BitVec 2) (n : BitVec 4) (xd xa : Reg) (off : Imm) (s : State) : Outcome :=
  let size := 4 * 2 ^ sz.toNat
  let dsts := regsOfSize xd size
  unit s Mode.counted c off.words fun e =>
  operands s e (xa :: (xa + 1) :: dsts) fun s e =>
    let va := effAddr (e.th.read64 xa) off
    accessCheck s e va size .r (needsRequest s (tCore e.t) · size) fun p =>
      .next (issueAccess s e off.words [xa, xa + 1]
        (mkAccess s e (.loadc n.toNat dsts) va size 0 [p] c.h c.k (some (e.flagNo c))) true id)

/-- `st` (R299 to R301): it performs only after it commits (R112). -/
def execSt (c : Ctl) (sz : BitVec 3) (xa xb : Reg) (off : Imm) (s : State) : Outcome :=
  let size := sizeOf3 sz
  let srcs := regsOfSize xb size
  unit s Mode.counted c off.words fun e =>
  operands s e (xa :: (xa + 1) :: srcs) fun s e =>
    let va := effAddr (e.th.read64 xa) off
    accessCheck s e va size .w (fun _ => false) fun p =>
      .next (issueAccess s e off.words (xa :: (xa + 1) :: srcs)
        (mkAccess s e .store va size (numOfRegs e.th.read srcs % 2 ^ (8 * size)) [p] c.h false
          (some (e.flagNo c))) false id)

/-- Bytes of an atomic (R303). -/
def atomSize (w64 : Bool) : Nat := if w64 then 8 else 4

/-- An atom or cas as it issues (R302, R305): `ok` says whether the host home performs the operation;
on a host page every other operation raises 0x05. No job holds it back: R182 names `ld`, `ldc`, `st`, `tld`, `tst` and
`fget`. -/
def atomIssue (s : State) (c : Ctl) (pl : BitVec 2) (w64 : Bool) (xd xa : Reg) (srcs : List Reg) (hostOk : Bool)
    (kind : List Reg → (Reg → Word) → AccKind) (data : (Reg → Word) → Nat) : Outcome :=
  let size := atomSize w64
  let dsts := regsOfSize xd size
  unit s Mode.counted c 1 fun e =>
  operands s e (xa :: (xa + 1) :: srcs ++ dsts) fun s e =>
    let a := e.th.read64 xa
    let va := a.toNat
    if !canonical a then .next (raiseTrap s e.t (trapOf (if va % size != 0 then 0x03 else 0x04) (va % 2 ^ 57)))
    else accessCheck s e va size .rw (atomRequest s (tCore e.t) pl · size) fun p =>
      if p.tgt == 1 && !hostOk then .next (raiseTrap s e.t (trapOf 0x05 va))
      else .next (issueAccess s e 1 (xa :: (xa + 1) :: srcs)
        (mkAccess s e (kind dsts e.th.read) va size (data e.th.read) [p] 0 c.k (some (e.flagNo c))) false id)

/-- An `atom` of an operation code (R303). -/
def atomOp (s : State) (c : Ctl) (op : BitVec 4) (pl : BitVec 2) (w64 : Bool) (xd xa xb : Reg) : Outcome :=
  let srcs := regsOfSize xb (atomSize w64)
  atomIssue s c pl w64 xd xa srcs (op == 0 || op == 8) (fun ds _ => .atom op pl ds) (fun read => numOfRegs read srcs)

/-- `atom.add` (R303). -/
def execAtomAdd (c : Ctl) (pl : BitVec 2) (w64 : Bool) (xd xa xb : Reg) (s : State) : Outcome :=
  atomOp s c 0 pl w64 xd xa xb

/-- `atom.min` (R303). -/
def execAtomMin (c : Ctl) (uns : Bool) (pl : BitVec 2) (w64 : Bool) (xd xa xb : Reg) (s : State) : Outcome :=
  atomOp s c (if uns then 2 else 1) pl w64 xd xa xb

/-- `atom.max` (R303). -/
def execAtomMax (c : Ctl) (uns : Bool) (pl : BitVec 2) (w64 : Bool) (xd xa xb : Reg) (s : State) : Outcome :=
  atomOp s c (if uns then 4 else 3) pl w64 xd xa xb

/-- `atom.and` (R303). -/
def execAtomAnd (c : Ctl) (pl : BitVec 2) (w64 : Bool) (xd xa xb : Reg) (s : State) : Outcome :=
  atomOp s c 5 pl w64 xd xa xb

/-- `atom.or` (R303). -/
def execAtomOr (c : Ctl) (pl : BitVec 2) (w64 : Bool) (xd xa xb : Reg) (s : State) : Outcome :=
  atomOp s c 6 pl w64 xd xa xb

/-- `atom.xor` (R303). -/
def execAtomXor (c : Ctl) (pl : BitVec 2) (w64 : Bool) (xd xa xb : Reg) (s : State) : Outcome :=
  atomOp s c 7 pl w64 xd xa xb

/-- `atom.xchg` (R303). -/
def execAtomXchg (c : Ctl) (pl : BitVec 2) (w64 : Bool) (xd xa xb : Reg) (s : State) : Outcome :=
  atomOp s c 8 pl w64 xd xa xb

/-- `atom.fadd` (R303). -/
def execAtomFadd (c : Ctl) (pl : BitVec 2) (xd xa xb : Reg) (s : State) : Outcome :=
  atomOp s c 9 pl false xd xa xb

/-- `cas` (R304): xb is the expected value, xc the new one. -/
def execCas (c : Ctl) (pl : BitVec 2) (w64 : Bool) (xd xa xb xc : Reg) (s : State) : Outcome :=
  let bs := regsOfSize xb (atomSize w64)
  let cs := regsOfSize xc (atomSize w64)
  atomIssue s c pl w64 xd xa (bs ++ cs) true (fun ds read => .cas pl ds (numOfRegs read bs)) (fun read => numOfRegs read cs)

/-- `acq` (R306): once every older load, atom and cas has returned, the acquire of R291. -/
def execAcq (c : Ctl) (s : State) : Outcome :=
  unit s {} c 1 fun e =>
    if e.th.accs.any (fun a => a.kind.isLoad || a.kind.isAtom) then s.stall
    else .next (settle (acquire s (tCore e.t)) e c 1 [])

/-- `rel` (R307): it enters the window, publishes once every older access has performed, and commits
when the publications have completed (commitHead). Younger stores and atomics perform only after that;
younger loads may perform earlier. -/
def execRel (c : Ctl) (s : State) : Outcome :=
  unit s .queued c 1 fun e =>
    if requestsFull s (tCore e.t) then s.stall
    else .next (s.setThread e.t (e.th.enter s.clk { WUnit.start e.th with done := false, act := .rel none }
      (e.th.ctx.advance 1)))

/-- `fence` (R308): the whole of a `rel`, then the whole of an `acq`; no younger unit issues before. -/
def execFence (c : Ctl) (s : State) : Outcome :=
  unit s { settled := true } c 1 fun e =>
  withRelease s e true fun s => .next (settle (acquire s (tCore e.t)) e c 1 [])

/-- A maintenance or prefetch unit as it issues: the range at xa with the length in xb. -/
def rangeIssue (s : State) (c : Ctl) (kind : AccKind) (align : Nat) (cap : Nat) (xa xb : Reg) (off : Imm) : Outcome :=
  unit s Mode.counted c off.words fun e =>
  operands s e [xa, xa + 1, xb] fun s e =>
    let va := effAddr (e.th.read64 xa) off
    let len := min (e.th.read xb).toNat cap
    if va % align != 0 || len % align != 0 then .next (raiseTrap s e.t (trapOf 0x03 va))
    else if len == 0 then
      .next (s.setThread e.t (e.th.enter s.clk (WUnit.start e.th) (e.th.ctx.advance off.words)))
    else if kind == .pref && requestsFull s (tCore e.t) then s.stall
    else .next (issueAccess s e off.words [xa, xa + 1, xb]
      (mkAccess s e kind va len 0 [] c.h false (some (e.flagNo c))) false id)

/-- `cclean` (R313). -/
def execCclean (c : Ctl) (xa xb : Reg) (off : Imm) (s : State) : Outcome :=
  rangeIssue s c .cclean 128 (2 ^ 32) xa xb off

/-- `cinval` (R313). -/
def execCinval (c : Ctl) (xa xb : Reg) (off : Imm) (s : State) : Outcome :=
  rangeIssue s c .cinval 128 (2 ^ 32) xa xb off

/-- `pref` (R266): at most 4 MiB. -/
def execPref (c : Ctl) (xa xb : Reg) (off : Imm) (s : State) : Outcome :=
  rangeIssue s c .pref 1 (2 ^ 22) xa xb off

end Sys2Proof.Machine
end

