-- ==== Sys2Proof/Machine/Pairs.lean ====
section
/-! DEFINITION. The slots of a pair word (R25 to R28). A pair word is one unit: Machine/Step.lean runs
its slots in order. The first leaves its result in State.pair without writing anything; the second
completes the unit, so that both slots read before either writes and neither writes when one traps. -/

namespace Sys2Proof.Machine

/-- A trap with the slot of a pair word that it is found in (R26, R343). -/
def TrapInfo.atSlot (ti : TrapInfo) (n : BitVec 2) : TrapInfo := { ti with slot := n }

/-- The sources of a slot (R25): with I = 0 it reads D and S. -/
def pairSrcs (d : Reg) : PairSrc → List Reg
  | .reg r => [d, r]
  | .imm r _ => [r]

/-- The result of a slot from a reader of its operands (R25, R28). -/
def slotOut (op : PairOp) (d : Reg) (o : PairSrc) (fpc : Word) (read : Reg → Word) : AluOut :=
  match o with
  | .reg r => out1 fpc d (op.eval (rmOf fpc) (read d) (read r))
  | .imm r v => out1 fpc d (op.eval (rmOf fpc) (read r) (op.imm v))

/-- A result that traps: it writes nothing. -/
def trapOut (ti : TrapInfo) : AluOut := ⟨[], 0, some ti, .none⟩

/-- The pair word completes from the results of its two slots (R26): slot 0's trap first, else slot 1's,
else both sets of writes. TINFO of a trap holds the flags of the slot that traps, not those of the whole word
(R26, R136; DESIGN CHOICE, log 60). -/
def finishPair (s : State) (e : Env) (srcs dsts : List Reg) (o0 o1 : AluOut) : State :=
  let trap := match o0.trap, o1.trap with
    | some ti, _ => some (ti.atSlot 1)
    | none, some ti => some (ti.atSlot 2)
    | none, none => none
  computeIssue s e false 1 srcs dsts ⟨o0.writes ++ o1.writes, o0.fps ||| o1.fps, trap, .none⟩

/-- One slot of a pair word. `srcs` are its sources, `dst` its destination, which must be at lane place
(R27, reason 4), and `f` its result from FPC and the operand values. -/
def slot (s : State) (srcs : List Reg) (dst : Option Reg) (f : Word → (Reg → Word) → AluOut) : Outcome :=
  let first := s.pair
  let n : BitVec 2 := if first.isSome then 2 else 1
  let s := { s with pair := none }
  unit s .queued Ctl.zero 1 fun e =>
    if dst.any (fun d => e.th.ctx.place d != .lane) then .next (raiseTrap s e.t ((trapUndef 4).atSlot n))
    else
      let rs := srcs ++ dst.toList
      let done (s : State) (e : Env) (o : AluOut) : Outcome :=
        match first with
        | none => .next { s with pair := some (o, srcs) }
        | some (o0, srcs0) =>
          .next (finishPair s e (srcs0 ++ srcs) (o0.writes.map (·.1) ++ dst.toList) o0 o)
      match checkRegs s e rs with
      | .trap ti => done s e (trapOut ti)
      | .wait s => .next s
      | .ok s' =>
        if rs.any (fun r => e.th.pending.contains r) then s.stall
        else match s'.env e.t with
          | none => .fault .noSuchInstance
          | some e => done s' e (f e.th.ctx.fpc e.th.read)

/-- A slot that computes D from an operation of R28. -/
def slotOp (op : PairOp) (d : Reg) (o : PairSrc) (s : State) : Outcome :=
  slot s (match op, o with
    | .mov, .imm _ _ => []
    | .mov, .reg r => [r]
    | _, _ => pairSrcs d o) (some d) (slotOut op d o)

/-- `pnop` (R28): no destination and no effect. -/
def execPairPnop (s : State) : Outcome := slot s [] none fun _ _ => ⟨[], 0, none, .none⟩

/-- Slot `add` (R28). -/
def execPairAdd (d : Reg) (o : PairSrc) (s : State) : Outcome := slotOp .add d o s
/-- Slot `sub` (R28). -/
def execPairSub (d : Reg) (o : PairSrc) (s : State) : Outcome := slotOp .sub d o s
/-- Slot `and` (R28). -/
def execPairAnd (d : Reg) (o : PairSrc) (s : State) : Outcome := slotOp .and d o s
/-- Slot `or` (R28). -/
def execPairOr (d : Reg) (o : PairSrc) (s : State) : Outcome := slotOp .or d o s
/-- Slot `xor` (R28). -/
def execPairXor (d : Reg) (o : PairSrc) (s : State) : Outcome := slotOp .xor d o s
/-- Slot `shl` (R28). -/
def execPairShl (d : Reg) (o : PairSrc) (s : State) : Outcome := slotOp .shl d o s
/-- Slot `shr` (R28). -/
def execPairShr (d : Reg) (o : PairSrc) (s : State) : Outcome := slotOp .shr d o s
/-- Slot `sar` (R28). -/
def execPairSar (d : Reg) (o : PairSrc) (s : State) : Outcome := slotOp .sar d o s
/-- Slot `min.s32` (R28). -/
def execPairMinS32 (d : Reg) (o : PairSrc) (s : State) : Outcome := slotOp .minS d o s
/-- Slot `min.b32` (R28). -/
def execPairMinB32 (d : Reg) (o : PairSrc) (s : State) : Outcome := slotOp .minB d o s
/-- Slot `max.s32` (R28). -/
def execPairMaxS32 (d : Reg) (o : PairSrc) (s : State) : Outcome := slotOp .maxS d o s
/-- Slot `max.b32` (R28). -/
def execPairMaxB32 (d : Reg) (o : PairSrc) (s : State) : Outcome := slotOp .maxB d o s
/-- Slot `mov` (R28). -/
def execPairMov (d : Reg) (o : PairSrc) (s : State) : Outcome := slotOp .mov d o s
/-- Slot `fadd` (R28). -/
def execPairFadd (d : Reg) (o : PairSrc) (s : State) : Outcome := slotOp .fadd d o s
/-- Slot `fmul` (R28). -/
def execPairFmul (d : Reg) (o : PairSrc) (s : State) : Outcome := slotOp .fmul d o s
/-- Slot `fmin` (R28). -/
def execPairFmin (d : Reg) (o : PairSrc) (s : State) : Outcome := slotOp .fmin d o s
/-- Slot `fmax` (R28). -/
def execPairFmax (d : Reg) (o : PairSrc) (s : State) : Outcome := slotOp .fmax d o s

end Sys2Proof.Machine
end

