-- ==== Sys2Proof/Machine/Places.lean ====
section
/-! DEFINITION. The instructions that manage places, anchors, extension sets and special registers
(R120 to R126). `place`, `reloc`, `anch` and `wrs` act as they issue, with undo entries (R111); `xrel` acts when it
commits; `xacq`, and `wrs` of FPC or FPS, issue once every older unit of the thread has committed (R115, log 8). -/

namespace Sys2Proof.Machine

/-- Sub-cause 4 of R99: a lane extension block of a thread that neither holds nor requests the lock. -/
def extHeld (th : Thread) (b : Nat) : Bool := b < 8 || th.extends

/-- CheckPlace (R121, R122): sub-causes 3, for `reloc` 4, then 2, 6 and 1, then the translation of
R101. -/
def checkPlace (s : State) (e : Env) (b : Nat) (pl : BitVec 4) (reloc : Bool) : Chk :=
  let new := placeOfCode pl
  let old := placeOfCode (codeOfBlock e.th.ctx.pmap b)
  let k := new.anchor
  let a := e.th.ctx.backing k b
  if new == .lane && e.budget ≤ b then .trap (trapOf 0x0B (3 + 256 * b))
  else if reloc && (new == .lane || old == .lane) && !extHeld e.th b then .trap (trapOf 0x0B (4 + 256 * b))
  else if !new.far then .ok s
  else
    let v := (e.th.ctx.anchor k).toNat
    if !e.th.ctx.anchorSet k || v < e.arenaBase || e.arenaBase + e.arenaSize < v + 1024 then
      .trap (trapOf 0x0B (2 + 256 * k))
    else match new, walk s e.la.asp a with
      | .bank _, .page p =>
        if p.tgt != 0 || !tier1 p.pa then .trap (trapOf 0x0B (6 + 256 * b))
        else match bindSlot s e b (bankCoreOf p.pa) with
          | .ok s' => xlatChk s e a .arena (fun _ => .ok s')
          | r => r
      | _, _ => xlatChk s e a .arena (fun _ => .ok s)

/-- The names of a block. -/
def blockRegs (b : Nat) : List Reg := (List.range 8).map (fun i => BitVec.ofNat 8 (8 * b + i))

/-- A block placed anew with eight values (R121, R122): its old values leave for their backing words,
and as the unit commits, proxy slots that back no block any longer are released (R103, R111). -/
def placeBlock (s : State) (e : Env) (b : Nat) (pl : BitVec 4) (vs : List Word) : State :=
  let s := spillBlock s e b
  match s.thread? e.t with
  | none => s
  | some th =>
    let ws := if placeOfCode pl == .unmapped then (blockRegs b).map (fun r => (r, (0 : Word)))
      else (blockRegs b).zip vs
    let u := { WUnit.start th with undo := th.undoOf false ws, act := .slots }
    let old := th.window
    let th := { th.writes false th.nextSeq ws with unread := th.unread.erase b }
    let next := { th.ctx.advance 1 with pmap := setCode th.ctx.pmap b pl }
    if !old.isEmpty then s.setThread e.t (th.enter s.clk u next)
    else
      let s := s.setThread e.t (th.issued s.clk next)
      match s.env e.t with
      | none => s
      | some e => freeSlots s e.t (backedBy s e)

/-- `place` (R121): the block reads zero at its new place. -/
def execPlace (c : Ctl) (b : BitVec 8) (pl : BitVec 8) (s : State) : Outcome :=
  unit s .queued c 1 fun e =>
    let code := pl.extractLsb' 0 4
    match (checkPlace s e b.toNat code false).andThen (fun s => spillCheck s e b.toNat) with
    | .trap ti => .next (raiseTrap s e.t ti)
    | .wait s => .next s
    | .ok s' =>
      if (blockRegs b.toNat).any (fun r => e.th.pending.contains r) || spillWaits s e b.toNat then s.stall
      else .next (placeBlock s' e b.toNat code (List.replicate 8 0))

/-- The checks of `reloc` (R122, R99): the new place, then the old one as a unit that reads the block (sub-causes 2,
6 and 1, the translation of R101), which binds its proxy slot (R103). -/
def checkReloc (s : State) (e : Env) (b : Nat) (pl : BitVec 4) : Chk :=
  match checkPlace s e b pl true with
  | .ok s => if (placeOfCode (codeOfBlock e.th.ctx.pmap b)).far then checkRegs s e (blockRegs b) else .ok s
  | r => r

/-- `reloc` (R122): the block's values move, zero from an unmapped block; reads follow R110. -/
def execReloc (c : Ctl) (b : BitVec 8) (pl : BitVec 8) (s : State) : Outcome :=
  unit s .queued c 1 fun e =>
    let code := pl.extractLsb' 0 4
    match checkReloc s e b.toNat code with
    | .trap ti => .next (raiseTrap s e.t ti)
    | .wait s => .next s
    | .ok s' =>
      if (blockRegs b.toNat).any (fun r => e.th.pending.contains r) || spillWaits s e b.toNat then s.stall
      else
        let old := placeOfCode (codeOfBlock e.th.ctx.pmap b.toNat)
        let th := (s'.thread? e.t).getD e.th
        let vs := (blockRegs b.toNat).map (fun r => if old == .unmapped then 0 else th.read r)
        .next (placeBlock s' e b.toNat code vs)

/-- A unit that changes its thread's context alone: it commits at once, or waits complete in the window; a rollback
restores the context before it (R111, R114). -/
def settleCtx (s : State) (e : Env) (th : Thread) (next : Ctx) : State :=
  if e.th.window.isEmpty then s.setThread e.t (th.issued s.clk next)
  else s.setThread e.t (th.enter s.clk (WUnit.start e.th) next)

/-- Whether some block of a place map names an anchor (R99 sub-cause 7). -/
def namesAnchor (pmap : BitVec 128) (k : Nat) : Bool :=
  (List.range 32).any (fun b =>
    let p := placeOfCode (codeOfBlock pmap b)
    p.far && p.anchor == k)

/-- `anch` (R123). -/
def execAnch (c : Ctl) (an : BitVec 8) (xa : Reg) (s : State) : Outcome :=
  unit s .queued c 1 fun e =>
  gather s e [xa, xa + 1] [] fun s e =>
    let k := an.toNat
    let v := (e.th.read64 xa).toNat
    if v % 32 != 0 then .next (raiseTrap s e.t (trapOf 0x03 (v % 2 ^ 57)))
    else if namesAnchor e.th.ctx.pmap k then .next (raiseTrap s e.t (trapOf 0x0B (7 + 256 * k)))
    else if v < e.arenaBase || e.arenaBase + e.arenaSize < v + 1024 then
      .next (raiseTrap s e.t (trapOf 0x0B (2 + 256 * k)))
    else
      let ctx := { e.th.ctx.advance 1 with
        anc := putD 0 e.th.ctx.anc k (BitVec.ofNat 64 v)
        aset := e.th.ctx.aset ||| (1 <<< k) }
      .next (settleCtx s e e.th ctx)

/-- `xacq` (R117): granted at once when the lock is free or the group holds it; otherwise the request
waits, uncommitted. What the group left in the extension set is lost already, so that younger units of the
thread, which execute after the grant (R118), read 0. -/
def execXacq (c : Ctl) (s : State) : Outcome :=
  unit s { settled := true } c 1 fun e =>
    let core := tCore e.t
    let k := s.core core
    let n := lockOf k (gKey e.t)
    let th := e.th.issued s.clk (e.th.ctx.advance 1)
    match k.lockHolder n with
    | none => .next (grantLock (s.setThread e.t { th with xreq := some s.clk }) core n (gKey e.t))
    | some g =>
      if g == gKey e.t then .next (s.setThread e.t { th with xhold := true })
      else
        let lost := clearExt e.th
        .next (s.setThread e.t { lost.enter s.clk { WUnit.start e.th with done := false } (lost.ctx.advance 1) with
          xreq := some s.clk })

/-- `xrel` (R117), when it commits. -/
def execXrel (c : Ctl) (s : State) : Outcome :=
  unit s .queued c 1 fun e => .next (settleAct s e 1 .unlock 0 (fun s => releaseLock s e.t))

/-- The check of an index register or an indexed name (R125): unmapped 5, far 8, extension 4. -/
def laneOnly (th : Thread) (r : Reg) : Option TrapInfo :=
  let b := blockOf r
  match th.ctx.place r with
  | .unmapped => some (trapOf 0x0B (5 + 256 * b))
  | .slice _ | .bank _ => some (trapOf 0x0B (8 + 256 * b))
  | .lane => if extHeld th b then none else some (trapOf 0x0B (4 + 256 * b))

/-- The register that an index names (R125). -/
def indexed (th : Thread) (xa : Reg) (imm : Imm) : Reg := (th.read xa + imm.signed32).setWidth 8

/-- An index register passed its check and written by every older unit. -/
def indexReady (s : State) (e : Env) (xa : Reg) (k : Outcome) : Outcome :=
  match laneOnly e.th xa with
  | some ti => .next (raiseTrap s e.t ti)
  | none => if e.th.pending.contains xa then s.stall else k

/-- `ixld` (R125). -/
def execIxld (c : Ctl) (xd xa : Reg) (imm : Imm) (s : State) : Outcome :=
  unit s .queued c imm.words fun e =>
  indexReady s e xa <|
    let r := indexed e.th xa imm
    match laneOnly e.th r with
    | some ti => .next (raiseTrap s e.t ti)
    | none =>
      operands s e [r, xd] fun s e =>
        .next (computeIssue s e c.k imm.words [r] [xd] (out1 e.th.ctx.fpc xd (plain (e.th.read r))))

/-- `ixst` (R125): the value register may lie at any mapped place. -/
def execIxst (c : Ctl) (xa xb : Reg) (imm : Imm) (s : State) : Outcome :=
  unit s .queued c imm.words fun e =>
  indexReady s e xa <|
  operands s e [xb] fun s e =>
    let r := indexed e.th xa imm
    match laneOnly e.th r with
    | some ti => .next (raiseTrap s e.t ti)
    | none =>
      if e.th.pending.contains r then s.stall
      else .next (computeIssue s e false imm.words [xb] [r] (out1 e.th.ctx.fpc r (plain (e.th.read xb))))

/-- Whether a special register is 64 bits wide (R104). -/
def srWide64 (sr : Nat) : Bool := (0x1C ≤ sr && sr ≤ 0x1F) || sr == 0x29 || sr == 0x2A

/-- The value of a special register of a thread (R57, R104, R105). CORE of a service core's thread is an
open value (log 2). -/
def specialReg (s : State) (e : Env) (sr : Nat) : DWord :=
  let t := e.t
  let n (v : Nat) : DWord := BitVec.ofNat 64 v
  let w (v : Word) : DWord := v.setWidth 64
  let core := tCore t
  if 0x18 ≤ sr && sr ≤ 0x1B then (e.th.ctx.pmap.extractLsb' (32 * (sr - 0x18)) 32).setWidth 64
  else if 0x1C ≤ sr && sr ≤ 0x1F then e.th.ctx.anchor (sr - 0x1C)
  else match sr with
    | 0x00 => n (tTid t)
    | 0x01 => n (tLane t)
    | 0x02 => n (tGrp t)
    | 0x03 => n e.tm.index
    | 0x04 => n e.la.nteam
    | 0x05 => n (if e.consumer then 1 else 0)
    | 0x06 => if core < 256 then n core else w (Config.freeWord core)
    | 0x07 => n (dieOf core)
    | 0x08 => n s.config.moduleNo
    | 0x09 => w e.la.gen
    | 0x0A => n e.th.ctx.depth
    | 0x0B => n e.la.didx
    | 0x0C => n e.la.nd
    | 0x10 => w e.th.ctx.fpc
    | 0x11 => w e.th.fps
    | 0x20 => n (match find? (s.core core).leases (gKey t) with | some l => l.lines | none => 0)
    | 0x28 => w e.th.tcause
    | 0x29 => e.th.tinfo
    | 0x2A => e.th.epc
    | _ => 0

/-- `rds` (R126): FPS is read once every older unit has committed (R115). -/
def execRds (c : Ctl) (xd : Reg) (sr : BitVec 8) (s : State) : Outcome :=
  unit s { Mode.queued with settled := sr == 0x11 } c 1 fun e =>
    let dsts := if srWide64 sr.toNat then [xd, xd + 1] else [xd]
    operands s e dsts fun s e =>
      let v := specialReg s e sr.toNat
      let ws := if srWide64 sr.toNat then write64 xd v else [(xd, loWord v)]
      .next (computeIssue s e c.k 1 [] dsts ⟨ws, 0, none, .none⟩)

/-- A special register written (R104, R126): FPC and FPS keep their reserved bits zero (R12), and a
write to a read-only register is ignored. -/
def setSpecial (th : Thread) (sr : Nat) (v : DWord) : Thread :=
  match sr with
  | 0x10 => { th with ctx := { th.ctx with fpc := loWord v &&& fpcWritable } }
  | 0x11 => { th with fps := loWord v &&& fpsWritable }
  | 0x2A => { th with epc := v }
  | _ => th

/-- Whether `wrs` of a special register waits until every older unit has committed: FPC and FPS (R115), and EPC, whose
old value no rollback restores (R111, log 8). -/
def srSettled (sr : Nat) : Bool := sr == 0x10 || sr == 0x11 || sr == 0x2A

/-- `wrs` (R126). -/
def execWrs (c : Ctl) (sr : BitVec 8) (xa : Reg) (s : State) : Outcome :=
  unit s { Mode.queued with settled := srSettled sr.toNat } c 1 fun e =>
    let wide := srWide64 sr.toNat
    gather s e (if wide then [xa, xa + 1] else [xa]) [] fun s e =>
      let v := if wide then e.th.read64 xa else (e.th.read xa).setWidth 64
      let th := setSpecial e.th sr.toNat v
      .next (settleCtx s e th (th.ctx.advance 1))

end Sys2Proof.Machine
end

