-- ==== Sys2Proof/Machine/Sync.lean ====
section
/-! DEFINITION. Meets (R80 to R86), named barriers (R87 to R90), guards and `fwait` (R196 to R201),
leases (R271) and stage queues (R248 to R252). What one of them does beyond its thread it does when it commits
(R112), or once every older unit of its thread has committed (log 8). -/

namespace Sys2Proof.Machine

/-! Meets. -/

/-- A thread reaches a meet (R80): it records its operands and waits; its destination is checked as any
register operand. -/
def meetAt (s : State) (c : Ctl) (i : Instr) (dst : List Reg) (xa xb : Option Reg) : Outcome :=
  unit s .queued c 1 fun e =>
  gather s e (xa.toList ++ xb.toList) dst fun s e =>
    let val (r : Option Reg) : Word := match r with | some r => e.th.read r | none => 0
    let s := s.modThread e.t (·.issueWait s.clk (.meet i (val xa) (val xb)))
    .next (meetCheck s (gKey e.t) s.issueSet)

/-- `shfl.idx` (R83). -/
def execShflIdx (c : Ctl) (xd xa xb : Reg) (s : State) : Outcome :=
  meetAt s c (.shflIdx c xd xa xb) [xd] (some xa) (some xb)
/-- `shfl.up` (R83). -/
def execShflUp (c : Ctl) (xd xa : Reg) (n : BitVec 8) (s : State) : Outcome :=
  meetAt s c (.shflUp c xd xa n) [xd] (some xa) none
/-- `shfl.down` (R83). -/
def execShflDown (c : Ctl) (xd xa : Reg) (n : BitVec 8) (s : State) : Outcome :=
  meetAt s c (.shflDown c xd xa n) [xd] (some xa) none
/-- `shfl.xor` (R83). -/
def execShflXor (c : Ctl) (xd xa : Reg) (n : BitVec 8) (s : State) : Outcome :=
  meetAt s c (.shflXor c xd xa n) [xd] (some xa) none
/-- `vote.any` (R84). -/
def execVoteAny (c : Ctl) (xd xa : Reg) (s : State) : Outcome :=
  meetAt s c (.voteAny c xd xa) [xd] (some xa) none
/-- `vote.all` (R84). -/
def execVoteAll (c : Ctl) (xd xa : Reg) (s : State) : Outcome :=
  meetAt s c (.voteAll c xd xa) [xd] (some xa) none
/-- `vote.ballot` (R84). -/
def execVoteBallot (c : Ctl) (xd xa : Reg) (s : State) : Outcome :=
  meetAt s c (.voteBallot c xd xa) [xd] (some xa) none
/-- `redux.add` (R85). -/
def execReduxAdd (c : Ctl) (xd xa : Reg) (s : State) : Outcome :=
  meetAt s c (.reduxAdd c xd xa) [xd] (some xa) none
/-- `redux.min` (R85). -/
def execReduxMin (c : Ctl) (uns : Bool) (xd xa : Reg) (s : State) : Outcome :=
  meetAt s c (.reduxMin c uns xd xa) [xd] (some xa) none
/-- `redux.max` (R85). -/
def execReduxMax (c : Ctl) (uns : Bool) (xd xa : Reg) (s : State) : Outcome :=
  meetAt s c (.reduxMax c uns xd xa) [xd] (some xa) none
/-- `redux.and` (R85). -/
def execReduxAnd (c : Ctl) (xd xa : Reg) (s : State) : Outcome :=
  meetAt s c (.reduxAnd c xd xa) [xd] (some xa) none
/-- `redux.or` (R85). -/
def execReduxOr (c : Ctl) (xd xa : Reg) (s : State) : Outcome :=
  meetAt s c (.reduxOr c xd xa) [xd] (some xa) none
/-- `redux.fadd` (R85). -/
def execReduxFadd (c : Ctl) (xd xa : Reg) (s : State) : Outcome :=
  meetAt s c (.reduxFadd c xd xa) [xd] (some xa) none
/-- `redux.fmin` (R85). -/
def execReduxFmin (c : Ctl) (xd xa : Reg) (s : State) : Outcome :=
  meetAt s c (.reduxFmin c xd xa) [xd] (some xa) none
/-- `redux.fmax` (R85). -/
def execReduxFmax (c : Ctl) (xd xa : Reg) (s : State) : Outcome :=
  meetAt s c (.reduxFmax c xd xa) [xd] (some xa) none
/-- `meet` (R86). -/
def execMeet (c : Ctl) (s : State) : Outcome := meetAt s c (.meet c) [] none none

/-- A participant of a meet: its LANE and its recorded values. -/
structure Party where
  lane : Nat
  va   : Word
  vb   : Word
  deriving DecidableEq, Repr

/-- The A value that a `shfl` thread receives (R83): its own where the source is not a live lane. -/
def shflFrom (ps : List Party) (me : Party) (src : Option Nat) : Word :=
  match src with
  | none => me.va
  | some l => match ps.find? (fun p => p.lane == l) with | some p => p.va | none => me.va

/-- An integer fold over the participants in ascending LANE, from the lowest (R85). -/
def foldInt (f : Word → Word → Word) : List Party → Word
  | [] => 0
  | p :: ps => ps.foldl (fun r q => f r q.va) p.va

/-- An FP32 fold (R85): it starts from the lowest lane's value, which alone is only made canonical. -/
def foldFp (f : Word → Word → FRes) : List Party → FRes
  | [] => (0, 0)
  | [p] => match decode32 p.va with | .nan sig => nanRes sig | _ => (p.va, 0)
  | p :: ps => ps.foldl (fun r q => let x := f r.1 q.va; (x.1, r.2 ||| x.2)) (p.va, 0)

/-- The ballot of R84. -/
def ballot (ps : List Party) : Word :=
  (ps.filter (fun p => p.va != (0 : Word))).foldl (fun (r : Word) p => r ||| (1#32 <<< p.lane)) 0#32

/-- What a participant of a meet receives: its destination with the value and the flags; none for
`meet`. -/
def meetResult (ps : List Party) (me : Party) (i : Instr) : Option (Ctl × Reg × FRes) :=
  let r (c : Ctl) (xd : Reg) (v : Word) : Option (Ctl × Reg × FRes) := some (c, xd, (v, 0))
  let within (l : Int) : Option Nat := if 0 ≤ l && l < 32 then some l.toNat else none
  match i with
  | .shflIdx c xd _ _ => r c xd (shflFrom ps me (some (me.vb.toNat % 32)))
  | .shflUp c xd _ n => r c xd (shflFrom ps me (within (me.lane - n.toNat)))
  | .shflDown c xd _ n => r c xd (shflFrom ps me (within (me.lane + n.toNat)))
  | .shflXor c xd _ n => r c xd (shflFrom ps me (some (me.lane ^^^ n.toNat)))
  | .voteAny c xd _ => r c xd (boolWord (ps.any (fun p => p.va != 0)))
  | .voteAll c xd _ => r c xd (boolWord (ps.all (fun p => p.va != 0)))
  | .voteBallot c xd _ => r c xd (ballot ps)
  | .reduxAdd c xd _ => r c xd (foldInt (· + ·) ps)
  | .reduxMin c uns xd _ => r c xd (foldInt (minOp uns) ps)
  | .reduxMax c uns xd _ => r c xd (foldInt (maxOp uns) ps)
  | .reduxAnd c xd _ => r c xd (foldInt (· &&& ·) ps)
  | .reduxOr c xd _ => r c xd (foldInt (· ||| ·) ps)
  | .reduxFadd c xd _ => some (c, xd, foldFp (faddOp .rne) ps)
  | .reduxFmin c xd _ => some (c, xd, foldFp (fminmaxOp false) ps)
  | .reduxFmax c xd _ => some (c, xd, foldFp (fminmaxOp true) ps)
  | _ => none

/-- A participant continues after the meet with its result at the place of its destination (R80). -/
def meetDeliver (ps : List Party) (s : State) (t : Nat) : State :=
  match s.env t with
  | none => s
  | some e =>
    match e.th.wait with
    | .meet i va vb =>
      match meetResult ps ⟨tLane t, va, vb⟩ i with
      | some (c, xd, v) => computeIssue s e c.k 1 [] [xd] ⟨[(xd, v.1)], v.2, none, .none⟩
      | none => s.setThread t (e.th.enter s.clk (WUnit.start e.th) (e.th.ctx.advance 1))
    | _ => s

/-- MEET_COMPLETE (R80): every live thread of the acting group waits at a meet at one address; all
receive their results together. A meet that completes cannot be rolled back, so every older unit of its threads has
committed (R114, log 8). -/
def execMeetComplete (s : State) : Outcome :=
  let g := s.cur
  if allMeet s g && sameMeet s g && (liveThreads s g).all (fun e => e.2.window.isEmpty) then
    let ps := (liveThreads s g).filterMap (fun e => e.2.meet?.map (fun m => (⟨tLane e.1, m.2.1, m.2.2⟩ : Party)))
    .next ((liveThreads s g).foldl (fun s e => meetDeliver ps s e.1) s)
  else s.stall

/-! Named barriers. -/

/-- A unit that names a barrier (R87): one that is not granted raises "guard misuse". -/
def withBarrier (s : State) (e : Env) (b : Nat) (k : Outcome) : Outcome :=
  if e.tm.nbar ≤ b then .next (raiseTrap s e.t (trapOf 0x0E b)) else k

/-- The wait of R119: a thread that holds or requests the extension lock may not wait at a barrier. -/
def noLock (s : State) (e : Env) (b : Nat) (k : Outcome) : Outcome :=
  if e.th.xhold || e.th.xreq.isSome then .next (raiseTrap s e.t (trapOf 0x09 b)) else k

/-- The waiters of a barrier whose token is not its phase continue (R89). -/
def wakeBarrier (s : State) (k b : Nat) (phase : Word) : State :=
  match s.team? k with
  | none => s
  | some tm => (teamTids tm).foldl (fun s i => s.modThread (threadOf k i) (fun th =>
      match th.wait with
      | .barrier b' tok => if b' == b && tok != phase then { th with wait := .none } else th
      | _ => th)) s

/-- An arrival (R89): the token is the phase before it; the arrival that reaches the count completes the
phase. -/
def arrive (s : State) (k b : Nat) : State × Word :=
  match s.team? k with
  | none => (s, 0)
  | some tm =>
    let x := tm.bar b
    if x.arrivals + 1 == x.count then
      let s := s.setTeam k { tm with bars := put tm.bars b ⟨x.count, 0, x.phase + 1⟩ }
      (wakeBarrier s k b (x.phase + 1), x.phase)
    else (s.setTeam k { tm with bars := put tm.bars b { x with arrivals := x.arrivals + 1 } }, x.phase)

/-- A thread waits while the barrier's phase equals its token; its PC is the unit after (R345). -/
def waitBarrier (s : State) (t b : Nat) (token : Word) : State :=
  match s.team? (teamKey t) with
  | none => s
  | some tm => if (tm.bar b).phase == token then s.waitFor t (.barrier b token) else s

/-- `bari` (R89, R397): it discards the arrivals and keeps the phase, when it commits. -/
def execBari (c : Ctl) (b : BitVec 8) (cnt : Imm) (s : State) : Outcome :=
  unit s .queued c cnt.words fun e =>
  withBarrier s e b.toNat <|
    .next (settleAct s e cnt.words (.bari b.toNat cnt.zero32.toNat) 0 (fun s => setBarrier s e.t b.toNat cnt.zero32.toNat))

/-- The unit executes only once every older unit of its thread has committed, its checks having come first (R89). -/
def whenSettled (s : State) (e : Env) (k : Outcome) : Outcome :=
  if !e.th.window.isEmpty || e.th.xreq.isSome then s.stall else k

/-- `barr` (R89). -/
def execBarr (c : Ctl) (xd : Reg) (b : BitVec 8) (s : State) : Outcome :=
  unit s .queued c 1 fun e =>
  withBarrier s e b.toNat <|
  whenSettled s e <|
  operands s e [xd] fun s e =>
    let r := arrive s (teamKey e.t) b.toNat
    .next (settle r.1 e c 1 [(xd, r.2)])

/-- `barw` (R89, R119). -/
def execBarw (c : Ctl) (b : BitVec 8) (xb : Reg) (s : State) : Outcome :=
  unit s .queued c 1 fun e =>
  withBarrier s e b.toNat <|
  noLock s e b.toNat <|
  whenSettled s e <|
  gather s e [xb] [] fun s e =>
    .next (waitBarrier (settle s e c 1 []) e.t b.toNat (e.th.read xb))

/-- `bars` (R89, R119): the arrival, then the wait. -/
def execBars (c : Ctl) (b : BitVec 8) (s : State) : Outcome :=
  unit s .queued c 1 fun e =>
  withBarrier s e b.toNat <|
  noLock s e b.toNat <|
  whenSettled s e <|
    let r := arrive (settle s e c 1 []) (teamKey e.t) b.toNat
    .next (waitBarrier r.1 e.t b.toNat r.2)

/-! Guards (R196, R197). -/

/-- A unit that resolves a guard slot, when it commits (R196). -/
def settleGuard (s : State) (e : Env) (gd : BitVec 8) (v : BitVec 2) (fps : BitVec 5) : State :=
  settleAct s e 1 (.guard gd.toNat v) fps (fun s => resolve s e.t gd v)

/-- `gset.cc` (R197): an FP32 compare raises flags and traps as `fcmp` (R145, R136). -/
def execGset (c : Ctl) (cc : BitVec 3) (fp : Bool) (gd : BitVec 8) (xa xb : Reg) (s : State) : Outcome :=
  unit s .queued c 1 fun e =>
  gather s e [xa, xb] [] fun s e =>
    let r : Bool × BitVec 5 := if fp then fcmpOp cc (e.th.read xa) (e.th.read xb)
      else (condInt 32 cc (e.th.read xa) (e.th.read xb), 0)
    match fpTrap e.th.ctx.fpc r.2 with
    | some ti => .next (raiseTrap s e.t ti)
    | none => .next (settleGuard s e gd (if r.1 then 1 else 0) r.2)

/-- `gres` (R197). -/
def execGres (c : Ctl) (gd : BitVec 8) (xa : Reg) (s : State) : Outcome :=
  unit s .queued c 1 fun e =>
  gather s e [xa] [] fun s e =>
    .next (settleGuard s e gd (if e.th.read xa != 0 then 1 else 0) 0)

/-- `gres.open` (R197). -/
def execGresOpen (c : Ctl) (gd : BitVec 8) (s : State) : Outcome :=
  unit s .queued c 1 fun e => .next (settleGuard s e gd 2 0)

/-- `gwait` (R197): it waits while the guard is Open. -/
def execGwait (c : Ctl) (xd : Reg) (ga : BitVec 8) (s : State) : Outcome :=
  unit s .queued c 1 fun e =>
    if e.guard ga.toNat == 2 then s.stall
    else operands s e [xd] fun s e =>
      let v := boolWord (e.guard ga.toNat == 1)
      if e.th.window.isEmpty then .next (settle s e c 1 [(xd, v)])
      else .next (computeIssue s e c.k 1 [] [xd] ⟨[(xd, v)], 0, none, .none⟩)

/-- `fwait` (R201): it waits until every named flag is zero, then acquires. -/
def execFwait (c : Ctl) (mask : BitVec 12) (s : State) : Outcome :=
  unit s {} c 1 fun e =>
    if (List.range 12).any (fun f => mask.getLsbD f && e.th.flag f != 0) then s.stall
    else .next (settle (acquire s (tCore e.t)) e c 1 [])

/-- `lease` (R271): 0 selects measured mode and keeps the lease. -/
def execLease (c : Ctl) (n : BitVec 12) (s : State) : Outcome :=
  unit s .queued c 1 fun e =>
    .next (settleAct s e 1 (.lease n.toNat) 0 (fun s => setLease s e.t n.toNat))

/-! Stage queues (R248 to R252). -/

/-- Capacity of a queue (R249). -/
def queueCap (q : Queue) : Nat := 2 ^ bits q.desc 1 4

/-- Whether a role may push or pop a queue (R249). -/
def mayPush (q : Queue) (consumer : Bool) : Bool := q.desc.getLsbD (if consumer then 8 else 7)
def mayPop (q : Queue) (consumer : Bool) : Bool := q.desc.getLsbD (if consumer then 6 else 5)

/-- A queue of the team by its number, and "guard misuse" where the launch has no such stage or the role
may not use it (R250). -/
def withQueue (s : State) (e : Env) (q : BitVec 8) (push : Bool) (k : Queue → Outcome) : Outcome :=
  let bad : Outcome := .next (raiseTrap s e.t (trapOf 0x0E (q.toNat + if push then 16 else 0)))
  match find? e.tm.queues q.toNat with
  | none => bad
  | some x => if (if push then mayPush x e.consumer else mayPop x e.consumer) then k x else bad

/-- `qpush` (R252): it waits while the queue is full, releases, and appends. -/
def execQpush (c : Ctl) (q : BitVec 8) (xa : Reg) (s : State) : Outcome :=
  unit s { settled := true, long := true } c 1 fun e =>
  withQueue s e q true fun x =>
  gather s e [xa, xa + 1] [] fun s e =>
    if x.entries.length ≥ queueCap x then s.stall
    else withRelease s e false fun s =>
      .next ((settle s e c 1 []).modTeam (teamKey e.t) (fun tm =>
        { tm with queues := adjust tm.queues q.toNat (fun x => { x with entries := x.entries ++ [e.th.read64 xa] }) }))

/-- The head of a queue removed. -/
def popQueue (s : State) (t q : Nat) : State :=
  s.modTeam (teamKey t) (fun tm =>
    { tm with queues := adjust tm.queues q (fun x => { x with entries := x.entries.drop 1, head := x.head + 1 }) })

/-- Whether the thread's loads, atoms and cases have returned: an acquire waits for them (R306). -/
def Thread.returned (th : Thread) : Bool := !th.accs.any (fun a => a.kind.isLoad || a.kind.isAtom)

/-- `qpop` (R252): it waits for an entry, removes the head and acquires as `acq`, which waits for older loads and
atomics. -/
def execQpop (c : Ctl) (xd : Reg) (q : BitVec 8) (s : State) : Outcome :=
  unit s { settled := true, long := true } c 1 fun e =>
  withQueue s e q false fun x =>
  operands s e [xd, xd + 1] fun s e =>
    match x.entries with
    | [] => s.stall
    | v :: _ =>
      if e.th.returned then .next (popQueue (settle (acquire s (tCore e.t)) e c 1 (write64 xd v)) e.t q.toNat)
      else s.stall

/-- The eligible queue with the most entries, the lowest number of equals (R252). -/
def fullest : List (Nat × Queue) → Option (Nat × Queue)
  | [] => none
  | x :: xs => match fullest xs with
    | none => some x
    | some y => if x.2.entries.length ≥ y.2.entries.length then some x else some y

/-- `qpop.any` (R252): x(d+2) reports the queue. -/
def execQpopAny (c : Ctl) (xd : Reg) (s : State) : Outcome :=
  unit s { settled := true, long := true } c 1 fun e =>
    let elig := e.tm.queues.filter (fun q => mayPop q.2 e.consumer)
    if elig.isEmpty then .next (raiseTrap s e.t (trapOf 0x0E 0x1F))
    else operands s e [xd, xd + 1, xd + 2] fun s e =>
      match fullest elig with
      | some (i, x) =>
        match x.entries with
        | [] => s.stall
        | v :: _ =>
          if e.th.returned then .next (popQueue (settle (acquire s (tCore e.t)) e c 1
            (write64 xd v ++ [(xd + 2, BitVec.ofNat 32 i)])) e.t i)
          else s.stall
      | none => s.stall

end Sys2Proof.Machine
end

