-- ==== Sys2Proof/Machine/Saving.lean ====
section
/-! DEFINITION. `ctxsave` (R351 to R354, R409): the team made quiet, the layout of the save area, and its
words. -/

namespace Sys2Proof.Machine

/-! The layout (R353). -/

/-- A team as it is saved: its key, itself, its launch, its threads, its core, and the thread whose record
takes PC := EPC, none with T = 1. -/
structure SaveView where
  key    : Nat
  tm     : Team
  la     : Launch
  k      : Core
  thread : Nat → Option Thread
  issuer : Option Nat

/-- A size rounded up to whole pages of 4 KiB. -/
def roundPage (n : Nat) : Nat := (n + 4095) / 4096 * 4096

/-- The valid handles of a team at levels C and S, in handle order. -/
def SaveView.tiles (v : SaveView) : List Handle :=
  (List.range 64).filterMap (fun h => match find? v.tm.handles h with
    | some x => if x.lvl == 0 || x.lvl == 1 then some x else none
    | none => none)

/-- The accumulators that a team holds, in ascending index (R175). -/
def SaveView.accs (v : SaveView) : List Handle :=
  (List.range 2).flatMap (fun i => (v.tm.handles.map (·.2)).filter (fun h => h.lvl == 3 && h.loc.toNat == i))

/-- The program stores that a team owns (R215). -/
def SaveView.stores (v : SaveView) : List (Nat × Prog) := v.k.progs.filter (fun p => p.2.owner == some v.key)

/-- The jobs of a team, in acceptance order. -/
def SaveView.jobs (v : SaveView) : List Job := v.k.jobs.filter (fun j => teamKey j.thread == v.key)

/-- The numbers of the team-scope entries of a launch's timetable (R279). -/
def teamEntries (la : Launch) : List Nat :=
  (la.timetab.zipIdx.filter (fun e => !e.1.isEmpty && !ttGrid e.1)).map (·.2)

/-- The bytes of a stage queue's record: count and head, then its storage. -/
def queueBytes (desc : DWord) : Nat := 8 + 8 * 2 ^ bits desc 1 4

/-- Granules of a handle's storage. -/
def granOf (k : Core) (h : Handle) : Nat := (tileOf k h.uid).gran

/-- The sizes of the eight sections, in whole pages. -/
def SaveView.sizes (v : SaveView) : List Nat :=
  [ 1024 * (32 * v.tm.ngrp), 4096 * (v.tiles.map (granOf v.k)).foldl (· + ·) 0, 262144 * v.accs.length
  , 136 * v.stores.length, (v.tm.queues.map (fun q => queueBytes q.2.desc)).foldl (· + ·) 0
  , 64 * v.jobs.length, 4 * (teamEntries v.la).length, 0 ].map roundPage

/-- SIZE (R353). -/
def SaveView.size (v : SaveView) : Nat := 4096 + v.sizes.foldl (· + ·) 0

/-- The offsets of sections of given sizes, an empty one at SIZE (R393). -/
def offsetsFrom (total : Nat) : Nat → List Nat → List Nat
  | _, [] => []
  | o, n :: ns => (if n = 0 then total else o) :: offsetsFrom total (o + n) ns

/-- OFS0 to OFS7. -/
def SaveView.offsets (v : SaveView) : List Nat := offsetsFrom v.size 4096 v.sizes

/-! Words of the area. -/

/-- Bits placed at a position of a word. -/
def at_ (n lo : Nat) : DWord := BitVec.ofNat 64 (n * 2 ^ lo)

/-- A truth value as a bit. -/
def bit (b : Bool) (lo : Nat) : DWord := at_ b.toNat lo

/-- The trap that a thread has still to take: of a launch parameter before its first unit (R127), or a pending one
(R346). -/
def Thread.savedTrap (th : Thread) : Option TrapInfo := th.param.orElse (fun _ => th.pendTrap)

/-- The cause that a thread's record holds (R346, R354): the pending trap's, else that of its registers, the cause of
its last trap (R104); none where only a pending trap is recorded (R393). -/
def Thread.savedCause (th : Thread) (own : Bool) : Word × DWord :=
  match th.savedTrap with
  | some ti => (ti.tcause, ti.tinfo)
  | none => if own then (th.tcause, th.tinfo) else (0, 0)

/-- The barrier at which a thread waits after the arrival, with its token: the wait that it is in, or the one that its
handler interrupts (R345 step 3). -/
def Thread.barWait (th : Thread) : Option (Nat × Word) :=
  match th.wait, th.kept with
  | .barrier b tok, _ | _, .barrier b tok => some (b, tok)
  | _, _ => none

/-- Two registers of a lane block as the record holds them: far and unmapped blocks read zero (R354). -/
def Thread.lanePair (th : Thread) (r : Nat) : DWord :=
  if placeOfCode (codeOfBlock th.ctx.pmap (r / 8)) = .lane then
    pairVal (findD th.regs (r + 1) 0) (findD th.regs r 0)
  else 0

/-- Four flags as a 32-bit value, one byte each, the lowest first. -/
def Thread.flagBytes (th : Thread) (f : Nat) : Nat → Nat
  | 0 => 0
  | n + 1 => th.flag f % 256 + 256 * Thread.flagBytes th (f + 1) n

/-- The word of a thread record at an offset (R354). `pc` and `crem` are the resume address and the words
left there; a sibling's TA is 0, and `own` says that the record shows the thread's last trap (R393). -/
def threadWord (th : Thread) (trapped own : Bool) (pc : DWord) (crem : Nat) (off : Nat) : DWord :=
  let c := th.savedCause own
  if off = 0x000 then pc
  else if off = 0x008 then th.epc
  else if off = 0x010 then if trapped then th.ta else 0
  else if off = 0x018 then at_ th.ctx.depth 0 ||| at_ th.ctx.key.toNat 32
  else if off = 0x020 then pairVal th.fps th.ctx.fpc
  else if off = 0x028 then at_ c.1.toNat 0 ||| bit th.savedTrap.isSome 32
  else if off = 0x030 then c.2
  else if off = 0x038 then th.ctx.pmap.extractLsb' 0 64
  else if off = 0x040 then th.ctx.pmap.extractLsb' 64 64
  else if 0x048 ≤ off && off < 0x068 then th.ctx.anchor ((off - 0x048) / 8)
  else if off = 0x068 then BitVec.ofNat 64 (th.flagBytes 0 8)
  else if off = 0x070 then BitVec.ofNat 64 (th.flagBytes 8 4) ||| at_ th.ctx.aset.toNat 32
  else if off = 0x078 then
    bit th.exited 0 ||| bit th.inh 1 ||| bit th.barWait.isSome 2
      ||| bit (th.xhold || th.wait == .lock) 3 ||| at_ th.skid 4 ||| at_ crem 16
  else if off = 0x080 then
    match th.barWait with
    | some w => at_ w.1 0 ||| at_ w.2.toNat 32
    | none => 0
  else if 0x100 ≤ off && off < 0x300 then
    if th.wait == .lock then
      let r := (off - 0x100) / 4
      if 64 ≤ r then pairVal (findD th.xsave (r + 1) 0) (findD th.xsave r 0) else th.lanePair r
    else th.lanePair ((off - 0x100) / 4)
  else 0

/-- The record of a thread: the issuing thread of a T = 0 save resumes at EPC (R352), with the words left
there where EPC is TA, else at a header. Of a team halted at an escalated trap, `ctxsave.team` records the last trap of
the trapping thread alone (R393). -/
def SaveView.threadAt (v : SaveView) (tid off : Nat) : DWord :=
  match v.thread (threadOf v.key tid) with
  | none => 0
  | some th =>
    let trapped := th.inh || v.tm.trapTid == some tid
    let own := v.issuer.isSome || !v.tm.escal || v.tm.trapTid == some tid
    if v.issuer == some tid then threadWord th trapped own th.epc (if th.epc == th.ta then th.taCrem else 0) off
    else threadWord th trapped own th.ctx.pc th.ctx.crem off

/-- The attributed unit that the header names (R347, R408): the trap record's, or that of the first pending attributed
trap in the order of R346. -/
def SaveView.aua (v : SaveView) : DWord :=
  if v.tm.trapTid.isSome && v.tm.aua != 0 then v.tm.aua
  else ((haltOrder v.tm).findSome? (fun i =>
    match (v.thread (threadOf v.key i)).bind (·.savedTrap) with
    | some ti => if ti.attr then some ti.aua else none
    | none => none)).getD 0

/-- The word of a handle-table entry (R175). -/
def handleWord (k : Core) (h : Handle) (hi : Bool) : DWord :=
  if hi then bit true 63 ||| at_ h.lvl.toNat 61 ||| bit (h.lvl == 3 && (tileOf k h.uid).asat) 60 ||| h.loc.setWidth 64
  else h.shape

/-- The word of a granted barrier (R353): count, arrivals and phase. -/
def barrierWord (tm : Team) (b : Nat) : DWord :=
  if b < tm.nbar then
    let x := tm.bar b
    at_ x.count 0 ||| at_ x.arrivals 16 ||| at_ x.phase.toNat 32
  else 0

/-- Eight binding records from a handle on (R227). -/
def bindBytes (tm : Team) (h : Nat) : Nat → Nat
  | 0 => 0
  | n + 1 => (match find? tm.binds h with | some s => 1 + 2 * s | none => 0) + 256 * bindBytes tm (h + 1) n

/-- The word of the header page at an offset (R353). -/
def SaveView.headerAt (v : SaveView) (off : Nat) : DWord :=
  let tm := v.tm
  let trapped := tm.trapTid
  if off = 0x000 then at_ 0x44584354 0 ||| at_ 1 32 ||| bit v.issuer.isSome 48 ||| bit trapped.isSome 49
  else if off = 0x008 then at_ v.la.gen.toNat 0 ||| at_ tm.index 32
  else if off = 0x010 then BitVec.ofNat 64 v.size
  else if off = 0x018 then BitVec.ofNat 64 (32 * tm.ngrp)
  else if 0x020 ≤ off && off < 0x060 then BitVec.ofNat 64 (v.offsets.getD ((off - 0x020) / 8) 0)
  else if off = 0x060 then v.la.ident
  else if off = 0x100 then
    match trapped with
    | some tid => match v.thread (threadOf v.key tid) with
      | some th => at_ th.tcause.toNat 0 ||| at_ tid 32
      | none => 0
    | none => 0
  else if off = 0x108 then v.aua
  else if off = 0x110 then BitVec.ofNat 64 (tm.guards.toNat / 4 % 2 ^ 30)
  else if off = 0x118 then BitVec.ofNat 64 tm.wqHead
  else if 0x120 ≤ off && off < 0x140 then
    let n := (off - 0x120) / 4
    pairVal (findD tm.status (n + 1) 0) (findD tm.status n 0)
  else if 0x140 ≤ off && off < 0x440 then barrierWord tm ((off - 0x140) / 8)
  else if 0x440 ≤ off && off < 0x480 then BitVec.ofNat 64 (bindBytes tm (off - 0x440) 8)
  else if 0x480 ≤ off && off < 0x880 then
    match find? tm.handles ((off - 0x480) / 16) with
    | some h => handleWord v.k h (off % 16 == 8)
    | none => 0
  else 0

/-- The word of the tiles section: the granules of each handle one after another. -/
def tilesAt (k : Core) : List Handle → Nat → DWord
  | [], _ => 0
  | h :: hs, off =>
    let n := 4096 * granOf k h
    if off < n then BitVec.ofNat 64 (Memory.readN (tileOf k h.uid).bytes off 8) else tilesAt k hs (off - n)

/-- A cell of an accumulator in the area: cells outside its rows and columns are zero. -/
def savedCell (k : Core) (h : Handle) (i : Nat) : Word :=
  if i / 256 < h.rows && i % 256 < h.cols then (tileOf k h.uid).cell (i / 256) (i % 256) else 0

/-- The word of a program store's record: the store number, then 32 words. -/
def storeAt (p : Nat × Prog) (i : Nat) : DWord :=
  if i = 0 then BitVec.ofNat 64 p.1
  else pairVal (p.2.words.getD (2 * i - 1) 0) (p.2.words.getD (2 * i - 2) 0)

/-- An entry of a queue's storage, a ring from its head on. -/
def ringAt (q : Queue) (i : Nat) : DWord :=
  let cap := queueCap q
  q.entries.getD ((i + cap - q.head % cap) % cap) 0

/-- The word of the queues section: count and head, then the storage of each queue. -/
def queuesAt : List Queue → Nat → DWord
  | [], _ => 0
  | q :: qs, off =>
    let n := queueBytes q.desc
    if off = 0 then at_ q.entries.length 0 ||| at_ (q.head % queueCap q) 32
    else if off < n then ringAt q (off / 8 - 1)
    else queuesAt qs (off - n)

/-- How many of a job's captured values the record holds (R409): its register operands. -/
def capCount (i : Instr) : Nat :=
  match i with
  | .tcopy _ _ _ _ _ | .tfill _ _ _ _ => 2
  | .gmm _ _ _ _ _ => 3
  | .mmas _ _ _ _ _ | .mdrain _ _ _ _ _ _ _ _ | .epild _ _ _ | .fgett _ _ _ _ _ | .ksort _ _ _ _ _ _
  | .kpack _ _ _ _ _ | .wfix _ _ _ _ => 1
  | _ => 0

/-- STATE and KIND of a job record (R409). -/
def jobState (k : Core) (tm : Team) (j : Job) : Nat × Nat :=
  match j.state with
  | .suspended kind => (3, kind.toNat)
  | .queued => (if j.guard != 0 && !j.gok && tm.guard j.guard == 2 && atHead k j then 1 else 0, 0)
  | _ => (if j.part = 0 then 0 else 2, 0)

/-- The word of a job record at an offset (R409). -/
def jobAt (k : Core) (tm : Team) (j : Job) (off : Nat) : DWord :=
  if off = 0x00 then j.word
  else if off = 0x08 then j.ua &&& 0x01FFFFFFFFFFFFFF
  else if off < 0x30 then
    let i := (off - 0x10) / 8
    if i < capCount j.cmd then j.cap i else 0
  else if off = 0x30 then
    let st := jobState k tm j
    at_ (tTid j.thread) 0 ||| at_ (j.flag.getD 0) 12 ||| bit j.flag.isSome 16 ||| at_ st.1 17 ||| at_ st.2 20
  else BitVec.ofNat 64 (j.counter % 2 ^ 32)

/-- The counters of a team-scope entry (R279): the trigger in [15:0], the deadline in [31:16]. -/
def counterWord (tm : Team) (i : Nat) : Word := BitVec.ofNat 32 (findD tm.trig i 0 + 65536 * findD tm.dead i 0)

/-- A word of a section at an offset within it. -/
def SaveView.sectionAt (v : SaveView) (i off : Nat) : DWord :=
  match i with
  | 0 => v.threadAt (off / 1024) (off % 1024)
  | 1 => tilesAt v.k v.tiles off
  | 2 => match v.accs[off / 262144]? with
    | some h =>
      let n := off % 262144 / 4
      pairVal (savedCell v.k h (n + 1)) (savedCell v.k h n)
    | none => 0
  | 3 => match v.stores[off / 136]? with
    | some p => storeAt p (off % 136 / 8)
    | none => 0
  | 4 => queuesAt (v.tm.queues.map (·.2)) off
  | 5 => match v.jobs[off / 64]? with
    | some j => jobAt v.k v.tm j (off % 64)
    | none => 0
  | 6 =>
    let es := teamEntries v.la
    let w (n : Nat) : Word := match es[n]? with | some i => counterWord v.tm i | none => 0
    pairVal (w (off / 4 + 1)) (w (off / 4))
  | _ => 0

/-- The word of the save area at an offset (R353). -/
def SaveView.wordAt (v : SaveView) (off : Nat) : DWord :=
  if off < 4096 then v.headerAt off
  else match (List.range 8).find? (fun i =>
      v.offsets.getD i 0 ≤ off && off < v.offsets.getD i 0 + v.sizes.getD i 0) with
    | some i => v.sectionAt i (off - v.offsets.getD i 0)
    | none => 0

/-- A line of the area: 16 words as one number, the lowest first. -/
def SaveView.lineAt (v : SaveView) (off : Nat) : Nat → Nat
  | 0 => 0
  | n + 1 => (v.wordAt off).toNat + 2 ^ 64 * SaveView.lineAt v (off + 8) n

/-! The pages of the area (R351). -/

/-- What the pages of an area are: translated, a trap, or a wait. -/
inductive Area where
  | ok (ps : List Phys)
  | trap (ti : TrapInfo)
  | wait (s : State)
  | hole

/-- The next n pages of 4 KiB from an address, in program order after the thread's older accesses to them (R294). -/
def areaPages (s : State) (e : Env) (need : Need) (va : Nat) : Nat → Area
  | 0 => .ok []
  | n + 1 =>
    let a := va % 2 ^ 57
    match e.xlat s a need with
    | .trap c => .trap (trapOf c a)
    | .moving => .wait (s.waitWalk e.t a)
    | .ats page => .wait (s.waitAts e page a (need == .w))
    | .ok p =>
      if p.hole then .hole
      else if e.th.accs.any (fun o => o.overlaps (mkAccess s e (.load false []) a 4096 0 [p] 0 false none)) then
        .wait { s with stalled := true }
      else match areaPages s e need (va + 4096) n with
        | .ok ps => .ok (p :: ps)
        | r => r

/-- A whole line written at its home: every copy of it goes, and its owners (R289, R294). -/
def putLine (s : State) (p : Phys) (v : Nat) : State :=
  if p.tgt != 0 then physWrite s p 128 v
  else
    let ln := lineOf p.pa
    let s := dropCopies s ln
    homeWrite { s with registry := dropOwners s.registry ln (BitVec.allOnes 32) } p.pa 128 v

/-- The area written, page by page. -/
def writeArea (s : State) (v : SaveView) (ps : List Phys) : State :=
  ps.zipIdx.foldl (fun s p =>
    (List.range 32).foldl (fun s i =>
      putLine s { p.1 with pa := p.1.pa + 128 * i } (v.lineAt (4096 * p.2 + 128 * i) 16)) s) s

/-! Quiet (R352). -/

/-- A team whose handler a `ctxsave.team` stops (R352 step 1): its thread loses its wait as a sibling does. -/
def stopHandler (s : State) (key : Nat) (tm : Team) : State :=
  let s := s.setTeam key { tm with saving := true }
  match tm.trapTid with
  | some i => haltThread s (threadOf key i)
  | none => s

/-- A team halted with no thread of it trapping (R352 step 1, R345). -/
def haltAll (s : State) (key : Nat) : State :=
  match s.team? key with
  | none => s
  | some tm =>
    let s := s.setTeam key { tm with halted := true, trapTid := none, escal := false }
    (teamTids tm).foldl (fun s i => haltThread s (threadOf key i)) s

/-- The held `wfix` jobs of a team. -/
def heldWfix (s : State) (key : Nat) (tm : Team) : List Job :=
  (s.core (key / 4)).jobs.filter (fun j => teamKey j.thread == key && j.heldFix tm)

/-- Whether a job keeps a save waiting (R352 step 4, R223): it is at work and does not stop at a boundary, or has
performed parts that no self-test has passed yet, it awaits a self-test or its retirement, or it is a `wfix`, whose unit
waits for it. -/
def Job.unquiet (k : Core) (j : Job) : Bool :=
  j.state == .testing || j.state == .ran || j.state == .done || (j.state == .running && !resumable j.cmd)
    || (j.state == .running && j.untested k)
    || (match j.cmd with | .wfix _ _ _ _ => true | _ => false)

/-- Whether every place and engine of a team is quiet (R352 steps 3 and 4): windows empty, accesses performed, no job
that keeps it waiting. -/
def teamQuiet (s : State) (key : Nat) (tm : Team) : Bool :=
  (teamTids tm).all (fun i => match s.thread? (threadOf key i) with
    | some th => th.window.isEmpty && th.accs.isEmpty
    | none => true)
  && !(s.core (key / 4)).jobs.any (fun j => teamKey j.thread == key && j.unquiet (s.core (key / 4)))

/-- Whether the far places of a team cannot write their values back yet (R325, R326). -/
def teamSpills (s : State) (key : Nat) (tm : Team) : Bool := (teamTids tm).any (fun i => spillsWait s (threadOf key i))

/-- What the unit that saves or restores a team finds of the backing words that its far places write (R101, R102): words
that do not translate trap at it, or it waits for their page. -/
def backChecks (s : State) (e : Env) : List Nat → Chk
  | [] => .ok s
  | t :: ts =>
    match s.env t with
    | none => backChecks s e ts
    | some x =>
      match spillChecks s { x with t := e.t } (List.range 32) with
      | .ok _ => backChecks s e ts
      | r => r

/-- The engines of a team told to stop at their boundaries for a save of it, or to go on (R223, R234). -/
def State.quiet (s : State) (key : Nat) (b : Bool) : State := s.modTeam key (fun tm => { tm with quieting := b })

/-- The dirty private bytes of a core's L1 written back, the lines kept clean (R352 step 5). -/
def flushPrivate (s : State) (core : Nat) : State :=
  ((s.core core).l1.filter (fun l => !l.2.shared)).foldl (fun s l => flushCoreLine s core l.1) s

/-- Whether the write-backs of step 5 and the writes of the area wait for a row operation (R325, R326), or for atomics
that stand one behind the other at the area's bytes (R400). -/
def saveWaits (s : State) (core : Nat) (ps : List Phys) : Bool :=
  (s.core core).l1.any (fun l => backWaits s l.1 l.2)
    || ps.any (fun p => p.tgt == 0 && (List.range 32).any (fun i => writeWaits s (lineOf p.pa + i)))
    || ps.any (fun p => siteTaken s none p.tgt p.pa 4096)

/-- A context unit ends: no K-marked write before it is read behind it (R110). -/
def settleContext (s : State) (e : Env) (c : Ctl) (ws : List (Reg × Word)) : State :=
  settle s { e with th := { e.th with ctx := { e.th.ctx with fwd := [] } } } c 1 ws

/-- The words left in the clause of a resume address, as a restored thread's header gives them where it has not been
read again yet (R393). -/
def leftAt (s : State) (e : Env) (pc : DWord) (crem : Nat) : Nat :=
  if crem ≤ 63 then crem else match clauseAt s e pc with | .found _ left => left | .absent | .unread _ => 0

/-- A thread as its record shows it. -/
def savedThread (s : State) (t : Nat) : Option Thread :=
  (s.env t).map (fun e => { e.th with
    taCrem := leftAt s e e.th.ta e.th.taCrem, ctx := { e.th.ctx with crem := leftAt s e e.th.ctx.pc e.th.ctx.crem } })

/-- The view of a team for its save. -/
def viewOf (s : State) (key : Nat) (tm : Team) (la : Launch) (issuer : Option Nat) : SaveView :=
  ⟨key, tm, la, s.core (key / 4), savedThread s, issuer⟩

/-- What is freed after a `ctxsave.team` (R352 step 7); the launch notes the saved team. -/
def freeSaved (s : State) (key : Nat) (tm : Team) : State :=
  let s := s.modLaunch tm.lid (fun l => { l with saved := put l.saved tm.index tm.escal, anySaved := true })
  dropTeam (foldTeam s tm) key

/-- The status bits that the recorded jobs have found so far, in record order (R162, R234): a job record does not hold
them, and the job sets them when it completes, so the device keeps them with the launch (DEDUCED, log 49). -/
def keepStatus (s : State) (key : Nat) (tm : Team) : State :=
  s.modLaunch tm.lid (fun l => { l with
    gathered := put l.gathered tm.index (((s.core (key / 4)).jobs.filter (fun j => teamKey j.thread == key)).map (·.stat)) })

/-- Steps 5 to 7 of a save (R352), its publications complete; a team that stays resident then goes on. -/
def finishSave (s : State) (e : Env) (c : Ctl) (xd : Reg) (key : Nat) (tm : Team) (la : Launch) (team : Bool)
    (ps : List Phys) : Outcome :=
  let core := key / 4
  let s := keepStatus ((teamTids tm).foldl (fun s i => spillAll s (threadOf key i)) s) key tm
  let s := if team then flushPrivate s core else s
  let tm := (s.team? key).getD tm
  let s := writeArea s (viewOf s key tm la (if team then none else some (tTid e.t))) ps
  let s := if team then freeSaved s key tm else s.quiet key false
  match s.env e.t with
  | none => .fault .noSuchInstance
  | some e => .next (settleContext s e c [(xd, 0)])

/-- The release of a save (R352 step 5): the unit waits for its publications, then with T = 1 for the write-back of the
private bytes; an error of one halts its team (R309). -/
def saveRelease (s : State) (e : Env) (core : Nat) (team : Bool) (k : State → Outcome) : Outcome :=
  let back (s : State) : Outcome := if team then .next (s.waitFor e.t (.flush core)) else k (s.waitFor e.t .none)
  match e.th.wait with
  | .flush _ => k (s.waitFor e.t .none)
  | .fence _ ids => if s.pubs.any (fun p => ids.contains p.id) then s.stall else back s
  | _ =>
    let r := release s core
    if r.2.isEmpty then back r.1 else .next (r.1.waitFor e.t (.fence false r.2))

/-- The save of a team (R352) by a thread into an area of a length: each attempt takes the next step that can be
taken, and the unit completes with the last. -/
def saveTeam (s : State) (e : Env) (c : Ctl) (xd : Reg) (area len key : Nat) (tm : Team) (team : Bool) : Outcome :=
  if !tm.halted then .next (haltAll s key)
  else if team && !tm.saving then .next (stopHandler s key tm)
  else match find? s.launches tm.lid with
  | none => .fault .noSuchInstance
  | some la =>
    let v := viewOf s key tm la (if team then none else some (tTid e.t))
    if len < v.size then .next (settleContext s e c [(xd, BitVec.ofNat 32 (1 + 256 * (v.size / 4096)))])
    else match areaPages s e .w area (v.size / 4096) with
    | .trap ti => .next (raiseTrap (s.quiet key false) e.t ti)
    | .wait s => .next s
    | .hole => .fault .physicalHole
    | .ok ps =>
      if !tm.quieting then .next (s.quiet key true)
      else match heldWfix s key tm with
      | j :: _ => .next (withdrawWfix s j)
      | [] =>
        let core := key / 4
        if !teamQuiet s key tm then s.stall
        else match backChecks s e ((teamTids tm).map (threadOf key)) with
        | .trap ti => .next (raiseTrap (s.quiet key false) e.t ti)
        | .wait s => .next s
        | .ok _ =>
          if teamSpills s key tm || saveWaits s core ps then s.stall
          else saveRelease s e core team fun s => finishSave s e c xd key tm la team ps

/-- A context unit: only in firmware, or only in a kernel handler (R38, R351). -/
def contextUnit (s : State) (c : Ctl) (team : Bool) (k : Env → Outcome) : Outcome :=
  unit s { settled := true, long := true } c 1 fun e =>
    if (if team then e.tm.firmware else e.th.inh) then k e else .next (raiseTrap s e.t (trapUndef 9))

/-- The area of a context unit: canonical and aligned to 4 KiB (R351). -/
def withArea (s : State) (e : Env) (a : DWord) (k : Nat → Outcome) : Outcome :=
  let va := a.toNat % 2 ^ 57
  if a.toNat % 4096 != 0 then .next (raiseTrap s e.t (trapOf 0x03 va))
  else if !canonical a then .next (raiseTrap s e.t (trapOf 0x04 va))
  else k va

/-- `ctxsave` (R351, R352) of the issuing thread's own team. -/
def execCtxsave (c : Ctl) (xd xa xb : Reg) (s : State) : Outcome :=
  contextUnit s c false fun e =>
  gather s e [xa, xa + 1, xb] [xd] fun s e =>
  withArea s e (e.th.read64 xa) fun area =>
    saveTeam s e c xd area (e.th.read xb).toNat (teamKey e.t) e.tm false

/-- `ctxsave.team` (R351, R352) of the team that the selector names. -/
def execCtxsaveTeam (c : Ctl) (xd xa xb xc : Reg) (s : State) : Outcome :=
  contextUnit s c true fun e =>
  gather s e [xa, xa + 1, xb, xc] [xd] fun s e =>
  withArea s e (e.th.read64 xa) fun area =>
    let x := e.th.read xc
    let key := (x.extractLsb' 0 8).toNat * 4 + (x.extractLsb' 8 2).toNat
    match s.team? key with
    | none => .next (settleContext s e c [(xd, 5)])
    | some tm => saveTeam s e c xd area (e.th.read xb).toNat key tm true

end Sys2Proof.Machine
end

