-- ==== Sys2Proof/Machine/Restoring.lean ====
section
/-! DEFINITION. `ctxload` (R351, R355): the area checked, and a team restored from it. -/

namespace Sys2Proof.Machine

/-! Reading the area. -/

/-- A save area as it is read: its words by offset. -/
abbrev AreaWords := Nat → DWord

/-- The words of an area from its translated pages. -/
def areaWords (s : State) (core : Nat) (ps : List Phys) : AreaWords := fun off =>
  match ps[off / 4096]? with
  | some p => BitVec.ofNat 64 (seenBytes s core { p with pa := p.pa + off % 4096 } 8)
  | none => 0

/-- A 32-bit word of an area. -/
def areaWord32 (a : AreaWords) (off : Nat) : Word :=
  if off % 8 < 4 then loWord (a (off / 8 * 8)) else hiWord (a (off / 8 * 8))

/-- SIZE and the section offsets of an area. -/
def areaSize (a : AreaWords) : Nat := (a 0x10).toNat
def areaOff (a : AreaWords) (i : Nat) : Nat := (a (0x20 + 8 * i)).toNat

/-- Where a section ends: at the next section's offset, or at SIZE. -/
def areaEnd (a : AreaWords) (i : Nat) : Nat :=
  (((List.range 8).map (areaOff a)).filter (fun o => areaOff a i < o)).foldl min (areaSize a)

/-- Bytes of a section. -/
def areaLen (a : AreaWords) (i : Nat) : Nat := areaEnd a i - areaOff a i

/-- Whether a header is well formed by itself (R351, R353): MAGIC, VER, SIZE and the section bounds. -/
def headerOk (a : AreaWords) : Bool :=
  bits (a 0) 0 32 == 0x44584354 && bits (a 0) 32 16 == 1 && areaSize a % 4096 == 0 && 4096 ≤ areaSize a
    && areaSize a ≤ 2 ^ 32
    && (List.range 8).all (fun i => areaOff a i % 4096 == 0 && 4096 ≤ areaOff a i && areaOff a i ≤ areaSize a)

/-- The valid handles of an area, with their numbers: shape, level, LOC, ASAT. -/
structure SavedHandle where
  n     : Nat
  shape : DWord
  lvl   : BitVec 2
  loc   : BitVec 57
  asat  : Bool
  deriving DecidableEq, Repr

/-- The valid handle entries, in handle order (R175). -/
def areaHandles (a : AreaWords) : List SavedHandle :=
  (List.range 64).filterMap (fun n =>
    let w := a (0x488 + 16 * n)
    if w.getLsbD 63 then some ⟨n, a (0x480 + 16 * n), w.extractLsb' 61 2, w.extractLsb' 0 57, w.getLsbD 60⟩ else none)

/-- Granules that an area's handles need at a level. -/
def neededGran (hs : List SavedHandle) (lvl : BitVec 2) : Nat :=
  (hs.map (fun h => if h.lvl == lvl then h.loc.toNat % 8192 else 0)).foldl (· + ·) 0

/-- Accumulators that they need. -/
def neededAcc (hs : List SavedHandle) : Nat := (hs.filter (fun h => h.lvl == 3)).length

/-- How many recorded jobs an area holds: records up to the first whose command word is zero. -/
def jobRecords (a : AreaWords) : List Nat :=
  ((List.range (areaLen a 5 / 64)).map (fun i => areaOff a 5 + 64 * i)).takeWhile (fun o => a o != 0)

/-- Whether the sections hold what the launch and the header call for (R353). -/
def sectionsOk (a : AreaWords) (la : Launch) : Bool :=
  let hs := areaHandles a
  bits (a 0x18) 0 10 == 32 * la.ngrp && 1024 * 32 * la.ngrp ≤ areaLen a 0
    && 4096 * (neededGran hs 0 + neededGran hs 1) ≤ areaLen a 1 && 262144 * neededAcc hs ≤ areaLen a 2
    && (la.stages.map queueBytes).foldl (· + ·) 0 ≤ areaLen a 4
    && 4 * (teamEntries la).length ≤ areaLen a 6

/-! Threads (R354). -/

/-- The lane names of a record: those of the blocks that its map places at the lane. -/
def recordRegs (a : AreaWords) (o : Nat) (pmap : BitVec 128) : List (Nat × Word) :=
  (List.range 128).foldl (fun m r =>
    if placeOfCode (codeOfBlock pmap (r / 8)) = .lane then putD 0 m r (areaWord32 a (o + 0x100 + 4 * r)) else m) []

/-- The byte of an area at an offset. -/
def areaByte (a : AreaWords) (off : Nat) : Nat := bits (a (off / 8 * 8)) (8 * (off % 8)) 8

/-- The trap that a record's pending bit stands for (R346): its cause as TCAUSE and TINFO give it. -/
def recordPending (tc : Word) (ti aua : DWord) : TrapInfo :=
  ⟨tc.extractLsb' 0 8, tc.extractLsb' 16 8, tc.extractLsb' 8 2, tc.getLsbD 10, ti, if tc.getLsbD 10 then aua else 0⟩

/-- The anchors of a record that ASET shows set, their address bits [56:5] (R100, R105). -/
def recordAnchors (a : AreaWords) (o : Nat) (aset : BitVec 4) : List (Nat × DWord) :=
  (List.range 4).foldl (fun m k =>
    if aset.getLsbD k then putD 0 m k (a (o + 0x48 + 8 * k) &&& 0x01FFFFFFFFFFFFE0) else m) []

/-- The thread of a record at an offset of the area (R354, R355). A thread with XHOLD waits for its lock; a wait at a
barrier of a thread in a handler is the one that its handler interrupts (R345 step 3); reserved bits of TCAUSE read 0
(R12). -/
def recordThread (a : AreaWords) (o clk : Nat) : Thread :=
  let w := a (o + 0x78)
  let pmap : BitVec 128 := (a (o + 0x40) ++ a (o + 0x38) : BitVec 128)
  let tc := loWord (a (o + 0x28)) &&& 0x00FF07FF
  let all := recordRegs a o pmap
  let hold := w.getLsbD 3
  let bar : Wait := if w.getLsbD 2 then .barrier (bits (a (o + 0x80)) 0 7) (hiWord (a (o + 0x80))) else .none
  let ctx : Ctx := { Ctx.start (a o) with
    crem := bits w 16 6, depth := bits (a (o + 0x18)) 0 32, key := hiWord (a (o + 0x18))
    fpc := loWord (a (o + 0x20)) &&& fpcWritable, pmap := pmap
    anc := recordAnchors a o (BitVec.ofNat 4 (areaByte a (o + 0x74)))
    aset := BitVec.ofNat 4 (areaByte a (o + 0x74)) }
  { freshThread ctx (if hold then all.filter (fun x => x.1 < 64) else all) none with
    flags := (List.range 12).foldl (fun m f => putD 0 m f (areaByte a (o + 0x68 + f))) []
    fps := hiWord (a (o + 0x20)) &&& fpsWritable
    tcause := tc, tinfo := a (o + 0x30), epc := a (o + 0x08), ta := a (o + 0x10)
    exited := w.getLsbD 0, inh := w.getLsbD 1, skid := bits w 4 5
    pendTrap := if (a (o + 0x28)).getLsbD 32 then some (recordPending tc (a (o + 0x30)) (a 0x108)) else none
    wait := if hold then .lock else if w.getLsbD 1 then .none else bar
    kept := if w.getLsbD 1 then bar else .none
    xreq := if hold then some clk else none
    xsave := if hold then all.filter (fun x => 64 ≤ x.1) else [] }

/-- The far blocks of a thread under its place map. -/
def Thread.farBlocks (th : Thread) : List Nat :=
  (List.range 32).filter (fun b => (placeOfCode (codeOfBlock th.ctx.pmap b)).far)

/-- The values of a thread's far blocks taken from their backing words (R102); words that do not translate now are read
when a unit first names the block (R101). -/
def loadFar (s : State) (t : Nat) : State :=
  match s.env t with
  | none => s
  | some e =>
    let e := { e with th := { e.th with unread := e.th.farBlocks } }
    e.th.unread.foldl (fun s b =>
      match e.xlat s (e.th.ctx.backing (placeOfCode (codeOfBlock e.th.ctx.pmap b)).anchor b) .arena with
      | .ok p => fetchBlock s e b p
      | _ => s) (s.setThread t e.th)

/-- The clauses of a restored thread are to be read again (R353; DEDUCED, log 61): at PC where its record counts words
left, and at TA for a handler that may return there (R350, R393), whose words left its record does not hold. -/
def loadClauses (s : State) (t : Nat) : State :=
  s.modThread t (fun th => { th with
    stale := th.ctx.crem != 0, taStale := th.inh, taCrem := if th.inh then 64 else 0 })

/-! The team's shared state. -/

/-- Barriers of an area (R353). -/
def areaBars (a : AreaWords) (n : Nat) : List (Nat × Barrier) :=
  (List.range n).map (fun b =>
    let w := a (0x140 + 8 * b)
    (b, ⟨bits w 0 10, bits w 16 10, hiWord w⟩))

/-- The stage queues of an area: each from its record. -/
def areaQueues (a : AreaWords) : List DWord → Nat → Nat → List (Nat × Queue)
  | [], _, _ => []
  | d :: ds, i, o =>
    let cap := 2 ^ bits d 1 4
    let count := min (bits (a o) 0 32) cap
    let head := bits (a o) 32 32 % cap
    (i, ⟨d, (List.range count).map (fun j => a (o + 8 + 8 * ((head + j) % cap))), head⟩) ::
      areaQueues a ds (i + 1) (o + queueBytes d)

/-- The counters of an area's team-scope entries (R279). -/
def areaCounters (a : AreaWords) (la : Launch) (lo : Nat) : List (Nat × Nat) :=
  (teamEntries la).zipIdx.foldl (fun m e =>
    putD 0 m e.1 (((areaWord32 a (areaOff a 6 + 4 * e.2)).extractLsb' lo 16).toNat)) []

/-- The team of an area on a core; the thread in a handler keeps it halted (R355). -/
def areaTeam (a : AreaWords) (lid core c0 : Nat) (la : Launch) : Team :=
  { startTeam lid core c0 (bits (a 8) 32 32) la with
    firmware := false
    aua := a 0x108
    binds := (List.range 64).foldl (fun m h =>
      let b := areaByte a (0x440 + h)
      if b % 2 == 1 then put m h (b / 2 % 8) else m) []
    guards := BitVec.ofNat 32 (bits (a 0x110) 0 30 * 4)
    status := (List.range 8).foldl (fun m i => putD 0 m i (areaWord32 a (0x120 + 4 * i) &&& 0xF)) []
    wqHead := (a 0x118).toNat
    bars := areaBars a la.nbar
    queues := areaQueues a la.stages 0 (areaOff a 4)
    trig := areaCounters a la 0
    dead := areaCounters a la 16 }

/-- Storage for one handle of an area (R175, R353): its bytes from an offset of the tiles section, or its cells
from the accumulator section. -/
def savedTile (a : AreaWords) (h : SavedHandle) (gran acc off : Nat) : Tile :=
  if h.lvl == 3 then
    { lvl := 3, gran := 0, acc := acc, bytes := [], asat := h.asat, freed := false
      cells := (List.range 65536).foldl (fun m i => putD 0 m i (areaWord32 a (off + 4 * i))) [] }
  else
    { lvl := h.lvl, gran := gran, acc := 0, cells := [], asat := false, freed := false
      bytes := (List.range (4096 * gran)).foldl (fun m i => Memory.write m i (BitVec.ofNat 8 (areaByte a (off + i)))) [] }

/-- The offsets of the handles' contents: tiles in handle order, accumulators in the order of their indices. -/
def contentOff (a : AreaWords) (hs : List SavedHandle) (h : SavedHandle) : Nat :=
  if h.lvl == 3 then areaOff a 2 + 262144 * (hs.filter (fun x => x.lvl == 3 && x.loc.toNat % 2 < h.loc.toNat % 2)).length
  else areaOff a 1 + 4096 * ((hs.filter (fun x => (x.lvl == 0 || x.lvl == 1) && x.n < h.n)).map (fun x => x.loc.toNat % 8192)).foldl (· + ·) 0

/-- One handle restored into new storage; an accumulator's checkpoint is the accumulator as it then stands (R222). -/
def loadHandle (a : AreaWords) (hs : List SavedHandle) (key : Nat) (s : State) (h : SavedHandle) : State :=
  if h.lvl == 2 then s.modTeam key (fun tm => { tm with handles := put tm.handles h.n ⟨h.shape, 2, h.loc, 0⟩ })
  else
    let core := key / 4
    let k := s.core core
    let gran := h.loc.toNat % 8192
    let acc := (freeAcc k).headD 0
    let loc : BitVec 57 := BitVec.ofNat 57 (if h.lvl == 3 then acc else gran)
    let t := savedTile a h gran acc (contentOff a hs h)
    let s := s.setCore core { k with
      tiles := put k.tiles k.nextUid t, nextUid := k.nextUid + 1
      chk := if h.lvl == 3 then put k.chk k.nextUid t.cells else k.chk }
    s.modTeam key (fun tm => { tm with handles := put tm.handles h.n ⟨h.shape, h.lvl, loc, k.nextUid⟩ })

/-- The program stores of an area (R353): store number, then 32 words, in records of 136 bytes, the store numbers
rising; a later record of store 0 is the padding of the section's page. -/
def loadStores (a : AreaWords) (key : Nat) (s : State) : State :=
  let k := s.core (key / 4)
  s.setCore (key / 4) { k with progs := (List.range (areaLen a 3 / 136)).foldl (fun m i =>
    let o := areaOff a 3 + 136 * i
    let n := (a o).toNat % 4
    let ws := (List.range 32).map (fun j => areaWord32 a (o + 8 + 4 * j))
    if i != 0 && n == 0 then m else put m n ⟨(epCut ws).getD ws, some key⟩) k.progs }

/-! Jobs (R409). -/

/-- The registers that a job's command names, with its captured values. -/
def capRegs (i : Instr) (c : Nat → DWord) : List (Nat × Word) :=
  let pair (r : Reg) (v : DWord) : List (Nat × Word) := [(r.toNat, loWord v), (r.toNat + 1, hiWord v)]
  let one (r : Reg) (v : DWord) : List (Nat × Word) := [(r.toNat, loWord v)]
  match i with
  | .tcopy _ _ _ xr xo => pair xr (c 0) ++ one xo (c 1)
  | .tfill _ _ xr xb => pair xr (c 0) ++ one xb (c 1)
  | .mmas _ _ _ _ xm => one xm (c 0)
  | .mdrain _ _ _ _ _ _ _ xo => one xo (c 0)
  | .fgett _ _ _ _ xq => pair xq (c 0)
  | .ksort _ _ _ _ _ xs => one xs (c 0)
  | .kpack _ _ _ _ xs => one xs (c 0)
  | _ => []

/-- The words of a program from an address through its first zero word, at most n (R215): as they stand when its job is
restored. -/
def programLen (s : State) (e : Env) (va : Nat) : Nat → Nat
  | 0 => 0
  | n + 1 =>
    match e.xlat s (va % 2 ^ 57) .r with
    | .ok p => if seenBytes s (tCore e.t) p 4 == 0 then 1 else 1 + programLen s e (va + 4) n
    | _ => n + 1

/-- The draft of a recorded job from its captured values and the restored handles. -/
def redraft (s : State) (e : Env) (i : Instr) (c : Nat → DWord) : Option Draft :=
  match i with
  | .tcopy _ hd ha xr xo => some (tcopyDraft hd ha xr xo e)
  | .tfill _ hd xr xb => some (tfillDraft hd xr xb e)
  | .tadd _ hd ha hb => some (elementwiseDraft hd ha hb false e)
  | .tmul _ hd ha hb => some (elementwiseDraft hd ha hb false e)
  | .tfma _ hd ha hb => some (elementwiseDraft hd ha hb true e)
  | .tcvt _ _ _ hd ha => some (convertDraft hd ha e)
  | .tredAdd _ _ hd ha => some (convertDraft hd ha e)
  | .tredMax _ _ hd ha => some (convertDraft hd ha e)
  | .tredMin _ _ hd ha => some (convertDraft hd ha e)
  | .ttr _ hd ha => some (convertDraft hd ha e)
  | .mplane _ fs hd ha hs => some (mplaneDraft fs hd ha hs e)
  | .mma _ hc ha hb => some (productDraft e hc ha hb [] [])
  | .mmas _ hc ha hb xm => some (mmasDraft hc ha hb xm e)
  | .gmm _ hc ha hb _ => some (productDraft e hc ha hb [c 0, c 1, c 2] [])
  | .mzero _ hc => some (mzeroDraft hc e)
  | .epild _ n _ => some (epildDraft n (c 0) [] (programLen s e ((c 0).toNat % 2 ^ 57) 32) e)
  | .mdrain _ _ z en prg hd hc xo => some (mdrainDraft s z en prg hd hc xo e)
  | .fgett _ hd hf hi xq => some (fgettDraft hd hf hi xq e)
  | .ksort _ _ hp hk hc xs => some (currantDraft e (e.th.read xs) hk.toNat [hp.toNat, hc.toNat])
  | .kpack _ hv hs hb xs => some (currantDraft e (e.th.read xs) hs.toNat [hv.toNat, hb.toNat])
  | _ => none

/-- The state that a record's STATE and KIND give. -/
def recordState (w : DWord) : JobState :=
  if bits w 17 3 = 2 then .stopped else if bits w 17 3 = 3 then .suspended (w.extractLsb' 20 4) else .queued

/-- The ownership of the store of an `epild` as its acceptance leaves it (R215), and the record that it replaces. -/
def ownStore (k : Core) (key : Nat) (j : Job) : Core × Job :=
  match epildStore j with
  | none => (k, j)
  | some n => ({ k with progs := put k.progs n { k.prog n with owner := some key } },
      { j with prog := match (k.prog n).owner with | some t => t + 1 | none => 0 })

/-- A job entered into the footprint table and its queue (R355). -/
def enterJob (s : State) (key : Nat) (j : Job) : State :=
  let x := ownStore (s.core (key / 4)) key j
  s.setCore (key / 4) { x.1 with jobs := x.1.jobs ++ [x.2], nextJob := x.1.nextJob + 1 }

/-- One recorded job entered into its queue (R355, R409); a word that is no engine command enters nothing. A job with
progress goes on behind its counter, its guard resolved, with the status bits that it has found (R162; log 49). -/
def loadJob (a : AreaWords) (key : Nat) (s : State) (o : Nat) : State :=
  let w := a (o + 0x30)
  let t := threadOf key (bits w 0 9)
  let c (i : Nat) : DWord := a (o + 0x10 + 8 * i)
  match decodeTableWord 64 (a o).toNat, s.env t with
  | some i, some e =>
    let th := { e.th with regs := capRegs i c, ctx := { e.th.ctx with fwd := [] } }
    match redraft s { e with th := th } i c with
    | none => s
    | some d =>
      let k := s.core (key / 4)
      let job : Job :=
        { id := k.nextJob, thread := t, ua := a (o + 8), cmd := i, word := a o, engine := d.engine
          caps := d.caps, hs := d.hs, flag := if w.getLsbD 16 then some (bits w 12 4) else none
          reads := d.reads, writes := d.writes, bank := d.bank, slice := d.slice, state := recordState w
          seq := 0, prog := 0, part := 0, width := 0
          stat := (findD e.la.gathered e.tm.index []).getD ((o - areaOff a 5) / 64) 0
          miss := missOf e.la e.tm (d.reads ++ d.writes)
          hint := (a o).extractLsb' 15 2, gok := bits w 17 3 == 2, walks := false }
      enterJob s key { job with part := job.partOf (bits (a (o + 0x38)) 0 32) }
  | _, _ => s

/-! The whole team (R355). -/

/-- The flags of a thread count its recorded jobs (R185); an operation that a bank error ended counts no longer (R327). -/
def loadFlags (s : State) (t : Nat) : State :=
  let jobs := (s.core (tCore t)).jobs
  s.modThread t (fun th => { th with
    flags := th.flags.foldl (fun m f =>
      putD 0 m f.1 (min f.2 (jobs.filter (fun j => j.thread == t && j.flag == some f.1)).length)) [] })

/-- The proxy slots of a restored thread that its place map needs no longer are released (R103). -/
def loadSlots (s : State) (t : Nat) : State :=
  match s.env t with
  | none => s
  | some e => freeSlots s t (backedBy s e)

/-- A group whose threads have all exited holds no slot and no lease (R76, R272). -/
def loadGroup (s : State) (g : Nat) : State :=
  if !(liveThreads s g).isEmpty then s
  else
    let k := s.core (g / 64)
    s.setCore (g / 64) { k with gslots := k.gslots.filter (fun e => e.2 != g), leases := del k.leases g }

/-- The rest of a restoration once the team and its threads stand: far values, clauses, handles, stores, jobs;
then the locks are offered, and the team goes on in a handler, with a pending trap, or freely (R346). -/
def finishRestore (s : State) (a : AreaWords) (key : Nat) : State :=
  match s.team? key with
  | none => s
  | some tm =>
    let hs := areaHandles a
    let ts := (teamTids tm).map (threadOf key)
    let s := ts.foldl loadSlots (ts.foldl loadFar s)
    let s := ts.foldl loadClauses s
    let s := yieldWays (hs.foldl (loadHandle a hs key) s) (dieOf (key / 4))
    let s := loadStores a key s
    let s := ts.foldl loadFlags ((jobRecords a).foldl (loadJob a key) s)
    let s := (List.range tm.ngrp).foldl (fun s g => loadGroup s (key * 16 + g)) s
    let s := (List.range tm.ngrp).foldl (fun s g => offerLock s (key / 4) (lockOf (s.core (key / 4)) (key * 16 + g))) s
    match (teamTids tm).find? (fun i => match s.thread? (threadOf key i) with | some th => th.inh && !th.exited | none => false) with
    | some i => s.modTeam key (fun tm => { tm with halted := true, trapTid := some i, escal := false })
    | none => tryEndTeam (resumeTeam s key) key

/-- The threads of an area. -/
def areaThreads (a : AreaWords) (ngrp clk : Nat) : List Thread :=
  (List.range (32 * ngrp)).map (fun i => recordThread a (areaOff a 0 + 1024 * i) clk)

/-- The launch that an area names, running on the device (R351, R355). -/
def areaLaunch (s : State) (a : AreaWords) : Option (Nat × Launch) :=
  s.launches.find? (fun l => l.2.ident == a 0x60 && l.2.gen == loWord (a 8) && l.2.started && !l.2.preempted)

/-- The start clusters under which a team's groups fit (R55). -/
def fittingClusters (k : Core) (ngrp : Nat) : List Nat := (List.range 4).filter (groupsFit k ngrp)

/-- What an area's launch and contents find out (R351): a status, or the launch. -/
inductive Loaded where
  | ok (lid : Nat) (la : Launch)
  | status (n : Nat)

/-- The checks of the area's contents. -/
def checkArea (s : State) (a : AreaWords) (own : Option Nat) : Loaded :=
  match areaLaunch s a with
  | none => .status 3
  | some (lid, la) =>
    if own.isSome && own != some lid then .status 3
    else if !sectionsOk a la then .status 2
    else .ok lid la

/-- The area read and checked (R351, R355), or the trap or wait of its pages. -/
def withLoaded (s : State) (e : Env) (c : Ctl) (xd : Reg) (area : Nat) (own : Option Nat)
    (k : AreaWords → Nat → Launch → Outcome) : Outcome :=
  let fail (n : Nat) : Outcome := .next (settleContext s e c [(xd, BitVec.ofNat 32 n)])
  let pages (n : Nat) (k : AreaWords → Outcome) : Outcome :=
    match areaPages s e .r area n with
    | .trap ti => .next (raiseTrap s e.t ti)
    | .wait s => .next s
    | .hole => .fault .physicalHole
    | .ok ps => k (areaWords s (tCore e.t) ps)
  pages 1 fun h =>
    if !headerOk h then fail 2
    else pages (areaSize h / 4096) fun a =>
      match checkArea s a own with
      | .status n => fail n
      | .ok lid la => k a lid la

/-- Storage that a team holds, by level, as `ctxload` of its own state may use again (R355). -/
def heldGran (k : Core) (tm : Team) (lvl : BitVec 2) : Nat :=
  ((tm.handles.map (·.2)).map (fun h => if h.lvl == lvl && lvl != 2 then (if lvl == 3 then 1 else granOf k h) else 0)).foldl (· + ·) 0

/-- Whether a team's own storage suffices for an area. -/
def ownRoom (k : Core) (tm : Team) (hs : List SavedHandle) : Bool :=
  neededGran hs 0 ≤ heldGran k tm 0 && neededGran hs 1 ≤ heldGran k tm 1 && neededAcc hs ≤ heldGran k tm 3

/-- A thread restored where it stands: it keeps its proxy slots, and while its group holds the lock it holds it
again as its record says. -/
def ownThread (s : State) (t : Nat) (new : Thread) : Thread :=
  let bound := match s.thread? t with | some th => th.bound | none => []
  let k := s.core (tCore t)
  if k.lockHolder (lockOf k (gKey t)) == some (gKey t) then
    { new with
      bound := bound, xhold := new.xreq.isSome, xreq := none, wait := if new.wait = .lock then .none else new.wait
      regs := new.xsave.foldl (fun m w => putD 0 m w.1 w.2) new.regs, xsave := [] }
  else { new with bound := bound }

/-- A lock that a group holds without a holder left is free again (R117). -/
def dropEmptyLock (core : Nat) (s : State) (g : Nat) : State :=
  let k := s.core core
  let n := lockOf k g
  if k.lockHolder n == some g && !(groupThreads s g).any (fun e => e.2.xhold) then
    s.setCore core { k with locks := put k.locks n ⟨none⟩ }
  else s

/-- The issuing thread's own team restored in place (R355), its far values in their backing words first (R102). -/
def loadOwn (s : State) (a : AreaWords) (key : Nat) (tm : Team) (lid : Nat) (la : Launch) : State :=
  let core := key / 4
  let s := (teamTids tm).foldl (fun s i => spillAll s (threadOf key i)) s
  let k := s.core core
  let s := s.setCore core <| Core.reclaim { k with
    jobs := k.jobs.filter (fun j => teamKey j.thread != key)
    progs := k.progs.map (fun p => (p.1, if p.2.owner == some key then { p.2 with owner := none } else p.2)) }
  let s := tm.handles.foldl (fun s h => freeHandle s core h.2) s
  let s := s.setTeam key { areaTeam a lid core tm.c0 la with firmware := tm.firmware }
  let s := (areaThreads a la.ngrp s.clk).zipIdx.foldl (fun s t =>
    s.setThread (threadOf key t.2) (ownThread s (threadOf key t.2) t.1)) s
  let s := (List.range tm.ngrp).foldl (fun s g => dropEmptyLock core s (key * 16 + g)) s
  finishRestore s a key

/-- Whether the footprint table of a core has no room for n more jobs beside those that stay (R2). -/
def jobsFull (k : Core) (stay : Job → Bool) (n : Nat) : Bool := 64 < (k.jobs.filter stay).length + n

/-- `ctxload` (R351, R355) of the issuing thread's own team: its own words after it do not execute. -/
def execCtxload (c : Ctl) (xd xa : Reg) (s : State) : Outcome :=
  contextUnit s c false fun e =>
  gather s e [xa, xa + 1] [xd] fun s e =>
  withArea s e (e.th.read64 xa) fun area =>
  withLoaded s e c xd area (some e.tm.lid) fun a lid la =>
    let key := teamKey e.t
    if !ownRoom (s.core (key / 4)) e.tm (areaHandles a) then .next (settleContext s e c [(xd, 4)])
    else if !teamQuiet s key e.tm || jobsFull (s.core (key / 4)) (fun j => teamKey j.thread != key) (jobRecords a).length then
      s.stall
    else match backChecks s e ((teamTids e.tm).map (threadOf key)) with
    | .trap ti => .next (raiseTrap s e.t ti)
    | .wait s => .next s
    | .ok _ => if teamSpills s key e.tm then s.stall else .next (loadOwn s a key e.tm lid la)

/-- Whether a core has room for an area's team (R55, R351 status 4). -/
def loadRoom (s : State) (core : Nat) (la : Launch) (hs : List SavedHandle) : Bool :=
  let k := s.core core
  coreServes s core la && (freeTeamSlot k).isSome && !(fittingClusters k la.ngrp).isEmpty
    && barriersUsed k + la.nbar ≤ 96 && neededAcc hs ≤ (freeAcc k).length
    && neededGran hs 0 + stageGran la.stages false ≤ freeC k
    && neededGran hs 1 + stageGran la.stages true ≤ freeS s (dieOf core)

/-- The team of an area made resident on a core (R355): it acquires, and starts once it stands. The start
cluster is the core's choice (R55), a free value. -/
def loadTeam (s : State) (a : AreaWords) (core lid : Nat) (la : Launch) : State :=
  let k := s.core core
  let slot := (freeTeamSlot k).getD 0
  let cs := fittingClusters k la.ngrp
  let c0 := cs.getD ((Config.freeWord s.free).toNat % cs.length) 0
  let s := acquire { s with free := s.free + 1 } core
  let tm := areaTeam a lid core c0 la
  let s := installTeam s core slot c0 tm la (areaThreads a la.ngrp s.clk)
  let s := s.modLaunch lid (fun l => { l with saved := del l.saved tm.index })
  finishRestore s a (core * 4 + slot)

/-- `ctxload.team` (R351, R355) on the core that the selector names. -/
def execCtxloadTeam (c : Ctl) (xd xa xc : Reg) (s : State) : Outcome :=
  contextUnit s c true fun e =>
  gather s e [xa, xa + 1, xc] [xd] fun s e =>
  withArea s e (e.th.read64 xa) fun area =>
  withLoaded s e c xd area none fun a lid la =>
    let core := ((e.th.read xc).extractLsb' 0 8).toNat
    if !loadRoom s core la (areaHandles a) then .next (settleContext s e c [(xd, 4)])
    else if jobsFull (s.core core) (fun _ => true) (jobRecords a).length then s.stall
    else
      let s := loadTeam s a core lid la
      match s.env e.t with
      | none => .fault .noSuchInstance
      | some e => .next (settleContext s e c [(xd, 0)])

/-! `selftest` (R357). -/

/-- The array of a core tested band by band (R357): passing bands are in service again; a band that fails newly is a
failed test (R222). -/
def retested (k : Core) (bad : BitVec 4) : Core :=
  if bad &&& ~~~k.fenced == 0 then { k with fenced := bad } else testFailed { k with fenced := 0 } bad

/-- `selftest` of a matrix array (R357): which bands fail is the array's state, a free value. It acts between the parts
of the jobs in flight, their chunk boundaries. -/
def execSelftestArray (c : Ctl) (xd xa : Reg) (s : State) : Outcome :=
  firmwareUnit s c 1 fun e =>
  gather s e [xa] [xd] fun s e =>
    let core := ((e.th.read xa).extractLsb' 0 8).toNat
    let bad := (Config.freeWord s.free).extractLsb' 0 4
    let s := { s.setCore core (retested (s.core core) bad) with free := s.free + 1 }
    match s.env e.t with
    | none => .fault .noSuchInstance
    | some e => .next (settle s e c 1 [(xd, bad.setWidth 32)])

/-- The banks of a bank core. -/
def banksOf (bc : Nat) : List Nat := (List.range 16).map (fun b => bc * 16 + b)

/-- `selftest` of a bank core (R357): it waits for each bank's ticket; which banks fail is a free value. -/
def execSelftestBank (c : Ctl) (xd xa : Reg) (s : State) : Outcome :=
  firmwareUnit s c 1 fun e =>
  gather s e [xa] [xd] fun s e =>
    let bc := ((e.th.read xa).extractLsb' 0 9).toNat
    if (banksOf bc).any (fun b => (find? s.tickets b).isSome) then s.stall
    else
      let bad := Config.freeWord s.free
      let more := (List.range 16).filter (fun i => bad.getLsbD i && !s.badBanks.contains (bc * 16 + i))
      let s := { s with free := s.free + 1, badBanks := s.badBanks ++ more.map (bc * 16 + ·) }
      match s.env e.t with
      | none => .fault .noSuchInstance
      | some e => .next (settle s e c 1 [(xd, bad &&& 0xFFFF)])

end Sys2Proof.Machine
end

