-- ==== Sys2Proof/Machine/Dispatch.lean ====
section
/-! DEFINITION. The meaning of every instruction and event: one arm for each constructor of Instr. -/

namespace Sys2Proof.Machine

/-- One instruction of the acting thread, or one event, at a state. -/
def exec (i : Instr) (s : State) : Host.Outcome State Fault Refusal :=
  match i with
  | .clauseHeader h => Sys2Proof.Machine.execClauseHeader h s
  | .operandSend t seq r => Sys2Proof.Machine.execOperandSend t seq r s
  | .executeCommand t seq err => Sys2Proof.Machine.execExecuteCommand t seq err s
  | .tallocGrant core lvl => Sys2Proof.Machine.execTallocGrant core lvl s
  | .jobDispatch core job => Sys2Proof.Machine.execJobDispatch core job s
  | .jobRetire core job => Sys2Proof.Machine.execJobRetire core job s
  | .arraySelfTest core failed => Sys2Proof.Machine.execArraySelfTest core failed s
  | .engineFault core job kind => Sys2Proof.Machine.execEngineFault core job kind s
  | .engineFaultResume core job resolved => Sys2Proof.Machine.execEngineFaultResume core job resolved s
  | .medlarActionStart lid act frames => Sys2Proof.Machine.execMedlarActionStart lid act frames s
  | .medlarActionComplete lid act => Sys2Proof.Machine.execMedlarActionComplete lid act s
  | .loadReturn t acc => Sys2Proof.Machine.execLoadReturn t acc s
  | .storePerform t acc => Sys2Proof.Machine.execStorePerform t acc s
  | .publishDeadline core line => Sys2Proof.Machine.execPublishDeadline core line s
  | .cleanDropDeadline core line => Sys2Proof.Machine.execCleanDropDeadline core line s
  | .atomicPerform t acc => Sys2Proof.Machine.execAtomicPerform t acc s
  | .writebackError what addr => Sys2Proof.Machine.execWritebackError what addr s
  | .movedRefusal t acc => Sys2Proof.Machine.execMovedRefusal t acc s
  | .translationRequestCompletion die pasid page result => Sys2Proof.Machine.execTranslationRequestCompletion die pasid page result s
  | .invalidateRequest pasid page count => Sys2Proof.Machine.execInvalidateRequest pasid page count s
  | .prgResponse pasid page success => Sys2Proof.Machine.execPrgResponse pasid page success s
  | .priTimeout pasid page => Sys2Proof.Machine.execPriTimeout pasid page s
  | .rowOperationStart t acc => Sys2Proof.Machine.execRowOperationStart t acc s
  | .rowOperationComplete t acc => Sys2Proof.Machine.execRowOperationComplete t acc s
  | .bankComputeError t acc kind => Sys2Proof.Machine.execBankComputeError t acc kind s
  | .teamResident lid core c0 => Sys2Proof.Machine.execTeamResident lid core c0 s
  | .recordReplication lid lrec asp => Sys2Proof.Machine.execRecordReplication lid lrec asp s
  | .readyReport lid didx ready => Sys2Proof.Machine.execReadyReport lid didx ready s
  | .startGen lid gen => Sys2Proof.Machine.execStartGen lid gen s
  | .abortGen lid gen => Sys2Proof.Machine.execAbortGen lid gen s
  | .preemptionRequest lid prec => Sys2Proof.Machine.execPreemptionRequest lid prec s
  | .queueStop q stop => Sys2Proof.Machine.execQueueStop q stop s
  | .sqtailWrite q v => Sys2Proof.Machine.execSqtailWrite q v s
  | .cqheadWrite q v => Sys2Proof.Machine.execCqheadWrite q v s
  | .registerWrite q off v => Sys2Proof.Machine.execRegisterWrite q off v s
  | .powerWindow watts => Sys2Proof.Machine.execPowerWindow watts s
  | .temperatureLimit die hot => Sys2Proof.Machine.execTemperatureLimit die hot s
  | .remoteAccessTimeout t acc => Sys2Proof.Machine.execRemoteAccessTimeout t acc s
  | .dataLoss root va => Sys2Proof.Machine.execDataLoss root va s
  | .powerOn signed boot => Sys2Proof.Machine.execPowerOn signed boot s
  | .attestationReport nonce => Sys2Proof.Machine.execAttestationReport nonce s
  | .nop c => Sys2Proof.Machine.execNop c s
  | .br c off => Sys2Proof.Machine.execBr c off s
  | .brc c cc w64 xd xa off => Sys2Proof.Machine.execBrc c cc w64 xd xa off s
  | .brg c off => Sys2Proof.Machine.execBrg c off s
  | .jmp c xa => Sys2Proof.Machine.execJmp c xa s
  | .call c off => Sys2Proof.Machine.execCall c off s
  | .callr c xa => Sys2Proof.Machine.execCallr c xa s
  | .ret c => Sys2Proof.Machine.execRet c s
  | .exit c => Sys2Proof.Machine.execExit c s
  | .refill c xd => Sys2Proof.Machine.execRefill c xd s
  | .repack c xa => Sys2Proof.Machine.execRepack c xa s
  | .yld c => Sys2Proof.Machine.execYld c s
  | .trap c imm => Sys2Proof.Machine.execTrap c imm s
  | .brk c => Sys2Proof.Machine.execBrk c s
  | .eret c => Sys2Proof.Machine.execEret c s
  | .shflIdx c xd xa xb => Sys2Proof.Machine.execShflIdx c xd xa xb s
  | .shflUp c xd xa n => Sys2Proof.Machine.execShflUp c xd xa n s
  | .shflDown c xd xa n => Sys2Proof.Machine.execShflDown c xd xa n s
  | .shflXor c xd xa n => Sys2Proof.Machine.execShflXor c xd xa n s
  | .voteAny c xd xa => Sys2Proof.Machine.execVoteAny c xd xa s
  | .voteAll c xd xa => Sys2Proof.Machine.execVoteAll c xd xa s
  | .voteBallot c xd xa => Sys2Proof.Machine.execVoteBallot c xd xa s
  | .reduxAdd c xd xa => Sys2Proof.Machine.execReduxAdd c xd xa s
  | .reduxMin c uns xd xa => Sys2Proof.Machine.execReduxMin c uns xd xa s
  | .reduxMax c uns xd xa => Sys2Proof.Machine.execReduxMax c uns xd xa s
  | .reduxAnd c xd xa => Sys2Proof.Machine.execReduxAnd c xd xa s
  | .reduxOr c xd xa => Sys2Proof.Machine.execReduxOr c xd xa s
  | .reduxFadd c xd xa => Sys2Proof.Machine.execReduxFadd c xd xa s
  | .reduxFmin c xd xa => Sys2Proof.Machine.execReduxFmin c xd xa s
  | .reduxFmax c xd xa => Sys2Proof.Machine.execReduxFmax c xd xa s
  | .meet c => Sys2Proof.Machine.execMeet c s
  | .add c xd xa v => Sys2Proof.Machine.execAdd c xd xa v s
  | .addSat c xd xa v => Sys2Proof.Machine.execAddSat c xd xa v s
  | .sub c xd xa v => Sys2Proof.Machine.execSub c xd xa v s
  | .subSat c xd xa v => Sys2Proof.Machine.execSubSat c xd xa v s
  | .addc c xd xa xb xc => Sys2Proof.Machine.execAddc c xd xa xb xc s
  | .mul c xd xa v => Sys2Proof.Machine.execMul c xd xa v s
  | .mulh c uns xd xa v => Sys2Proof.Machine.execMulh c uns xd xa v s
  | .mad c xd xa xb xc => Sys2Proof.Machine.execMad c xd xa xb xc s
  | .madS64 c xd xa xb xc => Sys2Proof.Machine.execMadS64 c xd xa xb xc s
  | .min c uns xd xa v => Sys2Proof.Machine.execMin c uns xd xa v s
  | .max c uns xd xa v => Sys2Proof.Machine.execMax c uns xd xa v s
  | .abs c xd xa => Sys2Proof.Machine.execAbs c xd xa s
  | .and c xd xa v => Sys2Proof.Machine.execAnd c xd xa v s
  | .or c xd xa v => Sys2Proof.Machine.execOr c xd xa v s
  | .xor c xd xa v => Sys2Proof.Machine.execXor c xd xa v s
  | .andn c xd xa v => Sys2Proof.Machine.execAndn c xd xa v s
  | .not c xd xa => Sys2Proof.Machine.execNot c xd xa s
  | .shl c w64 xd xa v => Sys2Proof.Machine.execShl c w64 xd xa v s
  | .shr c w64 xd xa v => Sys2Proof.Machine.execShr c w64 xd xa v s
  | .sar c w64 xd xa v => Sys2Proof.Machine.execSar c w64 xd xa v s
  | .rol c w64 xd xa v => Sys2Proof.Machine.execRol c w64 xd xa v s
  | .clz c w64 xd xa => Sys2Proof.Machine.execClz c w64 xd xa s
  | .popc c w64 xd xa => Sys2Proof.Machine.execPopc c w64 xd xa s
  | .brev c w64 xd xa => Sys2Proof.Machine.execBrev c w64 xd xa s
  | .bfe c uns xd xa v => Sys2Proof.Machine.execBfe c uns xd xa v s
  | .bfi c xd xa xb xc => Sys2Proof.Machine.execBfi c xd xa xb xc s
  | .prmt c xd xa xb xc => Sys2Proof.Machine.execPrmt c xd xa xb xc s
  | .sel c xd xa xb xc => Sys2Proof.Machine.execSel c xd xa xb xc s
  | .cmp c cc w64 xd xa v => Sys2Proof.Machine.execCmp c cc w64 xd xa v s
  | .add64 c xd xa v => Sys2Proof.Machine.execAdd64 c xd xa v s
  | .lea c xd xa xb sh => Sys2Proof.Machine.execLea c xd xa xb sh s
  | .mov c xd xa => Sys2Proof.Machine.execMov c xd xa s
  | .liB32 c xd imm => Sys2Proof.Machine.execLiB32 c xd imm s
  | .liB64 c xd imm => Sys2Proof.Machine.execLiB64 c xd imm s
  | .fadd c md xd xa v => Sys2Proof.Machine.execFadd c md xd xa v s
  | .fsub c md xd xa v => Sys2Proof.Machine.execFsub c md xd xa v s
  | .fmul c md xd xa v => Sys2Proof.Machine.execFmul c md xd xa v s
  | .ffma c md xd xa xb xc => Sys2Proof.Machine.execFfma c md xd xa xb xc s
  | .fmin c md xd xa v => Sys2Proof.Machine.execFmin c md xd xa v s
  | .fmax c md xd xa v => Sys2Proof.Machine.execFmax c md xd xa v s
  | .fcmp c cc xd xa v => Sys2Proof.Machine.execFcmp c cc xd xa v s
  | .frcp c md xd xa => Sys2Proof.Machine.execFrcp c md xd xa s
  | .frsq c md xd xa => Sys2Proof.Machine.execFrsq c md xd xa s
  | .fsqrt c md xd xa => Sys2Proof.Machine.execFsqrt c md xd xa s
  | .fex2 c md xd xa => Sys2Proof.Machine.execFex2 c md xd xa s
  | .flg2 c md xd xa => Sys2Proof.Machine.execFlg2 c md xd xa s
  | .fcls c xd xa => Sys2Proof.Machine.execFcls c xd xa s
  | .fcvtF32S32 c xd xa => Sys2Proof.Machine.execFcvtF32S32 c xd xa s
  | .fcvtF32B32 c xd xa => Sys2Proof.Machine.execFcvtF32B32 c xd xa s
  | .fcvtS32F32 c xd xa => Sys2Proof.Machine.execFcvtS32F32 c xd xa s
  | .fcvtB32F32 c xd xa => Sys2Proof.Machine.execFcvtB32F32 c xd xa s
  | .fcvtF32Fs c fs xd xa => Sys2Proof.Machine.execFcvtF32Fs c fs xd xa s
  | .fcvtFsF32 c fs xd xa => Sys2Proof.Machine.execFcvtFsF32 c fs xd xa s
  | .fcvtFsF32Sat c fs xd xa => Sys2Proof.Machine.execFcvtFsF32Sat c fs xd xa s
  | .fcvtBf16x2F32 c xd xa xb => Sys2Proof.Machine.execFcvtBf16x2F32 c xd xa xb s
  | .fcvtBf16x2F32Sat c xd xa xb => Sys2Proof.Machine.execFcvtBf16x2F32Sat c xd xa xb s
  | .fcvtF32Bf16 c xd xa hi => Sys2Proof.Machine.execFcvtF32Bf16 c xd xa hi s
  | .fadd2Bf16 c md xd xa xb => Sys2Proof.Machine.execFadd2Bf16 c md xd xa xb s
  | .fmul2Bf16 c md xd xa xb => Sys2Proof.Machine.execFmul2Bf16 c md xd xa xb s
  | .ffma2Bf16 c md xd xa xb xc => Sys2Proof.Machine.execFfma2Bf16 c md xd xa xb xc s
  | .place c b pl => Sys2Proof.Machine.execPlace c b pl s
  | .reloc c b pl => Sys2Proof.Machine.execReloc c b pl s
  | .anch c an xa => Sys2Proof.Machine.execAnch c an xa s
  | .xacq c => Sys2Proof.Machine.execXacq c s
  | .xrel c => Sys2Proof.Machine.execXrel c s
  | .ixld c xd xa imm => Sys2Proof.Machine.execIxld c xd xa imm s
  | .ixst c xa xb imm => Sys2Proof.Machine.execIxst c xa xb imm s
  | .rds c xd sr => Sys2Proof.Machine.execRds c xd sr s
  | .wrs c sr xa => Sys2Proof.Machine.execWrs c sr xa s
  | .ld c sz xd xa off => Sys2Proof.Machine.execLd c sz xd xa off s
  | .ldc c sz n xd xa off => Sys2Proof.Machine.execLdc c sz n xd xa off s
  | .st c sz xa xb off => Sys2Proof.Machine.execSt c sz xa xb off s
  | .atomAdd c pl w64 xd xa xb => Sys2Proof.Machine.execAtomAdd c pl w64 xd xa xb s
  | .atomMin c uns pl w64 xd xa xb => Sys2Proof.Machine.execAtomMin c uns pl w64 xd xa xb s
  | .atomMax c uns pl w64 xd xa xb => Sys2Proof.Machine.execAtomMax c uns pl w64 xd xa xb s
  | .atomAnd c pl w64 xd xa xb => Sys2Proof.Machine.execAtomAnd c pl w64 xd xa xb s
  | .atomOr c pl w64 xd xa xb => Sys2Proof.Machine.execAtomOr c pl w64 xd xa xb s
  | .atomXor c pl w64 xd xa xb => Sys2Proof.Machine.execAtomXor c pl w64 xd xa xb s
  | .atomXchg c pl w64 xd xa xb => Sys2Proof.Machine.execAtomXchg c pl w64 xd xa xb s
  | .atomFadd c pl xd xa xb => Sys2Proof.Machine.execAtomFadd c pl xd xa xb s
  | .cas c pl w64 xd xa xb xc => Sys2Proof.Machine.execCas c pl w64 xd xa xb xc s
  | .acq c => Sys2Proof.Machine.execAcq c s
  | .rel c => Sys2Proof.Machine.execRel c s
  | .fence c => Sys2Proof.Machine.execFence c s
  | .cclean c xa xb off => Sys2Proof.Machine.execCclean c xa xb off s
  | .cinval c xa xb off => Sys2Proof.Machine.execCinval c xa xb off s
  | .pref c xa xb off => Sys2Proof.Machine.execPref c xa xb off s
  | .talloc c lvlS hd xv => Sys2Proof.Machine.execTalloc c lvlS hd xv s
  | .tfree c hd => Sys2Proof.Machine.execTfree c hd s
  | .tmap c hd xa xv => Sys2Proof.Machine.execTmap c hd xa xv s
  | .tcopy c hd ha xr xo => Sys2Proof.Machine.execTcopy c hd ha xr xo s
  | .tld c xd ha xc => Sys2Proof.Machine.execTld c xd ha xc s
  | .tst c ha xc xb => Sys2Proof.Machine.execTst c ha xc xb s
  | .tfill c hd xr xb => Sys2Proof.Machine.execTfill c hd xr xb s
  | .tadd c hd ha hb => Sys2Proof.Machine.execTadd c hd ha hb s
  | .tmul c hd ha hb => Sys2Proof.Machine.execTmul c hd ha hb s
  | .tfma c hd ha hb => Sys2Proof.Machine.execTfma c hd ha hb s
  | .tcvt c sat fs hd ha => Sys2Proof.Machine.execTcvt c sat fs hd ha s
  | .tredAdd c axis hd ha => Sys2Proof.Machine.execTredAdd c axis hd ha s
  | .tredMax c axis hd ha => Sys2Proof.Machine.execTredMax c axis hd ha s
  | .tredMin c axis hd ha => Sys2Proof.Machine.execTredMin c axis hd ha s
  | .ttr c hd ha => Sys2Proof.Machine.execTtr c hd ha s
  | .mplane c fs hd ha hs => Sys2Proof.Machine.execMplane c fs hd ha hs s
  | .mma c hc ha hb => Sys2Proof.Machine.execMma c hc ha hb s
  | .mmas c hc ha hb xm => Sys2Proof.Machine.execMmas c hc ha hb xm s
  | .gmm c hc ha hb xp => Sys2Proof.Machine.execGmm c hc ha hb xp s
  | .mdrain c fs z en prg hd hc xo => Sys2Proof.Machine.execMdrain c fs z en prg hd hc xo s
  | .mzero c hc => Sys2Proof.Machine.execMzero c hc s
  | .epild c n xa => Sys2Proof.Machine.execEpild c n xa s
  | .fbind c fs hd xa xv => Sys2Proof.Machine.execFbind c fs hd xa xv s
  | .fget c xd hf xc => Sys2Proof.Machine.execFget c xd hf xc s
  | .fgett c hd hf hi xq => Sys2Proof.Machine.execFgett c hd hf hi xq s
  | .ksort c o32 hp hk hc xs => Sys2Proof.Machine.execKsort c o32 hp hk hc xs s
  | .kpack c hv hs hb xs => Sys2Proof.Machine.execKpack c hv hs hb xs s
  | .wtake c xd => Sys2Proof.Machine.execWtake c xd s
  | .wfix c xd hc xp => Sys2Proof.Machine.execWfix c xd hc xp s
  | .qpush c q xa => Sys2Proof.Machine.execQpush c q xa s
  | .qpop c xd q => Sys2Proof.Machine.execQpop c xd q s
  | .qpopAny c xd => Sys2Proof.Machine.execQpopAny c xd s
  | .bari c b cnt => Sys2Proof.Machine.execBari c b cnt s
  | .barr c xd b => Sys2Proof.Machine.execBarr c xd b s
  | .barw c b xb => Sys2Proof.Machine.execBarw c b xb s
  | .bars c b => Sys2Proof.Machine.execBars c b s
  | .gset c cc fp gd xa xb => Sys2Proof.Machine.execGset c cc fp gd xa xb s
  | .gres c gd xa => Sys2Proof.Machine.execGres c gd xa s
  | .gresOpen c gd => Sys2Proof.Machine.execGresOpen c gd s
  | .gwait c xd ga => Sys2Proof.Machine.execGwait c xd ga s
  | .fwait c mask => Sys2Proof.Machine.execFwait c mask s
  | .lease c n => Sys2Proof.Machine.execLease c n s
  | .rowmaj c xd xa xb xc => Sys2Proof.Machine.execRowmaj c xd xa xb xc s
  | .rowand c xd xa xb => Sys2Proof.Machine.execRowand c xd xa xb s
  | .rowor c xd xa xb => Sys2Proof.Machine.execRowor c xd xa xb s
  | .rownot c xd xa => Sys2Proof.Machine.execRownot c xd xa s
  | .rowcp c xd xa => Sys2Proof.Machine.execRowcp c xd xa s
  | .bkfence c => Sys2Proof.Machine.execBkfence c s
  | .ctxsave c xd xa xb => Sys2Proof.Machine.execCtxsave c xd xa xb s
  | .ctxsaveTeam c xd xa xb xc => Sys2Proof.Machine.execCtxsaveTeam c xd xa xb xc s
  | .ctxload c xd xa => Sys2Proof.Machine.execCtxload c xd xa s
  | .ctxloadTeam c xd xa xc => Sys2Proof.Machine.execCtxloadTeam c xd xa xc s
  | .tinvUnmap c xa xb => Sys2Proof.Machine.execTinvUnmap c xa xb s
  | .tinvDowngrade c xa xb => Sys2Proof.Machine.execTinvDowngrade c xa xb s
  | .tinvUnmapAll c xb => Sys2Proof.Machine.execTinvUnmapAll c xb s
  | .selftestArray c xd xa => Sys2Proof.Machine.execSelftestArray c xd xa s
  | .selftestBank c xd xa => Sys2Proof.Machine.execSelftestBank c xd xa s
  | .pairAdd d o => Sys2Proof.Machine.execPairAdd d o s
  | .pairSub d o => Sys2Proof.Machine.execPairSub d o s
  | .pairAnd d o => Sys2Proof.Machine.execPairAnd d o s
  | .pairOr d o => Sys2Proof.Machine.execPairOr d o s
  | .pairXor d o => Sys2Proof.Machine.execPairXor d o s
  | .pairShl d o => Sys2Proof.Machine.execPairShl d o s
  | .pairShr d o => Sys2Proof.Machine.execPairShr d o s
  | .pairSar d o => Sys2Proof.Machine.execPairSar d o s
  | .pairMinS32 d o => Sys2Proof.Machine.execPairMinS32 d o s
  | .pairMinB32 d o => Sys2Proof.Machine.execPairMinB32 d o s
  | .pairMaxS32 d o => Sys2Proof.Machine.execPairMaxS32 d o s
  | .pairMaxB32 d o => Sys2Proof.Machine.execPairMaxB32 d o s
  | .pairMov d o => Sys2Proof.Machine.execPairMov d o s
  | .pairFadd d o => Sys2Proof.Machine.execPairFadd d o s
  | .pairFmul d o => Sys2Proof.Machine.execPairFmul d o s
  | .pairFmin d o => Sys2Proof.Machine.execPairFmin d o s
  | .pairFmax d o => Sys2Proof.Machine.execPairFmax d o s
  | .remoteOrHostAccessArrival at_ pa write size => Sys2Proof.Machine.execRemoteOrHostAccessArrival at_ pa write size s
  | .queuePairGrant q asp => Sys2Proof.Machine.execQueuePairGrant q asp s
  | .firmwareLaunchStart num lrec asp => Sys2Proof.Machine.execFirmwareLaunchStart num lrec asp s
  | .escalatedTeamEnd team saved => Sys2Proof.Machine.execEscalatedTeamEnd team saved s
  | .recoveryFirmwareLoad signed digest => Sys2Proof.Machine.execRecoveryFirmwareLoad signed digest s
  | .maintenanceCompletion t acc => Sys2Proof.Machine.execMaintenanceCompletion t acc s
  | .prefCompletion t acc => Sys2Proof.Machine.execPrefCompletion t acc s
  | .starvation => Sys2Proof.Machine.execStarvation s
  | .yieldExclusionEnd => Sys2Proof.Machine.execYieldExclusionEnd s
  | .unitCommit => Sys2Proof.Machine.execUnitCommit s
  | .trapRollback => Sys2Proof.Machine.execTrapRollback s
  | .meetComplete => Sys2Proof.Machine.execMeetComplete s
  | .tallocTimeout => Sys2Proof.Machine.execTallocTimeout s
  | .leaseEvaluation => Sys2Proof.Machine.execLeaseEvaluation s
  | .leaseQuietDecay => Sys2Proof.Machine.execLeaseQuietDecay s
  | .parkedTimeExpiry => Sys2Proof.Machine.execParkedTimeExpiry s
  | .protectionEnd => Sys2Proof.Machine.execProtectionEnd s
  | .publicationRequest => Sys2Proof.Machine.execPublicationRequest s
  | .publicationReply => Sys2Proof.Machine.execPublicationReply s
  | .revocation => Sys2Proof.Machine.execRevocation s
  | .registryRecall => Sys2Proof.Machine.execRegistryRecall s
  | .reclassification => Sys2Proof.Machine.execReclassification s
  | .pageWalk => Sys2Proof.Machine.execPageWalk s
  | .launchEnd => Sys2Proof.Machine.execLaunchEnd s
  | .readyDeadlineExpiry => Sys2Proof.Machine.execReadyDeadlineExpiry s
  | .preemptionDeadline => Sys2Proof.Machine.execPreemptionDeadline s
  | .submissionConsume => Sys2Proof.Machine.execSubmissionConsume s
  | .completionRecordWrite => Sys2Proof.Machine.execCompletionRecordWrite s
  | .queueEnable => Sys2Proof.Machine.execQueueEnable s
  | .errClear => Sys2Proof.Machine.execErrClear s
  | .portDown => Sys2Proof.Machine.execPortDown s
  | .pairPnop => Sys2Proof.Machine.execPairPnop s
  | .deviceReset => Sys2Proof.Machine.execDeviceReset s
  | .flitError => Sys2Proof.Machine.execFlitError s

end Sys2Proof.Machine
end

