-- ==== Sys2Proof/Machine/Front.lean ====
section
/-! DEFINITION. The fetch front end and the picker (R32 to R37, R60 to R68): what stands next for a
thread, running it, the issue set of a cluster, and the device's events that come about by themselves. -/

namespace Sys2Proof.Machine

/-! What stands next for a thread (R16, R32 to R37, R63). -/

/-- The opcode and the D and A fields of a full instruction (R17); the permanently undefined 0xFF for none. -/
def opDA (i : Instr) : Nat × BitVec 8 × BitVec 8 :=
  match i.toFields with
  | some (f, _) => (f.op.toNat, f.d, f.a)
  | none => (0xFF, 0, 0)

/-- The control transfers (R32, R42): opcodes 0x01 (`br`) to 0x09 (`refill`) and 0x0E (`eret`). -/
def isTransfer (i : Instr) : Bool :=
  let op := (opDA i).1
  (1 ≤ op && op ≤ 9) || op == 0x0E

/-- Whether a full instruction counts on a completion flag (R24, R30). -/
def isLong (i : Instr) : Bool := match i.uses with | some u => u.long | none => false

/-- The structure of a clause at a unit of n words (R32, R33): a control transfer is its last word, `refill`
(opcode 0x09) needs R = 1, and MOD[8] selects a SET that is valid. -/
def structureOk (c : Ctx) (i : Instr) (n : Nat) : Bool :=
  (!isTransfer i || c.crem == n)
    && ((opDA i).1 != 9 || c.clause.r)
    && (!isLong i || (c.clause.flag i.ctl.fl).isSome)

/-- A word's kind (R16). -/
def kindOf (w : DWord) : Nat := (w.extractLsb' 62 2).toNat

/-- The trap "undefined encoding" for a word (R37, R343): for a pair word the first slot that breaks a rule,
slot 0 where the two slots' destinations clash (log 13). -/
def trapWord (w : DWord) (reason : Nat) : TrapInfo :=
  if kindOf w == 1 then
    (trapUndef reason).atSlot (if (decodeSlot (w.extractLsb' 31 31)).isSome && (decodeSlot (w.extractLsb' 0 31)).isNone then 2 else 1)
  else trapUndef reason

/-- The unit or header that a word begins for a thread, `next` its next word in the clause: the lowest reason
applies (R37). A word that is no header where a clause ends is broken structure (R32). -/
def readUnit (c : Ctx) (w : DWord) (next : Option DWord) : Except TrapInfo Decoded :=
  let n := if kindOf w == 3 then 2 else 1
  match decodeWord w next with
  | .ok (.header h) => .ok (.header h)
  | .ok (.one i n) => if c.crem == 0 || !structureOk c i n then .error (trapUndef 6) else .ok (.one i n)
  | .ok (.pair i0 i1) => if c.crem == 0 then .error (trapWord w 6) else .ok (.pair i0 i1)
  | .error e =>
    let broken := c.crem == 0 || (match e.cand with | some i => !structureOk c i n | none => false)
    .error (trapWord w (if broken then min e.reason 6 else e.reason))

/-- What stands next for a thread: a unit or a header with the state after its fetch, a trap, a wait for a
translation, or a hole of the address space. -/
inductive Next where
  | run (s : State) (d : Decoded)
  | trap (ti : TrapInfo)
  | wait (s : State)
  | hole

/-- A word read as the thread's next unit. -/
def Next.ofRead (s : State) : Except TrapInfo Decoded → Next
  | .ok d => .run s d
  | .error ti => .trap ti

/-- The thread of a restored context with its clause, which its record does not keep, read again at the clause's
header (R353, R355; DEDUCED, log 61); or what reading it comes to. -/
inductive Refreshed where
  | ok (s : State) (e : Env)
  | stop (n : Next)

/-- A clause found for a thread, with the words left where its record does not count them. -/
def Thread.atClause (th : Thread) (c : Clause) (left : Nat) : Thread :=
  { th with stale := false, ctx := { th.ctx with clause := c, crem := if th.ctx.crem ≤ 63 then th.ctx.crem else left } }

/-- The clause at the thread's PC, read again where that is still to be done. -/
def refreshed (s : State) (e : Env) : Refreshed :=
  let found (c : Clause) (left : Nat) : Refreshed :=
    let th := e.th.atClause c left
    .ok (s.setThread e.t th) { e with th := th }
  if !e.th.stale then .ok s e
  else match clauseAt s e e.th.ctx.pc with
  | .found c left => found c left
  | .absent => found Clause.empty 0
  | .unread a =>
    match fetchWord s e a with
    | .trap ti => .stop (.trap ti)
    | .wait s => .stop (.wait s)
    | .hole => .stop .hole
    | .ok s _ => .stop (.wait s)

/-- The words of a thread's next unit fetched and decoded (R16, R33, R334). A literal takes the next word of
its clause with it. -/
def nextUnit (s : State) (e : Env) : Next :=
  match refreshed s e with
  | .stop n => n
  | .ok s e =>
  let c := e.th.ctx
  match fetchWord s e c.pc with
  | .trap ti => .trap ti
  | .wait s => .wait s
  | .hole => .hole
  | .ok s w =>
    if kindOf w == 3 && 2 ≤ c.crem then
      match fetchWord s e (c.pc + 8) with
      | .trap ti => .trap ti
      | .wait s => .wait s
      | .hole => .hole
      | .ok s w2 => Next.ofRead s (readUnit c w (some w2))
    else Next.ofRead s (readUnit c w none)

/-! Running it. -/

/-- A decoded unit or header at a state whose acting thread it belongs to. The slots of a pair word run one
after the other in one step (R26). -/
def runDecoded (d : Decoded) (s : State) : Outcome :=
  match d with
  | .header h => exec (.clauseHeader h) s
  | .one i _ => exec i s
  | .pair i0 i1 =>
    match exec i0 s with
    | .next s' => if s'.pair.isSome then exec i1 s' else .next s'
    | r => r

/-- A thread that takes nothing further now: it has exited, a unit of it traps, it holds a pending trap outside a
handler (R345), or it waits (R60). -/
def Thread.held (th : Thread) : Bool :=
  th.exited || th.window.any (fun u => u.trap.isSome) || (th.pendTrap.isSome && !th.inh)
    || (match th.wait with | .none | .fence _ _ | .flush _ => false | _ => true)

/-- A trap found while a unit is fetched or decoded: it enters the window as the unit would (R114). -/
def trapNext (s : State) (e : Env) (ti : TrapInfo) : Outcome :=
  if e.th.blocked { lane := false } then s.stall
  else match e.th.param with
  | some _ => .next (paramTrap s (teamKey e.t))
  | none => .next (raiseTrap s e.t ti)

/-- The next unit or header of a thread. -/
def runThread (s : State) (t : Nat) : Outcome :=
  let s := { s with cur := t }
  match s.env t with
  | none => .fault .noSuchInstance
  | some e =>
    if e.th.held then s.stall
    else match nextUnit s e with
    | .trap ti => trapNext s e ti
    | .wait s => .next s
    | .hole => .fault .physicalHole
    | .run s d => runDecoded d s

/-- A state before a unit or an event runs. -/
def State.fresh (s : State) : State := { s with stalled := false, pair := none }

/-! Readiness (R60). -/

/-- Whether a halted team lets a thread issue (R345, R348, R352): only the thread in its handler, after the clk of
the halt (R346), and none while the team is saved. -/
def Env.mayIssue (e : Env) (clk : Nat) : Bool :=
  !e.tm.saving && (!e.tm.halted || (e.tm.trapTid == some (tTid e.t) && e.th.inh && !e.tm.escal
    && (match e.tm.late with | some l => l.clk != clk | none => true)))

/-- Whether the thread's group is active (R272); a service core has no leases (R356). -/
def groupActive (s : State) (t : Nat) : Bool :=
  match find? (s.core (tCore t)).leases (gKey t) with
  | some l => l.parked.isNone
  | none => true

/-- Whether a thread is excluded by a yield (R66). -/
def Thread.yields (th : Thread) (clk : Nat) : Bool := match th.yieldEnd with | some c => clk < c | none => false

/-- A thread is ready (R60): not exited, not halted, active, not excluded, past its clause's header, and its
next unit would not wait. -/
def ready (s : State) (t : Nat) : Bool :=
  match s.env t with
  | none => false
  | some e =>
    !e.th.exited && e.mayIssue s.clk && groupActive s t && !e.th.yields s.clk && e.th.ctx.crem != 0
      && (match runThread s.fresh t with | .next s' => !s'.stalled | _ => true)

/-! The issue set (R61, R62). -/

/-- The handle destination of an instruction (R46 to R50): D of `talloc`, `tmap`, `tcopy`, `tfill` to `ttr`,
`mplane` to `mzero`, `fbind`, `fgett`, `ksort` and `kpack`, A of `tst`. `tfree` names a handle in D and writes
none: it counts as an instruction without a destination (DESIGN CHOICE, log 60). -/
def handleDest (i : Instr) : Option (BitVec 8) :=
  let x := opDA i
  let op := x.1
  if op == 0xB0 || op == 0xB2 || op == 0xB3 || (0xB6 ≤ op && op ≤ 0xBC) || (0xC0 ≤ op && op ≤ 0xC5)
      || op == 0xD0 || (0xD2 ≤ op && op ≤ 0xD4) then some x.2.1
  else if op == 0xB5 then some x.2.2
  else none

/-- Instructions with a memory destination (R45, R51, R106, R294): `st`, `atom`, `cas` and the row operations. -/
def memoryDest (i : Instr) : Bool :=
  let op := (opDA i).1
  (0x92 ≤ op && op ≤ 0x94) || (0xF0 ≤ op && op ≤ 0xF4)

/-- DestPlace (R62) as a number: a place-map code for a register destination, 16 and the level for a handle,
20 for memory, 0 (lane) where there is none. -/
def destPlace (e : Env) (d : Decoded) : Nat :=
  match d with
  | .one i _ =>
    match handleDest i with
    | some h => 16 + ((find? e.tm.handles h.toNat).elim 0 (fun x => x.lvl.toNat))
    | none =>
      if memoryDest i then 20
      else if (match i.uses with | some u => u.kill | none => false) then
        (codeOfBlock e.th.ctx.pmap (blockOf (opDA i).2.1)).toNat
      else 0
  | _ => 0

/-- A candidate of an issue set: the thread with what R62 compares. -/
structure Cand where
  t       : Nat
  depth   : Nat
  pc      : Nat
  dest    : Nat
  key     : Word
  age     : Nat
  starved : Option Nat
  deriving DecidableEq, Repr

/-- The candidate that a ready thread is. -/
def candOf (s : State) (t : Nat) : Option Cand :=
  match s.env t with
  | none => none
  | some e =>
    let dest := match nextUnit s e with | .run _ d => destPlace e d | _ => 0
    some ⟨t, e.th.ctx.depth, e.th.ctx.pc.toNat, dest, e.th.ctx.key, e.th.age, e.th.starved⟩

/-- Whether a priority key ranks before another (R61). -/
def Cand.ahead (a b : Cand) : Bool := b.depth < a.depth || (a.depth == b.depth && a.pc < b.pc)

/-- The same priority key. -/
def Cand.sameKey (a b : Cand) : Bool := a.depth == b.depth && a.pc == b.pc

/-- The order of ties (R62): lowest GRP, then TEAM slot, then LANE. -/
def Cand.tie (a : Cand) : Nat := tGrp a.t * 128 + tSlot a.t * 32 + tLane a.t

/-- The first element of a list that no other one beats. -/
def best {α : Type} (better : α → α → Bool) : List α → Option α
  | [] => none
  | x :: xs => match best better xs with
    | none => some x
    | some y => if better y x then some y else some x

/-- The earlier starved of two starved candidates (R62, R67). -/
def Cand.starvedFirst (a b : Cand) : Bool :=
  let x := a.starved.getD 0; let y := b.starved.getD 0
  x < y || (x == y && a.tie < b.tie)

/-- The candidates in the instruction buffer: those of the 16 highest keys (R61). -/
def inBuffer (cs : List Cand) (c : Cand) : Bool :=
  (((cs.filter (fun x => x.ahead c)).map (fun x => (x.depth, x.pc))).dedup).length < 16

/-- The reference thread (R62, R67). -/
def refOf (cand : List Cand) : Option Cand :=
  match best Cand.starvedFirst (cand.filter (·.starved.isSome)) with
  | some c => some c
  | none => best (fun a b => a.ahead b || (a.sameKey b && (b.age < a.age || (a.age == b.age && a.tie < b.tie)))) cand

/-- The thread that an issue set takes at a lane (R62): the same PC, DEPTH and DestPlace as the reference; equal
repack key first, then greatest Age, then lowest GRP. The model's own choices (DESIGN CHOICE, log 60): of two
threads that are still equal it takes the one in the lowest TEAM slot, and the repack key goes before starvation
(R67) where a starved and another thread stand at one lane. -/
def memberAt (ref : Cand) (cand : List Cand) (lane : Nat) : Option Cand :=
  best (fun a b =>
      let ka := a.key == ref.key; let kb := b.key == ref.key
      (ka && !kb) || (ka == kb && (b.age < a.age || (a.age == b.age && a.tie < b.tie))))
    (cand.filter (fun c => tLane c.t == lane && c.sameKey ref && c.dest == ref.dest))

/-- The issue set of ready candidates, in ascending lane (R62). -/
def issueSetOf (cs : List Cand) : List Nat :=
  let buffer := cs.filter (inBuffer cs)
  let cand := match best Cand.starvedFirst (cs.filter (·.starved.isSome)) with
    | some c => buffer ++ cs.filter (fun x => x.sameKey c && !inBuffer cs x)
    | none => buffer
  match refOf cand with
  | none => []
  | some ref => (List.range 32).filterMap (fun lane =>
      if lane == tLane ref.t then some ref.t else (memberAt ref cand lane).map (·.t))

/-- The threads of a cluster of a core. -/
def clusterThreads (s : State) (core cluster : Nat) : List Nat :=
  (s.threads.map (·.1)).filter (fun t => tCore t == core &&
    (match s.team? (teamKey t) with | some tm => clusterOf tm (tGrp t) == cluster | none => false))

/-- A thread of the cluster after a selection (R62, R66): a selected one has Age 0 and is not starved; one
that was ready ages; an issue set without the thread ends its exclusion. -/
def afterPick (set rdy : List Nat) (t : Nat) (th : Thread) : Thread :=
  if set.contains t then { th with age := 0, starved := none }
  else { th with
    age := if rdy.contains t then th.age + 1 else th.age
    yieldEnd := if set.isEmpty then th.yieldEnd else none }

/-- The guard that a thread's next unit reads when the thread reaches it (R198): its value once it is not Open. -/
def noteGuard (s : State) (t : Nat) : State :=
  match s.env t with
  | none => s
  | some e =>
    if e.th.gread.isSome || e.th.ctx.crem == 0 then s
    else match nextUnit s e with
    | .run _ (.one i _) =>
      let g := i.ctl.g
      if g == 0 || e.guard g.toNat == 2 then s
      else s.setThread t { e.th with gread := some (e.guard g.toNat == 1) }
    | _ => s

/-- The order in which the threads of an issue set act: ascending LANE, and for `xacq` the group of the lower slot
first (R117). -/
def actOrder (s : State) (set : List Nat) : List Nat :=
  match set with
  | [] => []
  | t :: _ =>
    match (s.env t).map (nextUnit s) with
    | some (.run _ (.one (.xacq _) _)) =>
      let k := s.core (tCore t)
      let low (t : Nat) : Bool := (slotOf k (gKey t)).getD 0 % 2 == 0
      set.filter low ++ set.filter (fun t => !low t)
    | _ => set

/-- A clause header that a thread has reached (R63); any other word there is an undefined encoding. -/
def frontEnd (s : State) (t : Nat) : Outcome :=
  match s.env t with
  | none => .next s
  | some e =>
    if !e.mayIssue s.clk then .next s
    else match refreshed s e with
    | .stop _ => .next s
    | .ok s e => if e.th.ctx.crem == 0 then runThread s t else .next s

/-- A thread of a cluster before the picker looks at it: its completed units have committed (R112), and it has passed
the header that it has reached where that waits for nothing (R63). -/
def comeUp (s : State) (t : Nat) : State :=
  let s := commitAll s t 8
  match frontEnd s.fresh t with
  | .next s' => if s'.stalled then s else s'
  | _ => s

/-- The issue set of a cluster is formed, at most one in a clk (R62), the clusters of a clk in ascending order
(R252, R406): its threads are the next to run. Every thread of the cluster that can has come up first, so that no order
of events holds back one of the threads that stand alike (R61, R392, R401; DEDUCED, log 1), and each reads the guard of
its next unit before any of them acts (R198). -/
def formSet (s : State) (core cluster : Nat) : State :=
  if s.issued.any (fun x => cluster < x.2 || x == (core, cluster)) then s
  else
    let all := clusterThreads s core cluster
    let s := all.foldl comeUp s
    let rdy := all.filter (ready s)
    let set := if withheld s core then [] else issueSetOf (rdy.filterMap (candOf s))
    let s := all.foldl (fun s t => s.modThread t (afterPick set rdy t)) s
    let s := all.foldl noteGuard s
    { s with issueQ := actOrder s set, issueSet := set, issued := s.issued ++ [(core, cluster)] }

/-- Whether a sibling's next unit may issue in its skid (R345): one that would wait for another party does not. -/
def skids (s : State) (t : Nat) : Bool :=
  match runThread s.fresh t, s.thread? t with
  | .next s', some th =>
    !s'.stalled && th.ctx.crem != 0 && (match s'.thread? t with
      | some th' => (match th'.wait with | .none | .barrier _ _ => true | _ => false) && (th'.xreq.isNone || th.xreq.isSome)
      | none => true)
  | _, _ => false

/-- A sibling's skid (R345): at most 16 units of a thread of a halted team that is not the trapping one. A clause
header is no unit (R34). -/
def startSkid (s : State) (t : Nat) : State :=
  match s.env t with
  | none => s
  | some e =>
    if e.tm.halted && e.tm.trapTid != some (tTid t) && e.th.skid < 16 && skids s t then
      { s.setThread t { e.th with skid := e.th.skid + 1 } with issueQ := [t], issueSet := [t] }
    else s

/-- A core at the end of a clk: measured leases grow quieter (R270), lines whose count has run out go (R265), and a
barrier condition that no longer holds is forgotten (R272). -/
def coreTick (s : State) (k : Core) : Core :=
  let quiet (x : Nat × Lease) : Nat × Lease :=
    if x.2.measured then (x.1, { x.2 with quiet := x.2.quiet + 1 }) else x
  barrierOver s { k with leases := k.leases.map quiet, l1 := k.l1.filter (fun l => !l.2.drop) }

/-- The accesses of a thread whose request to another module leaves in this clk (R371). -/
def sendRemote (s : State) (t : Nat) (th : Thread) : Thread :=
  if !th.accs.any (fun a => a.sent.isNone && a.phys.any (fun p => p.tgt == 2)) then th
  else match s.env t with
  | none => th
  | some e => { th with accs := th.accs.map (fun a => if a.sent.isNone && a.onWay e then { a with sent := some s.clk } else a) }

/-- The end of a clk; none passes while a line is overdue for publication or for dropping (R292), or the lease unit of a
core has something due (R270, R272). -/
def tick (s : State) : State :=
  if lineOverdue s || s.cores.any (fun k => leaseDue s k.2) then s
  else { s with
    clk := s.clk + 1, issued := []
    threads := s.threads.map (fun x => (x.1, sendRemote s x.1 x.2))
    cores := s.cores.map (fun k => (k.1, coreTick s k.2)) }

/-! The events that come about by themselves (log 1). -/

/-- Events of one subject. -/
def dues (subject : Nat) (is : List Instr) : List Move := is.map (Move.due subject)

/-- The events of a unit of a window. -/
def unitEvents (t : Nat) (u : WUnit) : List Instr :=
  Instr.executeCommand t u.seq false :: u.sends.map (Instr.operandSend t u.seq)

/-- The events of an access. -/
def accessEvents (t : Nat) (a : Access) : List Instr :=
  let own : List Instr := match a.kind with
    | .load _ _ | .loadc _ _ | .fget _ _ _ _ | .tld _ _ _ => [Instr.loadReturn t a.id]
    | .store | .push | .tst _ _ => [Instr.storePerform t a.id]
    | .atom _ _ _ | .cas _ _ _ => [Instr.atomicPerform t a.id]
    | .cclean | .cinval => [Instr.maintenanceCompletion t a.id]
    | .pref => [Instr.prefCompletion t a.id]
    | .rowop _ _ => [Instr.rowOperationStart t a.id, Instr.rowOperationComplete t a.id]
  own ++ [Instr.movedRefusal t a.id, Instr.remoteAccessTimeout t a.id]

/-- The events of a thread: those that its units and accesses wait for, commit, rollback and its timeouts. -/
def threadEvents (t : Nat) (th : Thread) : List Move :=
  dues t (th.window.flatMap (unitEvents t) ++ (th.arriving.getD []).map (Instr.operandSend t th.nextSeq) ++ th.accs.flatMap (accessEvents t)
    ++ [Instr.unitCommit, Instr.trapRollback, Instr.starvation, Instr.yieldExclusionEnd, Instr.tallocTimeout
        , Instr.pageWalk])

/-- What firmware does by itself with a suspended job (R347): it resumes one whose cause is resolved, its pages mapped
again or a band of the array in service, and traps the team of a launch under pre-emption. -/
def resumeEvents (s : State) (c : Nat) (j : Job) (kind : BitVec 4) : List Instr :=
  match s.env j.thread with
  | none => []
  | some e =>
    let good := kind != 2 && (kind != 3 || coreWidth s c != 0) && (match j.pages s e with | .ok => true | _ => false)
    if good then [Instr.engineFaultResume c j.id true]
    else if e.la.preempt.isSome && !e.tm.halted then [Instr.engineFaultResume c j.id false]
    else []

/-- The events of a job. -/
def jobEvents (s : State) (c : Nat) (j : Job) : List Instr :=
  (match j.state with | .suspended kind => resumeEvents s c j kind | _ => [])
    ++ [Instr.jobDispatch c j.id, Instr.jobRetire c j.id]

/-- The events of a line of a shared page. -/
def lineEvents (c : Nat) (l : Nat × L1Line) : List Instr :=
  if l.2.shared then [Instr.publishDeadline c l.1, Instr.cleanDropDeadline c l.1] else []

/-- The events of a core, its engines, its array's self-test, which passes (R221), its allocators, its lines and its
groups. -/
def coreEvents (s : State) (c : Nat) (k : Core) : List Move :=
  dues c (k.jobs.flatMap (jobEvents s c) ++ [Instr.arraySelfTest c 0] ++ ([0, 1, 2, 3] : List (BitVec 2)).map (Instr.tallocGrant c)
      ++ k.l1.flatMap (lineEvents c))
    ++ k.leases.flatMap (fun l =>
      dues l.1 [Instr.leaseQuietDecay, Instr.parkedTimeExpiry, Instr.protectionEnd, Instr.meetComplete])
    ++ dues c [Instr.leaseEvaluation]

/-- A team of a launch becomes resident where there is room (R244). -/
def residentEvents (s : State) (lid : Nat) (l : Launch) : List Instr :=
  if l.started && l.nextTeam < l.nteam then
    (s.config.cores ++ [256, 257, 258, 259]).flatMap (fun c => (List.range 4).map (Instr.teamResident lid c))
  else []

/-- The frames that the plan gives to pages that move, from the top of the tier that they fill down (log 1): each the
first that shows no use, `from_` counting units of 64 KiB that are left out. -/
def spareFrames (s : State) (used : List (Nat × Nat)) (fetch : Bool) : Nat → List Phys → List Nat
  | _, [] => []
  | from_, p :: ps =>
    let top := if fetch then 384 * 2 ^ 30 else 2 ^ 41
    let frame (k : Nat) : Nat := (top / p.size - 1 - 65536 * from_ / p.size - k) * p.size
    let k := ((List.range 64).find? (fun k => frameClear (frame k) p.size used && frameSpare s (frame k) p.size)).getD 0
    frame k :: spareFrames s used fetch (from_ + (k + 1) * (p.size / 65536)) ps

/-- The frames that the plan gives to an action of a launch. -/
def actFrames (s : State) (lid : Nat) (l : Launch) (a : MedAct) : List Nat :=
  let e := l.timetab.getD a.entry []
  if a.worked || !(ttAct e == 0 || ttAct e == 4) then []
  else match entryPages s l e with
  | .moving | .tell _ => []
  | .ok ps => spareFrames s (framesInUse s) (ttAct e == 0) (65536 * (lid % 64) + 64 * (a.id % 1024)) (movers ps (ttAct e == 0))

/-- The events of a launch; firmware's policy ends an escalated team that it does not save, and one that it has
saved under pre-emption (R349, R358). -/
def launchEvents (s : State) (lid : Nat) (l : Launch) : List Move :=
  let ends : List Instr := if s.config.saveTeam then []
    else (teamsOf s lid).filterMap (fun k => (s.team? k).map (fun tm => Instr.escalatedTeamEnd tm.index false))
  let kept : List Instr := if l.preempt.isNone then []
    else (l.saved.filter (·.2)).map (fun x => Instr.escalatedTeamEnd x.1 true)
  dues lid (residentEvents s lid l
    ++ l.acts.flatMap (fun a => [Instr.medlarActionStart lid a.id (actFrames s lid l a), Instr.medlarActionComplete lid a.id])
    ++ ends ++ kept ++ [Instr.readyDeadlineExpiry, Instr.preemptionDeadline, Instr.launchEnd])

/-- Everything of one clk that the device does of itself (log 1): its events, then the clause headers, then
one issue set for each cluster, then the end of the clk. -/
def clkPlan (s : State) : List Move :=
  s.queues.flatMap (fun q => dues q.1 [Instr.submissionConsume, Instr.completionRecordWrite])
    ++ s.launches.flatMap (fun l => launchEvents s l.1 l.2)
    ++ s.threads.flatMap (fun x => threadEvents x.1 x.2)
    ++ s.cores.flatMap (fun k => coreEvents s k.1 k.2)
    ++ s.revs.flatMap (fun r => dues r.id [Instr.revocation, Instr.registryRecall])
    ++ s.pubs.flatMap (fun p => dues p.id [Instr.publicationRequest, Instr.publicationReply])
    ++ s.reclass.flatMap (fun p => dues p [Instr.reclassification])
    ++ dues 0 (s.ats.map (fun r => Instr.priTimeout r.pasid r.page)
        ++ (s.invs.filter (!·.done)).map (fun v => Instr.invalidateRequest v.pasid v.page v.count))
    ++ s.threads.map (fun x => Move.front x.1)
    ++ (List.range 4).flatMap (fun c => s.cores.map (fun k => Move.issue k.1 c))
    ++ [Move.tick]

/-- An event at its subject. -/
def runEvent (s : State) (subject : Nat) (i : Instr) : Outcome := exec i { s with cur := subject }

/-- An event that comes about if it can: else nothing happens. -/
def runDue (s : State) (subject : Nat) (i : Instr) : State :=
  match runEvent s subject i with
  | .next s' => if s'.stalled then s else s'
  | _ => s

/-- A choice carried out. -/
def runMove (s : State) (m : Move) : Outcome :=
  match m with
  | .ev subject i => runEvent s subject i
  | .due subject i => .next (runDue s subject i)
  | .front t => frontEnd s t
  | .issue core cluster => .next (formSet s core cluster)
  | .skid t => .next (startSkid s t)
  | .tick => .next (tick s)

end Sys2Proof.Machine
end

