-- ==== Sys2Proof/Machine/Bench.lean ====
section
/-! DEFINITION. A program loaded from outside the machine (log 14): one thread of a resident team whose
program counter stands inside a clause at given words. -/

namespace Sys2Proof.Machine

/-- Where the words stand, virtual and physical. -/
def benchPc : Nat := 0x4000

/-- The opcode of the instruction of a unit whose bits are w: after a literal, that of the second word (R17,
R33). -/
def benchOp (w : Nat) : Nat :=
  if w / 2 ^ 62 % 4 = 3 then w / 2 ^ 118 % 256 else w / 2 ^ 54 % 256

/-- The privileged opcodes of firmware (R38): a team of a service core runs them. -/
def benchFirmware (w : Nat) : Bool :=
  w / 2 ^ 62 % 4 != 1 && w / 2 ^ 62 % 4 != 2 && 0xF8 ≤ benchOp w && benchOp w ≤ 0xFB

/-- The core of the thread. -/
def benchCore (w : Nat) : Nat := if benchFirmware w then 256 else 0

/-- The launch record: one team of one group, budget 16, 32 barriers, format code 1 in every slot, a call stack at 0x8000 of depth 8. -/
def benchRecord : List DWord :=
  [0x100000100, 0x4000, 0x201010, 0x8000, 8] ++ List.replicate 26 0 ++ List.replicate 8 1

/-- The launch. -/
def benchLaunch : Launch :=
  { ident := 0, qp := none, sseq := 0, record := benchRecord, stages := [], devs := [], asp := ⟨0, 0x1000, 0⟩
    didx := 0, gen := 0, started := true, startClk := 0, nextTeam := 1, preempt := none, prec := 0
    preempted := false, killed := false, trapped := false, saved := [], anySaved := false, gathered := [], ready := []
    repEnd := none, dist := ⟨none, none, none, [], [], []⟩, timetab := [], ttskip := 0, trig := [], dead := []
    acts := [], status := [], trec := none, ntrap := 0, wqHeads := [] }

/-- The team. -/
def benchTeam (firmware : Bool) : Team :=
  { lid := 0, index := 0, ngrp := 1, c0 := 0, firmware, halted := false, trapTid := none, escal := false, late := none, saving := false, quieting := false
    aua := 0, handles := [], binds := [], guards := 0, status := [], wqHead := 0, nbar := 32, bars := []
    queues := [], trig := [], dead := [] }

/-- The thread: at the words, which are the rest of a clause with R = 1 and flags 0 and 1; at a header, before
it. `eret` (opcode 0x0E) and `ctxsave` and `ctxload` of a thread run in a handler. -/
def benchThread (w : Nat) : Thread :=
  let kind := w / 2 ^ 62 % 4
  { ctx := { Ctx.start (BitVec.ofNat 64 benchPc) with
      crem := if kind = 2 then 0 else if kind = 3 then 2 else 1
      clause := ⟨some 0, some 1, true, false⟩ }
    regs := [], flags := [], fps := 0, tcause := 0, tinfo := 0, epc := 0x4800, ta := 0x4800, taCrem := 0
    taClause := Clause.empty, inh := kind != 1 && (benchOp w = 0x0E || benchFirmware w), pendTrap := none
    exited := false, wait := .none, window := [], nextSeq := 0, accs := [], nextAcc := 0, age := 0
    starved := none, yieldEnd := none, skid := 0, xhold := false, xreq := none, xsave := [], bound := []
    param := none, gread := none, arriving := none, kept := .none
    unread := [], stale := false, taStale := false }

/-- The page table at 0x1000 (one table for each of levels 0 and 1, then a leaf of 1 GiB that maps addresses
to themselves with R, W and X), and the words at 0x4000. -/
def benchMemory (m : Memory) (w : Nat) : Memory :=
  let m := Memory.writeN m 0x1000 8 0x2003
  let m := Memory.writeN m 0x2000 8 0x3003
  let m := Memory.writeN m 0x3000 8 0x1D
  Memory.writeN m benchPc 16 w

end Sys2Proof.Machine
end

