-- ==== Sys2Proof/Machine/Step.lean ====
section
/-! DEFINITION. One step of the device: the next unit of the issue set in work, else the next choice of the
agenda, else the plan of one more clk (log 1). -/

namespace Sys2Proof.Machine

/-- One step. -/
def step (s : State) : Host.Outcome State Fault Refusal :=
  match s.issueQ with
  | t :: ts => runThread { s.fresh with issueQ := ts } t
  | [] =>
    match s.agenda with
    | m :: ms => runMove { s.fresh with agenda := ms } m
    | [] => .next { s.fresh with agenda := clkPlan s }

/-- The state with the unit whose bits are w loaded from outside, so that the next step fetches and runs it
(log 14). -/
def State.withFetchWord (s : State) (nbits w : Nat) : State :=
  let w := w % 2 ^ nbits
  let c := benchCore w
  let k := s.core c
  { s with
    threads := put s.threads (2048 * c) (benchThread w)
    cores := put s.cores c { k with icache := [], teams := put k.teams 0 (benchTeam (benchFirmware w)) }
    launches := put s.launches 0 benchLaunch
    l2 := [], dram := benchMemory s.dram w, cur := 2048 * c, issueQ := [2048 * c] }

end Sys2Proof.Machine
end

