-- ==== Sys2Proof/Safety.lean ====
section
/-! DEFINITION. What counts as a safe run, and the terms in which claims speak of a step: what lets a unit
reach its own effect, and what a unit that has it leaves behind. -/

namespace Sys2Proof.Machine

/-- The memories of a state are in canonical form: module memory, the host's and the other modules'. -/
def State.MemOk (s : State) : Prop :=
  Memory.wf s.dram = true ∧ Memory.wf s.hostMem = true ∧ Memory.wf s.remote = true

/-- An outcome with a property of its next state, if it has one. -/
def Outcome.Keeps (p : State → Prop) (o : Outcome) : Prop := ∀ t, o = .next t → p t

/-- A run of n steps that meets no fault and no refusal. -/
def SafeRun (n : Nat) (s : State) : Prop := ∃ t, Sys2Proof.core.run n s = .next t

/-- One byte of module memory as its home slice holds it (R281). -/
def State.byteAt (s : State) (pa : Nat) : Nat := homeRead s pa 1

/-- Every byte of every memory reads in t as in s. -/
structure SameMemory (s t : State) : Prop where
  device : ∀ a, t.byteAt a = s.byteAt a
  host   : ∀ a, Memory.read t.hostMem a = Memory.read s.hostMem a
  remote : ∀ a, Memory.read t.remote a = Memory.read s.remote a

/-! What lets a unit reach its own effect. -/

/-- The acting thread takes its next unit: no wait of R60 holds it, no launch parameter failed (R127), the
flag that it counts on exists and has room (R24, R30), and its guard, by the value that it reads once (R198), lets it
through (R19). -/
structure Passes (s : State) (m : Mode) (c : Ctl) (e : Env) : Prop where
  env   : s.env s.cur = some e
  free  : e.th.blocked m = false
  param : e.th.param = none
  flag  : m.long = true → ∃ f, e.th.ctx.clause.flag c.fl = some f ∧ e.th.flag f.toNat < 63
  guard : c.g = 0 ∨ m.held = true ∨ (e.guardSeen c.g.toNat ≠ 2 ∧ (e.guardSeen c.g.toNat = 1 ↔ c.gn = false))

/-- The register operands of a unit pass their checks (R99, R101) and no older unit has still to write one
(R60, R108). `s'` and `e'` are the state and the thread after the checks, which may bind proxy slots (R103). -/
structure Reads (s : State) (e : Env) (rs : List Reg) (s' : State) (e' : Env) : Prop where
  checks  : checkRegs s e rs = .ok s'
  written : ∀ r ∈ rs, r ∉ e.th.pending
  env     : s'.env e.t = some e'

/-- A unit reaches its own effect: it passes, and its register operands can be read. -/
structure Ready (s : State) (m : Mode) (c : Ctl) (rs : List Reg) (s' : State) (e' : Env) : Prop where
  reaches : ∃ e, Passes s m c e ∧ Reads s e rs s' e'

/-- The far sources of a unit that executes at the lane have arrived there: there are none, or each has been sent
(R71, R107). -/
def Arrived (e : Env) (srcs : List Reg) : Prop := e.th.farOf srcs = [] ∨ e.th.arriving = some []

/-- A unit that executes at the lane asks first for its far sources, and stays (R71, R107). -/
def Asks (i : Instr) (m : Mode) (c : Ctl) (srcs dsts : List Reg) : Prop :=
  ∀ s s1 e, Ready s m c (srcs ++ dsts) s1 e → e.th.farOf srcs ≠ [] → e.th.arriving = none →
    exec i s = .next (s1.setThread e.t { e.th with arriving := some (e.th.farOf srcs) })

/-! What a unit leaves behind. -/

/-- The value stored in a register of a thread. -/
def Thread.stored (th : Thread) (r : Reg) : Word := findD th.regs r.toNat 0

/-- The value that a list of register writes leaves in a register, the last write winning. -/
def lastWrite (ws : List (Reg × Word)) (r : Reg) : Option Word := (ws.reverse.find? (fun w => w.1 == r)).map (·.2)

/-- The registers of a thread after a unit's writes (R22, R110): with K = 0 they are stored; with K = 1 the
stored values stand, and the next unit reads the written ones. -/
structure RegsAfter (old new : Thread) (k : Bool) (ws : List (Reg × Word)) : Prop where
  stored : ∀ r, new.stored r = if k then old.stored r else (lastWrite ws r).getD (old.stored r)
  read   : ∀ r v, lastWrite ws r = some v → new.read r = v

/-- The clk at which the yield exclusion of a thread ends that passes a unit with `crem` words of its clause left: a
clause with Y = 1 that ends here starts one (R66), but that of a meet or `talloc` began as it issued (R80, R176). -/
def Thread.yieldAfter (th : Thread) (clk : Nat) (crem : Nat) : Option Nat :=
  if crem = 0 ∧ th.ctx.clause.y = true ∧ th.waiting = false then some (clk + 64) else th.yieldEnd

/-- A thread past a unit of n words that has entered its window (R34, R109): `u` is the unit, `ctx` what it
leaves of the context beside the program counter and the words left in the clause. Only the registers, the
K-marked writes in reach and the clk at which a yield exclusion ends (R66) are left open here. -/
def Thread.past (th new : Thread) (n : Nat) (u : WUnit) (ctx : Ctx → Ctx) : Prop :=
  new = { th with
    regs := new.regs
    ctx := { ctx (th.ctx.advance n) with fwd := new.ctx.fwd }
    window := th.window ++ [u]
    nextSeq := th.nextSeq + 1
    wait := .none
    gread := none
    arriving := none
    yieldEnd := new.yieldEnd }

/-- The window after a unit that is complete as it issues (R109, R112): with no older unit left there it commits at
once, else it waits for them. -/
def Thread.beside (th : Thread) (u : WUnit) : List WUnit := if th.window = [] then [] else th.window ++ [u]

/-- A unit with its registers at the lane has executed (R107, R112, R115): its writes are made, and it waits
in the window, complete, with its FPS flags and its act at commit. Nothing else of the state changes. -/
structure Executed (s t : State) (e : Env) (k : Bool) (n : Nat) (o : AluOut) (th : Thread) : Prop where
  state  : t = s.setThread e.t th
  regs   : RegsAfter e.th th k o.writes
  rest   : e.th.past th n { WUnit.start e.th with undo := e.th.undoOf k o.writes, fps := o.fps, kbit := k, act := o.act } id
  memory : SameMemory s t

/-- A unit with a register at a far place, or behind a command of an older unit at the lane, has issued (R107, R108): its result is latched, one operand send for each
source that is not at the place of the destination and then one execute command are still to come; no
register is written yet. -/
structure Sent (s t : State) (e : Env) (k : Bool) (n : Nat) (srcs dsts : List Reg) (o : AluOut) (th : Thread) : Prop where
  state  : t = s.setThread e.t th
  regs   : th.regs = e.th.regs
  rest   : e.th.past th n { WUnit.start e.th with
    sends := (srcs.filter (fun r => e.th.ctx.place r != (match dsts with | d :: _ => e.th.ctx.place d | [] => .lane))).dedup
    cmd := some o, kbit := k, pend := dsts, done := false, act := o.act } id
  memory : SameMemory s t

/-- What a unit that computes registers comes to: issued, its commands still to be processed, where one of its
registers is far or an older unit still has a command at the lane; else trapped, or executed. -/
def Computed (s t : State) (e : Env) (k : Bool) (n : Nat) (srcs dsts : List Reg) (o : AluOut) : Prop :=
  if (srcs ++ dsts).any (fun r => (e.th.ctx.place r).far) ∨ olderCommand s e e.th.nextSeq laneSite true = true then
    ∃ th, Sent s t e k n srcs dsts o th
  else match o.trap with
    | some ti => t = raiseTrap s e.t ti
    | none => ∃ th, Executed s t e k n o th

/-- An instruction of n words that computes the registers `dsts` from `srcs`: in every state in which it is
ready it answers a next state, with the result that `f` gives from FPC and the values read. -/
def Computes (i : Instr) (c : Ctl) (n : Nat) (srcs dsts : List Reg) (f : Word → (Reg → Word) → AluOut) : Prop :=
  ∀ s s' e, Ready s .queued c (srcs ++ dsts) s' e →
    ∃ t, exec i s = .next t ∧ Computed s' t e c.k n srcs dsts (f e.th.ctx.fpc e.th.read)

/-- One register written with a value and no flag. -/
def word (r : Reg) (v : Word) : AluOut := ⟨[(r, v)], 0, none, .none⟩

/-- A register pair written with a value: the even register takes the low half (R92). -/
def pair (r : Reg) (v : DWord) : AluOut := ⟨[(r, v.setWidth 32), (r + 1, (v >>> 32).setWidth 32)], 0, none, .none⟩

/-- U(P(x)): a register pair read as a number (R140). -/
def pairNat (rd : Reg → Word) (r : Reg) : Nat := (rd (r + 1)).toNat * 2 ^ 32 + (rd r).toNat

/-- A number as a word, and an integer as a word: its residue modulo 2^32. -/
def natWord (n : Nat) : Word := BitVec.ofNat 32 n
def intWord (n : Int) : Word := BitVec.ofInt 32 n

/-- Clamp(x, -2^31, 2^31 - 1) (R140). -/
def clampS32 (x : Int) : Int := max (-2 ^ 31) (min x (2 ^ 31 - 1))

/-- The conditions of R41 on two values of one width. -/
def holds {w : Nat} (cc : BitVec 3) (a b : BitVec w) : Bool :=
  match cc.toNat with
  | 0 => decide (a.toNat = b.toNat)
  | 1 => decide (a.toNat ≠ b.toNat)
  | 2 => decide (a.toInt < b.toInt)
  | 3 => decide (a.toInt ≤ b.toInt)
  | 4 => decide (b.toInt < a.toInt)
  | 5 => decide (b.toInt ≤ a.toInt)
  | 6 => decide (a.toNat < b.toNat)
  | _ => decide (b.toNat ≤ a.toNat)

/-! Shapes of units: `f` gives the result from the values of the operands. -/

/-- xd := f xa. -/
def UnaryResult (i : Ctl → Reg → Reg → Instr) (f : Word → Word) : Prop :=
  ∀ c xd xa, Computes (i c xd xa) c 1 [xa] [xd] fun _ rd => word xd (f (rd xa))

/-- xd := f xa v, where v is a register or an immediate that `imm` reads. -/
def BinaryResult (i : Ctl → Reg → Reg → Src2 → Instr) (imm : Imm → Word) (f : Word → Word → Word) : Prop :=
  ∀ c xd xa v, Computes (i c xd xa v) c v.words (xa :: v.regs) [xd] fun _ rd => word xd (f (rd xa) (v.value imm rd))

/-- xd := f xa xb xc. -/
def TernaryResult (i : Ctl → Reg → Reg → Reg → Reg → Instr) (f : Word → Word → Word → Word) : Prop :=
  ∀ c xd xa xb xc, Computes (i c xd xa xb xc) c 1 [xa, xb, xc] [xd] fun _ rd => word xd (f (rd xa) (rd xb) (rd xc))

/-- P(xd) := f P(xa) v, where v is a 32-bit count. -/
def PairShiftResult (i : Ctl → Reg → Reg → Src2 → Instr) (f : DWord → Nat → DWord) : Prop :=
  ∀ c xd xa v, Computes (i c xd xa v) c v.words (xa :: (xa + 1) :: v.regs) [xd, xd + 1] fun _ rd =>
    Machine.pair xd (f (BitVec.ofNat 64 (pairNat rd xa)) ((v.value Imm.zero32 rd).toNat % 64))

/-! FP32 units (R131 to R138). -/

/-- One register written with a result and its flags; a flag that FPC enables makes the unit trap with
"FP exception" and every flag in TINFO (R136). -/
def fpWord (fpc : Word) (r : Reg) (v : Word × BitVec 5) : AluOut :=
  ⟨[(r, v.1)], v.2, if fpc.extractLsb' 0 5 &&& v.2 = 0 then none else some ⟨0x07, 0, 0, false, v.2.setWidth 64, 0⟩, .none⟩

/-- Operand k after its modifier pair (R138): the high bit takes the absolute value, the low bit negates, on a
sign bit of each half for packed BF16. -/
def modified (sign : Word) (md : BitVec 6) (k : Nat) (x : Word) : Word :=
  let y := if md.getLsbD (2 * k + 1) then x &&& ~~~sign else x
  if md.getLsbD (2 * k) then y ^^^ sign else y

/-- The sign bit of FP32, and the two of packed BF16. -/
def sign32 : Word := 0x80000000
def signs16 : Word := 0x80008000

/-- xd := f a, a after its modifiers, under the rounding direction of FPC. -/
def FpUnaryResult (i : Ctl → BitVec 6 → Reg → Reg → Instr) (f : Rm → Word → Word × BitVec 5) : Prop :=
  ∀ c md xd xa, Computes (i c md xd xa) c 1 [xa] [xd] fun fpc rd =>
    fpWord fpc xd (f (rmOf fpc) (modified sign32 md 0 (rd xa)))

/-- xd := f a v, a and a register v after their modifiers. -/
def FpBinaryResult (i : Ctl → BitVec 6 → Reg → Reg → Src2 → Instr) (f : Rm → Word → Word → Word × BitVec 5) : Prop :=
  ∀ c md xd xa v, Computes (i c md xd xa v) c v.words (xa :: v.regs) [xd] fun fpc rd =>
    fpWord fpc xd (f (rmOf fpc) (modified sign32 md 0 (rd xa))
      (match v with | .reg r => modified sign32 md 1 (rd r) | .imm n => n.fp32))

/-- xd := f a with flags, for a form without modifiers. -/
def FlagResult (i : Ctl → Reg → Reg → Instr) (f : Word → Word × BitVec 5) : Prop :=
  ∀ c xd xa, Computes (i c xd xa) c 1 [xa] [xd] fun fpc rd => fpWord fpc xd (f (rd xa))

/-- xd := f a with flags under the element format of a slot that has one (R163). -/
def SlotResult (i : Ctl → BitVec 3 → Reg → Reg → Instr) (f : Nat → Word → Word × BitVec 5) (act : Nat → Word → BitVec 3 → CommitAct) : Prop :=
  ∀ c fs xd xa s s' e ef, Ready s .queued c [xa, xd] s' e →
    (∀ e0, s.env s.cur = some e0 → ef = slotEF (e0.slot fs)) → ef ≠ 0 →
    ∃ t, exec (i c fs xd xa) s = .next t ∧
      Computed s' t e c.k 1 [xa] [xd] { fpWord e.th.ctx.fpc xd (f ef (e.th.read xa)) with act := act ef (e.th.read xa) fs }

/-- The two halves of a packed BF16 result with the flags of each (R154), and the trap of R136, which names
the halves that raised an enabled flag. -/
def fpHalves (fpc : Word) (r : Reg) (lo hi : BitVec 16 × BitVec 5) : AluOut :=
  let en := fpc.extractLsb' 0 5
  let which := (if en &&& lo.2 = 0 then 0 else 1) + (if en &&& hi.2 = 0 then 0 else 2)
  ⟨[(r, BitVec.ofNat 32 (hi.1.toNat * 2 ^ 16 + lo.1.toNat))], lo.2 ||| hi.2,
    if which = 0 then none else some ⟨0x07, 0, 0, false, BitVec.ofNat 64 ((lo.2 ||| hi.2).toNat + 2 ^ 8 * which), 0⟩, .none⟩

/-- One half of a packed operand as a value. -/
def halfVal (k : Nat) (x : Word) : Val := decodeBf16 (BitVec.ofNat 16 (x.toNat / 2 ^ (16 * k)))

/-! FP32 patterns (R133, R134). -/

/-- A NaN, and a signalling one: bit 22 is 0. -/
def isNaN (x : Word) : Bool := decide (0x7F800000 < x.toNat % 2 ^ 31)
def isSNaN (x : Word) : Bool := isNaN x && !x.getLsbD 22
/-- An infinity, and a zero, of either sign. -/
def isInf (x : Word) : Bool := decide (x.toNat % 2 ^ 31 = 0x7F800000)
def isZero (x : Word) : Bool := decide (x.toNat % 2 ^ 31 = 0)
/-- The sign bit. -/
def isNeg (x : Word) : Bool := x.getLsbD 31
/-- A subnormal: exponent field 0, mantissa not 0. -/
def isSub (x : Word) : Bool := decide (0 < x.toNat % 2 ^ 31 ∧ x.toNat % 2 ^ 31 < 0x00800000)
/-- The value of a finite pattern, in units of 2^-149. -/
def ulps (x : Word) : Int :=
  let m : Int := x.toNat % 2 ^ 23
  let e := x.toNat / 2 ^ 23 % 2 ^ 8
  (if isNeg x then -1 else 1) * (if e = 0 then m else (2 ^ 23 + m) * 2 ^ (e - 1))
/-- Finite patterns. -/
def isFin (x : Word) : Bool := decide (x.toNat % 2 ^ 31 < 0x7F800000)

/-- A finite result is the exact value num / den, in units of 2^-149, rounded once in a direction (R131, R133): the
nearest value, the even pattern of two equally near; else the nearest value that does not pass the exact one toward
the direction's far side. NX says that it is not exact. An overflowed result is not finite or is inexact. -/
def RoundedTo (rm : Rm) (num : Int) (den : Nat) (r : Word × BitVec 5) : Prop :=
  isFin r.1 →
    (r.2.getLsbD 4 = decide (num ≠ den * ulps r.1)) ∧
    match rm with
    | .rne => ∀ y : Word, isFin y →
        (num - den * ulps r.1).natAbs ≤ (num - den * ulps y).natAbs ∧
        ((num - den * ulps r.1).natAbs = (num - den * ulps y).natAbs → ulps y ≠ ulps r.1 → r.1.getLsbD 0 = false)
    | .rtz => 0 ≤ num * ulps r.1 ∧ (den * ulps r.1).natAbs ≤ num.natAbs ∧
        ∀ y : Word, isFin y → (den * ulps y).natAbs ≤ num.natAbs → (ulps y).natAbs ≤ (ulps r.1).natAbs
    | .rup => num ≤ den * ulps r.1 ∧ ∀ y : Word, isFin y → num ≤ den * ulps y → ulps r.1 ≤ ulps y
    | .rdn => den * ulps r.1 ≤ num ∧ ∀ y : Word, isFin y → den * ulps y ≤ num → ulps y ≤ ulps r.1

/-- A finite pattern nearest to the value num / den, in units of 2^-149, the even pattern of two equally near (R133). -/
def NearestTo (num : Int) (den : Nat) (r : Word) : Prop :=
  isFin r → ∀ y : Word, isFin y →
    (num - den * ulps r).natAbs ≤ (num - den * ulps y).natAbs ∧
    ((num - den * ulps r).natAbs = (num - den * ulps y).natAbs → ulps y ≠ ulps r → r.getLsbD 0 = false)

/-- A result is the square root of num / den, in units of 2^-149, rounded once in a direction (R133, R146): the root
lies on the result's side of the midpoint to every other value, or the result is the nearest value that does not pass
the root. NX says that it is not exact, and no other flag is raised. -/
def RootTo (rm : Rm) (num den : Nat) (r : Word × BitVec 5) : Prop :=
  isFin r.1 ∧ 0 ≤ ulps r.1 ∧ r.2 = (if den * ulps r.1 ^ 2 = (num : Int) then 0 else 16) ∧
  match rm with
  | .rne => ∀ y : Word, isFin y → 0 ≤ ulps y →
      let mid := den * (ulps y + ulps r.1) ^ 2
      (ulps y < ulps r.1 → mid ≤ 4 * (num : Int)) ∧ (ulps r.1 < ulps y → 4 * (num : Int) ≤ mid) ∧
      (ulps y ≠ ulps r.1 → mid = 4 * (num : Int) → r.1.getLsbD 0 = false)
  | .rup => (num : Int) ≤ den * ulps r.1 ^ 2 ∧
      ∀ y : Word, isFin y → 0 ≤ ulps y → (num : Int) ≤ den * ulps y ^ 2 → ulps r.1 ≤ ulps y
  | _ => den * ulps r.1 ^ 2 ≤ (num : Int) ∧
      ∀ y : Word, isFin y → 0 ≤ ulps y → den * ulps y ^ 2 ≤ (num : Int) → ulps y ≤ ulps r.1

/-- The floating formats narrower than FP32 (R156): the width of the exponent field and of the mantissa field, the
bias, and the code of the largest finite value. -/
def narrowFormat (ef : Nat) : Option (Nat × Nat × Nat × Nat) :=
  match ef with
  | 2 => some (8, 7, 127, 0x7F7F) | 3 => some (5, 10, 15, 0x7BFF) | 4 => some (4, 3, 7, 0x7E) | 5 => some (5, 2, 15, 0x7B)
  | 6 => some (3, 2, 3, 0x1F) | 7 => some (2, 3, 1, 0x1F) | 8 => some (2, 1, 1, 0x7) | _ => none

/-- The value of a finite code of a floating format with an exponent field of eb bits, a mantissa field of mb bits and
a bias, in units of 2^-149 (R156). -/
def narrowUlps (eb mb bias code : Nat) : Int :=
  let e := code / 2 ^ mb % 2 ^ eb
  let m := code % 2 ^ mb
  (if code / 2 ^ (eb + mb) % 2 = 1 then -1 else 1) *
    ((if e = 0 then m else 2 ^ mb + m) * 2 ^ (149 + (if e = 0 then 1 else e) - bias - mb) : Nat)

/-! Slots of a pair word (R25, R26). -/

/-- The pair word's result from the results of its slots: neither slot writes when one traps, and the trap names
slot 0 (SLOT 1) before slot 1 (SLOT 2). -/
def bothSlots (o0 o1 : AluOut) : AluOut :=
  ⟨o0.writes ++ o1.writes, o0.fps ||| o1.fps,
    match o0.trap, o1.trap with
    | some ti, _ => some { ti with slot := 1 }
    | none, some ti => some { ti with slot := 2 }
    | none, none => none, .none⟩

/-- A slot with sources `srcs` and destination `dst` at the lane. As the first of its word it computes its result
and writes nothing; as the second it completes the word, so both slots have read before either writes. -/
def PairSlot (i : Instr) (srcs : List Reg) (dst : Option Reg) (f : Word → (Reg → Word) → AluOut) : Prop :=
  ∀ (s s' : State) (e : Env), Ready { s with pair := none } .queued Ctl.zero (srcs ++ dst.toList) s' e →
    (∀ e0, s.env s.cur = some e0 → ∀ d ∈ dst, e0.th.ctx.place d = .lane) →
    let o := f e.th.ctx.fpc e.th.read
    match s.pair with
    | none => exec i s = .next { s' with pair := some (o, srcs) }
    | some (o0, srcs0) => ∃ t, exec i s = .next t ∧
        Computed s' t e false 1 (srcs0 ++ srcs) (o0.writes.map (·.1) ++ dst.toList) (bothSlots o0 o)

/-- D := f D S with I = 0, and D := f S imm with I = 1. -/
def PairResult (i : Reg → PairSrc → Instr) (imm : BitVec 8 → Word) (f : Word → Word → Word) : Prop :=
  (∀ d r, PairSlot (i d (.reg r)) [d, r] (some d) fun _ rd => word d (f (rd d) (rd r))) ∧
  (∀ d r v, PairSlot (i d (.imm r v)) [r] (some d) fun _ rd => word d (f (rd r) (imm v)))

/-- The same in FP32, the immediate an E4M3 value. -/
def PairFpResult (i : Reg → PairSrc → Instr) (f : Rm → Word → Word → Word × BitVec 5) : Prop :=
  (∀ d r, PairSlot (i d (.reg r)) [d, r] (some d) fun fpc rd => fpWord fpc d (f (rmOf fpc) (rd d) (rd r))) ∧
  (∀ d r v, PairSlot (i d (.imm r v)) [r] (some d) fun fpc rd => fpWord fpc d (f (rmOf fpc) (rd r) (e4m3Imm v)))

/-! Units without a register destination. -/

/-- The state after a unit that waits in the window, complete, to act as it commits (R109, R112), its thread at `next`.
A clause with Y = 1 that ends here starts a yield exclusion (R66). -/
def Behind (s : State) (e : Env) (next : Ctx) (act : CommitAct) (fps : BitVec 5) : State :=
  s.setThread e.t { e.th with
    ctx := next
    window := e.th.window ++ [{ WUnit.start e.th with act := act, fps := fps }]
    nextSeq := e.th.nextSeq + 1
    wait := .none
    gread := none
    arriving := none
    yieldEnd := e.th.yieldAfter s.clk next.crem }

/-- The state after a unit without registers: a window entry without effect (R109, R112). -/
def Past (s : State) (e : Env) (next : Ctx) : State := Behind s e next .none 0

/-- A unit whose guard fails issues and performs nothing (R19); an Open guard holds it back (R198). -/
def Guarded (i : Instr) (m : State → Mode) (c : Ctl) (n : Nat) : Prop :=
  ∀ (s : State) (e : Env), s.env s.cur = some e → e.th.blocked (m s) = false → e.th.param = none →
    ((m s).long = true → e.th.ctx.clause.flag c.fl ≠ none) → c.g ≠ 0 →
    (e.guardSeen c.g.toNat = 2 → exec i s = .next { s with stalled := true }) ∧
    (e.guardSeen c.g.toNat ≠ 2 → (e.guardSeen c.g.toNat = 1 ↔ c.gn = true) →
      exec i s = .next (Past s e { e.th.ctx with pc := e.th.ctx.pc + BitVec.ofNat 64 (8 * n), crem := e.th.ctx.crem - n }))

/-- A transfer can reach its target (R36, R73): aligned, fetchable, and a clause header. `s'` is the state after the
fetch, which may fill caches. -/
structure Lands (s : State) (e : Env) (target : DWord) (s' : State) : Prop where
  aligned : target.toNat % 8 = 0
  header  : ∃ w, fetchWord s e target = .ok s' w ∧ w.toNat / 2 ^ 62 = 2

/-- Where a transfer to a target traps at its own unit (R36, R73): a target with low bits set, or whose word is no
header, is a bad branch target; one that is not canonical is not present. `s0` is the state in which the word is
fetched. -/
def BadTarget (i : Instr) (s s0 : State) (e : Env) (target : DWord) : Prop :=
  let n := target.toNat
  (n % 8 ≠ 0 → exec i s = .next (raiseTrap s0 e.t (trapOf 0x02 (n % 2 ^ 57)))) ∧
  (n % 8 = 0 → 2 ^ 57 ≤ n → exec i s = .next (raiseTrap s0 e.t (trapOf 0x04 (n % 2 ^ 57)))) ∧
  (∀ s1 w, n % 8 = 0 → fetchWord s0 e target = .ok s1 w → w.toNat / 2 ^ 62 ≠ 2 →
    exec i s = .next (raiseTrap s1 e.t (trapOf 0x02 (n % 2 ^ 57))))

/-- The context after a transfer: at the target, whose header is not yet consumed. -/
def Ctx.land (c : Ctx) (pc : DWord) : Ctx := { c with pc := pc, crem := 0 }

/-- The state after a unit that is complete as it issues, with the register writes `ws` (R112). `ctx` gives the context
beside the K-marked writes in reach. -/
structure Settled (s t : State) (e : Env) (k : Bool) (ws : List (Reg × Word)) (ctx : Ctx) (th : Thread) : Prop where
  state  : t = s.setThread e.t th
  regs   : RegsAfter e.th th k ws
  rest   : th = { e.th with
    regs := th.regs
    ctx := { ctx with fwd := th.ctx.fwd }
    window := e.th.beside { WUnit.start e.th with undo := e.th.undoOf k ws }
    nextSeq := e.th.nextSeq + 1
    wait := .none
    gread := none
    arriving := none
    yieldEnd := e.th.yieldAfter s.clk ctx.crem }
  memory : SameMemory s t

/-- The same without a write, as one state. -/
def Gone (s : State) (e : Env) (ctx : Ctx) : State :=
  s.setThread e.t { e.th with
    ctx := ctx
    window := e.th.beside (WUnit.start e.th)
    nextSeq := e.th.nextSeq + 1
    wait := .none
    gread := none
    arriving := none
    yieldEnd := e.th.yieldAfter s.clk ctx.crem }

/-- A context past n words of its clause (R34). -/
def Ctx.past (c : Ctx) (n : Nat) : Ctx := { c with pc := c.pc + BitVec.ofNat 64 (8 * n), crem := c.crem - n }

/-- The state after a unit has issued an access (R112): the access is outstanding, its flag counts it (R30), and a unit
with a memory destination lets it perform once it commits. `srcs` are the unit's sources: those whose values have to
come from another place (R107) it awaits, and with a memory destination it is complete when none is left. -/
def Issues (s : State) (e : Env) (ctx : Ctx) (a : Access) (srcs : List Reg) (store : Bool) : State :=
  let sends := accessSends s e srcs (if store then [] else a.kind.regs)
  s.setThread e.t { e.th with
    ctx := { ctx with fwd := e.th.ctx.fwd.filter (fun f => !a.kind.regs.any (fun r => r.toNat == f.reg)) }
    flags := match a.flag with | some f => putD 0 e.th.flags f (findD e.th.flags f 0 + 1) | none => e.th.flags
    window := e.th.window ++ [{ WUnit.start e.th with
      sends := sends, done := store && sends.isEmpty, kbit := a.kbit, act := if store then .access a.id else .none }]
    nextSeq := e.th.nextSeq + 1
    wait := .none
    gread := none
    arriving := none
    yieldEnd := e.th.yieldAfter s.clk ctx.crem
    accs := e.th.accs ++ [a]
    nextAcc := e.th.nextAcc + 1 }

/-- The state after a thread has entered its handler (R345, R348): the team is halted with it as the trapping thread,
and `new` is the thread: the record, EPC and TA at the resume address, at TVEC with no word of a clause left. -/
structure Handled (t : State) (e : Env) (ti : TrapInfo) (new : Env) : Prop where
  env    : t.env e.t = some new
  team   : new.tm = { e.tm with halted := true, trapTid := some (tTid e.t), escal := false, aua := ti.aua, late := new.tm.late }
  record : new.th = { e.th with
    tcause := BitVec.ofNat 32 (ti.code.toNat + 2 ^ 8 * ti.slot.toNat + (if ti.attr then 2 ^ 10 else 0) + 2 ^ 16 * ti.reason.toNat)
    tinfo := ti.tinfo
    epc := e.th.ctx.pc
    ta := e.th.ctx.pc
    taCrem := e.th.ctx.crem
    taClause := e.th.ctx.clause
    taStale := e.th.stale
    stale := false
    wait := if e.th.wait = .lock then .lock else .none
    kept := match e.th.wait with | .barrier b tok => .barrier b tok | _ => .none
    gread := none
    arriving := none
    inh := true
    ctx := { e.th.ctx with pc := e.la.tvec, crem := 0, clause := ⟨none, none, false, false⟩, fwd := [] } }

/-! Places and special registers. -/

/-- A block is at a far place under an anchor (R98): its code is 01kk (slice) or 10kk (bank). -/
def namesFar (pmap : BitVec 128) (b k : Nat) : Prop :=
  let c := pmap.toNat / 2 ^ (4 * b) % 16
  (c / 4 = 1 ∨ c / 4 = 2) ∧ c % 4 = k

/-- What `place` and `reloc` leave (R121, R122): the thread past the unit, the block's code in its place map and no
other code changed, and the block's eight names with the given values, or 0 where the code names no place. -/
structure Placed (t : State) (e : Env) (b : Nat) (code : BitVec 4) (vs : Nat → Word) (th : Thread) : Prop where
  unread : ∀ b', b' ≠ b → (b' ∈ th.unread ↔ b' ∈ e.th.unread)
  thread : t.thread? e.t = some th
  pc     : th.ctx.pc = e.th.ctx.pc + 8
  plan   : ∀ b', b' < 32 → th.ctx.pmap.toNat / 2 ^ (4 * b') % 16 =
             if b' = b then code.toNat else e.th.ctx.pmap.toNat / 2 ^ (4 * b') % 16
  regs   : ∀ r, th.stored r = if r.toNat / 8 = b then (if code = 0 ∨ code.toNat / 4 = 1 ∨ code.toNat / 4 = 2 then vs (r.toNat % 8) else 0)
             else e.th.stored r
  window : if e.th.window = [] then th.window = [] else ∃ u, th.window = e.th.window ++ [u] ∧ u.done = true ∧ u.act = .slots ∧ u.before = e.th.ctx
  rest   : th = { e.th with
    regs := th.regs
    ctx := { e.th.ctx.past 1 with pmap := th.ctx.pmap, fwd := th.ctx.fwd }
    window := th.window
    unread := th.unread
    nextSeq := e.th.nextSeq + 1
    wait := .none
    gread := none
    arriving := none
    yieldEnd := th.yieldEnd
    bound := th.bound }

/-- An extension name at the lane of a thread (R93, R116). -/
def Thread.extName (th : Thread) (r : Reg) : Prop := 64 ≤ r.toNat ∧ r.toNat < 128 ∧ th.ctx.place r = .lane

/-- A thread whose group is granted the extension lock (R117): each extension name at its lane reads 0, no other register
changes, and a request that it has waiting makes it a holder. -/
structure LockGranted (s t : State) (u : Nat) (x y : Thread) : Prop where
  before : s.thread? u = some x
  after  : t.thread? u = some y
  lost   : ∀ r : Reg, x.extName r → y.stored r = 0 ∧ y.read r = 0
  kept   : ∀ r : Reg, ¬x.extName r → y.stored r = x.stored r
  holds  : x.xreq.isSome = true → y.xhold = true ∧ y.xreq = none

/-- A register that an index names or that holds an index (R125): at lane place, in the base set or with the
extension lock held or requested, and written by every older unit. -/
structure IndexReg (e : Env) (r : Reg) : Prop where
  lane : e.th.ctx.place r = .lane
  ext  : r.toNat < 64 ∨ e.th.extends = true
  done : r ∉ e.th.pending

/-- Whether a special register is a pair (R104): the anchors, TINFO and EPC. -/
def wideSpecial (sr : BitVec 8) : Bool := [0x1C, 0x1D, 0x1E, 0x1F, 0x29, 0x2A].contains sr.toNat

/-! Meets. -/

/-- A thread has issued a unit of one word and waits in it (R66, R80, R176): a clause with Y = 1 that ends with the unit
has begun its yield exclusion. -/
def Waits (th : Thread) (clk : Nat) (w : Wait) : Thread :=
  { th with wait := w, yieldEnd := if th.ctx.crem = 1 ∧ th.ctx.clause.y = true then some (clk + 64) else th.yieldEnd }

/-- A thread arrives at a meet (R80): it has recorded its operand values and waits; `meetCheck` looks for a mismatch. -/
def Arrives (i : Instr) (c : Ctl) (srcs dsts : List Reg) (va vb : (Reg → Word) → Word) : Prop :=
  ∀ s s1 e, Ready s .queued c (srcs ++ dsts) s1 e → Arrived e srcs →
    exec i s = .next (meetCheck (s1.setThread e.t (Waits e.th s1.clk (.meet i (va e.th.read) (vb e.th.read)))) (gKey e.t)
      s1.issueSet)

/-- The participants of a meet: one for each LANE at most. -/
def Parties (ps : List Party) : Prop := ps.Pairwise (fun p q => p.lane < q.lane) ∧ ∀ p ∈ ps, p.lane < 32

/-- The value that a `shfl` thread receives from a source LANE (R83). -/
def Shuffled (ps : List Party) (me : Party) (src : Int) (v : Word) : Prop :=
  (∀ p ∈ ps, (p.lane : Int) = src → v = p.va) ∧ ((∀ p ∈ ps, (p.lane : Int) ≠ src) → v = me.va)

/-! Accesses of a thread. -/

/-- An access is let through at issue (R299, R278, R182, R267): aligned, translated with its permission to memory that
exists, no schedule miss that traps, no job that conflicts (with other than an atom or cas), and a request entry where it needs one (`req`). -/
structure Admits (s : State) (e : Env) (va size : Nat) (n : Need) (req : Phys → Bool) (p : Phys) : Prop where
  aligned : va % size = 0
  xlat    : e.xlat s va n = .ok p
  mapped  : p.hole = false
  timely  : schedMiss e.la e.tm va size = false ∨ e.la.smm = false
  free    : n = .rw ∨ heldByJob s (tCore e.t) (n != .r) [.mem e.la.asp.asn.toNat va (va + size)] = false
  room    : req p = false ∨ requestsFull s (tCore e.t) = false

/-- Size and signedness by the selector of `ld` and `st` (R300). -/
def accessSize (sz : BitVec 3) : Nat := [1, 1, 2, 2, 4, 8, 16].getD sz.toNat 16
def accessSigned (sz : BitVec 3) : Bool := sz = 0 ∨ sz = 2

/-- The registers of a value by its size: one, a pair, or four (R300). -/
def valueRegs (r : Reg) (size : Nat) : List Reg :=
  if size = 8 then [r, r + 1] else if size = 16 then [r, r + 1, r + 2, r + 3] else [r]

/-- The value that registers hold, the first name lowest (R300). -/
def regsNat (rd : Reg → Word) (r : Reg) (size : Nat) : Nat :=
  if size = 16 then pairNat rd r + 2 ^ 64 * pairNat rd (r + 2)
  else if size = 8 then pairNat rd r else (rd r).toNat % 2 ^ (8 * size)

/-- EA of `ld`, `st`, `ldc`, `cclean`, `cinval` and `pref` (R264, R299). -/
def addressOf (rd : Reg → Word) (xa : Reg) (off : Imm) : Nat := (((pairNat rd xa : Int) + off.offset) % 2 ^ 57).toNat

/-- An atom or cas issues (R302, R305, R46): an access of its kind with the value of its registers, which performs after
it commits. `host` says whether the host home performs it; elsewhere on a host page it is a permission trap. -/
def AtomIssues (i : Ctl → BitVec 2 → Bool → Reg → Reg → Reg → Instr) (size : Bool → Nat) (op : BitVec 4) (host : Bool) : Prop :=
  ∀ s s1 e c pl w64 xd xa xb f p,
    Ready s Mode.counted c
      (xa :: (xa + 1) :: (valueRegs xb (size w64) ++ valueRegs xd (size w64))) s1 e →
    let va := pairNat e.th.read xa
    va < 2 ^ 57 → Admits s1 e va (size w64) .rw (atomRequest s1 (tCore e.t) pl · (size w64)) p → e.th.ctx.clause.flag c.fl = some f →
    exec (i c pl w64 xd xa xb) s = .next (
      if p.tgt = 1 ∧ host = false then raiseTrap s1 e.t (trapOf 0x05 va)
      else Issues s1 e (e.th.ctx.past 1) (mkAccess s1 e (.atom op pl (valueRegs xd (size w64))) va (size w64)
        (regsNat e.th.read xb (size w64)) [p] 0 c.k (some f.toNat)) (xa :: (xa + 1) :: valueRegs xb (size w64)) true)

/-- A maintenance or prefetch unit issues (R266, R267, R313): its range, or its completion at once where the length is
0; a prefetch waits while every request entry is in use. -/
def RangeIssues (i : Ctl → Reg → Reg → Imm → Instr) (kind : AccKind) (align cap : Nat) : Prop :=
  ∀ s s1 e c xa xb off f, Ready s Mode.counted c [xa, xa + 1, xb] s1 e → e.th.ctx.clause.flag c.fl = some f →
    let va := addressOf e.th.read xa off
    let len := min (e.th.read xb).toNat cap
    exec (i c xa xb off) s = .next (
      if va % align ≠ 0 ∨ len % align ≠ 0 then raiseTrap s1 e.t (trapOf 0x03 va)
      else if len = 0 then Past s1 e (e.th.ctx.past off.words)
      else if kind = .pref ∧ requestsFull s1 (tCore e.t) = true then { s1 with stalled := true }
      else Issues s1 e (e.th.ctx.past off.words) (mkAccess s1 e kind va len 0 [] c.h false (some f.toNat))
        [xa, xa + 1, xb] true)

/-- An access that a thread has outstanding and that nothing holds back (R294): no older access of the thread that must
come first, no trap at its unit, no source still to arrive, no stalling schedule miss, and not refused as moved. -/
structure Outstanding (s : State) (t : Nat) (e : Env) (a : Access) : Prop where
  env  : s.env t = some e
  acc  : e.th.acc? a.id = some a
  held : a.held e = false

/-- The byte that a core's L1 holds valid at an address, else the home's (R287, R293). -/
def State.viewByte (s : State) (core pa : Nat) : Nat :=
  match find? (s.core core).l1 (pa / 128) with
  | some l => if l.valid.getLsbD (pa % 128) then (lineByte l.data (pa % 128)).toNat else s.byteAt pa
  | none => s.byteAt pa

/-! Barriers, guards and queues. -/

/-- A barrier after an arrival (R89): the arrival that reaches the count begins the next phase. -/
def arrived (x : Barrier) : Barrier :=
  if x.arrivals + 1 = x.count then ⟨x.count, 0, x.phase + 1⟩ else ⟨x.count, x.arrivals + 1, x.phase⟩

/-- The state after an arrival by a thread (R89): the barrier has it, and each thread of the team that waits there with
an older token goes on. `th` is the arriving thread, past its unit with its writes and its own wait. -/
structure Arrival (s t : State) (e : Env) (b : Nat) (k : Bool) (ws : List (Reg × Word)) (w : Wait) (th : Thread) : Prop where
  team   : t.team? (teamKey e.t) = some { e.tm with bars := put e.tm.bars b (arrived (e.tm.bar b)) }
  thread : t.thread? e.t = some th
  regs   : RegsAfter e.th th k ws
  pc     : th.ctx.pc = e.th.ctx.pc + 8
  wait   : th.wait = w
  others : ∀ u x, u ≠ e.t → s.thread? u = some x → t.thread? u = some (
             if (e.tm.bar b).arrivals + 1 = (e.tm.bar b).count ∧ teamKey u = teamKey e.t ∧ tTid u < 32 * e.tm.ngrp ∧
               (∃ tok, x.wait = .barrier b tok ∧ tok ≠ (e.tm.bar b).phase + 1) then { x with wait := .none } else x)
  memory : SameMemory s t

/-- The state after a guard slot takes a value at the unit's commit (R196): no other slot changes. -/
structure GuardSet (t s : State) (e : Env) (g : Nat) (v : BitVec 2) (fps : BitVec 5) : Prop where
  team   : ∃ tm, t.team? (teamKey e.t) = some tm ∧ tm = { e.tm with guards := tm.guards } ∧
             ∀ n, n < 16 → tm.guard n = if n = g then v else e.tm.guard n
  thread : ∃ th, (Gone s e (e.th.ctx.past 1)).thread? e.t = some th ∧
             t.thread? e.t = some { th with fps := e.th.fps ||| fps.setWidth 32 }
  others : ∀ u, u ≠ e.t → t.thread? u = s.thread? u
  memory : SameMemory s t

/-! Tile handles and engine jobs. -/

/-- A handle granted to the team of a thread (R176, R187): its entry names new storage of the core, which reads 0. At level
S lines of the die's L2 may give way to its granules (R171, R260), a dirty one to its row. -/
structure Granted (s t : State) (th h : Nat) (lvl : BitVec 2) (gran : Nat) (d : DWord) : Prop where
  entry  : ∃ old tm x, s.team? (teamKey th) = some old ∧ t.team? (teamKey th) = some tm ∧
             tm = { old with handles := put old.handles h x } ∧ x.shape = d ∧ x.lvl = lvl ∧
             x.uid = (s.core (tCore th)).nextUid ∧
             ∃ y, find? (t.core (tCore th)).tiles x.uid = some y ∧ y.lvl = lvl ∧ y.gran = gran ∧ y.bytes = [] ∧ y.cells = []
  others : ∀ u, u ≠ (s.core (tCore th)).nextUid → find? (t.core (tCore th)).tiles u = find? (s.core (tCore th)).tiles u
  lines  : lvl ≠ 1 → t.l2 = s.l2
  memory : ∀ a, (∀ l, find? s.l2 (a / 128) = some l → l.dirty = true ∨ find? t.l2 (a / 128) = some l) → t.byteAt a = s.byteAt a
  beyond : t.hostMem = s.hostMem ∧ t.remote = s.remote

/-- Conditions of a unit on its handles, each with its sub-cause and the handle that it reports (R178). -/
abbrev Conditions := List (Prop × Nat × Nat)

/-- Every condition but the first that fails holds; and none fails. A condition is written as its failure. -/
def Conditions.firstFails (cs : Conditions) (sub h : Nat) : Prop :=
  ∃ before bad after, cs = before ++ (bad, sub, h) :: after ∧ bad ∧ ∀ q ∈ before, ¬q.1
def Conditions.hold (cs : Conditions) : Prop := ∀ q ∈ cs, ¬q.1

/-- The handles exist (sub-cause 1). -/
def Valid (e : Env) (hs : List Nat) : Conditions := hs.map (fun h => (e.tm.handle? h = none, 1, h))
/-- The handles are no accumulators (sub-cause 7), and are row-major (sub-cause 8). -/
def NoAccumulator (e : Env) (hs : List Nat) : Conditions := hs.map (fun h => ((e.tm.handle h).lvl = 3, 7, h))
def RowMajor (e : Env) (hs : List Nat) : Conditions := hs.map (fun h => ((e.tm.handle h).lay ≠ 0, 8, h))

/-- Every byte of some regions is translated to memory that exists, with a permission; where `dest` names a handle,
the job executes at the bank cores, and its bytes lie in tier 1 (R184, R195). -/
def Reachable (s : State) (e : Env) (n : Need) (dest : Region → Option Nat) (rs : List Region) : Prop :=
  ∀ asn lo hi, Region.mem asn lo hi ∈ rs → ∀ va, lo ≤ va → va < hi →
    ∃ p, e.xlat s (va % 2 ^ 57) n = .ok p ∧ p.hole = false ∧
      (dest (.mem asn lo hi) ≠ none → p.tgt = 0 ∧ tier1 p.pa = true)

/-- A job can enter the footprint table, where an entry is free (R179, R184, R278). -/
structure AdmitsJob (s : State) (e : Env) (d : Draft) : Prop where
  reads  : Reachable s e .r (fun _ => none) d.reads
  writes : Reachable s e .w d.dest d.writes
  timely : missAt e.la e.tm (d.reads ++ d.writes) = none ∨ e.la.smm = false

/-- A job in the footprint table with what acceptance captures (R179, R183, R199): its command with its guard, its
thread and unit, its engine, values, handles and regions. -/
structure Recorded (t : State) (e : Env) (c : Ctl) (i : Instr) (d : Draft) (f : BitVec 4) (j : Job) : Prop where
  member : j ∈ (t.core (tCore e.t)).jobs
  cmd    : j.cmd = i ∧ j.guard = c.g.toNat ∧ j.gn = c.gn
  unit   : j.thread = e.t ∧ j.ua = e.th.ctx.pc ∧ j.flag = some f.toNat
  draft  : j.engine = d.engine ∧ j.caps = d.caps ∧ j.hs = d.hs ∧ j.reads = d.reads ∧ j.writes = d.writes ∧
             j.bank = d.bank ∧ j.slice = d.slice
  waits  : j.state = .queued ∧ j.gok = false ∧ j.part = 0

/-- A thread past a unit whose operation counts on a flag (R30, R112). -/
def flagged (s : State) (e : Env) (f : BitVec 4) : Thread :=
  { e.th with
    ctx := e.th.ctx.past 1
    flags := putD 0 e.th.flags f.toNat (findD e.th.flags f.toNat 0 + 1)
    window := e.th.beside (WUnit.start e.th)
    nextSeq := e.th.nextSeq + 1
    wait := .none
    gread := none
    arriving := none
    yieldEnd := e.th.yieldAfter s.clk (e.th.ctx.past 1).crem }

/-- The state after an engine unit is accepted: the thread past its unit, the job recorded, every other job still
there, no register, tile or byte of memory changed. -/
structure Accepted (s t : State) (e : Env) (c : Ctl) (i : Instr) (d : Draft) (f : BitVec 4) : Prop where
  thread : t.thread? e.t = some (flagged s e f)
  others : ∀ u, u ≠ e.t → t.thread? u = s.thread? u
  job    : ∃ j, Recorded t e c i d f j
  jobs   : (t.core (tCore e.t)).jobs.length = (s.core (tCore e.t)).jobs.length + 1
  tiles  : (t.core (tCore e.t)).tiles = (s.core (tCore e.t)).tiles
  memory : SameMemory s t

/-- An engine unit (R178 to R185): it waits while all 64 entries of its core's table are in use; then the first condition
on its handles that fails traps; else its job is accepted. `fs` names the slot that must have a format (R163). -/
def EngineUnitAt (i : Instr) (c : Ctl) (fs : Option (BitVec 3)) (rs : List Reg) (draft : State → Env → Draft)
    (conds : State → Env → Conditions) : Prop :=
  ∀ (s s1 : State) (e : Env) (f : BitVec 4), Ready s engineMode c rs s1 e →
    (∀ n ∈ fs, ∀ e0, s.env s.cur = some e0 → slotEF (e0.la.fs n.toNat) ≠ 0) → e.th.ctx.clause.flag c.fl = some f →
    let used := (s.core (tCore s.cur)).jobs.length
    (64 ≤ used → exec i s = .next { s with stalled := true }) ∧
    (∀ sub h, used < 64 → Arrived e rs → (conds s e).firstFails sub h →
      exec i s = .next (raiseTrap s1 e.t (trapOf 0x0A (sub + 2 ^ 8 * h)))) ∧
    (used < 64 → Arrived e rs → (conds s e).hold → AdmitsJob s1 e (draft s e) → ∃ t, exec i s = .next t ∧ Accepted s1 t e c i (draft s e) f)

/-- The same where neither its draft nor its conditions look at the state beyond the thread's. -/
def EngineUnit (i : Instr) (c : Ctl) (fs : Option (BitVec 3)) (rs : List Reg) (draft : Env → Draft)
    (conds : Env → Conditions) : Prop :=
  EngineUnitAt i c fs rs (fun _ => draft) (fun _ => conds)

/-- The state with the oldest request of an allocator gone (R176). -/
def Dequeued (s : State) (r : TallocReq) : State :=
  let k := s.core (tCore r.thread)
  let t := if k.allocs.any (fun x => x.thread == r.thread) then
      s.setCore (tCore r.thread) { k with allocs := k.allocs.filter (fun x => x.thread != r.thread) }
    else s
  { t with allocS := s.allocS.filter (fun x => x.thread != r.thread) }

/-- Row and column of an element coordinate (R186). -/
def rowOf (x : Word) : Nat := x.toNat / 2 ^ 16
def colOf (x : Word) : Nat := x.toNat % 2 ^ 16

/-- The conditions of `tld` and `tst` (R189). -/
def ElementConditions (e : Env) (h : Nat) (x : Word) : Conditions :=
  let t := e.tm.handle h
  Valid e [h] ++ NoAccumulator e [h] ++ RowMajor e [h] ++
  [(t.rows ≤ rowOf x ∨ t.cols ≤ colOf x, 6, h), (t.lvl = 2 ∧ t.w < 8, 5, h)]

/-- A code of w bits in tile storage whose rows take `rb` bytes (R174). -/
def tileCode (t : Tile) (rb w row col : Nat) : Nat := getBits t.bytes (8 * rb * row + w * col) w

/-- Every format of a list is a floating one, or every one an integer one (R191). -/
def OneClass (efs : List Nat) : Prop := (∀ f ∈ efs, efFloat f = true) ∨ ∀ f ∈ efs, efInt f = true

/-- The shapes of two handles differ. -/
def Handle.differs (a b : Handle) : Prop := a.rows ≠ b.rows ∨ a.cols ≠ b.cols

/-- A job can start (R179, R181, R184, R199, R235, R278): its unit committed, no save under way, the first undispatched
one of its engine's queue, its guard passing or passed before, no older job or access before it, every timetable entry
resident that it missed, no write-back before a slice executes it held or on its way, and no other job at work in
Currant. -/
structure Starts (s : State) (core : Nat) (j : Job) (e : Env) : Prop where
  job   : (s.core core).job? j.id = some j
  env   : s.env j.thread = some e
  state : j.state = .queued ∨ j.state = .stopped
  head  : atHead (s.core core) j = true
  unit  : j.seq = 0 ∨ ∀ u ∈ e.th.window, j.seq ≤ u.seq ∧ (u.seq = j.seq → u.done = false)
  calm  : e.tm.quieting = false
  guard : j.guard = 0 ∨ j.gok = true ∨ (e.tm.guard j.guard ≠ 2 ∧ (e.tm.guard j.guard = 1 ↔ j.gn = false))
  free  : hasEdge (s.core core) j = false ∧ jobWaits e j = false ∧ ∀ i ∈ j.miss, e.la.resident i = true
  pubs  : j.slice = false ∨ ((∀ p ∈ s.pubs, p.core ≠ core) ∧ readsHeld s e j = false)
  alone : j.engine = .currant → ∀ o ∈ (s.core core).jobs, o.engine = .currant → o.state ≠ .running

/-- A dispatched job whose regions are all in tile storage can perform its next part, `i` (R179, R221, R367). -/
structure Works (s : State) (core : Nat) (j : Job) (e : Env) (i : Nat) : Prop where
  job   : (s.core core).job? j.id = some j
  env   : s.env j.thread = some e
  home  : tCore j.thread = core
  state : j.state = .running
  next  : j.nextPart = some i
  calm  : e.tm.quieting = false
  place : j.bank = false ∧ j.walks = false
  tiles : ∀ asn lo hi, Region.mem asn lo hi ∉ j.reads ++ j.writes
  array : j.engine ≠ .matrix ∨
            (core < 256 ∧ (s.core core).fenced ≠ 0xF ∧ (s.core core).chunks < 1024 ∧ withheld s core = false)

/-- A job whose next part has performed: after its last part it is done, or awaits a passing self-test where it writes
an accumulator (R221). -/
def Job.performed (j : Job) : Job :=
  { j with
    part := j.part + 1
    state := if j.parts ≤ j.part + 1 then (if writesAcc j.cmd then .ran else .done) else .running }

/-- A captured handle lies in tile storage that its core holds. -/
def Job.held (j : Job) (k : Core) (i : Nat) : Prop := (j.h i).lvl ≠ 2 ∧ (find? k.tiles (j.h i).uid).isSome = true

/-- A code of a captured handle (R174). -/
def Job.code (j : Job) (k : Core) (i r q : Nat) : Nat :=
  tileCode (tileOf k (j.h i).uid) (rowBytes (j.h i).lvl (j.h i).shape) (j.h i).w r q

/-- The integer that a code of an integer format is (R157), and a value clamped to the format (R191). -/
def codeInt (ef v : Nat) : Int := if v < 2 ^ (efWidth ef - 1) then v else (v : Int) - 2 ^ efWidth ef
def clampCode (ef : Nat) (x : Int) : Nat :=
  let m : Int := 2 ^ (efWidth ef - 1)
  ((max (-m) (min x (m - 1))) % 2 ^ efWidth ef).toNat

/-! Row operations. -/

/-- A row operation issues (R320, R321): its rows aligned, canonical, translated with their permission to tier 1, and
the operand rows in the destination's subarray; else it traps, with the kind in TINFO[63:57]. -/
def RowIssues (i : Instr) (c : Ctl) (op : BitVec 3) (xd : Reg) (srcs : List Reg) : Prop :=
  ∀ (s s1 : State) (e : Env) (f : BitVec 4) (p : Phys) (ps : List Phys),
    Ready s Mode.counted c ((xd :: srcs).flatMap (fun r => [r, r + 1])) s1 e → e.th.ctx.clause.flag c.fl = some f →
    let va (r : Reg) : Nat := pairNat e.th.read r
    let row (r : Reg) (n : Need) (q : Phys) : Prop := va r % 1024 = 0 ∧ va r < 2 ^ 57 ∧ e.xlat s1 (va r) n = .ok q ∧ q.tgt = 0 ∧ tier1 q.pa = true
    let near (q : Phys) : Prop := q.pa / 2 ^ 32 % 2 ^ 7 = p.pa / 2 ^ 32 % 2 ^ 7 ∧ q.pa / 2 ^ 10 % 2 ^ 13 = p.pa / 2 ^ 10 % 2 ^ 13
    (row xd .w p → List.Forall₂ (fun r q => row r .r q ∧ near q) srcs ps →
      exec i s = .next (Issues s1 e (e.th.ctx.past 1) (mkAccess s1 e (.rowop op (srcs.map va)) (va xd) 1024 0 (p :: ps) 0 false
        (some f.toNat)) ((xd :: srcs).flatMap (fun r => [r, r + 1])) true)) ∧
    (va xd % 1024 ≠ 0 → exec i s = .next (raiseTrap s1 e.t (trapOf 0x03 (va xd % 2 ^ 57)))) ∧
    (va xd % 1024 = 0 → 2 ^ 57 ≤ va xd → exec i s = .next (raiseTrap s1 e.t (trapOf 0x04 (va xd % 2 ^ 57)))) ∧
    (∀ q, va xd % 1024 = 0 → va xd < 2 ^ 57 → e.xlat s1 (va xd) .w = .ok q → q.tgt ≠ 0 ∨ tier1 q.pa = false →
      exec i s = .next (raiseTrap s1 e.t (trapOf 0x0F (va xd + 9 * 2 ^ 57)))) ∧
    (∀ r rs q, srcs = r :: rs → row xd .w p → row r .r q → ¬near q →
      exec i s = .next (raiseTrap s1 e.t (trapOf 0x0F (va r + 8 * 2 ^ 57))))

end Sys2Proof.Machine
end

