-- ==== Sys2Proof/Certificates/Slice0/Obligations.lean ====
section
/-! DEFINITION. The statements about the model. Each says which rules of spec/ it formalises; the terms in
which they speak stand in Safety.lean. -/

open Sys2Proof Sys2Proof.Machine

/-! Integer and address instructions. -/

/-- R140: what the integer and address instructions compute, at every operand form and width. -/
def Obligations.IntegerResults : Prop :=
  BinaryResult .add Imm.signed32 (fun a v => natWord (a.toNat + v.toNat)) ∧
  BinaryResult .addSat Imm.signed32 (fun a v => intWord (clampS32 (a.toInt + v.toInt))) ∧
  BinaryResult .sub Imm.signed32 (fun a v => intWord ((a.toNat : Int) - v.toNat)) ∧
  BinaryResult .subSat Imm.signed32 (fun a v => intWord (clampS32 (a.toInt - v.toInt))) ∧
  (∀ c xd xa xb xc, Computes (.addc c xd xa xb xc) c 1 [xa, xb, xc] [xd, xd + 1] fun _ rd =>
    Machine.pair xd (BitVec.ofNat 64 ((rd xa).toNat + (rd xb).toNat + (rd xc).toNat % 2))) ∧
  BinaryResult .mul Imm.signed32 (fun a v => natWord (a.toNat * v.toNat)) ∧
  BinaryResult (fun c => .mulh c false) Imm.signed32 (fun a v => intWord (a.toInt * v.toInt / 2 ^ 32)) ∧
  BinaryResult (fun c => .mulh c true) Imm.signed32 (fun a v => natWord (a.toNat * v.toNat / 2 ^ 32)) ∧
  TernaryResult .mad (fun a b d => natWord (a.toNat * b.toNat + d.toNat)) ∧
  (∀ c xd xa xb xc, Computes (.madS64 c xd xa xb xc) c 1 [xa, xb, xc, xc + 1] [xd, xd + 1] fun _ rd =>
    Machine.pair xd (BitVec.ofInt 64 ((rd xa).toInt * (rd xb).toInt + (BitVec.ofNat 64 (pairNat rd xc)).toInt))) ∧
  BinaryResult (fun c => .min c false) Imm.signed32 (fun a v => intWord (min a.toInt v.toInt)) ∧
  BinaryResult (fun c => .min c true) Imm.zero32 (fun a v => natWord (min a.toNat v.toNat)) ∧
  BinaryResult (fun c => .max c false) Imm.signed32 (fun a v => intWord (max a.toInt v.toInt)) ∧
  BinaryResult (fun c => .max c true) Imm.zero32 (fun a v => natWord (max a.toNat v.toNat)) ∧
  UnaryResult .abs (fun a => natWord a.toInt.natAbs) ∧
  BinaryResult .and Imm.zero32 (fun a v => a &&& v) ∧
  BinaryResult .or Imm.zero32 (fun a v => a ||| v) ∧
  BinaryResult .xor Imm.zero32 (fun a v => a ^^^ v) ∧
  BinaryResult .andn Imm.zero32 (fun a v => a &&& ~~~v) ∧
  UnaryResult .not (fun a => ~~~a) ∧
  BinaryResult (fun c => .shl c false) Imm.zero32 (fun a v => natWord (a.toNat * 2 ^ (v.toNat % 32))) ∧
  BinaryResult (fun c => .shr c false) Imm.zero32 (fun a v => natWord (a.toNat / 2 ^ (v.toNat % 32))) ∧
  BinaryResult (fun c => .sar c false) Imm.zero32 (fun a v => intWord (a.toInt / 2 ^ (v.toNat % 32))) ∧
  BinaryResult (fun c => .rol c false) Imm.zero32 (fun a v => a.rotateLeft (v.toNat % 32)) ∧
  PairShiftResult (fun c => .shl c true) (fun a n => BitVec.ofNat 64 (a.toNat * 2 ^ n)) ∧
  PairShiftResult (fun c => .shr c true) (fun a n => BitVec.ofNat 64 (a.toNat / 2 ^ n)) ∧
  PairShiftResult (fun c => .sar c true) (fun a n => BitVec.ofInt 64 (a.toInt / 2 ^ n)) ∧
  PairShiftResult (fun c => .rol c true) (fun a n => a.rotateLeft n) ∧
  UnaryResult (fun c => .clz c false) (fun a => natWord ((List.range 32).takeWhile (fun i => !a.getMsbD i)).length) ∧
  (∀ c xd xa, Computes (.clz c true xd xa) c 1 [xa, xa + 1] [xd] fun _ rd =>
    word xd (natWord ((List.range 64).takeWhile (fun i => !(BitVec.ofNat 64 (pairNat rd xa)).getMsbD i)).length)) ∧
  UnaryResult (fun c => .popc c false) (fun a => natWord ((List.range 32).filter a.getLsbD).length) ∧
  (∀ c xd xa, Computes (.popc c true xd xa) c 1 [xa, xa + 1] [xd] fun _ rd =>
    word xd (natWord ((List.range 64).filter (BitVec.ofNat 64 (pairNat rd xa)).getLsbD).length)) ∧
  UnaryResult (fun c => .brev c false) (fun a => a.reverse) ∧
  (∀ c xd xa, Computes (.brev c true xd xa) c 1 [xa, xa + 1] [xd, xd + 1] fun _ rd =>
    Machine.pair xd (BitVec.ofNat 64 (pairNat rd xa)).reverse) ∧
  UnaryResult .mov (fun a => a) ∧
  (∀ c xd imm, Computes (.liB32 c xd imm) c imm.words [] [xd] fun _ _ => word xd imm.signed32) ∧
  (∀ c xd imm, Computes (.liB64 c xd imm) c imm.words [] [xd, xd + 1] fun _ _ => Machine.pair xd imm.signed64) ∧
  (∀ c xd xa v, Computes (.add64 c xd xa v) c v.words (xa :: (xa + 1) :: v.regs64) [xd, xd + 1] fun _ rd =>
    Machine.pair xd (BitVec.ofNat 64 (pairNat rd xa + (v.value64 rd).toNat))) ∧
  (∀ c xd xa xb sh, Computes (.lea c xd xa xb sh) c 1 [xa, xa + 1, xb] [xd, xd + 1] fun _ rd =>
    Machine.pair xd (BitVec.ofInt 64 (pairNat rd xa + (rd xb).toInt * 2 ^ sh.toNat))) ∧
  (∀ (cc : BitVec 3), cc.toNat < 6 → BinaryResult (fun c => .cmp c cc false) Imm.signed32 (fun a v => if holds cc a v then 1 else 0)) ∧
  (∀ (cc : BitVec 3), 6 ≤ cc.toNat → BinaryResult (fun c => .cmp c cc false) Imm.zero32 (fun a v => if holds cc a v then 1 else 0)) ∧
  (∀ c cc xd xa v, Computes (.cmp c cc true xd xa v) c v.words (xa :: (xa + 1) :: v.regs64) [xd] fun _ rd =>
    word xd (if holds cc (BitVec.ofNat 64 (pairNat rd xa)) (v.value64 rd) then 1 else 0)) ∧
  TernaryResult .sel (fun a b d => if d.toNat ≠ 0 then a else b)

/-- R141: the bit-field and byte instructions. -/
def Obligations.BitFieldResults : Prop :=
  BinaryResult (fun c => .bfe c true) Imm.signed32 (fun a v =>
    let n := min (v.toNat / 2 ^ 8 % 2 ^ 8) 32
    natWord (a.toNat / 2 ^ (v.toNat % 2 ^ 8) % 2 ^ n)) ∧
  BinaryResult (fun c => .bfe c false) Imm.signed32 (fun a v =>
    let n := min (v.toNat / 2 ^ 8 % 2 ^ 8) 32
    let f : Int := ((a.toNat / 2 ^ (v.toNat % 2 ^ 8) % 2 ^ n : Nat) : Int)
    if n = 0 then 0 else intWord (if 2 ^ (n - 1) ≤ f then f - 2 ^ n else f)) ∧
  TernaryResult .bfi (fun a ctl base =>
    let m := natWord ((2 ^ min (ctl.toNat / 2 ^ 8 % 2 ^ 8) 32 - 1) * 2 ^ (ctl.toNat % 2 ^ 8))
    (base &&& ~~~m) ||| (natWord (a.toNat * 2 ^ (ctl.toNat % 2 ^ 8)) &&& m)) ∧
  TernaryResult .prmt (fun a b sel =>
    let byte (s : Nat) : Nat :=
      let y := (b.toNat * 2 ^ 32 + a.toNat) / 2 ^ (8 * (s % 8)) % 256
      if s % 16 < 8 then y else if 128 ≤ y then 255 else 0
    natWord (byte sel.toNat + 2 ^ 8 * byte (sel.toNat / 16) + 2 ^ 16 * byte (sel.toNat / 256)
      + 2 ^ 24 * byte (sel.toNat / 4096)))

/-! FP32, conversions and packed BF16. -/

/-- R138, R142 to R149 with R134 to R136: which FP operation each FP32 instruction applies to its operands after their
modifiers, under which rounding direction, and that an enabled flag traps without a write. -/
def Obligations.FloatResults : Prop :=
  FpBinaryResult .fadd faddOp ∧
  FpBinaryResult .fsub fsubOp ∧
  FpBinaryResult .fmul fmulOp ∧
  (∀ c md xd xa xb xc, Computes (.ffma c md xd xa xb xc) c 1 [xa, xb, xc] [xd] fun fpc rd =>
    fpWord fpc xd (ffmaOp (rmOf fpc) (modified sign32 md 0 (rd xa)) (modified sign32 md 1 (rd xb))
      (modified sign32 md 2 (rd xc)))) ∧
  FpBinaryResult .fmin (fun _ => fminmaxOp false) ∧
  FpBinaryResult .fmax (fun _ => fminmaxOp true) ∧
  (∀ c cc xd xa v, Computes (.fcmp c cc xd xa v) c v.words (xa :: v.regs) [xd] fun fpc rd =>
    let r := fcmpOp cc (rd xa) (v.value Imm.fp32 rd)
    fpWord fpc xd (if r.1 then 1 else 0, r.2)) ∧
  FpUnaryResult .frcp frcpOp ∧
  FpUnaryResult .frsq (fun _ => frsqOp) ∧
  FpUnaryResult .fsqrt fsqrtOp ∧
  FpUnaryResult .fex2 (fun _ => fex2Op) ∧
  FpUnaryResult .flg2 (fun _ => flg2Op)

/-- R149: the class mask of `fcls`. -/
def Obligations.FloatClassMask : Prop :=
  FlagResult .fcls fun a =>
    (if isNaN a then (if isSNaN a then 0x100 else 0x200)
     else if isInf a then (if isNeg a then 0x001 else 0x080)
     else if isZero a then (if isNeg a then 0x008 else 0x010)
     else if isSub a then (if isNeg a then 0x004 else 0x020)
     else (if isNeg a then 0x002 else 0x040), 0)

/-- R133, R134, R143: what addition, subtraction, multiplication and multiply-add deliver for a NaN operand, for
infinities and for an exact zero sum. R144, R145: minimum and maximum, and the comparisons with their flags; `ulps`
orders the infinities beyond every finite value. R146: the special operands of `frcp`, `frsq` and `fsqrt`. -/
def Obligations.FloatSpecials : Prop :=
  (∀ (rm : Rm) (a b d : Word),
     (isNaN a ∨ isNaN b →
       faddOp rm a b = (0x7FC00000, if isSNaN a ∨ isSNaN b then 1 else 0) ∧
       fsubOp rm a b = (0x7FC00000, if isSNaN a ∨ isSNaN b then 1 else 0) ∧
       fmulOp rm a b = (0x7FC00000, if isSNaN a ∨ isSNaN b then 1 else 0)) ∧
     (isNaN a ∨ isNaN b ∨ isNaN d →
       ffmaOp rm a b d = (0x7FC00000,
         if isSNaN a ∨ isSNaN b ∨ isSNaN d ∨ (isInf a ∧ isZero b) ∨ (isZero a ∧ isInf b) then 1 else 0)) ∧
     (isInf a → isInf b → isNeg a ≠ isNeg b → faddOp rm a b = (0x7FC00000, 1)) ∧
     (isInf a → isInf b → isNeg a = isNeg b → faddOp rm a b = (a, 0) ∧ fsubOp rm a b = (0x7FC00000, 1)) ∧
     (isInf a → isFin b → faddOp rm a b = (a, 0) ∧ faddOp rm b a = (a, 0)) ∧
     (isInf a → isZero b → fmulOp rm a b = (0x7FC00000, 1) ∧ fmulOp rm b a = (0x7FC00000, 1)) ∧
     (isFin a → isFin b → isNeg a ≠ isNeg b → ulps a + ulps b = 0 →
       faddOp rm a b = (if rm = .rdn then 0x80000000 else 0, 0))) ∧
  (∀ (a b : Word) (mx : Bool) (cc : BitVec 3),
     (isNaN a → isNaN b → fminmaxOp mx a b = (0x7FC00000, if isSNaN a ∨ isSNaN b then 1 else 0)) ∧
     (isNaN a → isNaN b = false → fminmaxOp mx a b = (b, if isSNaN a then 1 else 0)) ∧
     (isNaN a = false → isNaN b → fminmaxOp mx a b = (a, if isSNaN b then 1 else 0)) ∧
     (isNaN a = false → isNaN b = false → ulps a < ulps b → fminmaxOp false a b = (a, 0) ∧ fminmaxOp true a b = (b, 0)) ∧
     (isNaN a = false → isNaN b = false → ulps b < ulps a → fminmaxOp false a b = (b, 0) ∧ fminmaxOp true a b = (a, 0)) ∧
     (isZero a → isZero b → isNeg a → isNeg b = false →
       fminmaxOp false a b = (a, 0) ∧ fminmaxOp true a b = (b, 0) ∧
       fminmaxOp false b a = (a, 0) ∧ fminmaxOp true b a = (b, 0)) ∧
     (fcmpOp cc a b =
       let uno : Bool := isNaN a || isNaN b
       (match cc.toNat with
         | 0 => !uno && decide (ulps a = ulps b)
         | 1 => uno || decide (ulps a ≠ ulps b)
         | 2 => !uno && decide (ulps a < ulps b)
         | 3 => !uno && decide (ulps a ≤ ulps b)
         | 4 => !uno && decide (ulps b < ulps a)
         | 5 => !uno && decide (ulps b ≤ ulps a)
         | 6 => uno
         | _ => !uno,
        if isSNaN a ∨ isSNaN b ∨ (uno ∧ 2 ≤ cc.toNat ∧ cc.toNat ≤ 5) then 1 else 0))) ∧
  (∀ (rm : Rm) (a : Word),
     (isZero a → frcpOp rm a = (if isNeg a then 0xFF800000 else 0x7F800000, 2) ∧
       frsqOp a = (if isNeg a then 0xFF800000 else 0x7F800000, 2) ∧ fsqrtOp rm a = (a, 0)) ∧
     (isInf a → isNeg a = false → frcpOp rm a = (0, 0) ∧ frsqOp a = (0, 0) ∧ fsqrtOp rm a = (a, 0)) ∧
     (isInf a → isNeg a → frcpOp rm a = (0x80000000, 0) ∧ frsqOp a = (0x7FC00000, 1) ∧ fsqrtOp rm a = (0x7FC00000, 1)) ∧
     (isFin a → isZero a = false → isNeg a → frsqOp a = (0x7FC00000, 1) ∧ fsqrtOp rm a = (0x7FC00000, 1)) ∧
     (isNaN a → frcpOp rm a = (0x7FC00000, if isSNaN a then 1 else 0) ∧
       frsqOp a = (0x7FC00000, if isSNaN a then 1 else 0) ∧ fsqrtOp rm a = (0x7FC00000, if isSNaN a then 1 else 0)))

/-- R133: a finite sum, product or multiply-add is the exact result rounded once, with NX exactly when it is not
exact. The values are counted in units of 2^-149, so a product is counted in units of 2^-298. R146: so are the
reciprocal, the square root and the reciprocal square root of a finite operand that is not special; a reciprocal
overflows exactly for a magnitude of at most 2^-128. R147, R148: `fex2` and `flg2` of a finite operand round once, to
nearest-even, the value that the rule's algorithm gives, with NX and UF as the rule says and no other flag; each
constant of `fex2` is the square root of the one before it within the rounding of both. -/
def Obligations.RoundedOnce : Prop :=
  (∀ j, j < 62 →
    let c := ex2C.getD j 0
    let before := if j = 0 then 2 ^ 63 else ex2C.getD (j - 1) 0
    (2 * c - 1) ^ 2 ≤ (4 * before + 2) * 2 ^ 62 ∧ (4 * before - 2) * 2 ^ 62 ≤ (2 * c + 1) ^ 2) ∧
  ∀ (rm : Rm) (a b d : Word), isFin a → isFin b → isFin d →
    RoundedTo rm (ulps a + ulps b) 1 (faddOp rm a b) ∧
    RoundedTo rm (ulps a - ulps b) 1 (fsubOp rm a b) ∧
    RoundedTo rm (ulps a * ulps b) (2 ^ 149) (fmulOp rm a b) ∧
    RoundedTo rm (ulps a * ulps b + ulps d * 2 ^ 149) (2 ^ 149) (ffmaOp rm a b d) ∧
    (isZero a = false →
      RoundedTo rm (if isNeg a then -2 ^ 298 else 2 ^ 298) (ulps a).natAbs (frcpOp rm a) ∧
      ((ulps a).natAbs ≤ 2 ^ 21 → (frcpOp rm a).2 = 0x14) ∧ (2 ^ 21 < (ulps a).natAbs → isFin (frcpOp rm a).1)) ∧
    (0 < ulps a → RootTo rm ((ulps a).toNat * 2 ^ 149) 1 (fsqrtOp rm a) ∧ RootTo .rne (2 ^ 447) (ulps a).toNat (frsqOp a)) ∧
    (let n := ulps a / 2 ^ 149
     let f : Nat := (ulps a % 2 ^ 149).toNat
     let F := f * 2 ^ 62 / 2 ^ 149
     let pv := (List.range 62).foldl (fun p i => if F.testBit (61 - i) then p * ex2C.getD i 0 / 2 ^ 62 else p) (2 ^ 62)
     let num : Int := (pv * 2 ^ (n + 87).toNat : Nat)
     let den : Nat := 2 ^ (-(n + 87)).toNat
     let r := fex2Op a
     let nx : Bool := decide (f ≠ 0) || decide (num ≠ den * ulps r.1)
     (n < -4096 → r = (0, 0x18)) ∧ (128 ≤ n → r = (0x7F800000, 0x14)) ∧ (n < 127 → isFin r.1) ∧
     (-4096 ≤ n → n < 128 → NearestTo num den r.1 ∧ (isFin r.1 → r.2 &&& 7 = 0 ∧ r.2.getLsbD 4 = nx ∧
       (ulps r.1 < 2 ^ 23 → r.2.getLsbD 3 = nx) ∧ (2 ^ 23 < ulps r.1 → r.2.getLsbD 3 = false)))) ∧
    (0 < ulps a →
     let u := (ulps a).toNat
     let k := u.log2
     let last := (List.range 62).foldl (fun (x : Nat × Nat) i =>
       let y := x.1 * x.1 / 2 ^ 62
       if 2 ^ 63 ≤ y then (y / 2, x.2 + 2 ^ (61 - i)) else (y, x.2)) (u * 2 ^ 62 / 2 ^ k, 0)
     isFin (flg2Op a).1 ∧ NearestTo ((((k : Int) - 149) * 2 ^ 62 + last.2) * 2 ^ 87) 1 (flg2Op a).1 ∧
     (flg2Op a).2 = (if u = 2 ^ k then 0 else 16) ∧ (a = 0x3F800000 → (flg2Op a).1 = 0))

/-- R151 to R153, R162, R163: which conversion each `fcvt` form applies, that it rounds whatever FPC.RM holds, and
that a form naming a slot without a format is an undefined encoding with reason 7. -/
def Obligations.ConversionResults : Prop :=
  FlagResult .fcvtF32S32 (fcvtF32IntOp false) ∧
  FlagResult .fcvtF32B32 (fcvtF32IntOp true) ∧
  FlagResult .fcvtS32F32 (fcvtIntF32Op false) ∧
  FlagResult .fcvtB32F32 (fcvtIntF32Op true) ∧
  SlotResult .fcvtF32Fs fcvtF32FsOp (fun ef a fs => if ef = 13 ∧ a.toNat % 4 = 2 then .status fs.toNat 1 else .none) ∧
  SlotResult .fcvtFsF32 (fun ef => fcvtFsF32Op ef false) (fun _ _ _ => .none) ∧
  SlotResult .fcvtFsF32Sat (fun ef => fcvtFsF32Op ef true) (fun _ _ _ => .none) ∧
  (∀ c xd xa xb, Computes (.fcvtBf16x2F32 c xd xa xb) c 1 [xa, xb] [xd] fun fpc rd =>
    fpWord fpc xd (fcvtBf16x2Op false (rd xa) (rd xb))) ∧
  (∀ c xd xa xb, Computes (.fcvtBf16x2F32Sat c xd xa xb) c 1 [xa, xb] [xd] fun fpc rd =>
    fpWord fpc xd (fcvtBf16x2Op true (rd xa) (rd xb))) ∧
  (∀ c xd xa hi, Computes (.fcvtF32Bf16 c xd xa hi) c 1 [xa] [xd] fun fpc rd =>
    let h := (rd xa).toNat / 2 ^ (if hi then 16 else 0) % 2 ^ 16
    let x := natWord (h * 2 ^ 16)
    fpWord fpc xd (if isNaN x then 0x7FC00000 else x, if isSNaN x then 1 else 0)) ∧
  (∀ c fs xd xa s e, s.env s.cur = some e → e.th.blocked {} = false → slotEF (e.slot fs) = 0 →
    exec (.fcvtF32Fs c fs xd xa) s = .next (raiseTrap s e.t (trapUndef 7)) ∧
    exec (.fcvtFsF32 c fs xd xa) s = .next (raiseTrap s e.t (trapUndef 7)) ∧
    exec (.fcvtFsF32Sat c fs xd xa) s = .next (raiseTrap s e.t (trapUndef 7)))

/-- R151, R133: the conversions between FP32 and integers. An integer is rounded to the nearest FP32 value; a finite
FP32 value is rounded to the nearest integer, the even one of two, and out of range gives the range's end with NV; a
NaN gives 0 with NV and an infinity the range's end with NV. R152: a finite FP32 value goes to a floating format as
the nearest of its finite codes, with the flags, and one beyond the largest, a NaN and an infinity as the rule's table
says; to an integer format or T2 as the nearest integer in its range; to E8M0 as the nearest power of two. R153: a
code of a narrow format has its value in FP32, exactly, and an INT32 element the nearest one. -/
def Obligations.IntegerConversions : Prop :=
  (∀ (a : Word) (uns : Bool),
    let lo : Int := if uns then 0 else -2 ^ 31
    let hi : Int := if uns then 2 ^ 32 - 1 else 2 ^ 31 - 1
    RoundedTo .rne ((if uns then (a.toNat : Int) else a.toInt) * 2 ^ 149) 1 (fcvtF32IntOp uns a) ∧
    (isNaN a → fcvtIntF32Op uns a = (0, 1)) ∧
    (isInf a → fcvtIntF32Op uns a = (intWord (if isNeg a then lo else hi), 1)) ∧
    (∀ n : Int, isFin a → 2 * (ulps a - n * 2 ^ 149).natAbs ≤ 2 ^ 149 →
      (2 * (ulps a - n * 2 ^ 149).natAbs = 2 ^ 149 → n % 2 = 0) →
      fcvtIntF32Op uns a =
        if n < lo then (intWord lo, 1) else if hi < n then (intWord hi, 1)
        else (intWord n, if ulps a = n * 2 ^ 149 then 0 else 16))) ∧
  (∀ (a : Word) (ef eb mb bias top : Nat) (sat : Bool), narrowFormat ef = some (eb, mb, bias, top) →
    let value := narrowUlps eb mb bias
    let signs := 2 ^ (eb + mb)
    let neg := if isNeg a then signs else 0
    let infs : Bool := ef == 2 || ef == 3 || ef == 5
    let limit := value top + (value top - value (top - 1)) / 2
    let fits := (ulps a).natAbs < limit ∨ (ef = 4 ∧ (ulps a).natAbs = limit)
    let r := fcvtFsF32Op ef sat a
    let code := r.1.toNat
    (isFin a → fits → code % signs ≤ top ∧ code / signs = neg / signs ∧
      (∀ y, y < 2 * signs → y % signs ≤ top → (ulps a - value code).natAbs ≤ (ulps a - value y).natAbs ∧
        ((ulps a - value code).natAbs = (ulps a - value y).natAbs → value y ≠ value code → code % 2 = 0)) ∧
      r.2 &&& 7 = 0 ∧ r.2.getLsbD 4 = decide (ulps a ≠ value code) ∧
      (code % signs < 2 ^ mb → r.2.getLsbD 3 = decide (ulps a ≠ value code)) ∧ (2 ^ mb < code % signs → r.2.getLsbD 3 = false)) ∧
    (isFin a → ¬fits →
      r = (natWord (if sat ∨ ef ∉ [2, 3, 4, 5] then top + neg else if infs then top + 1 + neg else 0x7F), 0x14)) ∧
    (isInf a → r = (natWord (if infs then (if sat then top else top + 1) + neg
        else if ef = 4 then (if sat then top + neg else 0x7F) else top + neg),
      if infs ∨ (ef = 4 ∧ sat) then 0 else 1)) ∧
    (isNaN a → r = (natWord (if ef = 2 then 0x7FC0 else if ef = 3 then 0x7E00 else if ef = 4 ∨ ef = 5 then 0x7F else 0),
      if ef ∈ [2, 3, 4, 5] ∧ isSNaN a = false then 0 else 1)) ∧
    (let c := a.toNat % (2 * signs)
     let w := fcvtF32FsOp ef a
     w.2 = 0 ∧ (c % signs ≤ top → isFin w.1 ∧ ulps w.1 = value c ∧ isNeg w.1 = decide (signs ≤ c)) ∧
     (top < c % signs → w.1 = if infs ∧ c % signs = top + 1 then (if signs ≤ c then 0xFF800000 else 0x7F800000) else 0x7FC00000))) ∧
  (∀ (a : Word) (ef w : Nat) (sat : Bool), (ef, w) ∈ [(10, 4), (11, 8), (12, 16), (13, 2)] →
    let lo : Int := if ef = 13 then -1 else -2 ^ (w - 1)
    let hi : Int := 2 ^ (w - 1) - 1
    let code (n : Int) : Word := natWord (n % 2 ^ w).toNat
    (isNaN a → fcvtFsF32Op ef sat a = (0, 1)) ∧
    (isInf a → fcvtFsF32Op ef sat a = (code (if isNeg a then lo else hi), 1)) ∧
    (∀ n : Int, isFin a → 2 * (ulps a - n * 2 ^ 149).natAbs ≤ 2 ^ 149 →
      (2 * (ulps a - n * 2 ^ 149).natAbs = 2 ^ 149 → n % 2 = 0) →
      fcvtFsF32Op ef sat a =
        if n < lo then (code lo, 1) else if hi < n then (code hi, 1)
        else (code n, if ulps a = n * 2 ^ 149 then 0 else 16)) ∧
    (∀ n : Int, lo ≤ n → n ≤ hi → a.toNat % 2 ^ w = (n % 2 ^ w).toNat →
      isFin (fcvtF32FsOp ef a).1 ∧ ulps (fcvtF32FsOp ef a).1 = n * 2 ^ 149 ∧ (fcvtF32FsOp ef a).2 = 0)) ∧
  (∀ (a : Word) (sat : Bool),
    let u := (ulps a).toNat
    let k := u.log2
    let j := if 3 * 2 ^ k < 2 * u ∨ (2 * u = 3 * 2 ^ k ∧ k % 2 = 1) then k + 1 else k
    (isFin a → 0 < ulps a → fcvtFsF32Op 9 sat a =
      if j < 22 then (0, 0x18) else if 276 < j then (254, 0x14) else (natWord (j - 22), if u = 2 ^ k then 0 else 16)) ∧
    (isNaN a ∨ isInf a ∨ ulps a ≤ 0 → fcvtFsF32Op 9 sat a = (0xFF, 1)) ∧
    (a.toNat % 256 = 255 → fcvtF32FsOp 9 a = (0x7FC00000, 0)) ∧
    (a.toNat % 256 < 255 → isFin (fcvtF32FsOp 9 a).1 ∧ ulps (fcvtF32FsOp 9 a).1 = 2 ^ (a.toNat % 256 + 22) ∧
      (fcvtF32FsOp 9 a).2 = 0) ∧
    (a.toNat % 4 = 2 → fcvtF32FsOp 13 a = (0, 0)) ∧
    RoundedTo .rne (a.toInt * 2 ^ 149) 1 (fcvtF32FsOp 14 a) ∧ isFin (fcvtF32FsOp 14 a).1 ∧
    (fcvtF32FsOp 14 a).2 &&& 15 = 0)

/-- R154, R136, R138: the packed BF16 instructions work on the two halves apart, and neither half is written when one
raises an enabled flag. -/
def Obligations.PackedResults : Prop :=
  (∀ c md xd xa xb, Computes (.fadd2Bf16 c md xd xa xb) c 1 [xa, xb] [xd] fun fpc rd =>
    let half (k : Nat) := deliverBf16 (rmOf fpc) (addVal (rmOf fpc)
      (halfVal k (modified signs16 md 0 (rd xa))) (halfVal k (modified signs16 md 1 (rd xb))))
    fpHalves fpc xd (half 0) (half 1)) ∧
  (∀ c md xd xa xb, Computes (.fmul2Bf16 c md xd xa xb) c 1 [xa, xb] [xd] fun fpc rd =>
    let half (k : Nat) := deliverBf16 (rmOf fpc) (mulVal
      (halfVal k (modified signs16 md 0 (rd xa))) (halfVal k (modified signs16 md 1 (rd xb))))
    fpHalves fpc xd (half 0) (half 1)) ∧
  (∀ c md xd xa xb xc, Computes (.ffma2Bf16 c md xd xa xb xc) c 1 [xa, xb, xc] [xd] fun fpc rd =>
    let half (k : Nat) := deliverBf16 (rmOf fpc) (fmaVal (rmOf fpc)
      (halfVal k (modified signs16 md 0 (rd xa))) (halfVal k (modified signs16 md 1 (rd xb)))
      (halfVal k (modified signs16 md 2 (rd xc))))
    fpHalves fpc xd (half 0) (half 1))

/-! Pair words. -/

/-- R25, R26, R28: each slot of a pair word has the effect of the full instruction of its name, both slots read before
either writes, and neither writes when one traps. -/
def Obligations.PairSlotResults : Prop :=
  let signed (v : BitVec 8) : Word := v.signExtend 32
  let zero (v : BitVec 8) : Word := v.setWidth 32
  PairResult .pairAdd signed (fun a b => natWord (a.toNat + b.toNat)) ∧
  PairResult .pairSub signed (fun a b => intWord ((a.toNat : Int) - b.toNat)) ∧
  PairResult .pairAnd zero (fun a b => a &&& b) ∧
  PairResult .pairOr zero (fun a b => a ||| b) ∧
  PairResult .pairXor zero (fun a b => a ^^^ b) ∧
  PairResult .pairShl zero (fun a b => natWord (a.toNat * 2 ^ (b.toNat % 32))) ∧
  PairResult .pairShr zero (fun a b => natWord (a.toNat / 2 ^ (b.toNat % 32))) ∧
  PairResult .pairSar zero (fun a b => intWord (a.toInt / 2 ^ (b.toNat % 32))) ∧
  PairResult .pairMinS32 signed (fun a b => intWord (min a.toInt b.toInt)) ∧
  PairResult .pairMinB32 zero (fun a b => natWord (min a.toNat b.toNat)) ∧
  PairResult .pairMaxS32 signed (fun a b => intWord (max a.toInt b.toInt)) ∧
  PairResult .pairMaxB32 zero (fun a b => natWord (max a.toNat b.toNat)) ∧
  (∀ d r, PairSlot (.pairMov d (.reg r)) [r] (some d) fun _ rd => word d (rd r)) ∧
  (∀ d r v, PairSlot (.pairMov d (.imm r v)) [] (some d) fun _ _ => word d (signed v)) ∧
  PairFpResult .pairFadd faddOp ∧
  PairFpResult .pairFmul fmulOp ∧
  PairFpResult .pairFmin (fun _ => fminmaxOp false) ∧
  PairFpResult .pairFmax (fun _ => fminmaxOp true) ∧
  PairSlot .pairPnop [] none fun _ _ => ⟨[], 0, none, .none⟩

/-! Guards on units, and control transfers. -/

/-- R19, R198: a guarded unit waits for an Open guard, and performs nothing when its guard fails. One of each shape:
registers, FP, places, loads, stores, atomics, special registers, and units that write no register. -/
def Obligations.GuardedUnits : Prop :=
  (∀ c xd xa v, Guarded (.add c xd xa v) (fun _ => .queued) c v.words) ∧
  (∀ c xd xa xb xc, Guarded (.sel c xd xa xb xc) (fun _ => .queued) c 1) ∧
  (∀ c md xd xa v, Guarded (.fmul c md xd xa v) (fun _ => .queued) c v.words) ∧
  (∀ c xd xa, Guarded (.fcls c xd xa) (fun _ => .queued) c 1) ∧
  (∀ c xd xa, Guarded (.repack c xa) (fun _ => .queued) c 1 ∧ Guarded (.anch c xd xa) (fun _ => .queued) c 1) ∧
  (∀ c sz x xa off, Guarded (.ld c sz x xa off) (fun _ => Mode.counted) c off.words ∧
    Guarded (.st c sz xa x off) (fun _ => Mode.counted) c off.words) ∧
  (∀ c (sz : BitVec 2) n x xa off, sz ≠ 3 →
    Guarded (.ldc c sz n x xa off) (fun _ => Mode.counted) c off.words) ∧
  (∀ c pl w64 xd xa xb xc,
    let m (_ : State) : Mode := Mode.counted
    Guarded (.atomAdd c pl w64 xd xa xb) m c 1 ∧ Guarded (.atomXchg c pl w64 xd xa xb) m c 1 ∧
    Guarded (.cas c pl w64 xd xa xb xc) m c 1) ∧
  (∀ c sr x, Guarded (.rds c x sr) (fun _ => { settled := sr == 0x11, lane := false }) c 1 ∧
    Guarded (.wrs c sr x) (fun _ => { settled := sr == 0x10 || sr == 0x11 || sr == 0x2A, lane := false }) c 1)

/-- R70 to R73, R79, R35: `nop` and the transfers that leave DEPTH alone. A taken branch goes to the header at
address(branch) + 8 * offset or in the register pair; one that is not taken goes past its word. -/
def Obligations.Transfers : Prop :=
  ∀ (s : State) (e : Env) (c : Ctl) (s' : State),
    (Passes s .queued c e → exec (.nop c) s = .next (Past s e { e.th.ctx with pc := e.th.ctx.pc + 8, crem := e.th.ctx.crem - 1 })) ∧
    (∀ off, Passes s {} c e → Lands s e (e.th.ctx.pc + BitVec.ofInt 64 (8 * off.toInt)) s' →
      exec (.br c off) s = .next (Past s' e (e.th.ctx.land (e.th.ctx.pc + BitVec.ofInt 64 (8 * off.toInt))))) ∧
    (∀ off, Passes s { held := true } c e → e.guard c.g.toNat ≠ 2 →
      let t := e.th.ctx.pc + BitVec.ofInt 64 (8 * off.toInt)
      if (e.guard c.g.toNat = 1) ↔ c.gn = false then
        Lands s e t s' → exec (.brg c off) s = .next (Past s' e (e.th.ctx.land t))
      else exec (.brg c off) s = .next (Past s e { e.th.ctx with pc := e.th.ctx.pc + 8, crem := e.th.ctx.crem - 1 })) ∧
    (∀ cc (w64 : Bool) xd xa off s1 e1,
      Ready s {} c (if w64 then [xd, xd + 1, xa, xa + 1] else [xd, xa]) s1 e1 →
      Arrived e1 (if w64 then [xd, xd + 1, xa, xa + 1] else [xd, xa]) →
      let t := e1.th.ctx.pc + BitVec.ofInt 64 (8 * off.toInt)
      let taken := if w64 then holds cc (BitVec.ofNat 64 (pairNat e1.th.read xd)) (BitVec.ofNat 64 (pairNat e1.th.read xa))
        else holds cc (e1.th.read xd) (e1.th.read xa)
      if taken then Lands s1 e1 t s' → exec (.brc c cc w64 xd xa off) s = .next (Past s' e1 (e1.th.ctx.land t))
      else exec (.brc c cc w64 xd xa off) s =
        .next (Past s1 e1 { e1.th.ctx with pc := e1.th.ctx.pc + 8, crem := e1.th.ctx.crem - 1 })) ∧
    (∀ xa s1 e1, Ready s {} c [xa, xa + 1] s1 e1 → Arrived e1 [xa, xa + 1] →
      let t := BitVec.ofNat 64 (pairNat e1.th.read xa)
      Lands s1 e1 t s' → exec (.jmp c xa) s = .next (Past s' e1 (e1.th.ctx.land t)))

/-- R36, R73, R74, R75: where a transfer traps at its own unit. A target with low bits set, or whose word is no
header, is a bad branch target; one that is not canonical is not present; `ret` at depth 0 is a bad branch target; a
call at the depth limit traps with the address of the entry. -/
def Obligations.BadTransfers : Prop :=
  ∀ (s s1 : State) (c : Ctl) (e : Env),
    let rel (k : Int) : DWord := e.th.ctx.pc + BitVec.ofInt 64 (8 * k)
    let limit (i : Instr) (s0 : State) (t : DWord) : Prop := ∀ s2, Lands s0 e t s2 → e.th.ctx.depth = e.la.depthLimit →
      exec i s = .next (raiseTrap s2 e.t (trapOf 0x05
        ((e.la.csb + 8 * (e.la.depthLimit * (512 * e.gt + tTid e.t) + e.th.ctx.depth)) % 2 ^ 57)))
    (∀ off : BitVec 32, Passes s {} c e →
      BadTarget (.br c off) s s e (rel off.toInt) ∧ BadTarget (.call c off) s s e (rel off.toInt) ∧
      limit (.call c off) s (rel off.toInt)) ∧
    (∀ off : BitVec 32, Passes s { held := true } c e → e.guard c.g.toNat ≠ 2 →
      (e.guard c.g.toNat = 1 ↔ c.gn = false) → BadTarget (.brg c off) s s e (rel off.toInt)) ∧
    (∀ cc (w64 : Bool) xd xa (off : BitVec 16), Ready s {} c (if w64 then [xd, xd + 1, xa, xa + 1] else [xd, xa]) s1 e →
      Arrived e (if w64 then [xd, xd + 1, xa, xa + 1] else [xd, xa]) →
      (if w64 then holds cc (BitVec.ofNat 64 (pairNat e.th.read xd)) (BitVec.ofNat 64 (pairNat e.th.read xa))
        else holds cc (e.th.read xd) (e.th.read xa)) = true →
      BadTarget (.brc c cc w64 xd xa off) s s1 e (rel off.toInt)) ∧
    (∀ xa, Ready s {} c [xa, xa + 1] s1 e → Arrived e [xa, xa + 1] →
      let t := BitVec.ofNat 64 (pairNat e.th.read xa)
      BadTarget (.jmp c xa) s s1 e t ∧ BadTarget (.callr c xa) s s1 e t ∧ limit (.callr c xa) s1 t) ∧
    (Passes s {} c e →
      (e.th.ctx.depth = 0 → exec (.ret c) s = .next (raiseTrap s e.t (trapOf 0x02 0))) ∧
      (∀ v, 0 < e.th.ctx.depth →
        readNow s e ((e.la.csb + 8 * (e.la.depthLimit * (512 * e.gt + tTid e.t) + (e.th.ctx.depth - 1))) % 2 ^ 57) 8 =
          .ok s1 v → BadTarget (.ret c) s s1 e (BitVec.ofNat 64 v)))

/-- R59, R74, R75: a call pushes the address of the next word at CSB + 8 * (L * (512 * GT + TID) + DEPTH), as a store
that performs when the call commits, and counts DEPTH; a return reads the entry below and goes there. -/
def Obligations.CallsAndReturns : Prop :=
  ∀ (s : State) (c : Ctl),
    (∀ (e : Env) off s1 p, Passes s {} c e →
      let t := e.th.ctx.pc + BitVec.ofInt 64 (8 * off.toInt)
      let va := (e.la.csb + 8 * (e.la.depthLimit * (512 * e.gt + tTid e.t) + e.th.ctx.depth)) % 2 ^ 57
      Lands s e t s1 → e.th.ctx.depth ≠ e.la.depthLimit → e.xlat s1 va .w = .ok p → p.hole = false →
      exec (.call c off) s = .next (Issues s1 e { e.th.ctx.land t with depth := e.th.ctx.depth + 1 }
        (mkAccess s1 e .push va 8 (e.th.ctx.pc + 8).toNat [p] 0 false none) [] true)) ∧
    (∀ (e : Env) xa s0 s1 p, Ready s {} c [xa, xa + 1] s0 e → Arrived e [xa, xa + 1] →
      let t := BitVec.ofNat 64 (pairNat e.th.read xa)
      let va := (e.la.csb + 8 * (e.la.depthLimit * (512 * e.gt + tTid e.t) + e.th.ctx.depth)) % 2 ^ 57
      Lands s0 e t s1 → e.th.ctx.depth ≠ e.la.depthLimit → e.xlat s1 va .w = .ok p → p.hole = false →
      exec (.callr c xa) s = .next (Issues s1 e { e.th.ctx.land t with depth := e.th.ctx.depth + 1 }
        (mkAccess s1 e .push va 8 (e.th.ctx.pc + 8).toNat [p] 0 false none) [] true)) ∧
    (∀ (e : Env) s1 v s2, Passes s {} c e → 0 < e.th.ctx.depth →
      let va := (e.la.csb + 8 * (e.la.depthLimit * (512 * e.gt + tTid e.t) + (e.th.ctx.depth - 1))) % 2 ^ 57
      readNow s e va 8 = .ok s1 v → Lands s1 e (BitVec.ofNat 64 v) s2 →
      exec (.ret c) s = .next (Past s2 e { e.th.ctx.land (BitVec.ofNat 64 v) with depth := e.th.ctx.depth - 1 }))

/-- R76 to R79, R66, R101, R128: each of these units completes. `exit` and a `refill` of an empty work queue end the
thread, an `exit` behind older units as it commits, once its far values can reach their backing words, which otherwise
trap at it: where another thread of its team is live, it has exited, with no wait, no proxy slot and no lock left, and
no byte changes of a thread whose blocks are all near. A `refill` with an item takes the one at the head of the team's
slice into a pair and starts again at depth 0; `repack` sets the key; `yld` starts a yield exclusion of 64 clk. -/
def Obligations.ThreadUnits : Prop :=
  ∀ (s : State) (c : Ctl),
    (∀ (e : Env) (i : Instr), (i = .exit c ∨ (∃ xd, i = .refill c xd) ∧ e.la.wqn ≤ e.tm.wqHead) →
      Passes s { settled := true } c e →
      (∀ ti, spillChecks s e (List.range 32) = .trap ti → exec i s = .next (raiseTrap s e.t ti)) ∧
      (∀ s1, spillChecks s e (List.range 32) = .ok s1 → spillsWait s e.t = false →
      ∃ t, exec i s = .next t ∧ t = exitThread (Gone s e e.th.ctx) e.t ∧
        ∀ u x, u ≠ e.t → teamKey u = teamKey e.t → tTid u < 32 * e.tm.ngrp → s.thread? u = some x → x.exited = false →
          e.tm.halted = false →
          (∃ th, t.thread? e.t = some th ∧ th.exited = true ∧ th.wait = .none ∧ th.bound = [] ∧ th.xhold = false ∧
            th.ctx.pc = e.th.ctx.pc) ∧
          ((∀ r : Reg, (e.th.ctx.place r).far = false) → SameMemory s t))) ∧
    (∀ e, Passes s .queued c e → e.th.window ≠ [] → exec (.exit c) s = .next (Behind s e e.th.ctx .exit 0)) ∧
    (∀ e0 e xd s1 s2 v, Passes s { settled := true } c e0 → e0.tm.wqHead < e0.la.wqn →
      Reads s e0 [xd, xd + 1] s1 e →
      readNow s1 e ((e.la.wqb + 8 * (e.la.wqn * e.gt + e.tm.wqHead)) % 2 ^ 57) 8 = .ok s2 v →
      ∃ t th, exec (.refill c xd) s = .next (t.modTeam (teamKey e.t) (fun tm => { tm with wqHead := tm.wqHead + 1 })) ∧
        Settled s2 t e c.k [(xd, natWord v), (xd + 1, natWord (v / 2 ^ 32))] { e.th.ctx.past 1 with depth := 0 } th) ∧
    (∀ e xa s1, Ready s .queued c [xa] s1 e → Arrived e [xa] →
      exec (.repack c xa) s = .next (Past s1 e { e.th.ctx.past 1 with key := e.th.read xa })) ∧
    (∀ e, Passes s .queued c e → ∃ th, (Past s e (e.th.ctx.past 1)).thread? e.t = some th ∧
      exec (.yld c) s = .next ((Past s e (e.th.ctx.past 1)).setThread e.t { th with yieldEnd := some (s.clk + 64) }))

/-! Traps. -/

/-- R350: `trap` and `brk` commit and then raise their causes, so that EPC is the word after them. -/
def Obligations.TrapInstructions : Prop :=
  ∀ (s : State) (c : Ctl) (e : Env), Passes s { settled := true } c e →
    (∀ imm, exec (.trap c imm) s =
      .next (takeTrap (Gone s e (e.th.ctx.past 1)) e.t ⟨0x10, 0, 0, false, imm.setWidth 64, 0⟩)) ∧
    exec (.brk c) s = .next (takeTrap (Gone s e (e.th.ctx.past 1)) e.t ⟨0x11, 0, 0, false, 0, 0⟩)

/-- R343, R345, R348: what taking a trap saves and where it goes, when TMASK has the bit of the cause and the thread
is not in a handler. The registers, flags, DEPTH, FPC, place map and anchors of the thread stay, and the threads of
other teams with them; the siblings are told to stop. -/
def Obligations.TrapEntersHandler : Prop :=
  ∀ (s : State) (e : Env) (ti : TrapInfo), s.env e.t = some e → e.tm.halted = false →
    e.la.tmask.testBit ti.code.toNat = true → e.th.inh = false → e.th.exited = false → ti.code ≠ 0x12 →
    (∃ new, Handled (takeTrap s e.t ti) e ti new) ∧
    (∀ t, teamKey t ≠ teamKey e.t → e.tm.ngrp ≤ 16 → (takeTrap s e.t ti).thread? t = s.thread? t) ∧
    SameMemory s (takeTrap s e.t ti)

/-- R349: a trap escalates when its bit of TMASK is clear, when the thread is in a handler or has exited: the team
stays halted with its trap record, which the launch keeps, and the thread is in no handler (R393). -/
def Obligations.TrapEscalates : Prop :=
  ∀ (s : State) (e : Env) (ti : TrapInfo), s.env e.t = some e → e.tm.halted = false →
    (e.la.tmask.testBit ti.code.toNat = false ∨ e.th.inh = true ∨ e.th.exited = true) →
    ∃ new, (takeTrap s e.t ti).env e.t = some new ∧
      new.tm = { e.tm with halted := true, trapTid := some (tTid e.t), escal := true, aua := ti.aua, late := new.tm.late } ∧
      new.th.epc = e.th.ctx.pc ∧ new.th.tinfo = ti.tinfo ∧ new.th.ctx.pc = e.th.ctx.pc ∧ new.th.inh = false ∧
      (e.la.trec = none →
        new.la.trec = some (new.th.tcause.toNat, tTid e.t, e.tm.index, ti.tinfo.toNat, e.th.ctx.pc.toNat, ti.aua.toNat))

/-- R350: `eret` outside a handler is an undefined encoding with reason 9; with EPC's low bits set, or at no clause
header where it is not TA, it is a bad branch target. Else it leaves the handler at EPC, with the clause's words left
at the trap where that is TA, with the wait at a barrier that the handler interrupted while the phase is still its
token (R345), and the team goes on. R346, R350: with no trap pending, the team that goes on is not halted and has no
trapping thread. -/
def Obligations.HandlerReturns : Prop :=
  (∀ (s : State) (c : Ctl) (e : Env), Passes s { settled := true } c e →
     (e.th.inh = false → exec (.eret c) s = .next (raiseTrap s e.t ⟨0x01, 9, 0, false, 0, 0⟩)) ∧
     (e.th.inh = true → e.th.epc.toNat % 8 ≠ 0 →
       exec (.eret c) s = .next (raiseTrap s e.t (trapOf 0x02 (e.th.epc.toNat % 2 ^ 57)))) ∧
     (∀ s1 w, e.th.inh = true → e.th.epc.toNat % 8 = 0 → e.th.epc ≠ e.th.ta → fetchWord s e e.th.epc = .ok s1 w →
       w.toNat / 2 ^ 62 ≠ 2 → exec (.eret c) s = .next (raiseTrap s1 e.t (trapOf 0x02 (e.th.epc.toNat % 2 ^ 57)))) ∧
     (∀ s1, e.th.inh = true → e.th.epc.toNat % 8 = 0 → (if e.th.epc = e.th.ta then s1 = s else Lands s e e.th.epc s1) →
       exec (.eret c) s = .next (resumeTeam (s1.setThread e.t { e.th with
         ctx := { e.th.ctx with
           pc := e.th.epc
           crem := if e.th.epc = e.th.ta then e.th.taCrem else 0
           clause := if e.th.epc = e.th.ta then e.th.taClause else ⟨none, none, false, false⟩
           fwd := [] }
         nextSeq := e.th.nextSeq + 1
         wait := match e.th.kept with
           | .barrier b tok => if (e.tm.bar b).phase = tok then .barrier b tok else .none
           | _ => .none
         kept := .none
         gread := none
         arriving := none
         stale := decide (e.th.epc = e.th.ta) && e.th.taStale
         taStale := false
         inh := false
         yieldEnd := if e.th.ctx.clause.y then some (s1.clk + 64) else e.th.yieldEnd }) (teamKey e.t)))) ∧
  (∀ (s : State) (k : Nat) (tm : Team), s.team? k = some tm →
     (∀ i ∈ teamTids tm, ∀ th, s.thread? (threadOf k i) = some th → th.pendTrap = none) →
     (resumeTeam s k).team? k = some { tm with halted := false, trapTid := none, escal := false, late := none } ∧
     SameMemory s (resumeTeam s k))

/-! Clause headers and meets. -/

/-- R29, R30, R32, R63, R295: a clause header waits for the flags of WAIT; then it acquires if WAIT names a flag,
gives the thread LEN words of the clause, its flag choices, R and Y, and counts its marker. Inside a clause it is an
undefined encoding. It takes no sequence number and no window entry. -/
def Obligations.ClauseHeaders : Prop :=
  ∀ (s : State) (e : Env) (h : Header), s.env s.cur = some e → e.th.exited = false → e.th.wait = .none →
    (∀ u ∈ e.th.window, u.trap = none ∧ u.act ≠ .exit) →
    (e.th.ctx.crem ≠ 0 → exec (.clauseHeader h) s = .next (raiseTrap s e.t ⟨0x01, 6, 0, false, 0, 0⟩)) ∧
    (e.th.ctx.crem = 0 → (∃ f : Nat, f < 12 ∧ h.wait.getLsbD f = true ∧ findD e.th.flags f 0 ≠ 0) →
      exec (.clauseHeader h) s = .next { s with stalled := true }) ∧
    (e.th.ctx.crem = 0 → (∀ f : Nat, f < 12 → h.wait.getLsbD f = true → findD e.th.flags f 0 = 0) →
      let t := (if h.wait = 0 then s else acquire s (tCore e.t)).setThread e.t { e.th with
        ctx := { e.th.ctx with pc := e.th.ctx.pc + 8, crem := h.len.toNat, clause := ⟨h.set0, h.set1, h.r, h.y⟩ } }
      exec (.clauseHeader h) s = .next (match h.mark with | some m => reachMarker t e m.toNat | none => t))

/-- R80, R82: a thread that issues a meet records its operands and waits. R81: when every live thread of the group
waits at a meet and not all at one address, the arriving thread of the lowest LANE traps with the lowest address at
which another thread waits; otherwise the check changes nothing. -/
def Obligations.MeetArrivals : Prop :=
  (∀ (c : Ctl) (xd xa xb : Reg) (n : BitVec 8) (uns : Bool),
     let a : (Reg → Word) → Word := fun rd => rd xa
     let z : (Reg → Word) → Word := fun _ => 0
     Arrives (.shflIdx c xd xa xb) c [xa, xb] [xd] a (fun rd => rd xb) ∧
     Arrives (.shflUp c xd xa n) c [xa] [xd] a z ∧
     Arrives (.shflDown c xd xa n) c [xa] [xd] a z ∧
     Arrives (.shflXor c xd xa n) c [xa] [xd] a z ∧
     Arrives (.voteAny c xd xa) c [xa] [xd] a z ∧
     Arrives (.voteAll c xd xa) c [xa] [xd] a z ∧
     Arrives (.voteBallot c xd xa) c [xa] [xd] a z ∧
     Arrives (.reduxAdd c xd xa) c [xa] [xd] a z ∧
     Arrives (.reduxMin c uns xd xa) c [xa] [xd] a z ∧
     Arrives (.reduxMax c uns xd xa) c [xa] [xd] a z ∧
     Arrives (.reduxAnd c xd xa) c [xa] [xd] a z ∧
     Arrives (.reduxOr c xd xa) c [xa] [xd] a z ∧
     Arrives (.reduxFadd c xd xa) c [xa] [xd] a z ∧
     Arrives (.reduxFmin c xd xa) c [xa] [xd] a z ∧
     Arrives (.reduxFmax c xd xa) c [xa] [xd] a z ∧
     Arrives (.meet c) c [] [] z z) ∧
  (∀ (s : State) (g : Nat) (arrived : List Nat),
     ((allMeet s g = false ∨ sameMeet s g = true) → meetCheck s g arrived = s) ∧
     (∀ before t th after, liveThreads s g = before ++ (t, th) :: after → allMeet s g = true → sameMeet s g = false →
       (∀ x ∈ before, x.1 ∉ arrived) → t ∈ arrived →
       ∃ low, meetCheck s g arrived = raiseTrap (s.waitFor t .none) t (trapOf 0x08 low) ∧
         (∃ x ∈ liveThreads s g, x.1 ≠ t ∧ x.2.ctx.pc.toNat = low) ∧
         ∀ x ∈ liveThreads s g, x.1 ≠ t → low ≤ x.2.ctx.pc.toNat))

/-- R83 to R86: what a participant of a meet receives. R80: a meet at which every live thread of the group waits, at
one address, completes: each thread whose destination is at the lane has its result and continues at the next unit. -/
def Obligations.MeetResults : Prop :=
  (∀ (ps : List Party) (me : Party) (c : Ctl) (xd xa xb : Reg) (n : BitVec 8), Parties ps → me ∈ ps →
     let gives (i : Instr) (p : Word → Prop) : Prop := ∃ v, meetResult ps me i = some (c, xd, (v, 0)) ∧ p v
     let sum (f : Party → Int) : Int := (ps.map f).foldl (· + ·) 0
     gives (.shflIdx c xd xa xb) (Shuffled ps me (me.vb.toNat % 32)) ∧
     gives (.shflUp c xd xa n) (Shuffled ps me ((me.lane : Int) - n.toNat)) ∧
     gives (.shflDown c xd xa n) (Shuffled ps me ((me.lane : Int) + n.toNat)) ∧
     gives (.shflXor c xd xa n) (Shuffled ps me ((me.lane ^^^ n.toNat : Nat) : Int)) ∧
     gives (.voteAny c xd xa) (fun v => v = if ∃ p ∈ ps, p.va ≠ 0 then 1 else 0) ∧
     gives (.voteAll c xd xa) (fun v => v = if ∀ p ∈ ps, p.va ≠ 0 then 1 else 0) ∧
     gives (.voteBallot c xd xa) (fun v => ∀ i, i < 32 → (v.getLsbD i = true ↔ ∃ p ∈ ps, p.lane = i ∧ p.va ≠ 0)) ∧
     gives (.reduxAdd c xd xa) (fun v => v = intWord (sum fun p => p.va.toNat)) ∧
     gives (.reduxMin c true xd xa) (fun v => (∃ p ∈ ps, v = p.va) ∧ ∀ p ∈ ps, v.toNat ≤ p.va.toNat) ∧
     gives (.reduxMin c false xd xa) (fun v => (∃ p ∈ ps, v = p.va) ∧ ∀ p ∈ ps, v.toInt ≤ p.va.toInt) ∧
     gives (.reduxMax c true xd xa) (fun v => (∃ p ∈ ps, v = p.va) ∧ ∀ p ∈ ps, p.va.toNat ≤ v.toNat) ∧
     gives (.reduxMax c false xd xa) (fun v => (∃ p ∈ ps, v = p.va) ∧ ∀ p ∈ ps, p.va.toInt ≤ v.toInt) ∧
     gives (.reduxAnd c xd xa) (fun v => ∀ i, i < 32 → (v.getLsbD i = true ↔ ∀ p ∈ ps, p.va.getLsbD i = true)) ∧
     gives (.reduxOr c xd xa) (fun v => ∀ i, i < 32 → (v.getLsbD i = true ↔ ∃ p ∈ ps, p.va.getLsbD i = true)) ∧
     (∀ f i, (i, f) ∈ [(Instr.reduxFadd c xd xa, faddOp .rne), (Instr.reduxFmin c xd xa, fminmaxOp false),
         (Instr.reduxFmax c xd xa, fminmaxOp true)] →
       (∀ p, ps = [p] → meetResult ps me i =
         some (c, xd, (if isNaN p.va then 0x7FC00000 else p.va, if isSNaN p.va then 1 else 0))) ∧
       (∀ p q qs, ps = p :: q :: qs → meetResult ps me i =
         some (c, xd, (q :: qs).foldl (fun r x => ((f r.1 x.va).1, r.2 ||| (f r.1 x.va).2)) (p.va, 0)))) ∧
     meetResult ps me (.meet c) = none) ∧
  (∀ (s : State), allMeet s s.cur = true → sameMeet s s.cur = true → (∀ x ∈ liveThreads s s.cur, x.2.window = []) →
     ∃ t, exec .meetComplete s = .next t ∧ SameMemory s t ∧
       ∀ u e i va vb, (u, e.th) ∈ liveThreads s s.cur → s.env u = some e → e.th.wait = .meet i va vb →
         let ps := (liveThreads s s.cur).filterMap (fun x => x.2.meet?.map (fun m => (⟨tLane x.1, m.2.1, m.2.2⟩ : Party)))
         (∀ c xd v, meetResult ps ⟨tLane u, va, vb⟩ i = some (c, xd, v) → e.th.ctx.place xd = .lane → e.th.window = [] →
           ∃ th, t.thread? u = some th ∧ RegsAfter e.th th c.k [(xd, v.1)] ∧ th.wait = .none ∧
             th.ctx.pc = e.th.ctx.pc + 8) ∧
         (meetResult ps ⟨tLane u, va, vb⟩ i = none →
           ∃ th, t.thread? u = some th ∧ th.regs = e.th.regs ∧ th.wait = .none ∧ th.ctx.pc = e.th.ctx.pc + 8))

/-! Places, locks, indexed names and special registers. -/

/-- R100, R123, R99: `anch` sets an anchor; a value that is not a multiple of 32, an anchor that the place map names
and a range outside the arena trap, in this order. R121, R122, R99: `place` raises sub-causes 3, 2, 6 and 1 in this
order, and `reloc` 4 between 3 and 2. R98, R121, R122: once its checks pass, and its old values can reach their
backing words (R325), `place` gives the block its new place and makes it read 0, and `reloc` gives it its new place
with the values that reads find, 0 from an unmapped block; where another block shares a word of it (R102), the value
is left open. -/
def Obligations.PlacesAndAnchors : Prop :=
  (∀ (s s1 : State) (c : Ctl) (an : BitVec 8) (xa : Reg) (e : Env), Ready s .queued c [xa, xa + 1] s1 e →
     Arrived e [xa, xa + 1] →
     let v := pairNat e.th.read xa
     let named := ∃ b, b < 32 ∧ namesFar e.th.ctx.pmap b an.toNat
     let inside := e.arenaBase ≤ v ∧ v + 1024 ≤ e.arenaBase + e.arenaSize
     (v % 32 ≠ 0 → exec (.anch c an xa) s = .next (raiseTrap s1 e.t (trapOf 0x03 (v % 2 ^ 57)))) ∧
     (v % 32 = 0 → named → exec (.anch c an xa) s = .next (raiseTrap s1 e.t (trapOf 0x0B (7 + 2 ^ 8 * an.toNat)))) ∧
     (v % 32 = 0 → ¬named → ¬inside → exec (.anch c an xa) s = .next (raiseTrap s1 e.t (trapOf 0x0B (2 + 2 ^ 8 * an.toNat)))) ∧
     (v % 32 = 0 → ¬named → inside → exec (.anch c an xa) s = .next (Gone s1 e { e.th.ctx.past 1 with
       anc := putD 0 e.th.ctx.anc an.toNat (BitVec.ofNat 64 v)
       aset := e.th.ctx.aset ||| (1#4 <<< an.toNat) }))) ∧
  (∀ (s : State) (c : Ctl) (b pl : BitVec 8) (e : Env), Passes s .queued c e → b.toNat < 32 →
     let code : BitVec 4 := BitVec.ofNat 4 pl.toNat
     let k := code.toNat % 4
     let far := code.toNat / 4 = 1 ∨ code.toNat / 4 = 2
     let a := (e.th.ctx.anchor k).toNat
     let outside := e.th.ctx.anchorSet k = false ∨ a < e.arenaBase ∨ e.arenaBase + e.arenaSize < a + 1024
     let locked := 8 ≤ b.toNat ∧ e.th.extends = false ∧ (code = 0 ∨ codeOfBlock e.th.ctx.pmap b.toNat = 0)
     let place (sub h : Nat) : Prop := exec (.place c b pl) s = .next (raiseTrap s e.t (trapOf 0x0B (sub + 2 ^ 8 * h)))
     let reloc (sub h : Nat) : Prop := exec (.reloc c b pl) s = .next (raiseTrap s e.t (trapOf 0x0B (sub + 2 ^ 8 * h)))
     (code = 0 → e.budget ≤ b.toNat → place 3 b.toNat ∧ reloc 3 b.toNat) ∧
     ((code = 0 → b.toNat < e.budget) → locked → reloc 4 b.toNat) ∧
     (far → outside → place 2 k ∧ (¬locked → reloc 2 k)) ∧
     (∀ p, code.toNat / 4 = 2 → ¬outside → walk s e.la.asp (a + 32 * b.toNat) = .page p →
       (p.tgt ≠ 0 ∨ tier1 p.pa = false → place 6 b.toNat ∧ (¬locked → reloc 6 b.toNat)) ∧
       (p.tgt = 0 → tier1 p.pa = true → bankCoreOf p.pa ∉ e.th.bound → 16 ≤ findD s.slots (bankCoreOf p.pa) 0 →
         place 1 b.toNat ∧ (¬locked → reloc 1 b.toNat)))) ∧
  (∀ (s s0 s1 : State) (c : Ctl) (b pl : BitVec 8) (e : Env), Passes s .queued c e → b.toNat < 32 →
     (∀ r : Reg, r.toNat / 8 = b.toNat → r ∉ e.th.pending) → spillWaits s e b.toNat = false →
     let code : BitVec 4 := BitVec.ofNat 4 pl.toNat
     (checkPlace s e b.toNat code false = .ok s0 → spillCheck s0 e b.toNat = .ok s1 →
       ∃ t th, exec (.place c b pl) s = .next t ∧ Placed t e b.toNat code (fun _ => 0) th) ∧
     (checkReloc s e b.toNat code = .ok s1 →
       ∃ t th vs, exec (.reloc c b pl) s = .next t ∧ Placed t e b.toNat code vs th ∧
         ((∀ tgt pa, sharesWord s1 e.t b.toNat tgt pa = false) → b.toNat ∉ e.th.unread → ∀ i, i < 8 →
           vs i = if e.th.ctx.place (BitVec.ofNat 8 (8 * b.toNat)) = .unmapped then 0
             else e.th.read (BitVec.ofNat 8 (8 * b.toNat + i)))))

/-- R117, R118, R99: `xacq` is granted when the lock is free, every extension name of every thread of the group at a
lane then reading 0, and when the group holds it; else it waits uncommitted, its own extension names at its lane
reading 0 as they will when it is granted. `xrel` acts as it commits: that of a thread that does not hold changes
nothing, one beside other holders of the group only takes the thread out, and the last holder's leaves the lock free,
or with the group of the pair whose oldest waiting request issued first, of equals the lower slot's, each of whose
waiting requests is granted. That `xacq` issues once every older unit has committed is the model's choice (log 8). -/
def Obligations.ExtensionLock : Prop :=
  (∀ (s : State) (c : Ctl) (e : Env), Passes s { settled := true } c e →
    let core := tCore e.t
    let n := lockOf (s.core core) (gKey e.t)
    let lost (r : Reg) : Word := if 64 ≤ r.toNat ∧ r.toNat < 128 ∧ e.th.ctx.place r = .lane then 0 else e.th.stored r
    ((s.core core).lockHolder n = none → e.th.xsave = [] →
      ∃ t th, exec (.xacq c) s = .next t ∧ (t.core core).lockHolder n = some (gKey e.t) ∧
        t.thread? e.t = some th ∧ th.xhold = true ∧ th.xreq = none ∧ th.ctx.pc = e.th.ctx.pc + 8 ∧
        (∀ r : Reg, th.stored r = lost r) ∧ SameMemory s t ∧
        ∀ u x, gKey u = gKey e.t → s.thread? u = some x → x.xreq = none ∨ x.xsave = [] → ∃ y, LockGranted s t u x y) ∧
    ((s.core core).lockHolder n = some (gKey e.t) →
      ∃ th, (Gone s e (e.th.ctx.past 1)).thread? e.t = some th ∧
        exec (.xacq c) s = .next ((Gone s e (e.th.ctx.past 1)).setThread e.t { th with xhold := true })) ∧
    (∀ g, (s.core core).lockHolder n = some g → g ≠ gKey e.t →
      ∃ th, exec (.xacq c) s = .next (s.setThread e.t th) ∧ th.xreq = some s.clk ∧ th.xhold = e.th.xhold ∧
        th.window = e.th.window ++ [{ WUnit.start e.th with done := false }] ∧ th.ctx.pc = e.th.ctx.pc + 8 ∧
        ∀ r : Reg, th.stored r = lost r)) ∧
  (∀ (s : State) (c : Ctl) (e : Env), Passes s .queued c e →
    let core := tCore e.t
    let k := s.core core
    let n := lockOf k (gKey e.t)
    let pairs (g : Nat) : Prop := groupAt k (2 * n) = some g ∨ groupAt k (2 * n + 1) = some g
    let asks (g a : Nat) : Prop := ∃ u x, gKey u = g ∧ s.thread? u = some x ∧ x.xreq = some a
    let others (u : Nat) (x : Thread) : Prop := u ≠ e.t ∧ gKey u = gKey e.t ∧ s.thread? u = some x ∧ x.xhold = true
    (e.th.window ≠ [] → exec (.xrel c) s = .next (Behind s e (e.th.ctx.past 1) .unlock 0)) ∧
    (e.th.window = [] → e.th.xhold = false → exec (.xrel c) s = .next (Gone s e (e.th.ctx.past 1))) ∧
    (∀ u x, e.th.window = [] → e.th.xhold = true → others u x →
      ∃ th, (Gone s e (e.th.ctx.past 1)).thread? e.t = some th ∧
        exec (.xrel c) s = .next ((Gone s e (e.th.ctx.past 1)).setThread e.t { th with xhold := false })) ∧
    (e.th.window = [] → e.th.xhold = true → (∀ u x, ¬others u x) →
      ∃ t, exec (.xrel c) s = .next t ∧ t = releaseLock (Gone s e (e.th.ctx.past 1)) e.t ∧ SameMemory s t ∧
        ((∀ g a, pairs g → ¬asks g a) → (t.core core).lockHolder n = none ∧
          ∃ th, (Gone s e (e.th.ctx.past 1)).thread? e.t = some th ∧ t.thread? e.t = some { th with xhold := false }) ∧
        ∀ g a, pairs g → asks g a →
          (∀ g' a', pairs g' → asks g' a' → a ≤ a' ∧ (a' = a → g' = g ∨ groupAt k (2 * n) = some g)) →
          (t.core core).lockHolder n = some g ∧
          ∀ u x, gKey u = g → s.thread? u = some x → x.xreq = none ∨ x.xsave = [] → ∃ y, LockGranted s t u x y))

/-- R125: `ixld` and `ixst` name a register by (xa + imm) mod 256, and complete where the index register and the named
one pass: each fails one sub-cause of "place exhausted", 5 unmapped, 8 at a far place, 4 an extension block at the
lane without the lock, the index first, for `ixst` the value register before the named one. -/
def Obligations.IndexedRegisters : Prop :=
  ∀ (s s1 : State) (c : Ctl) (imm : Imm) (e0 e : Env) (xa xb xd : Reg), Passes s .queued c e0 →
    let n : Reg := BitVec.ofNat 8 (((e0.th.read xa).toNat + imm.signed32.toNat) % 2 ^ 32)
    let sub (r : Reg) : Option Nat := if e0.th.ctx.place r = .unmapped then some 5 else if (e0.th.ctx.place r).far then some 8
      else if 64 ≤ r.toNat ∧ e0.th.extends = false then some 4 else none
    (IndexReg e0 xa → IndexReg e0 n → Reads s e0 [n, xd] s1 e →
      ∃ t, exec (.ixld c xd xa imm) s = .next t ∧
        Computed s1 t e c.k imm.words [n] [xd] (word xd (e.th.read n))) ∧
    (IndexReg e0 xa → Reads s e0 [xb] s1 e → IndexReg e n → e.th.read xa = e0.th.read xa →
      ∃ t, exec (.ixst c xa xb imm) s = .next t ∧
        Computed s1 t e false imm.words [xb] [n] (word n (e.th.read xb))) ∧
    (∀ k, sub xa = some k →
      exec (.ixld c xd xa imm) s = .next (raiseTrap s e0.t (trapOf 0x0B (k + 2 ^ 8 * (xa.toNat / 8)))) ∧
      exec (.ixst c xa xb imm) s = .next (raiseTrap s e0.t (trapOf 0x0B (k + 2 ^ 8 * (xa.toNat / 8))))) ∧
    (∀ k, IndexReg e0 xa → sub n = some k →
      exec (.ixld c xd xa imm) s = .next (raiseTrap s e0.t (trapOf 0x0B (k + 2 ^ 8 * (n.toNat / 8)))) ∧
      (Reads s e0 [xb] s1 e → e.th.read xa = e0.th.read xa → e.th.ctx = e0.th.ctx → e.th.extends = e0.th.extends →
        exec (.ixst c xa xb imm) s = .next (raiseTrap s1 e.t (trapOf 0x0B (k + 2 ^ 8 * (n.toNat / 8))))))

/-- R104, R115, R126, R12: `rds` writes a special register's value, FPS once every older unit has committed; `wrs`
writes FPC and FPS without their reserved bits, and EPC, and leaves every other special register alone. R57, R104,
R105: what the special registers hold; that DIE of a service core's thread is its number less 256 is the model's
choice (log 28). -/
def Obligations.SpecialRegisters : Prop :=
  (∀ (s s1 : State) (c : Ctl) (sr : BitVec 8) (x : Reg) (e : Env),
     (Ready s { settled := sr == 0x11, lane := false } c (if wideSpecial sr then [x, x + 1] else [x]) s1 e →
       let v := specialReg s1 e sr.toNat
       ∃ t, exec (.rds c x sr) s = .next t ∧
         (if wideSpecial sr then Computed s1 t e c.k 1 [] [x, x + 1] (Machine.pair x v)
          else Computed s1 t e c.k 1 [] [x] (word x (v.setWidth 32)))) ∧
     (Ready s { settled := sr == 0x10 || sr == 0x11 || sr == 0x2A, lane := false } c (if wideSpecial sr then [x, x + 1] else [x]) s1 e →
       Arrived e (if wideSpecial sr then [x, x + 1] else [x]) →
       let v : DWord := if wideSpecial sr then BitVec.ofNat 64 (pairNat e.th.read x) else (e.th.read x).setWidth 64
       ∃ th, (Gone s1 e (e.th.ctx.past 1)).thread? e.t = some th ∧
         exec (.wrs c sr x) s = .next ((Gone s1 e (e.th.ctx.past 1)).setThread e.t
           (if sr = 0x10 then { th with ctx := { th.ctx with fpc := v.setWidth 32 &&& 0x31F } }
            else if sr = 0x11 then { th with fps := v.setWidth 32 &&& 0x1F }
            else if sr = 0x2A then { th with epc := v }
            else th)))) ∧
  (∀ (s : State) (e : Env),
     let v (n : Nat) : Nat := (specialReg s e n).toNat
     let core := e.t / 2048
     v 0x00 = 32 * v 0x02 + v 0x01 ∧ v 0x01 < 32 ∧ v 0x02 < 16 ∧
     v 0x00 = e.t % 512 ∧
     v 0x03 = e.tm.index % 2 ^ 64 ∧
     v 0x04 = e.la.nteam ∧
     v 0x05 = (if v 0x02 < e.la.nprod then 0 else 1) ∧
     (core < 256 → v 0x06 = core ∧ v 0x07 = core / 64) ∧
     (256 ≤ core → core < 260 → v 0x07 = core - 256) ∧
     v 0x08 = s.config.moduleNo % 2 ^ 64 ∧
     v 0x09 = e.la.gen.toNat ∧
     v 0x0A = e.th.ctx.depth % 2 ^ 64 ∧
     v 0x0B = e.la.didx % 2 ^ 64 ∧
     v 0x0C = e.la.nd ∧
     v 0x10 = e.th.ctx.fpc.toNat ∧
     v 0x11 = e.th.fps.toNat ∧
     (∀ j, j < 4 → v (0x18 + j) = e.th.ctx.pmap.toNat / 2 ^ (32 * j) % 2 ^ 32) ∧
     (∀ j, j < 4 → specialReg s e (0x1C + j) = e.th.ctx.anchor j) ∧
     v 0x20 = (match find? (s.core core).leases (e.t / 32) with | some l => l.lines % 2 ^ 64 | none => 0) ∧
     v 0x28 = e.th.tcause.toNat ∧ specialReg s e 0x29 = e.th.tinfo ∧ specialReg s e 0x2A = e.th.epc)

/-! Memory accesses. -/

/-- R264, R265, R299 to R301: `ld`, `ldc` and `st` issue an access of their size at EA, which counts on the unit's
flag. A load completes when its registers are written; a store is complete, and performs once it commits. R299: an
address that is not a multiple of the size is a misaligned access; a page that is not present or lacks the permission
traps with its cause and the address. -/
def Obligations.LoadsAndStoresIssue : Prop :=
  (∀ (s s1 : State) (e : Env) (c : Ctl) (x xa : Reg) (off : Imm) (f : BitVec 4) (p : Phys),
     e.th.ctx.clause.flag c.fl = some f →
     let va := addressOf e.th.read xa off
     (∀ sz : BitVec 3, sz ≠ 7 →
       let size := accessSize sz
       (Ready s Mode.counted c (xa :: (xa + 1) :: valueRegs x size) s1 e →
         Admits s1 e va size .r (fun q => needsRequest s1 (tCore e.t) q size) p →
         exec (.ld c sz x xa off) s = .next (Issues s1 e (e.th.ctx.past off.words)
           (mkAccess s1 e (.load (accessSigned sz) (valueRegs x size)) va size 0 [p] c.h c.k (some f.toNat))
           [xa, xa + 1] false)) ∧
       (Ready s Mode.counted c (xa :: (xa + 1) :: valueRegs x size) s1 e → Admits s1 e va size .w (fun _ => false) p →
         exec (.st c sz xa x off) s = .next (Issues s1 e (e.th.ctx.past off.words)
           (mkAccess s1 e .store va size (regsNat e.th.read x size) [p] c.h false (some f.toNat))
           (xa :: (xa + 1) :: valueRegs x size) true))) ∧
     (∀ (sz : BitVec 2) n, sz ≠ 3 →
       let size := 4 * 2 ^ sz.toNat
       Ready s Mode.counted c (xa :: (xa + 1) :: valueRegs x size) s1 e →
       Admits s1 e va size .r (fun q => needsRequest s1 (tCore e.t) q size) p →
       exec (.ldc c sz n x xa off) s = .next (Issues s1 e (e.th.ctx.past off.words)
         (mkAccess s1 e (.loadc n.toNat (valueRegs x size)) va size 0 [p] c.h c.k (some f.toNat)) [xa, xa + 1] false))) ∧
  (∀ (s s1 : State) (e : Env) (c : Ctl) (x xa : Reg) (off : Imm) (sz : BitVec 3), sz ≠ 7 →
     let va := addressOf e.th.read xa off
     let size := accessSize sz
     (Ready s Mode.counted c (xa :: (xa + 1) :: valueRegs x size) s1 e →
       let traps (ti : TrapInfo) : Prop := exec (.ld c sz x xa off) s = .next (raiseTrap s1 e.t ti)
       (va % size ≠ 0 → traps (trapOf 0x03 va)) ∧
       (∀ cause, va % size = 0 → e.xlat s1 va .r = .trap cause → traps (trapOf cause va)) ∧
       (∀ p, va % size = 0 → e.xlat s1 va .r = .ok p → p.hole = false →
         schedMiss e.la e.tm va size = true → e.la.smm = true → traps (trapOf 0x06 va))) ∧
     (Ready s Mode.counted c (xa :: (xa + 1) :: valueRegs x size) s1 e →
       let traps (ti : TrapInfo) : Prop := exec (.st c sz xa x off) s = .next (raiseTrap s1 e.t ti)
       (va % size ≠ 0 → traps (trapOf 0x03 va)) ∧
       (∀ cause, va % size = 0 → e.xlat s1 va .w = .trap cause → traps (trapOf cause va))))

/-- R302 to R305, R299: the atoms and `cas` issue one access of 32 or 64 bits at {x(a+1), xa}. R266, R313: `cclean`,
`cinval` and `pref` issue their range; a length of 0 completes at once; `cclean` and `cinval` trap where EA or the
length is not a multiple of 128. -/
def Obligations.AtomicsAndMaintenanceIssue : Prop :=
  let size (w64 : Bool) : Nat := if w64 then 8 else 4
  AtomIssues .atomAdd size 0 true ∧
  AtomIssues (fun c => .atomMin c false) size 1 false ∧ AtomIssues (fun c => .atomMin c true) size 2 false ∧
  AtomIssues (fun c => .atomMax c false) size 3 false ∧ AtomIssues (fun c => .atomMax c true) size 4 false ∧
  AtomIssues .atomAnd size 5 false ∧ AtomIssues .atomOr size 6 false ∧ AtomIssues .atomXor size 7 false ∧
  AtomIssues .atomXchg size 8 true ∧ AtomIssues (fun c pl _ => .atomFadd c pl) (fun _ => 4) 9 false ∧
  (∀ s s1 e c pl w64 xd xa xb xc f p,
    Ready s Mode.counted c (xa :: (xa + 1) :: (valueRegs xb (size w64) ++ valueRegs xc (size w64)
      ++ valueRegs xd (size w64))) s1 e →
    let va := pairNat e.th.read xa
    va < 2 ^ 57 → Admits s1 e va (size w64) .rw (atomRequest s1 (tCore e.t) pl · (size w64)) p → e.th.ctx.clause.flag c.fl = some f →
    exec (.cas c pl w64 xd xa xb xc) s = .next (Issues s1 e (e.th.ctx.past 1)
      (mkAccess s1 e (.cas pl (valueRegs xd (size w64)) (regsNat e.th.read xb (size w64))) va (size w64)
        (regsNat e.th.read xc (size w64)) [p] 0 c.k (some f.toNat))
      (xa :: (xa + 1) :: (valueRegs xb (size w64) ++ valueRegs xc (size w64))) true)) ∧
  RangeIssues .cclean .cclean 128 (2 ^ 32) ∧ RangeIssues .cinval .cinval 128 (2 ^ 32) ∧ RangeIssues .pref .pref 1 (2 ^ 22)

/-- R287, R293: a read through a core's L1, on a page that has its class, returns byte for byte what the L1 holds
valid, else what the home holds. R287, R293, R301: a write through a core's L1 makes the core read the written bytes,
and every other byte of the line as before; the home keeps its bytes. -/
def Obligations.CacheViews : Prop :=
  (∀ (s s1 : State) (core : Nat) (rd : Reader) (p : Phys) (n v : Nat) (h : BitVec 2),
     l1Read s core rd p n h = .ok s1 v → p.pa % 128 + n ≤ 128 → (classOf s p.pte p.entry).1 ≠ 0 →
     ∀ i, i < n → v / 256 ^ i % 256 = s.viewByte core (p.pa + i)) ∧
  (∀ (s s1 : State) (core g : Nat) (p : Phys) (n v x : Nat) (h : BitVec 2) (t : Nat) (l : L1Line),
     find? (s.core core).l1 (p.pa / 128) = some l → l1Write s core g p n v h t = .ok s1 x → p.pa % 128 + n ≤ 128 →
     (∀ i, i < n → s1.viewByte core (p.pa + i) = v / 256 ^ i % 256) ∧
     (∀ a, a < p.pa ∨ p.pa + n ≤ a → s1.viewByte core a = s.viewByte core a) ∧
     (∀ a, s1.byteAt a = s.byteAt a))

/-- R293, R300, R301: a load return and a store complete, under conditions on the state and the access alone: a load
returns the bytes that it reads, extended by its size, and a store writes its bytes, in the L1 for device memory and
at the home for host and remote memory; a load whose bytes the L1 holds valid returns them, and a store to a line that
the L1 holds writes there. Then the access and its flag are done with, and the load's unit has its registers; a load
waits for the older commands at its place (R108). That the other stores of the issue set to the line perform with a
store is a deduction of the model (log 1). R300: the words that a load of each size writes. -/
def Obligations.LoadsAndStoresPerform : Prop :=
  (∀ (s : State) (t : Nat) (e : Env) (a : Access) (p : Phys), Outstanding s t e a → a.phys = [p] →
     let set (s' : State) : State := (storeSet s t a).foldl storeToo s'
     (∀ sgn rs, behindCommand s e a = false → (a.kind = .load sgn rs ∨ (sgn = false ∧ ∃ n, a.kind = .loadc n rs)) →
       (p.tgt ≠ 0 → exec (.loadReturn t a.id) s =
         .next (finishLoad s t a (loadWords sgn a.size (physRead s p a.size) rs) .none)) ∧
       (∀ s1 v, p.tgt = 0 → l1Read s (tCore t) (a.reader s e (p.pa / 128)) p a.size a.hint = .ok s1 v →
         exec (.loadReturn t a.id) s = .next (finishLoad s1 t a (loadWords sgn a.size v rs) .none)) ∧
       (∀ l, p.tgt = 0 → p.pa % 128 + a.size ≤ 128 → find? (s.core (tCore t)).l1 (p.pa / 128) = some l →
         (∀ i, i < a.size → l.valid.getLsbD (p.pa % 128 + i) = true) →
         ∃ s1 v, exec (.loadReturn t a.id) s = .next (finishLoad s1 t a (loadWords sgn a.size v rs) .none) ∧
           (∀ i, i < a.size → v / 256 ^ i % 256 = (lineByte l.data (p.pa % 128 + i)).toNat) ∧
           s1.threads = s.threads ∧ SameMemory s s1)) ∧
     (a.kind = .store ∨ a.kind = .push → a.commit = true → siteTaken s none p.tgt p.pa a.size = false →
       (p.tgt ≠ 0 → exec (.storePerform t a.id) s = .next (set (finishStore (physWrite s p a.size a.data) t a))) ∧
       (∀ s1 x, p.tgt = 0 → l1Write s (tCore t) (gKey t) p a.size a.data a.hint t = .ok s1 x →
         exec (.storePerform t a.id) s = .next (set (finishStore s1 t a))) ∧
       (∀ l, p.tgt = 0 → p.pa % 128 + a.size ≤ 128 → find? (s.core (tCore t)).l1 (p.pa / 128) = some l →
         ∃ s1, exec (.storePerform t a.id) s = .next (set (finishStore s1 t a)) ∧
           (∀ i, i < a.size → s1.viewByte (tCore t) (p.pa + i) = a.data / 256 ^ i % 256) ∧
           s1.threads = s.threads ∧ SameMemory s s1))) ∧
  (∀ (s : State) (t : Nat) (th : Thread) (a : Access), s.thread? t = some th → th.exited = false →
     (∀ tm, s.team? (teamKey t) = some tm → tTid t < 32 * tm.ngrp) →
     let gone (x : Thread) : Prop := x.acc? a.id = none ∧ x.ctx.pc = th.ctx.pc ∧
       ∀ f, findD x.flags f 0 = if a.flag = some f then findD th.flags f 0 - 1 else findD th.flags f 0
     (∃ x, (finishStore s t a).thread? t = some x ∧ gone x ∧ x.regs = th.regs ∧ x.window = th.window) ∧
     ∀ u ws act, th.unit? a.seq = some u → ∃ x, (finishLoad s t a ws act).thread? t = some x ∧ gone x ∧
       (∀ r, x.stored r = if u.kbit then th.stored r else (lastWrite ws r).getD (th.stored r)) ∧
       (∀ r v, lastWrite ws r = some v → u.kbit = false ∨ th.nextSeq - u.seq ≤ 7 → x.read r = v) ∧
       x.unit? a.seq = some { u with
         done := true, pend := [], act := act
         undo := if u.kbit then [] else ws.map (fun w => (w.1, th.stored w.1)) }) ∧
  (∀ (r : Reg) (v : Nat),
     loadWords true 1 v [r] = [(r, intWord (if v % 2 ^ 8 < 2 ^ 7 then (v % 2 ^ 8 : Nat) else (v % 2 ^ 8 : Nat) - 2 ^ 8))] ∧
     loadWords true 2 v [r] = [(r, intWord (if v % 2 ^ 16 < 2 ^ 15 then (v % 2 ^ 16 : Nat) else (v % 2 ^ 16 : Nat) - 2 ^ 16))] ∧
     (∀ size, v < 2 ^ (8 * size) → loadWords false size v [r] = [(r, natWord v)]) ∧
     loadWords false 8 v [r, r + 1] = [(r, natWord v), (r + 1, natWord (v / 2 ^ 32))] ∧
     loadWords false 16 v [r, r + 1, r + 2, r + 3] =
       [(r, natWord v), (r + 1, natWord (v / 2 ^ 32)), (r + 2, natWord (v / 2 ^ 64)), (r + 3, natWord (v / 2 ^ 96))])

/-- R302 to R305, R400: an atomic completes under conditions on the state and the access alone. A committed atom or
`cas`, the lower LANEs of its issue set done, reads its word, writes the new value over it, and returns the old one.
At a host or remote home; at the home slice once the issuer has given up its copy and every owner is revoked, so at
once where no core holds the line; and in the issuing core's L1 for `.grp` on a page private to the core. Then its
registers hold the old value. R303, R304: the new values of the atomic operations on w bits, and `cas`, which writes
only over the expected value. -/
def Obligations.AtomicsPerform : Prop :=
  (∀ (s : State) (t : Nat) (e : Env) (a : Access) (p : Phys), Outstanding s t e a → a.phys = [p] →
     a.kind.isAtom = true → a.commit = true → laneFirst s t a = false → siteTaken s (some a.iset) p.tgt p.pa a.size = false →
     let writes (s' : State) (old : Nat) : State := match a.update old with | some v => homeWrite s' p.pa a.size v | none => s'
     (p.tgt ≠ 0 → exec (.atomicPerform t a.id) s = .next (
       let old := physRead s p a.size
       finishAtom (beginSet (match a.update old with | some v => physWrite s p a.size v | none => s) t a) t a old)) ∧
     (p.tgt = 0 → (classOf s p.pte p.entry).1 = 2 → (∀ x ∈ s.cores, find? x.2.l1 (p.pa / 128) = none) →
       (∀ q ∈ s.pubs, q.line ≠ p.pa / 128) → (∀ q ∈ s.registry, q.line ≠ p.pa / 128) → (∀ q ∈ s.revs, q.line ≠ p.pa / 128) →
       homeWaits s (p.pa / 128) = false →
       ∃ s1, SameMemory s s1 ∧ s1.threads = s.threads ∧ exec (.atomicPerform t a.id) s =
         .next (finishAtom (beginSet (writes s1 (homeRead s p.pa a.size)) t a) t a (homeRead s p.pa a.size))) ∧
     (∀ s1 s2 s3 shared z y, p.tgt = 0 → classify s (tCore t) p = .ok s1 shared → a.kind.site ≠ 0 ∨ shared = true →
       yieldWords s1 (tCore t) (p.pa / 128) (spanMask (p.pa % 128) a.size) = (some s2, z) →
       revokeOwners s2 (tCore t) (p.pa / 128) (wordsOf (spanMask (p.pa % 128) a.size)) = (some s3, y) →
       homeWaits s3 (p.pa / 128) = false →
       exec (.atomicPerform t a.id) s = .next (
         let old := homeRead s3 p.pa a.size
         finishAtom (beginSet (writes s3 old) t a) t a old)) ∧
     (∀ s1 s2 old, p.tgt = 0 → classify s (tCore t) p = .ok s1 false → a.kind.site = 0 →
       l1Read s1 (tCore t) (a.reader s1 e (p.pa / 128)) p a.size 0 = .ok s2 old →
       (a.update old = none → exec (.atomicPerform t a.id) s = .next (finishAtom (beginSet s2 t a) t a old)) ∧
       (∀ v s3 x, a.update old = some v → l1Write s2 (tCore t) (gKey t) p a.size v 0 t = .ok s3 x →
         exec (.atomicPerform t a.id) s = .next (finishAtom (beginSet s3 t a) t a old)))) ∧
  (∀ (s : State) (t : Nat) (th : Thread) (a : Access) (old : Nat), s.thread? t = some th → th.exited = false →
     (∀ tm, s.team? (teamKey t) = some tm → tTid t < 32 * tm.ngrp) → old < 2 ^ (8 * a.size) →
     ∀ r, (a.kind.regs = [r] ∧ a.size = 4) ∨ (a.kind.regs = [r, r + 1] ∧ a.size = 8) →
       let ws := if a.size = 4 then [(r, natWord old)] else [(r, natWord old), (r + 1, natWord (old / 2 ^ 32))]
       ∃ x, (finishAtom s t a old).thread? t = some x ∧ x.acc? a.id = none ∧ x.window = th.window ∧ x.ctx.pc = th.ctx.pc ∧
         (∀ q, x.stored q = if a.kbit then th.stored q else (lastWrite ws q).getD (th.stored q)) ∧
         (∀ q v, lastWrite ws q = some v → a.kbit = false ∨ th.nextSeq - a.seq ≤ 7 → x.read q = v)) ∧
  (∀ (w old v : Nat), (w = 32 ∨ w = 64) → old < 2 ^ w → v < 2 ^ w →
     let sg (x : Nat) : Int := if x < 2 ^ (w - 1) then x else (x : Int) - 2 ^ w
     atomNew 0 w old v = (old + v) % 2 ^ w ∧
     sg (atomNew 1 w old v) = min (sg old) (sg v) ∧ atomNew 2 w old v = min old v ∧
     sg (atomNew 3 w old v) = max (sg old) (sg v) ∧ atomNew 4 w old v = max old v ∧
     atomNew 5 w old v = old &&& v ∧ atomNew 6 w old v = old ||| v ∧ atomNew 7 w old v = old ^^^ v ∧
     atomNew 8 w old v = v ∧
     (w = 32 → atomNew 9 w old v = (faddOp .rne (BitVec.ofNat 32 old) (BitVec.ofNat 32 v)).1.toNat) ∧
     (∀ (a : Access) pl rs x, a.kind = .cas pl rs x → a.update old = if old = x then some a.data else none) ∧
     (∀ (a : Access) op pl rs, a.kind = .atom op pl rs → 8 * a.size = w → a.update old = some (atomNew op w old a.data)))

/-! Fences and maintenance. -/

/-- R201, R306 to R308: `acq` acquires once the thread's loads and atomics have returned; `fwait` once its flags are
0; `fence` with nothing outstanding and nothing to publish acquires at once, and otherwise waits, for the accesses and
then for the publications that it sends; `rel` waits in the window, uncommitted. Before it sends them, each waits
while every request entry is in use (R267). -/
def Obligations.FencesIssue : Prop :=
  ∀ (s : State) (c : Ctl) (e : Env),
    (Passes s {} c e →
      ((∀ a ∈ e.th.accs, a.kind.isLoad = false ∧ a.kind.isAtom = false) →
        exec (.acq c) s = .next (Gone (acquire s (tCore e.t)) e (e.th.ctx.past 1))) ∧
      ((∃ a ∈ e.th.accs, a.kind.isLoad = true ∨ a.kind.isAtom = true) →
        exec (.acq c) s = .next { s with stalled := true }) ∧
      (∀ mask, (∀ f : Nat, f < 12 → mask.getLsbD f = true → findD e.th.flags f 0 = 0) →
        exec (.fwait c mask) s = .next (Gone (acquire s (tCore e.t)) e (e.th.ctx.past 1))) ∧
      (∀ mask, (∃ f : Nat, f < 12 ∧ mask.getLsbD f = true ∧ findD e.th.flags f 0 ≠ 0) →
        exec (.fwait c mask) s = .next { s with stalled := true }) ∧
      (requestsFull s (tCore e.t) = true → e.th.accs = [] → (e.th.wait = .none ∨ ∃ b, e.th.wait = .fence b []) →
        e.th.window = [] → exec (.fence c) s = .next { s with stalled := true })) ∧
    (Passes s { settled := true } c e →
      (∀ s1, (e.th.wait = .none ∨ ∃ b, e.th.wait = .fence b []) → e.th.accs = [] → requestsFull s (tCore e.t) = false →
        (release s (tCore e.t) = (s1, []) → exec (.fence c) s = .next (Gone (acquire s1 (tCore e.t)) e (e.th.ctx.past 1))) ∧
        ∀ i ids, release s (tCore e.t) = (s1, i :: ids) →
          exec (.fence c) s = .next (s1.waitFor e.t (.fence true (i :: ids)))) ∧
      (∀ b i ids, e.th.wait = .fence b (i :: ids) → (∃ q ∈ s.pubs, q.id ∈ i :: ids) →
        exec (.fence c) s = .next { s with stalled := true }) ∧
      (∀ i ids, e.th.wait = .fence true (i :: ids) → (∀ q ∈ s.pubs, q.id ∉ i :: ids) →
        exec (.fence c) s = .next (Gone (acquire s (tCore e.t)) e (e.th.ctx.past 1))) ∧
      (e.th.wait = .none → e.th.accs ≠ [] → exec (.fence c) s = .next (s.waitFor e.t (.fence true [])))) ∧
    (Passes s .queued c e → requestsFull s (tCore e.t) = true → exec (.rel c) s = .next { s with stalled := true }) ∧
    (Passes s .queued c e → requestsFull s (tCore e.t) = false → ∃ th, (Past s e (e.th.ctx.past 1)).thread? e.t = some th ∧
      exec (.rel c) s = .next ((Past s e (e.th.ctx.past 1)).setThread e.t { th with
        window := e.th.window ++ [{ WUnit.start e.th with done := false, act := .rel none }] }))

/-- R291: an acquire at a core drops, in its L1, every valid byte of a shared page that is neither dirty nor part of
an owned word, and the whole fetch cache, a line with an expected read count as a whole (R265); it keeps everything
else, and touches no other core and no home. R307: a release publishes every dirty byte of a shared page in the core's
L1, whichever thread stored it, and names every publication of the core that is under way. No byte of any memory
changes by it. -/
def Obligations.AcquiresAndReleases : Prop :=
  (∀ (s : State) (core : Nat),
     let t := acquire s core
     let stays (l : L1Line) (i : Nat) : Prop := l.shared = false ∨ l.dirty.getLsbD i = true ∨ l.owned.getLsbD (i / 4) = true
     let keeps (l : L1Line) (i : Nat) : Prop := l.valid.getLsbD i = true ∧ stays l i ∧
       (l.count = none ∨ ∀ j, j < 128 → l.valid.getLsbD j = true → stays l j)
     let after (l l' : L1Line) : Prop :=
       l' = { l with valid := l'.valid } ∧ ∀ i, i < 128 → (l'.valid.getLsbD i = true ↔ keeps l i)
     (t.core core).fcache = [] ∧
     (∀ d, d ≠ core → t.core d = s.core d) ∧
     (∀ a, t.byteAt a = s.byteAt a) ∧
     (∀ ln l', (ln, l') ∈ (t.core core).l1 → ∃ l, (ln, l) ∈ (s.core core).l1 ∧ after l l') ∧
     (∀ ln l, (ln, l) ∈ (s.core core).l1 → (∃ i, i < 128 ∧ keeps l i) → ∃ l', (ln, l') ∈ (t.core core).l1 ∧ after l l')) ∧
  (∀ (s t : State) (core : Nat) (ids : List Nat), release s core = (t, ids) →
     (∀ ln l, (ln, l) ∈ (s.core core).l1 → l.shared = true → ∀ i, l.dirty.getLsbD i = true →
       ∃ p ∈ t.pubs, p.core = core ∧ p.line = ln ∧ p.mask.getLsbD i = true) ∧
     (∀ p, p ∈ t.pubs → p.core = core → p.id ∈ ids) ∧
     SameMemory s t)

/-! Barriers, guards, leases and queues. -/

/-- R87, R89, R119, R112: `bari` sets the count and discards the arrivals as it commits; `barr` arrives and returns
the phase before its arrival; `barw` waits while the phase is its token; `bars` arrives and waits. A barrier that the
team was not granted is guard misuse, and a thread that holds or requests the extension lock may not wait: these
checks come before the wait for older units. That `barw` waits for the older units as `barr` and `bars` do is the
model's deduction (log 8). -/
def Obligations.BarrierUnits : Prop :=
  (∀ (s : State) (e : Env) (c : Ctl) (b : BitVec 8) (r : Reg), Passes s .queued c e →
    (e.tm.nbar ≤ b.toNat →
      exec (.barr c r b) s = .next (raiseTrap s e.t (trapOf 0x0E b.toNat)) ∧
      exec (.barw c b r) s = .next (raiseTrap s e.t (trapOf 0x0E b.toNat)) ∧
      exec (.bars c b) s = .next (raiseTrap s e.t (trapOf 0x0E b.toNat))) ∧
    (b.toNat < e.tm.nbar → e.th.xhold = true ∨ e.th.xreq.isSome = true →
      exec (.barw c b r) s = .next (raiseTrap s e.t (trapOf 0x09 b.toNat)) ∧
      exec (.bars c b) s = .next (raiseTrap s e.t (trapOf 0x09 b.toNat))) ∧
    (b.toNat < e.tm.nbar → e.th.xhold = false → e.th.xreq = none → e.th.window ≠ [] →
      exec (.barr c r b) s = .next { s with stalled := true } ∧ exec (.barw c b r) s = .next { s with stalled := true } ∧
      exec (.bars c b) s = .next { s with stalled := true })) ∧
  (∀ (s : State) (e : Env) (c : Ctl) (b : BitVec 8) (cnt : Imm), Passes s .queued c e →
    (e.tm.nbar ≤ b.toNat → exec (.bari c b cnt) s = .next (raiseTrap s e.t (trapOf 0x0E b.toNat))) ∧
    (b.toNat < e.tm.nbar →
      (e.th.window = [] → exec (.bari c b cnt) s = .next ((Gone s e (e.th.ctx.past cnt.words)).setTeam (teamKey e.t)
        { e.tm with bars := put e.tm.bars b.toNat ⟨cnt.zero32.toNat, 0, (e.tm.bar b.toNat).phase⟩ })) ∧
      (e.th.window ≠ [] → exec (.bari c b cnt) s =
        .next (Behind s e (e.th.ctx.past cnt.words) (.bari b.toNat cnt.zero32.toNat) 0)))) ∧
  ∀ (s : State) (e : Env) (c : Ctl) (b : BitVec 8), Passes s { settled := true } c e →
    let x := e.tm.bar b.toNat
    (b.toNat < e.tm.nbar →
      (∀ xd s1 e1, Reads s e [xd] s1 e1 → e1.tm = e.tm → e1.t = e.t →
        ∃ t th, exec (.barr c xd b) s = .next t ∧ Arrival s1 t e1 b.toNat c.k [(xd, x.phase)] .none th) ∧
      (e.th.xhold = false → e.th.xreq = none →
        (∀ xb s1 e1, Reads s e [xb] s1 e1 → Arrived e1 [xb] → exec (.barw c b xb) s = .next (
          let t := Gone s1 e1 (e1.th.ctx.past 1)
          if (e1.tm.bar b.toNat).phase = e1.th.read xb then t.waitFor e1.t (.barrier b.toNat (e1.th.read xb)) else t)) ∧
        (∃ t th, exec (.bars c b) s = .next t ∧
          Arrival s t e b.toNat false [] (if x.arrivals + 1 = x.count then .none else .barrier b.toNat x.phase) th)))

/-- R196, R197, R145, R136: `gset`, `gres` and `gres.open` resolve or open a guard slot, an FP32 compare raising flags
and trapping as `fcmp` does; each acts as it commits (R112), so at once where no older unit is left. `gwait` waits
while its guard is Open and then reads it, as the older units of its thread leave it: the model's deduction (log 8).
-/
def Obligations.GuardUnits : Prop :=
  ∀ (s s1 : State) (e : Env) (c : Ctl) (cc : BitVec 3) (gd : BitVec 8) (xa xb : Reg), gd.toNat < 16 →
    let sets (i : Instr) (s1 : State) (v : BitVec 2) (fps : BitVec 5) : Prop :=
      (e.th.window = [] → ∃ t, exec i s = .next t ∧ GuardSet t s1 e gd.toNat v fps) ∧
      (e.th.window ≠ [] → exec i s = .next (Behind s1 e (e.th.ctx.past 1) (.guard gd.toNat v) fps))
    (Ready s .queued c [xa, xb] s1 e → Arrived e [xa, xb] →
      sets (.gset c cc false gd xa xb) s1 (if holds cc (e.th.read xa) (e.th.read xb) then 1 else 0) 0 ∧
      (let r := fcmpOp cc (e.th.read xa) (e.th.read xb)
       if e.th.ctx.fpc.extractLsb' 0 5 &&& r.2 = 0 then sets (.gset c cc true gd xa xb) s1 (if r.1 then 1 else 0) r.2
       else exec (.gset c cc true gd xa xb) s = .next (raiseTrap s1 e.t ⟨0x07, 0, 0, false, r.2.setWidth 64, 0⟩))) ∧
    (Ready s .queued c [xa] s1 e → Arrived e [xa] →
      sets (.gres c gd xa) s1 (if e.th.read xa ≠ 0 then 1 else 0) 0) ∧
    (Passes s .queued c e →
      sets (.gresOpen c gd) s 2 0 ∧
      (e.guard gd.toNat = 2 → exec (.gwait c xa gd) s = .next { s with stalled := true }) ∧
      (∀ e1, e.guard gd.toNat ≠ 2 → Reads s e [xa] s1 e1 →
        let v : Word := if e1.guard gd.toNat = 1 then 1 else 0
        ∃ t, exec (.gwait c xa gd) s = .next t ∧
          (e1.th.window = [] → ∃ th, Settled s1 t e1 c.k [(xa, v)] (e1.th.ctx.past 1) th) ∧
          (e1.th.window ≠ [] → Computed s1 t e1 c.k 1 [] [xa] (word xa v)))) ∧
    ((∀ u ∈ e.th.window, ∀ v, u.act ≠ .guard gd.toNat v) → e.guard gd.toNat = e.tm.guard gd.toNat) ∧
    (∀ before u v, e.th.window = before ++ [u] → u.act = .guard gd.toNat v → u.trap = none → e.guard gd.toNat = v)

/-- R250 to R252: a push releases and appends to a queue with room, a pop takes the head and acquires, `qpop.any` the
head of the fullest queue that its role may pop, and reports it. They wait for room or an entry, a push for what a
release waits for (R267, R307), a pop for what an acquire waits for (R306); a queue that the launch lacks, or that the
role may not use, is guard misuse. -/
def Obligations.QueueUnits : Prop :=
  ∀ (s s1 : State) (e0 e : Env) (c : Ctl) (q : BitVec 8) (x : Reg), Passes s { settled := true, long := true } c e0 →
    let used (push : Bool) : Prop := ∃ y, find? e0.tm.queues q.toNat = some y ∧
      y.desc.getLsbD ((if push then 7 else 5) + if e0.consumer then 1 else 0) = true
    let returned : Prop := ∀ a ∈ e.th.accs, a.kind.isLoad = false ∧ a.kind.isAtom = false
    (¬used true → exec (.qpush c q x) s = .next (raiseTrap s e0.t (trapOf 0x0E (q.toNat + 16)))) ∧
    (¬used false → exec (.qpop c x q) s = .next (raiseTrap s e0.t (trapOf 0x0E q.toNat))) ∧
    (∀ y, find? e0.tm.queues q.toNat = some y → used true → Reads s e0 [x, x + 1] s1 e → Arrived e [x, x + 1] →
      let cap := 2 ^ (y.desc.toNat / 2 % 16)
      (cap ≤ y.entries.length → exec (.qpush c q x) s = .next { s1 with stalled := true }) ∧
      (y.entries.length < cap → e.th.wait = .none → e.th.accs = [] → requestsFull s1 (tCore e.t) = true →
        exec (.qpush c q x) s = .next { s1 with stalled := true }) ∧
      (∀ s2 i ids, y.entries.length < cap → e.th.wait = .none → e.th.accs = [] → requestsFull s1 (tCore e.t) = false →
        release s1 (tCore e.t) = (s2, i :: ids) → exec (.qpush c q x) s = .next (s2.waitFor e.t (.fence false (i :: ids)))) ∧
      (∀ s2, y.entries.length < cap → e.th.wait = .none → e.th.accs = [] → requestsFull s1 (tCore e.t) = false →
        release s1 (tCore e.t) = (s2, []) →
        exec (.qpush c q x) s = .next ((Gone s2 e (e.th.ctx.past 1)).modTeam (teamKey e.t) (fun tm => { tm with
          queues := adjust tm.queues q.toNat (fun z => { z with
            entries := z.entries ++ [BitVec.ofNat 64 (pairNat e.th.read x)] }) })))) ∧
    (∀ y, find? e0.tm.queues q.toNat = some y → used false → Reads s e0 [x, x + 1] s1 e →
      (y.entries = [] ∨ ¬returned → exec (.qpop c x q) s = .next { s1 with stalled := true }) ∧
      (∀ v vs, y.entries = v :: vs → returned → ∃ t th, exec (.qpop c x q) s = .next (popQueue t e.t q.toNat) ∧
        Settled (acquire s1 (tCore e.t)) t e c.k [(x, v.setWidth 32), (x + 1, (v >>> 32).setWidth 32)] (e.th.ctx.past 1) th)) ∧
    (let may (z : Nat × Queue) : Bool := z.2.desc.getLsbD (if e0.consumer then 6 else 5)
     ((∀ z ∈ e0.tm.queues, may z = false) → exec (.qpopAny c x) s = .next (raiseTrap s e0.t (trapOf 0x0E 0x1F))) ∧
     (∀ before i y after v vs, e0.tm.queues.filter may = before ++ (i, y) :: after → y.entries = v :: vs →
       (∀ z ∈ before, z.2.entries.length < y.entries.length) → (∀ z ∈ after, z.2.entries.length ≤ y.entries.length) →
       Reads s e0 [x, x + 1, x + 2] s1 e → returned →
       ∃ t th, exec (.qpopAny c x) s = .next (popQueue t e.t i) ∧
         Settled (acquire s1 (tCore e.t)) t e c.k
           [(x, v.setWidth 32), (x + 1, (v >>> 32).setWidth 32), (x + 2, natWord i)] (e.th.ctx.past 1) th)) ∧
    (∀ k j y v vs, find? (e0.tm.queues) k = some y → y.entries = v :: vs → s.team? (teamKey j) = some e0.tm →
      ∃ tm, (popQueue s j k).team? (teamKey j) = some tm ∧ find? tm.queues k = some { y with entries := vs, head := y.head + 1 })

/-- R269 to R272, R91: `lease` sets the group's lease or its measured mode as it commits. The lease unit evaluates the
activation rule every 1,024 clk, after a group comes or goes, at 100,000 clk of parked time and when the barrier
condition begins to hold; its rule parks no protected group, and activates and protects every group parked for 100,000
clk. A measured lease that is quiet for 65,536 clk shrinks by an eighth, and protection ends after its 16,384 clk. -/
def Obligations.LeaseUnitAndEvents : Prop :=
  (∀ (s : State) (e : Env) (c : Ctl) (n : BitVec 12), Passes s .queued c e →
    (e.th.window ≠ [] → exec (.lease c n) s = .next (Behind s e (e.th.ctx.past 1) (.lease n.toNat) 0)) ∧
    (e.th.window = [] → exec (.lease c n) s = .next ((Gone s e (e.th.ctx.past 1)).setCore (tCore e.t) { s.core (tCore e.t) with
      leases := adjust (s.core (tCore e.t)).leases (gKey e.t) (fun l =>
        if n = 0 then { l with measured := true } else { l with measured := false, lines := n.toNat }) }))) ∧
  (∀ (s : State) (core : Nat),
    let k := s.core core
    let next := (s.clk / 1024 + 1) * 1024
    let evaluated : State := s.setCore core { k with
      leases := evaluate s k.leases, nextEval := if s.clk < k.nextEval then min k.nextEval next else next
      atBar := barrierHolds s k.leases }
    let late (g : Nat) (l : Lease) : Prop := (g, l) ∈ k.leases ∧ ∃ p, l.parked = some p ∧ p + 100000 ≤ s.clk
    (s.cur = core → k.nextEval ≤ s.clk ∨ (∃ g l, late g l) ∨ (k.atBar = false ∧ barrierHolds s k.leases = true) →
      exec .leaseEvaluation s = .next evaluated) ∧
    (s.cur / 64 = core → ∀ l, late s.cur l → exec .parkedTimeExpiry s = .next evaluated)) ∧
  (∀ (s : State) (ls : List (Nat × Lease)) (g : Nat) (l : Lease), Sorted ls = true → find? ls g = some l →
    (l.protect ≠ none → l.parked = none → ∃ l', find? (evaluate s ls) g = some l' ∧ l'.parked = none) ∧
    (∀ p, l.parked = some p → p + 100000 ≤ s.clk →
      ∃ l', find? (evaluate s ls) g = some l' ∧ l'.parked = none ∧ l'.protect = some (s.clk + 16384))) ∧
  (∀ (s : State) (l : Lease), find? (s.core (s.cur / 64)).leases s.cur = some l →
    (l.measured = true → 65536 ≤ l.quiet → exec .leaseQuietDecay s =
      .next (modLease s s.cur (fun l => { l with lines := l.lines - l.lines / 8, quiet := 0 }))) ∧
    (∀ c, l.protect = some c → c ≤ s.clk →
      exec .protectionEnd s = .next (modLease s s.cur (fun l => { l with protect := none }))))

/-! Tile handles and engine jobs. -/

/-- R174 to R178, R187: `talloc` traps on a handle in use and on a refused shape; else a core's allocator grants it at
once where no older request waits and enough is free, and otherwise it waits at its allocator, behind the requests of
older clks and, among those of its own, in the order of cluster and LANE. The grant, before the deadline of 4,096 clk
and at the die's allocator not in the clk of arrival, and the timeout come later. Each completes under the conditions
named here alone. `tfree` takes the entry away and gives its storage back once no job names it; `tmap` makes an entry
of level M. That a core grants at once and a die never in the clk of arrival is the model's deduction (log 15). -/
def Obligations.HandlesMade : Prop :=
  ∀ (s : State) (c : Ctl) (hd : BitVec 8),
    let h := hd.toNat
    (∀ (lvlS : Bool) xv s1 e, Ready s { settled := true } c [xv, xv + 1] s1 e → Arrived e [xv, xv + 1] →
      let d := BitVec.ofNat 64 (pairNat e.th.read xv)
      let lvl : BitVec 2 := if lvlS then 1 else if d.toNat / 2 ^ 40 % 16 = 4 then 3 else 0
      let gran := if lvl = 3 then 0 else (shapeSize e.la lvl d + 4095) / 4096
      let r : TallocReq := ⟨e.t, h, lvl, gran, d, s1.clk⟩
      (e.tm.handle? h ≠ none → exec (.talloc c lvlS hd xv) s = .next (raiseTrap s1 e.t (trapOf 0x0A (2 + 2 ^ 8 * h)))) ∧
      (e.tm.handle? h = none → shapeRefused e.la lvl d = true →
        exec (.talloc c lvlS hd xv) s = .next (raiseTrap s1 e.t (trapOf 0x0A (3 + 2 ^ 8 * h)))) ∧
      (e.tm.handle? h = none → shapeRefused e.la lvl d = false →
        (lvl ≠ 1 → tallocQueue s1 (tCore e.t) lvl = [] → tallocFits s1 r = true →
          ∃ t, exec (.talloc c lvlS hd xv) s = .next t ∧ Granted (Gone s1 e (e.th.ctx.past 1)) t e.t h lvl gran d) ∧
        (lvl = 1 ∨ tallocQueue s1 (tCore e.t) lvl ≠ [] ∨ tallocFits s1 r = false →
          ∃ t, exec (.talloc c lvlS hd xv) s = .next t ∧ t.thread? e.t = some (Waits e.th s1.clk .talloc) ∧
            ∃ before after, tallocQueue s1 (tCore e.t) lvl = before ++ after ∧ tallocQueue t (tCore e.t) lvl = before ++ r :: after ∧
              let earlier (x : TallocReq) : Prop := x.at_ ≠ s1.clk ∨ tallocRank s1 x.thread ≤ tallocRank s1 e.t
              (∀ x ∈ before, earlier x) ∧
              ((∀ x ∈ s1.allocS ++ (s1.core (tCore e.t)).allocs, earlier x) → after = [])))) ∧
    (∀ e, Passes s { settled := true } c e →
      (e.tm.handle? h = none → exec (.tfree c hd) s = .next (raiseTrap s e.t (trapOf 0x0A (1 + 2 ^ 8 * h)))) ∧
      (∀ x, e.tm.handle? h = some x → ∃ t tm, exec (.tfree c hd) s = .next t ∧ t.team? (teamKey e.t) = some tm ∧
        tm.handle? h = none ∧ (∀ n, n ≠ h → tm.handle? n = e.tm.handle? n) ∧
        (x.lvl ≠ 2 →
          let named (u : Nat) := ∃ j ∈ (s.core (tCore e.t)).jobs, ∃ z ∈ j.hs, z.lvl ≠ 2 ∧ z.uid = u
          (∀ u y, (u, y) ∈ (t.core (tCore e.t)).tiles → y.freed = true → named u) ∧
          (∀ y, find? (s.core (tCore e.t)).tiles x.uid = some y → named x.uid →
            find? (t.core (tCore e.t)).tiles x.uid = some { y with freed := true })) ∧ SameMemory s t)) ∧
    (∀ xa xv s1 e, Ready s { settled := true } c [xa, xa + 1, xv, xv + 1] s1 e → Arrived e [xa, xa + 1, xv, xv + 1] →
      let d := BitVec.ofNat 64 (pairNat e.th.read xv)
      let base := pairNat e.th.read xa
      (e.tm.handle? h ≠ none → exec (.tmap c hd xa xv) s = .next (raiseTrap s1 e.t (trapOf 0x0A (2 + 2 ^ 8 * h)))) ∧
      (e.tm.handle? h = none → shapeRefused e.la 2 d = true ∨ base % 16 ≠ 0 →
        exec (.tmap c hd xa xv) s = .next (raiseTrap s1 e.t (trapOf 0x0A (3 + 2 ^ 8 * h)))) ∧
      (e.tm.handle? h = none → shapeRefused e.la 2 d = false → base % 16 = 0 →
        exec (.tmap c hd xa xv) s = .next ((Gone s1 e (e.th.ctx.past 1)).modTeam (teamKey e.t) (fun tm => { tm with
          handles := put tm.handles h ⟨d, 2, BitVec.ofNat 57 base, 0⟩, binds := del tm.binds h })))) ∧
    (∀ (core : Nat) (lvl : BitVec 2) r rs e, tallocQueue s core lvl = r :: rs → s.env r.thread = some e →
      s.clk < r.at_ + 4096 → (lvl = 1 → r.at_ ≠ s.clk) →
      (e.tm.handle? r.h ≠ none → exec (.tallocGrant core lvl) s =
        .next (raiseTrap ((Dequeued s r).waitFor r.thread .none) r.thread (trapOf 0x0A (2 + 2 ^ 8 * r.h)))) ∧
      (e.tm.handle? r.h = none → tallocFits s r = true →
        ∃ t, exec (.tallocGrant core lvl) s = .next t ∧
          Granted (Gone (Dequeued s r) e (e.th.ctx.past 1)) t r.thread r.h r.lvl r.gran r.shape)) ∧
    (∀ r, r ∈ s.allocS ++ (s.core (tCore s.cur)).allocs → r.thread = s.cur →
      (∀ x ∈ s.allocS ++ (s.core (tCore s.cur)).allocs, x.thread = s.cur → x = r) → r.at_ + 4096 ≤ s.clk →
      exec .tallocTimeout s =
        .next (raiseTrap ((Dequeued s r).waitFor s.cur .none) s.cur (trapOf 0x0A (4 + 2 ^ 8 * r.h))))

/-- R189: an element access checks its handle; at level M it is a `ld` or `st` of the element's bytes, and in tile
storage it reads, extended, or writes the element's code when it performs. -/
def Obligations.TileElements : Prop :=
  ∀ (s s1 : State) (e : Env) (c : Ctl) (ha : BitVec 8) (x xc : Reg) (f : BitVec 4), e.th.ctx.clause.flag c.fl = some f →
    let n := ha.toNat
    let h := e.tm.handle n
    let rb := rowBytes h.lvl h.shape
    let row := rowOf (e.th.read xc)
    let col := colOf (e.th.read xc)
    let va := (h.loc.toNat + (8 * rb * row + h.w * col) / 8) % 2 ^ 57
    let free (write : Bool) := heldByJob s1 (tCore e.t) write [.tile h.uid row col 1 1 none] = false
    let conds := ElementConditions e n (e.th.read xc)
    (Ready s Mode.counted c [xc, x] s1 e →
      (∀ sub k, conds.firstFails sub k →
        exec (.tld c x ha xc) s = .next (raiseTrap s1 e.t (trapOf 0x0A (sub + 2 ^ 8 * k)))) ∧
      (conds.hold →
        (∀ p, h.lvl = 2 → Admits s1 e va (h.w / 8) .r (needsRequest s1 (tCore e.t) · (h.w / 8)) p →
          exec (.tld c x ha xc) s = .next (Issues s1 e (e.th.ctx.past 1)
            (mkAccess s1 e (.load (efInt h.ef) [x]) va (h.w / 8) 0 [p] 0 c.k (some f.toNat)) [xc] false)) ∧
        (h.lvl ≠ 2 → free false →
          ∃ a, a.kind = .tld (teamKey e.t) n x ∧
            exec (.tld c x ha xc) s = .next (Issues s1 e (e.th.ctx.past 1) a [xc] false) ∧
            ∀ t e', Outstanding t e.t e' a → behindCommand t e' a = false →
              (find? (t.core (tCore e.t)).tiles h.uid).isSome = true →
              exec (.loadReturn e.t a.id) t = .next (finishLoad t e.t a [(x,
                let v := tileCode (tileOf (t.core (tCore e.t)) h.uid) rb h.w row col
                if efInt h.ef then intWord (if v < 2 ^ (h.w - 1) then v else (v : Int) - 2 ^ h.w) else natWord v)] .none)))) ∧
    (Ready s Mode.counted c [xc, x] s1 e →
      (∀ sub k, conds.firstFails sub k →
        exec (.tst c ha xc x) s = .next (raiseTrap s1 e.t (trapOf 0x0A (sub + 2 ^ 8 * k)))) ∧
      (conds.hold →
        (∀ p, h.lvl = 2 → Admits s1 e va (h.w / 8) .w (fun _ => false) p →
          exec (.tst c ha xc x) s = .next (Issues s1 e (e.th.ctx.past 1)
            (mkAccess s1 e .store va (h.w / 8) ((e.th.read x).toNat % 2 ^ h.w) [p] 0 false (some f.toNat)) [xc, x] true)) ∧
        (h.lvl ≠ 2 → free true →
        ∃ a, a.kind = .tst (teamKey e.t) n ∧
          exec (.tst c ha xc x) s = .next (Issues s1 e (e.th.ctx.past 1) a [xc, x] true) ∧
          ∀ t e', Outstanding t e.t e' { a with commit := true } →
            (find? (t.core (tCore e.t)).tiles h.uid).isSome = true →
            ∃ t1, exec (.storePerform e.t a.id) t = .next (finishStore t1 e.t { a with commit := true }) ∧
              (∀ r q, (r ≠ row ∨ q ≠ col) → q < h.cols →
                tileCode (tileOf (t1.core (tCore e.t)) h.uid) rb h.w r q = tileCode (tileOf (t.core (tCore e.t)) h.uid) rb h.w r q) ∧
              tileCode (tileOf (t1.core (tCore e.t)) h.uid) rb h.w row col = (e.th.read x).toNat % 2 ^ h.w)))

/-- R178 to R185, R188, R190 to R194, R199: the jobs of the copy engine and of the tile engine. Where R178 leaves an
order or a handle open, the checks follow logs 18 (the handle of a refused class) and 60 (sub-cause 7 right after
validity, the handle that a disagreement reports, the row-major check of `tred` last, and checks whatever the guard
is). -/
def Obligations.CopyAndTileJobs : Prop :=
  ∀ (c : Ctl) (hd ha hb : BitVec 8) (axis : Bool),
    let d (e : Env) := e.tm.handle hd.toNat
    let a (e : Env) := e.tm.handle ha.toNat
    let b (e : Env) := e.tm.handle hb.toNat
    let common (e : Env) (hs : List Nat) : Conditions := Valid e hs ++ NoAccumulator e hs
    let three (e : Env) : Conditions :=
      let hs := [hd.toNat, ha.toNat, hb.toNat]
      common e hs ++ [((a e).differs (d e), 5, ha.toNat), ((b e).differs (d e), 5, hb.toNat)] ++ RowMajor e hs ++
      [(¬OneClass [(d e).ef, (a e).ef, (b e).ef], 5, classCulprit e.tm hs)]
    let reduced (e : Env) : Conditions :=
      let hs := [hd.toNat, ha.toNat]
      common e hs ++
      [ (if axis then (d e).rows ≠ 1 ∨ (d e).cols ≠ (a e).cols else (d e).rows ≠ (a e).rows ∨ (d e).cols ≠ 1, 5, hd.toNat)
      , (¬OneClass [(d e).ef, (a e).ef], 5, classCulprit e.tm hs)] ++ RowMajor e hs
    (∀ xr xo, EngineUnit (.tcopy c hd ha xr xo) c none [xr, xr + 1, xo] (tcopyDraft hd ha xr xo) fun e =>
      let r := rectOf (BitVec.ofNat 64 (pairNat e.th.read xr))
      let o : Rect := ⟨rowOf (e.th.read xo), colOf (e.th.read xo), r.rows, r.cols⟩
      common e [hd.toNat, ha.toNat] ++
      [ ((d e).ef ≠ (a e).ef, 5, hd.toNat)
      , (¬((d e).lay = 0 ∧ (a e).lay = 0) ∧
          ¬((d e).shape.toNat % 2 ^ 44 = (a e).shape.toNat % 2 ^ 44 ∧ r = (d e).whole ∧ o = (a e).whole), 8,
          if (d e).lay ≠ 0 then hd.toNat else ha.toNat)
      , (r.inside (d e) = false, 6, hd.toNat), (o.inside (a e) = false, 6, ha.toNat)]) ∧
    (∀ xr xb, EngineUnit (.tfill c hd xr xb) c none [xr, xr + 1, xb] (tfillDraft hd xr xb) fun e =>
      common e [hd.toNat] ++ RowMajor e [hd.toNat] ++
      [((rectOf (BitVec.ofNat 64 (pairNat e.th.read xr))).inside (d e) = false, 6, hd.toNat)]) ∧
    EngineUnit (.tadd c hd ha hb) c none [] (elementwiseDraft hd ha hb false) three ∧
    EngineUnit (.tmul c hd ha hb) c none [] (elementwiseDraft hd ha hb false) three ∧
    EngineUnit (.tfma c hd ha hb) c none [] (elementwiseDraft hd ha hb true) three ∧
    (∀ sat fs, EngineUnit (.tcvt c sat fs hd ha) c (some fs) [] (convertDraft hd ha) fun e =>
      common e [hd.toNat, ha.toNat] ++ [((a e).differs (d e), 5, hd.toNat)] ++ RowMajor e [hd.toNat, ha.toNat] ++
      [(slotEF (e.la.fs fs.toNat) ≠ (d e).ef ∨ (d e).ef = 9, 5, hd.toNat)]) ∧
    EngineUnit (.tredAdd c axis hd ha) c none [] (convertDraft hd ha) reduced ∧
    EngineUnit (.tredMax c axis hd ha) c none [] (convertDraft hd ha) reduced ∧
    EngineUnit (.tredMin c axis hd ha) c none [] (convertDraft hd ha) reduced ∧
    EngineUnit (.ttr c hd ha) c none [] (convertDraft hd ha) (fun e =>
      common e [hd.toNat, ha.toNat] ++
      [((d e).rows ≠ (a e).cols ∨ (d e).cols ≠ (a e).rows ∨ (d e).ef ≠ (a e).ef, 5, hd.toNat)] ++
      RowMajor e [hd.toNat, ha.toNat] ++ [(hd = ha, 5, hd.toNat)])

/-- R203, R209 to R215: the jobs of the matrix sequencer. `gmm` reads the entry of its group before its conditions,
and `epild` its program before its job is accepted. That a STOP piece reads no table is log 21, the order of the
checks of `mdrain` log 22, and the handles that the rules do not name and the checks whatever the guard is log 60. -/
def Obligations.MatrixJobs : Prop :=
  ∀ (c : Ctl) (hc ha hb hd : BitVec 8),
    let h (e : Env) (n : BitVec 8) := e.tm.handle n.toNat
    let product (e : Env) : Conditions :=
      let a := h e ha
      let b := h e hb
      let x := h e hc
      let sa := e.la.fs (shFSN a.shape)
      let sb := e.la.fs (shFSN b.shape)
      Valid e [hc.toNat, ha.toNat, hb.toNat] ++
      [ (a.lvl ≠ 0, 7, ha.toNat), (a.lay ≠ 1, 5, ha.toNat)
      , (a.ef ≠ slotEF sa ∨ a.ef = 14 ∨ a.ef = 9, 5, ha.toNat)
      , (b.lvl ≠ 0 ∧ b.lvl ≠ 1, 7, hb.toNat), (b.lay ≠ 2, 5, hb.toNat)
      , (b.ef ≠ slotEF sb ∨ b.ef = 13 ∨ b.ef = 14 ∨ b.ef = 9, 5, hb.toNat)
      , (x.lvl ≠ 3, 7, hc.toNat), (a.rows ≠ x.rows ∨ b.cols ≠ x.cols ∨ a.cols ≠ b.rows, 5, hc.toNat)
      , (x.ef = 14 ∧ ¬(intBlockSlot sb = true ∧ (intBlockSlot sa = true ∨ (slotEF sa = 13 ∧ slotSF sa = 0))), 5, hc.toNat)]
    (∀ fs hs, EngineUnit (.mplane c fs hd ha hs) c (some fs) [] (mplaneDraft fs hd ha hs) fun e =>
      let slot := e.la.fs fs.toNat
      let a := h e ha
      let d := h e hd
      let x := h e hs
      let scaled := slotSF slot ≠ 0
      let bs := slotBS slot
      Valid e ([hd.toNat, ha.toNat] ++ if scaled then [hs.toNat] else []) ++
      [ (a.lay ≠ 0, 8, ha.toNat), (a.lvl = 3, 7, ha.toNat), (d.lvl ≠ 0, 7, hd.toNat)
      , (d.lay ≠ 1 ∧ d.lay ≠ 2, 5, hd.toNat), (shFSN d.shape ≠ fs.toNat, 5, hd.toNat)
      , (d.ef ≠ slotEF slot ∨ d.ef = 14 ∨ d.ef = 9, 5, hd.toNat), (a.ef ≠ slotEF slot, 5, ha.toNat), (a.differs d, 5, hd.toNat)
      , (slotEF slot = 13 ∧ (d.lay ≠ 1 ∨ (slotSF slot = 1 ∧ bs < 32)), 5, hd.toNat), (¬scaled ∧ hs ≠ 0, 5, hd.toNat)] ++
      if scaled then
        [ (x.lay ≠ 0 ∨ x.ef ≠ scaleEF (slotSF slot), 5, hs.toNat)
        , (if d.lay = 1 then x.rows < a.rows ∨ x.cols < (a.cols + bs - 1) / bs
           else x.rows < (a.rows + bs - 1) / bs ∨ x.cols < a.cols, 6, hs.toNat)]
      else []) ∧
    EngineUnit (.mma c hc ha hb) c none [] (fun e => productDraft e hc ha hb [] []) product ∧
    (∀ xm, EngineUnit (.mmas c hc ha hb xm) c none [xm] (mmasDraft hc ha hb xm) fun e =>
      let x := (e.th.read xm).toNat
      let ma := x % 64
      let mb := x / 2 ^ 8 % 64
      let m (n : Nat) := e.tm.handle n
      let both (bad : Handle → Prop) (sub : Nat) : Conditions := [(bad (m ma), sub, ma), (bad (m mb), sub, mb)]
      product e ++ [(x ≠ ma + 2 ^ 8 * mb, 5, hc.toNat)] ++ Valid e [ma, mb] ++
      both (fun m => m.lay ≠ 0) 5 ++ both (fun m => m.lvl ≠ 0 ∧ m.lvl ≠ 1) 7 ++ both (fun m => m.rows ≠ 1) 5 ++
      [ ((m ma).ef ≠ 12, 5, ma), ((m ma).cols < (h e ha).cols, 6, ma)
      , ((m mb).ef ≠ 14, 5, mb), ((m mb).cols < ((h e ha).cols + 31) / 32, 6, mb)]) ∧
    EngineUnit (.mzero c hc) c none [] (mzeroDraft hc) (fun e => Valid e [hc.toNat] ++ [((h e hc).lvl ≠ 3, 7, hc.toNat)]) ∧
    (∀ fs z en prg xo, EngineUnitAt (.mdrain c fs z en prg hd hc xo) c (some fs) [xo]
        (fun s e => mdrainDraft s z en prg hd hc xo e) fun s e =>
      let d := h e hd
      let a := h e hc
      let row0 := rowOf (e.th.read xo)
      let col0 := colOf (e.th.read xo)
      let own := (List.range a.rows).filter (fun r => r % 32 == e.t % 32)
      Valid e [hd.toNat, hc.toNat] ++
      [ (a.lvl ≠ 3, 7, hc.toNat), (d.rows < row0 + a.rows ∨ d.cols < col0 + a.cols, 6, hd.toNat)
      , (d.lvl = 3, 7, hd.toNat), (d.lay ≠ 0, 8, hd.toNat), (d.ef ≠ slotEF (e.la.fs fs.toNat), 5, hd.toNat)
      , (en = true ∧ ((s.core (tCore e.t)).prog prg.toNat).owner ≠ some (teamKey e.t), 1, prg.toNat)] ++
      if en then (storeWords (s.core (tCore e.t)) prg.toNat).flatMap (fun w =>
          (epConds e hd.toNat row0 col0 a.cols ((own.getLast?.map (· + 1)).getD 0) w).map (fun q => (q.1 = true, q.2.1, q.2.2)))
      else []) ∧
    (∀ (s s1 s2 : State) (e : Env) (xp : Reg) (f : BitVec 4) (w0 w1 w2 : Word),
      Ready s engineMode c [xp, xp + 1] s1 e → Arrived e [xp, xp + 1] → e.th.ctx.clause.flag c.fl = some f →
      (s.core (tCore s.cur)).jobs.length < 64 →
      let p := BitVec.ofNat 64 (pairNat e.th.read xp)
      let grp := p.toNat / 2 ^ 52 % 2 ^ 10
      let span := min (32 * (p.toNat % 2 ^ 18)) w2.toNat - 32 * (p.toNat / 2 ^ 18 % 2 ^ 18)
      let stop := 2 ^ 63 ≤ p.toNat
      (¬stop → (∀ k, readWords s1 e (e.la.groupTable + 16 * grp) 3 k = k s2 [w0, w1, w2]) →
        let cs := [(e.la.ng ≤ grp, 6, hc.toNat)] ++ product e ++ [((h e ha).cols < span, 6, hc.toNat)]
        (∀ sub k, Conditions.firstFails cs sub k →
          exec (.gmm c hc ha hb xp) s = .next (raiseTrap s2 e.t (trapOf 0x0A (sub + 2 ^ 8 * k)))) ∧
        (let draft := productDraft e hc ha hb
            [p, BitVec.ofNat 64 (w1.toNat * 2 ^ 32 + w0.toNat), BitVec.ofNat 64 w2.toNat] []
         Conditions.hold cs → AdmitsJob s2 e draft →
          ∃ t, exec (.gmm c hc ha hb xp) s = .next t ∧ Accepted s2 t e c (.gmm c hc ha hb xp) draft f)) ∧
      (∀ sub k, stop → (product e).firstFails sub k →
        exec (.gmm c hc ha hb xp) s = .next (raiseTrap s1 e.t (trapOf 0x0A (sub + 2 ^ 8 * k)))) ∧
      (let draft := productDraft e hc ha hb [p, 0, 0] []
       (product e).hold → stop → AdmitsJob s1 e draft →
        ∃ t, exec (.gmm c hc ha hb xp) s = .next t ∧ Accepted s1 t e c (.gmm c hc ha hb xp) draft f)) ∧
    (∀ (s s1 s2 : State) (e : Env) (n : BitVec 8) (xa : Reg) (f : BitVec 4) (ws : List Word),
      Ready s engineMode c [xa, xa + 1] s1 e → Arrived e [xa, xa + 1] → e.th.ctx.clause.flag c.fl = some f →
      (s.core (tCore s.cur)).jobs.length < 64 →
      let a := pairNat e.th.read xa
      (a % 4 ≠ 0 → exec (.epild c n xa) s = .next (raiseTrap s1 e.t (trapOf 0x03 (a % 2 ^ 57)))) ∧
      (a % 4 = 0 → 2 ^ 57 ≤ a → exec (.epild c n xa) s = .next (raiseTrap s1 e.t (trapOf 0x04 (a % 2 ^ 57)))) ∧
      (a % 4 = 0 → a < 2 ^ 57 → (∀ k, readProgram s1 e a 32 k = k s2 ws) →
        (programOk ws = false → exec (.epild c n xa) s = .next (raiseTrap s2 e.t ⟨0x01, 8, 0, false, 0, 0⟩)) ∧
        (let draft := epildDraft n (BitVec.ofNat 64 a) (ws.map (·.setWidth 64)) ws.length e
         programOk ws = true → AdmitsJob s2 e draft →
          ∃ t, exec (.epild c n xa) s = .next t ∧ Accepted s2 t e c (.epild c n xa) draft f ∧
            ((t.core (tCore e.t)).prog n.toNat).owner = some (teamKey e.t))))

/-- R181 to R185, R199, R221 to R223, R347: how jobs leave the table. A job whose guard fails is discarded, and one
that performed leaves when it retires: its flag is decremented. At a point of the sequencer a passing test records the
checkpoint, lets the jobs that awaited it retire and drains begin; a failing one fences column bands, restores the
checkpoint, rewinds the jobs and must be followed by another. An engine fault suspends a job, kind 2 traps, and
firmware resumes it or traps. -/
def Obligations.JobEvents : Prop :=
  ∀ (s : State) (core : Nat) (j : Job), (s.core core).job? j.id = some j →
    (∀ e, s.env j.thread = some e → j.state = .queued ∨ j.state = .stopped → atHead (s.core core) j = true →
        (j.seq = 0 ∨ ∀ u ∈ e.th.window, j.seq ≤ u.seq ∧ (u.seq = j.seq → u.done = false)) → e.tm.quieting = false →
        j.guard ≠ 0 → j.gok = false →
      (e.tm.guard j.guard = 2 → exec (.jobDispatch core j.id) s = .next { s with stalled := true }) ∧
      (e.tm.guard j.guard ≠ 2 → (e.tm.guard j.guard = 1 ↔ j.gn = true) →
        exec (.jobDispatch core j.id) s = .next (discardJob s core j))) ∧
    (∀ e, s.env j.thread = some e → e.tm.quieting = true →
      (∀ x ∈ (s.core core).jobs, teamKey x.thread = teamKey e.t → ∀ c xd hc xp, x.cmd ≠ .wfix c xd hc xp) →
      j.state = .queued ∨ j.state = .stopped ∨ (j.state = .running ∧ resumable j.cmd = true) →
      exec (.jobDispatch core j.id) s = .next { s with stalled := true }) ∧
    (∃ t, discardJob s core j = tryEndTeam t (teamKey j.thread) ∧ SameMemory s t ∧
      (∀ x ∈ (t.core core).jobs, x.id ≠ j.id ∧ ∃ y ∈ (s.core core).jobs, x = { y with prog := x.prog }) ∧
      (∀ y ∈ (s.core core).jobs, y.id ≠ j.id → ∃ x ∈ (t.core core).jobs, x = { y with prog := x.prog }) ∧
      (∀ th, s.thread? j.thread = some th →
        let th' : Thread := { th with
          flags := match j.flag with | some f => putD 0 th.flags f (findD th.flags f 0 - 1) | none => th.flags }
        t.thread? j.thread = some (match j.cmd with | .wfix _ _ _ _ => completeUnit th' j.seq [] .none | _ => th')) ∧
      ∀ c n xa, j.cmd = .epild c n xa →
        (∀ x ∈ (s.core core).jobs, j.id < x.id → x.state = .queued → ∀ c' xa', x.cmd ≠ .epild c' n xa') →
        ((t.core core).prog n.toNat).owner = if j.prog = 0 then none else some (j.prog - 1)) ∧
    (j.state = .done → ∃ t, exec (.jobRetire core j.id) s = .next (tryEndTeam t (teamKey j.thread)) ∧
      ((∀ c xd hc xp, j.cmd ≠ .wfix c xd hc xp) → t = freeJob s core j) ∧
      (∀ c xd hc xp, j.cmd = .wfix c xd hc xp → t = (freeJob s core j).modThread j.thread
        (fun th => completeUnit th j.seq [(xd, (j.cap 1).setWidth 32)] .none))) ∧
    (∀ x ∈ ((freeJob s core j).core core).jobs, x ∈ (s.core core).jobs ∧ x.id ≠ j.id) ∧
    (∀ th f, s.thread? j.thread = some th → j.flag = some f → (freeJob s core j).thread? j.thread =
      some { th with flags := putD 0 th.flags f (findD th.flags f 0 - 1) }) ∧
    (let k := s.core core
     (testDue k = false → ∀ failed, exec (.arraySelfTest core failed) s = .next { s with stalled := true }) ∧
     (testDue k = true →
       (∃ t, exec (.arraySelfTest core 0) s = .next t ∧ SameMemory s t ∧ t.core core = { k with
          jobs := k.jobs.map (fun x => if x.state = .ran then { x with state := .done }
            else if x.state = .testing then { x with state := .running } else x)
          chk := (t.core core).chk, chkProg := (t.core core).chkProg, chunks := 0 } ∧
        (∀ u y, (u, y) ∈ k.tiles → y.lvl = 3 → (u, y.cells) ∈ (t.core core).chk) ∧
        (∀ x ∈ k.jobs, x.engine = .matrix → x.state ≠ .queued → (x.id, x.part) ∈ (t.core core).chkProg)) ∧
       (∀ failed, failed ≠ 0 → ∃ t, exec (.arraySelfTest core failed) s = .next t ∧ SameMemory s t ∧
        (t.core core).fenced = k.fenced ||| failed ∧ 1024 ≤ (t.core core).chunks ∧
        (∀ u, find? (t.core core).tiles u = (find? k.tiles u).map (fun y =>
          if y.lvl = 3 then { y with cells := findD k.chk u [] } else y)) ∧
        (k.fenced ||| failed ≠ 0xF → (t.core core).jobs = k.jobs.map (rewind k.chkProg)) ∧
        (∀ x n, x.engine = .matrix → x.state ≠ .done → find? k.chkProg x.id = some n →
          (rewind k.chkProg x).part = n ∧ (rewind k.chkProg x).state ≠ .ran)))) ∧
    (∀ kind, j.state = .queued ∨ j.state = .stopped ∨ j.state = .running →
      let t := s.modJob core j.id (fun x => { x with state := .suspended kind })
      (t.core core).job? j.id = some { j with state := .suspended kind } ∧
      exec (.engineFault core j.id kind) s = .next (if kind = 2 then attributedTrap t j.thread
        ⟨0x0C, 0, 0, true, BitVec.ofNat 64 (j.ua.toNat % 2 ^ 57 + 2 * 2 ^ 57), j.ua⟩ else t)) ∧
    (∀ kind resolved, j.state = .suspended kind → exec (.engineFaultResume core j.id resolved) s = .next (
      if resolved = true ∧ kind ≠ 2 then s.modJob core j.id (fun x => { x with state := .stopped })
      else attributedTrap s j.thread
        ⟨0x0C, 0, 0, true, BitVec.ofNat 64 (j.ua.toNat % 2 ^ 57 + kind.toNat * 2 ^ 57), j.ua⟩))

/-- R158, R174, R179, R188 to R194, R204, R205, R209 to R214, R220, R256: a job that can start is dispatched, a drain
to await a self-test; and what each part of a job in tile storage computes: a row of its destination, a line of
blocks, or a chunk of 32 positions for the columns of one pass of the array. That a part is done in one step is the
model's choice (log 16). Every element that is no destination keeps its code; an integer is clamped to its format, a
floating value narrowed to it; an accumulator of INT32 takes the chunk in the rows of the job's lane, the sum clamped,
one of FP32 adds it to the unit of its blocks; a drain truncates each cell of a lane's row to the destination's
format. A `wfix` writes its part to its slot and marks it there, or, the last of its tile, merges the parts in
ascending KB. -/
def Obligations.JobResults : Prop :=
  (∀ (s : State) (core : Nat) (j : Job) (e : Env), Starts s core j e →
    ∃ t, exec (.jobDispatch core j.id) s = .next t ∧ (j.slice = false → SameMemory s t) ∧
      (t.core core).job? j.id = some { j with
        state := match j.cmd with | .mdrain _ _ _ _ _ _ _ _ => .testing | _ => .running
        gok := true, width := if j.width = 0 then coreWidth s core else j.width }) ∧
  (∀ (s : State) (core : Nat) (j : Job) (e : Env) (c : Ctl) (xd : Reg) (hc : BitVec 8) (xp : Reg) (p : Piece),
    j.cmd = .wfix c xd hc xp → (s.core core).job? j.id = some j → s.env j.thread = some e → tCore j.thread = core →
    j.state = .running → j.part = 0 → j.bank = false → j.walks = false → j.caps.length ≤ 1 → j.pages s e = .ok →
    core < 256 → (s.core core).fenced ≠ 0xF → (s.core core).chunks < 1024 →
    issuedPiece e.la e.tm.index (j.cap 0) = some p →
    let h := j.h 0
    let table := e.la.dist.table.getD []
    let parts := tilePieces table e.la.nteam p.tile
    let others := parts.filter (fun q => q.2.lo != p.lo)
    let here (q : Nat × Piece) : Prop := ∃ a ∈ e.la.dist.arrived, a.1 = p.tile.first ∧ a.2.1 = q.2.lo
    let n := fixSlot table e.la.nteam e.tm.index p
    let slot (q : Nat × Piece) : Nat := fixSlot table e.la.nteam q.1 q.2
    let agrees (q : Nat × Piece) : Prop :=
      let d := findD e.la.dist.shapes (slot q) 0
      shRows d = h.rows ∧ shCols d = h.cols ∧ shEF d = h.ef
    let after (t : State) (v : DWord) : Prop :=
      (t.core core).job? j.id = some { j with caps := [j.cap 0, v], part := 1, state := .ran } ∧
      ∃ l, find? t.launches e.tm.lid = some l ∧ l.dist.arrived = e.la.dist.arrived ++ [(p.tile.first, p.lo, e.tm.index)]
    ((∃ q ∈ others, ¬here q) → partWaits s e (slotAddr e.la n) h = false →
      ∃ t, exec (.jobDispatch core j.id) s = .next t ∧ after t 0 ∧ (t.core core).tiles = (s.core core).tiles ∧
        SameMemory (putPart s e (slotAddr e.la n) h (tileOf (s.core core) h.uid)) t ∧
        ∃ l, find? t.launches e.tm.lid = some l ∧ find? l.dist.shapes n = some h.shape) ∧
    ((∀ q ∈ others, here q) →
      ((∃ q ∈ others, ¬agrees q) →
        exec (.jobDispatch core j.id) s = .next (trapUnit (freeJob s core j) j.thread j.seq (trapOf 0x0C 0))) ∧
      (∀ s1 rows, (∀ q ∈ others, agrees q) → h.cols ≤ 256 → (find? (s.core core).tiles h.uid).isSome = true →
        partsRows s e j h.cols h.rows (others.map (fun q => slotAddr e.la (slot q))) = .ok s1 rows →
        s1.launches = s.launches → s1.core core = s.core core →
        ∃ t, exec (.jobDispatch core j.id) s = .next t ∧ after t 1 ∧
          ∀ r q, q < 256 → (tileOf (t.core core) h.uid).cell r q =
            if r < h.rows ∧ q < h.cols then
              (mergeCell (h.ef == 14) (parts.map (fun x => if x.2.lo = p.lo then (tileOf (s.core core) h.uid).cell r q
                else BitVec.ofNat 32 ((rows.getD ((others.map (·.2.lo)).idxOf x.2.lo) []).getD r 0 / 2 ^ (32 * q))))).1
            else (tileOf (s.core core) h.uid).cell r q))) ∧
  ∀ (s : State) (core : Nat) (j : Job) (e : Env) (i : Nat) (c : Ctl) (hd ha hb : BitVec 8), Works s core j e i →
    let k := s.core core
    let h := j.h 0
    (∀ xr xb, j.cmd = .tfill c hd xr xb → j.held k 0 → (rectOf (j.cap 0)).inside h = true →
      ∃ t, exec (.jobDispatch core j.id) s = .next t ∧ (t.core core).job? j.id = some j.performed ∧
        ∀ r q, q < h.cols → j.code (t.core core) 0 r q =
          let x := rectOf (j.cap 0)
          if r = x.r0 + i ∧ x.c0 ≤ q ∧ q < x.c0 + x.cols then (j.cap 1).toNat % 2 ^ h.w else j.code k 0 r q) ∧
    (j.cmd = .ttr c hd ha → j.held k 0 → j.held k 1 → (j.h 1).ef = h.ef →
      ∃ t, exec (.jobDispatch core j.id) s = .next t ∧ (t.core core).job? j.id = some j.performed ∧
        ∀ r q, q < h.cols → j.code (t.core core) 0 r q = if r = i then j.code k 1 q r else j.code k 0 r q) ∧
    (∀ op, (j.cmd = .tadd c hd ha hb ∧ op = fun x y : Int => x + y) ∨ (j.cmd = .tmul c hd ha hb ∧ op = fun x y : Int => x * y) →
      j.held k 0 → j.held k 1 → j.held k 2 → (∀ i, i < 3 → efInt (j.h i).ef = true) →
      ∃ t, exec (.jobDispatch core j.id) s = .next t ∧ (t.core core).job? j.id = some j.performed ∧
        ∀ r q, q < h.cols → j.code (t.core core) 0 r q =
          if r = i then clampCode h.ef (op (codeInt (j.h 1).ef (j.code k 1 r q)) (codeInt (j.h 2).ef (j.code k 2 r q)))
          else j.code k 0 r q) ∧
    (j.cmd = .mzero c hd → (find? k.tiles h.uid).isSome = true → h.cols ≤ 256 →
      ∃ t, exec (.jobDispatch core j.id) s = .next t ∧ (t.core core).job? j.id = some j.performed ∧
        (tileOf (t.core core) h.uid).asat = false ∧
        ∀ r q, q < 256 → (tileOf (t.core core) h.uid).cell r q =
          if r < h.rows ∧ r % 32 = j.thread % 32 ∧ q < h.cols then 0 else (tileOf k h.uid).cell r q) ∧
    (j.cmd = .mma c hd ha hb → 0 < j.width → (find? k.tiles h.uid).isSome = true → h.cols ≤ 256 → h.ef = 14 →
      let a := j.h 1
      let b := j.h 2
      let sa := e.la.fs (shFSN a.shape)
      let sb := e.la.fs (shFSN b.shape)
      let n := (a.cols + 31) / 32
      let qa (r ch : Nat) := (planeAt (tileOf k a.uid).bytes sa ((r * n + ch) * planeBytes sa)).q
      let qb (ch q : Nat) := (wordAt (tileOf k b.uid).bytes sb ((ch * b.cols + q) * wordBytes sb)).q
      let dot (r q ch : Nat) : Int :=
        ((List.range (min 32 (a.cols - 32 * ch))).map (fun i => (qa r ch).getD i 0 * (qb ch q).getD i 0)).foldl (· + ·) 0
      ∃ t, exec (.jobDispatch core j.id) s = .next t ∧ (t.core core).job? j.id = some j.performed ∧
        (t.core core).chunks = k.chunks + 1 ∧
        ∀ r q, q < 256 → (tileOf (t.core core) h.uid).cell r q =
          if r < h.rows ∧ r % 32 = j.thread % 32 ∧ q < h.cols ∧ q / j.width = i / n then
            intWord (clampS32 (((tileOf k h.uid).cell r q).toInt + dot r q (i % n)))
          else (tileOf k h.uid).cell r q) ∧
    (∀ xr xo, j.cmd = .tcopy c hd ha xr xo → j.held k 0 → j.held k 1 →
      let x := rectOf (j.cap 0)
      let o : Word := (j.cap 1).setWidth 32
      (h.lay = 0 → (j.h 1).ef = h.ef → x.inside h = true →
        ∃ t, exec (.jobDispatch core j.id) s = .next t ∧ (t.core core).job? j.id = some j.performed ∧
          ∀ r q, q < h.cols → j.code (t.core core) 0 r q =
            if (if hd = ha then x.r0 ≤ r ∧ r < x.r0 + x.rows else r = x.r0 + i) ∧ x.c0 ≤ q ∧ q < x.c0 + x.cols then
              j.code k 1 (rowOf o + (r - x.r0)) (colOf o + (q - x.c0))
            else j.code k 0 r q) ∧
      (h.lay ≠ 0 → ∃ t, exec (.jobDispatch core j.id) s = .next t ∧ (t.core core).job? j.id = some j.performed ∧
          ∀ b, Memory.read (tileOf (t.core core) h.uid).bytes b =
            if b < shapeSize e.la h.lvl h.shape then Memory.read (tileOf k (j.h 1).uid).bytes b
            else Memory.read (tileOf k h.uid).bytes b)) ∧
    (let val (n r q : Nat) : Val := decodeElem (j.h n).ef (j.code k n r q)
     let int (n r q : Nat) : Int := codeInt (j.h n).ef (j.code k n r q)
     let row (f : Nat → Nat) (st : BitVec 4) : Prop :=
       ∃ t, exec (.jobDispatch core j.id) s = .next t ∧
         (t.core core).job? j.id = some { j.performed with stat := j.stat ||| st } ∧
         ∀ r q, q < h.cols → j.code (t.core core) 0 r q = if r = i then f q % 2 ^ h.w else j.code k 0 r q
     (j.held k 0 → j.held k 1 → j.held k 2 → efFloat h.ef = true →
       let out (v : Val) : Nat := (narrowElem h.ef false v).1
       (j.cmd = .tadd c hd ha hb → row (fun q => out (addVal .rne (val 1 i q) (val 2 i q)).1) 0) ∧
       (j.cmd = .tmul c hd ha hb → row (fun q => out (mulVal (val 1 i q) (val 2 i q)).1) 0) ∧
       (j.cmd = .tfma c hd ha hb → row (fun q => out (fmaVal .rne (val 1 i q) (val 2 i q) (val 0 i q)).1) 0)) ∧
     (j.held k 0 → j.held k 1 → j.held k 2 → (∀ n, n < 3 → efInt (j.h n).ef = true) → j.cmd = .tfma c hd ha hb →
       row (fun q => clampCode h.ef (int 1 i q * int 2 i q + int 0 i q)) 0) ∧
     (∀ sat fs, j.held k 0 → j.held k 1 → j.cmd = .tcvt c sat fs hd ha →
       row (fun q => (narrowElem h.ef sat (val 1 i q)).1)
         (if (j.h 1).ef = 13 ∧ (List.range (j.h 1).cols).any (fun q => j.code k 1 i q == 2) = true then 1 else 0)) ∧
     (∀ (axis : Bool) (fi : Int → Int → Int) (ff : Word → Word → Word × BitVec 5), j.held k 0 → j.held k 1 →
       (j.cmd = .tredAdd c axis hd ha ∧ fi = (fun x y => x + y) ∧ ff = faddOp .rne) ∨
       (j.cmd = .tredMax c axis hd ha ∧ fi = max ∧ ff = fminmaxOp true) ∨
       (j.cmd = .tredMin c axis hd ha ∧ fi = min ∧ ff = fminmaxOp false) →
       let rest (n : Nat) : List Nat := (List.range (n - 1)).map (· + 1)
       let each (q p : Nat) : Nat × Nat := if axis then (p, q) else (i, p)
       let n := if axis then (j.h 1).rows else (j.h 1).cols
       0 < n →
       (efInt h.ef = true → efInt (j.h 1).ef = true →
         let at_ (q p : Nat) : Int := int 1 (each q p).1 (each q p).2
         row (fun q => clampCode h.ef ((rest n).foldl (fun a p => fi a (at_ q p)) (at_ q 0))) 0) ∧
       (efFloat h.ef = true →
         let at_ (q p : Nat) : Word := toF32 (val 1 (each q p).1 (each q p).2)
         row (fun q => (narrowElem h.ef false (decode32 ((rest n).foldl (fun a p => (ff a (at_ q p)).1) (at_ q 0)))).1) 0))) ∧
    (∀ fs, j.cmd = .mplane c fs hd ha hb → j.held k 0 → j.held k 1 → j.held k 2 →
      let slot := e.la.fs fs.toNat
      let a := j.h 1
      let rowsLay := h.lay = 1
      let len := if rowsLay then a.cols else a.rows
      let elem (p : Nat) : Nat := if rowsLay then j.code k 1 i p else j.code k 1 p i
      let scale (p : Nat) : Nat := if slotSF slot = 0 then 0
        else if rowsLay then j.code k 2 i (p / slotBS slot) else j.code k 2 (p / slotBS slot) i
      let val (p : Nat) : Val := if len ≤ p then .fin false 0 0 else if slotSF slot = 0 then decodeElem (slotEF slot) (elem p)
        else scaleVal (decodeElem (slotEF slot) (elem p)) (decodeElem (scaleEF (slotSF slot)) (scale p))
      let trit (p : Nat) : Int := if len ≤ p then 0 else if elem p = 1 then 1 else if elem p = 3 then -1 else 0
      let block (b : Nat) : Block := (toBlock slot ((List.range 32).map (fun p => val (32 * b + p)))
        ((List.range 32).map (fun p => trit (32 * b + p))) (scale (32 * b))).1
      let nb := (len + 31) / 32
      let size := if rowsLay then planeBytes slot else wordBytes slot
      let out (b : Nat) : List Nat := if rowsLay then planeOut slot (block b) else wordOut slot (block b)
      ∃ t, exec (.jobDispatch core j.id) s = .next t ∧
        (∃ st, (t.core core).job? j.id = some { j.performed with stat := j.stat ||| st }) ∧
        ∀ b n, b < nb → n < size →
          (Memory.read (tileOf (t.core core) h.uid).bytes ((if rowsLay then i * nb + b else b * a.cols + i) * size + n)).toNat =
            (out b).getD n 0 % 256) ∧
    (∀ (ma : Nat → Int → Int) (mb : Nat → Bool) (rows cols len : Nat),
      0 < j.width → (find? k.tiles h.uid).isSome = true → h.cols ≤ 256 →
      let a := j.h 1
      let b := j.h 2
      let sa := e.la.fs (shFSN a.shape)
      let sb := e.la.fs (shFSN b.shape)
      let p := (j.cap 0).toNat
      (((j.cmd = .mma c hd ha hb ∧ rows = h.rows ∧ cols = h.cols ∧ len = a.cols) ∨
        (∃ xp, j.cmd = .gmm c hd ha hb xp ∧ p < 2 ^ 63 ∧
          rows = min ((j.cap 1).toNat % 2 ^ 32 - 256 * (p / 2 ^ 44 % 2 ^ 8)) h.rows ∧
          cols = min ((j.cap 1).toNat / 2 ^ 32 - 256 * (p / 2 ^ 36 % 2 ^ 8)) h.cols ∧
          len = min (32 * (p % 2 ^ 18)) (j.cap 2).toNat - 32 * (p / 2 ^ 18 % 2 ^ 18))) ∧
        (∀ n x, ma n x = x) ∧ (∀ n, mb n = true)) ∨
      (∃ xm, j.cmd = .mmas c hd ha hb xm ∧ (j.h 3).lvl ≠ 2 ∧ (j.h 4).lvl ≠ 2 ∧ rows = h.rows ∧ cols = h.cols ∧ len = a.cols ∧
        (∀ n x, ma n x = if slotEF sa = 13 then (if (j.code k 3 0 n).testBit 0 then x else 0)
          else signedOf (slotP sa) (codeOf (slotP sa) x &&& j.code k 3 0 n)) ∧
        ∀ n, mb n = (j.code k 4 0 (n / 32)).testBit (n % 32)) →
      let n := (len + 31) / 32
      let blkA (r ch : Nat) : Block := planeAt (tileOf k a.uid).bytes sa ((r * ((a.cols + 31) / 32) + ch) * planeBytes sa)
      let blkB (ch q : Nat) : Block := wordAt (tileOf k b.uid).bytes sb ((ch * b.cols + q) * wordBytes sb)
      let dot (r q ch : Nat) : Int := ((List.range (min 32 (len - 32 * ch))).map (fun x =>
        ma (32 * ch + x) ((blkA r ch).q.getD x 0) * (if mb (32 * ch + x) then (blkB ch q).q.getD x 0 else 0))).foldl (· + ·) 0
      ∃ t, exec (.jobDispatch core j.id) s = .next t ∧ (t.core core).job? j.id = some j.performed ∧
        (t.core core).chunks = k.chunks + 1 ∧
        ∀ r q, q < 256 → (tileOf (t.core core) h.uid).cell r q =
          let old := (tileOf k h.uid).cell r q
          let ch := i % n
          if r < rows ∧ r % 32 = j.thread % 32 ∧ q < cols ∧ q / j.width = i / n then
            if h.ef = 14 then intWord (clampS32 (old.toInt + dot r q ch))
            else accF32 old ((blkA r ch).special || (blkB ch q).special) (dot r q ch)
              (unitExp (slotEF sa == 13) (slotP sa) (blkA r ch).ef + unitExp false (slotP sb) (blkB ch q).ef)
          else old) ∧
    (∀ fs z prg xo, j.cmd = .mdrain c fs z false prg hd ha xo → j.held k 0 →
      let o : Word := (j.cap 0).setWidth 32
      let a := j.h 1
      let slot := e.la.fs fs.toNat
      let own := j.thread % 32 + 32 * i
      colOf o + a.cols ≤ h.cols →
      ∃ t, exec (.jobDispatch core j.id) s = .next t ∧ (t.core core).job? j.id = some j.performed ∧
        (∀ r q, q < h.cols → j.code (t.core core) 0 r q =
          if r = rowOf o + own ∧ colOf o ≤ q ∧ q < colOf o + a.cols then
            let v := (tileOf k a.uid).cell own (q - colOf o)
            drainElem (slotEF slot) (slotSat slot) (slotNanp slot) (if a.ef = 14 then Val.ofInt v.toInt else decode32 v) % 2 ^ h.w
          else j.code k 0 r q) ∧
        (z = true → j.parts ≤ j.part + 1 → (find? k.tiles a.uid).isSome = true → a.cols ≤ 256 →
          ∀ r q, q < 256 → (tileOf (t.core core) a.uid).cell r q =
            if r < a.rows ∧ r % 32 = j.thread % 32 ∧ q < a.cols then 0 else (tileOf k a.uid).cell r q))

/-- R227 to R239: `fbind` makes a level-M entry bound to a slot; `fget` issues a gather of the bytes that hold its
element, which returns the element decoded; `fgett`, `ksort` and `kpack` hand their jobs to their engines. That these
jobs are checked at acceptance whatever their guard is, and the handles that the rules do not name, are log 60. -/
def Obligations.FetchUnits : Prop :=
  (∀ (s s1 : State) (e : Env) (c : Ctl) (fs : BitVec 3) (hd : BitVec 8) (xa xv : Reg),
    Ready s { settled := true } c [xa, xa + 1, xv, xv + 1] s1 e → Arrived e [xa, xa + 1, xv, xv + 1] →
    (∀ e0, s.env s.cur = some e0 → slotEF (e0.la.fs fs.toNat) ≠ 0 ∧ e0.la = e.la) →
    let h := hd.toNat
    let d := BitVec.ofNat 64 (pairNat e.th.read xv)
    let base := pairNat e.th.read xa
    let slot := e.la.fs fs.toNat
    let scaled := slotSF slot ≠ 0
    let block := scaleBytes (slotSF slot) + slotBS slot * efWidth (shEF d) / 8
    let cs : Conditions :=
      [ (e.tm.handle? h ≠ none, 2, h), (shapeRefused e.la 2 d = true ∨ base % 16 ≠ 0, 3, h)
      , (shLay d ≠ 0 ∧ shLay d ≠ 3, 8, h), (shEF d ≠ slotEF slot, 5, h)
      , (scaled ∧ (shLay d = 3 ∨ shCols d % slotBS slot ≠ 0), 5, h)
      , (scaled ∧ shPitch d < shCols d / slotBS slot * block, 3, h)]
    (∀ sub k, cs.firstFails sub k →
      exec (.fbind c fs hd xa xv) s = .next (raiseTrap s1 e.t (trapOf 0x0A (sub + 2 ^ 8 * k)))) ∧
    (cs.hold → exec (.fbind c fs hd xa xv) s = .next ((Gone s1 e (e.th.ctx.past 1)).modTeam (teamKey e.t) (fun tm => { tm with
      handles := put tm.handles h ⟨d, 2, BitVec.ofNat 57 base, 0⟩, binds := put tm.binds h fs.toNat })))) ∧
  (∀ (s s1 : State) (e : Env) (c : Ctl) (x xc : Reg) (hf : BitVec 8) (f : BitVec 4) (ps0 ps : List Phys),
    Ready s Mode.counted c [xc, x] s1 e → e.th.ctx.clause.flag c.fl = some f →
    let n := hf.toNat
    let h := e.tm.handle n
    let row := rowOf (e.th.read xc)
    let col := colOf (e.th.read xc)
    let slot := e.la.fs ((e.bound? n).getD 0)
    let first := fgetFirst h slot (e.th.read xc)
    let rest := fgetRest s1 e h slot (e.th.read xc)
    let spans := first ++ rest.1
    let a := mkAccess s1 e (.fget n (e.th.read xc) x spans) (spans.headD (0, 0)).1 1 rest.2 ps c.h c.k (some f.toNat)
    let cs : Conditions := Valid e [n] ++ [(e.bound? n = none, 7, n), (h.rows ≤ row ∨ h.cols ≤ col, 6, n)]
    (∀ sub k, cs.firstFails sub k → exec (.fget c x hf xc) s = .next (raiseTrap s1 e.t (trapOf 0x0A (sub + 2 ^ 8 * k)))) ∧
    (cs.hold → (∀ k, xlatBytes s1 e k (spanBytes first) [] = k ps0) → (∀ k, xlatBytes s1 e k (spanBytes spans) [] = k ps) →
      (e.la.smm = true → ∀ p ∈ spans, schedMiss e.la e.tm p.1 p.2 = false) →
      (h.lay = 3 → spansWait s1 e first = false) → spansWait s1 e spans = false → requestsFull s1 (tCore e.t) = false →
      exec (.fget c x hf xc) s = .next (Issues s1 e (e.th.ctx.past 1) a [xc] false) ∧
      (h.lay = 0 → slotSF slot = 0 → h.ef = slotEF slot → ∀ t t1 e' v, Outstanding t e.t e' a →
        behindCommand t e' a = false → e'.tm.handle? n = some h →
        e'.bound? n = e.bound? n → e'.la.fs ((e.bound? n).getD 0) = slot →
        pullRange t e' (.damson c.h) (a.reader t e' 0) (h.loc.toNat + shPitch h.shape * row + h.w * col / 8)
          ((h.w * col % 8 + h.w + 7) / 8) = .ok t1 v →
        let code := v / 2 ^ (h.w * col % 8) % 2 ^ h.w
        exec (.loadReturn e.t a.id) t = .next (finishLoad t1 e.t a
          [(x, if efInt (slotEF slot) then (if code < 2 ^ (efWidth (slotEF slot) - 1) then natWord code
                 else intWord ((code : Int) - 2 ^ efWidth (slotEF slot)))
               else if slotEF slot = 13 then (if code = 1 then 1 else if code = 3 then 0xFFFFFFFF else 0)
               else toF32 (decodeElem (slotEF slot) code))]
          (if slotEF slot = 13 ∧ code = 2 then .status ((e.bound? n).getD 0) 1 else .none))))) ∧
  (∀ (c : Ctl) (hd hf hi : BitVec 8) (xq : Reg), EngineUnit (.fgett c hd hf hi xq) c none [xq, xq + 1] (fgettDraft hd hf hi xq) fun e =>
    let q := pairNat e.th.read xq
    let d := e.tm.handle hd.toNat
    let f := e.tm.handle hf.toNat
    let i := e.tm.handle hi.toNat
    let slot := e.la.fs ((e.bound? hf.toNat).getD 0)
    let n := q / 2 ^ 32 % 2 ^ 16
    Valid e [hf.toNat] ++ [(e.bound? hf.toNat = none, 7, hf.toNat)] ++ Valid e [hi.toNat] ++
    [(i.lay ≠ 0, 8, hi.toNat), (i.ef ≠ 14, 5, hi.toNat), (i.elems ≤ q % 2 ^ 32 + n, 6, hi.toNat)] ++ Valid e [hd.toNat] ++
    [ (d.lvl ≠ 0 ∧ d.lvl ≠ 1, 7, hd.toNat), (d.lay ≠ 0, 8, hd.toNat)
    , (d.rows ≤ q / 2 ^ 48 + n, 6, hd.toNat), (d.cols < f.cols, 5, hd.toNat)
    , (if slotSF slot = 0 then d.ef ≠ slotEF slot else d.ef = 13 ∨ d.ef = 9, 5, hd.toNat)]) ∧
  (∀ (c : Ctl) (h1 h2 h3 : BitVec 8) (xs : Reg) (o32 : Bool),
    let hx (e : Env) := (e.th.read xs).toNat % 64
    let ht (e : Env) := (e.th.read xs).toNat / 2 ^ 8 % 64
    let start (e : Env) := (e.th.read xs).toNat / 2 ^ 16
    let h (e : Env) (n : Nat) := e.tm.handle n
    let common (e : Env) : Conditions :=
      let all := [h1.toNat, h2.toNat, h3.toNat, ht e, hx e]
      [((e.th.read xs).toNat / 2 ^ 6 % 4 ≠ 0 ∨ (e.th.read xs).toNat / 2 ^ 14 % 4 ≠ 0, 5, h1.toNat)] ++ Valid e all ++
      RowMajor e all ++ NoAccumulator e all ++
      [(¬all.Nodup, 5, (repeated all).getD 0), ((h e (ht e)).ef ≠ 14, 5, ht e), ((h e (ht e)).elems < 4, 6, ht e)]
    EngineUnit (.ksort c o32 h1 h2 h3 xs) c none [xs] (fun e => currantDraft e (e.th.read xs) h2.toNat [h1.toNat, h3.toNat])
      (fun e =>
        let k := h e h2.toNat
        let n := h e h3.toNat
        common e ++
        [ (k.ef ≠ 12, 5, h2.toNat), (2 ^ 24 < k.elems, 6, h2.toNat), (n.ef ≠ 14, 5, h3.toNat), (1024 < n.elems, 6, h3.toNat)
        , ((h e (hx e)).ef ≠ (if o32 then 14 else 12), 5, hx e), ((h e (hx e)).elems < n.elems, 6, hx e)
        , ((h e h1.toNat).ef ≠ 14, 5, h1.toNat), ((h e h1.toNat).elems < k.elems, 6, h1.toNat)
        , (n.elems ≤ start e, 6, h3.toNat)]) ∧
    EngineUnit (.kpack c h1 h2 h3 xs) c none [xs] (fun e => currantDraft e (e.th.read xs) h2.toNat [h1.toNat, h3.toNat])
      (fun e =>
        let a := h e h2.toNat
        common e ++
        [ (a.ef = 9, 5, h2.toNat), ((h e h1.toNat).ef ≠ a.ef, 5, h1.toNat), ((h e h1.toNat).elems < a.elems, 6, h1.toNat)
        , ((h e h3.toNat).ef ≠ 14, 5, h3.toNat), ((h e h3.toNat).elems < (a.elems + 31) / 32, 6, h3.toNat)
        , ((h e (hx e)).ef ≠ 11, 5, hx e), ((h e (hx e)).elems < a.rows, 6, hx e), (a.rows ≤ start e, 6, h2.toNat)]))

/-- R253 to R257: a team's pieces follow one another through its range of the steps, each within one tile. `wtake`
writes the descriptor of the team's next piece and counts it, reading the group table on its first use, while any
other `wtake` waits; it writes STOP where the team has none left, where the launch has no groups and under a
pre-emption request. `wfix` takes a FIX piece that the team was issued, and its unit stays in the window until its job
retires. That `wfix` is checked whatever its guard is is log 60, and that its unit completes with its job log 23. -/
def Obligations.WorkDistribution : Prop :=
  (∀ (table : List Group) (n t step : Nat), t < n → teamLo (totalSteps table) n t ≤ step →
    step < teamLo (totalSteps table) n (t + 1) →
    ∃ p, pieceAt table n t step = some p ∧ p.lo = step ∧ step < p.hi ∧ p.hi ≤ teamLo (totalSteps table) n (t + 1) ∧
      p.tile.first ≤ step ∧ p.hi ≤ p.tile.first + p.tile.kc) ∧
  (∀ (table : List Group) (n t : Nat), 0 < n → teamLo (totalSteps table) n 0 = 0 ∧
    teamLo (totalSteps table) n n = totalSteps table ∧
    teamLo (totalSteps table) n t ≤ teamLo (totalSteps table) n (t + 1)) ∧
  (∀ (s s1 : State) (e : Env) (c : Ctl) (xd : Reg), Ready s { settled := true, long := true } c [xd, xd + 1] s1 e →
    let writes (v : DWord) := [(xd, v.setWidth 32), (xd + 1, (v >>> 32).setWidth 32)]
    let stop : DWord := 0x8000000000000000
    let at_ (table : List Group) := findD e.la.dist.pos e.tm.index (teamLo (totalSteps table) e.la.nteam e.tm.index)
    let moved (t : State) (p : Piece) := t.modDist e.tm.lid (fun d => { d with pos := put d.pos e.tm.index p.hi })
    (∀ ti, e.la.dist.failed = some ti → exec (.wtake c xd) s = .next (raiseTrap s1 e.t ti)) ∧
    (e.la.dist.failed = none →
      (e.la.ng = 0 ∨ e.la.preempt ≠ none →
        ∃ t th, exec (.wtake c xd) s = .next t ∧ Settled s1 t e c.k (writes stop) (e.th.ctx.past 1) th) ∧
      (∀ u, e.la.ng ≠ 0 → e.la.preempt = none → e.la.dist.table = none → e.la.dist.reader = some u → u ≠ e.t →
        exec (.wtake c xd) s = .next { s1 with stalled := true }) ∧
      (e.la.ng ≠ 0 → e.la.preempt = none → ∀ table s2,
        (e.la.dist.table = some table ∧ s2 = s1) ∨
          (e.la.dist.table = none ∧ ∃ s3, snapshot (acquire s1 (tCore e.t)) e 0 e.la.ng = .ok s3 table ∧
            e.la.dist.busy e.t = false ∧ s2 = s3.modDist e.tm.lid (fun d => { d with table := some table, reader := none })) →
        (pieceAt table e.la.nteam e.tm.index (at_ table) = none →
          ∃ t th, exec (.wtake c xd) s = .next t ∧ Settled s2 t e c.k (writes stop) (e.th.ctx.past 1) th) ∧
        (∀ p, pieceAt table e.la.nteam e.tm.index (at_ table) = some p →
          ∃ t th, exec (.wtake c xd) s = .next (moved t p) ∧ Settled s2 t e c.k (writes p.desc) (e.th.ctx.past 1) th)))) ∧
  (∀ (s s1 : State) (e : Env) (c : Ctl) (xd xp : Reg) (hc : BitVec 8) (f : BitVec 4),
    Ready s engineMode c [xp, xp + 1, xd] s1 e → e.th.ctx.clause.flag c.fl = some f →
    (64 ≤ (s.core (tCore s.cur)).jobs.length → exec (.wfix c xd hc xp) s = .next { s with stalled := true }) ∧
    ((s.core (tCore s.cur)).jobs.length < 64 → Arrived e [xp, xp + 1] →
    let d := BitVec.ofNat 64 (pairNat e.th.read xp)
    let n := hc.toNat
    let h := e.tm.handle n
    let cs : Conditions := Valid e [n] ++
      [ (h.lvl ≠ 3, 7, n), (d.getLsbD 63 = true ∨ d.getLsbD 62 = false, 5, n)
      , (issuedPiece e.la e.tm.index d = none, 5, n)
      , (∃ q, issuedPiece e.la e.tm.index d = some q ∧ pieceArrived s1 e q = true, 5, n)]
    (∀ sub k, cs.firstFails sub k →
      exec (.wfix c xd hc xp) s = .next (raiseTrap s1 e.t (trapOf 0x0A (sub + 2 ^ 8 * k)))) ∧
    (∀ q, cs.hold → issuedPiece e.la e.tm.index d = some q →
      let slot := e.la.fixBuffer + 4096 + 2 ^ 18 * fixSlot (e.la.dist.table.getD []) e.la.nteam e.tm.index q
      let regions : List Region := [.tile h.uid 0 0 h.rows h.cols none, .mem e.la.asp.asn.toNat slot (slot + 2 ^ 18)]
      let draft : Draft := ⟨.matrix, [d], [h], regions, regions, fun _ => none, false, false⟩
      AdmitsJob s1 e draft →
      ∃ t j, exec (.wfix c xd hc xp) s = .next t ∧ Recorded t e c (.wfix c xd hc xp) draft f j ∧
        t.thread? e.t = some { flagged s1 e f with
          window := e.th.window ++ [{ WUnit.start e.th with done := false, kbit := c.k, pend := [xd] }] } ∧
        SameMemory s1 t)))

/-! Row operations. -/

/-- R318, R320 to R325, R327: row operations check their rows, issue, reach their bank core's queue, the lower LANEs
of an issue set first, read their rows when their bank starts them in their turn, and write the destination when they
complete; `bkfence` waits for the thread's bank work; an error of the bank leaves the destination row free and traps.
-/
def Obligations.RowOperations : Prop :=
  (∀ (c : Ctl) (xd xa xb xc : Reg),
    RowIssues (.rowmaj c xd xa xb xc) c 0 xd [xa, xb, xc] ∧ RowIssues (.rowand c xd xa xb) c 1 xd [xa, xb] ∧
    RowIssues (.rowor c xd xa xb) c 2 xd [xa, xb] ∧ RowIssues (.rownot c xd xa) c 3 xd [xa] ∧
    RowIssues (.rowcp c xd xa) c 4 xd [xa]) ∧
  (∀ (s : State) (e : Env) (c : Ctl), Passes s { settled := true, long := true } c e →
    let busy := (∃ a ∈ e.th.accs, (∃ op as, a.kind = .rowop op as) ∨ a.kind = .cclean ∨ a.kind = .cinval) ∨
      ∃ j ∈ (s.core (tCore e.t)).jobs, j.thread = e.t ∧ j.bank = true
    (busy → exec (.bkfence c) s = .next { s with stalled := true }) ∧
    (¬busy → exec (.bkfence c) s = .next (Gone s e (e.th.ctx.past 1)))) ∧
  (∀ (s : State) (t : Nat) (e : Env) (a : Access) (op : BitVec 3) (as : List Nat) (d : Phys) (ps : List Phys),
    s.env t = some e → e.th.acc? a.id = some a → a.kind = .rowop op as → a.phys = d :: ps →
    let bank := d.pa / 2 ^ 10 % 2 ^ 9 * 16 + d.pa / 2 ^ 19 % 16
    let row (i : Nat) : Nat := Memory.readN s.dram ((ps.getD i d).pa) 1024
    (a.commit = true → a.started = false → a.moved = false → e.th.inOrder a = true → a.arrived = none →
      (rowLaneFirst s t a = true → exec (.rowOperationStart t a.id) s = .next { s with stalled := true }) ∧
      (rowLaneFirst s t a = false → exec (.rowOperationStart t a.id) s = .next ({ s with nextPub := s.nextPub + 1 }.setThread t
        { e.th with accs := e.th.accs.map (fun x : Access => if x.id = a.id then { x with arrived := some s.nextPub } else x) }))) ∧
    (∀ rank, a.commit = true → a.started = false → a.moved = false → e.th.inOrder a = true → a.arrived = some rank →
      queuedBefore s rank (bankCoreOf d.pa) = false → bank ∉ s.badBanks → find? s.tickets bank = none →
      ∃ t1 th b, exec (.rowOperationStart t a.id) s = .next t1 ∧ t1.thread? t = some th ∧ th.acc? a.id = some b ∧
        b.started = true ∧ find? t1.tickets bank = some t ∧ SameMemory s t1 ∧
        (op = 0 → ps.length = 3 → ∀ i, b.data.testBit i =
          (((row 0).testBit i && (row 1).testBit i) || ((row 1).testBit i && (row 2).testBit i)
            || ((row 0).testBit i && (row 2).testBit i))) ∧
        (op = 1 → ps.length = 2 → ∀ i, b.data.testBit i = ((row 0).testBit i && (row 1).testBit i)) ∧
        (op = 2 → ps.length = 2 → ∀ i, b.data.testBit i = ((row 0).testBit i || (row 1).testBit i)) ∧
        (op = 3 → ps.length = 1 → ∀ i, i < 8192 → b.data.testBit i = !(row 0).testBit i) ∧
        (op = 4 → ps.length = 1 → b.data = row 0)) ∧
    (a.started = true →
      (∃ t1 th, exec (.rowOperationComplete t a.id) s = .next t1 ∧ t1.thread? t = some th ∧ th.acc? a.id = none ∧
        find? t1.tickets bank = none ∧
        (∀ i, i < 1024 → (Memory.read t1.dram (d.pa + i)).toNat = a.data / 256 ^ i % 256) ∧
        (∀ x, x < d.pa ∨ d.pa + 1024 ≤ x → Memory.read t1.dram x = Memory.read s.dram x)) ∧
      (∀ kind : BitVec 4, kind ≠ 4 → ∃ t1, exec (.bankComputeError t a.id kind) s = .next (attributedTrap t1 t
          ⟨0x0F, 0, 0, true, BitVec.ofNat 64 (a.va + kind.toNat * 2 ^ 57), a.ua⟩) ∧
        t1.thread? t = some { e.th with accs := e.th.accs.filter (fun x => x.id != a.id) } ∧
        find? t1.tickets bank = none ∧
        (∀ i, i < 1024 → Memory.read t1.dram (d.pa + i) = Config.freeByte (s.free + 1 + i)) ∧
        (∀ x, x < d.pa ∨ d.pa + 1024 ≤ x → Memory.read t1.dram x = Memory.read s.dram x)))) ∧
  (∀ (s : State) (t : Nat) (e : Env) (j : Job), s.env t = some e →
    let named (k : Core) := k.jobs.find? (fun x => x.id == j.id && x.thread == t && x.bank)
    named (s.core (tCore t)) = some j → j.state = .running → ∀ i row, j.nextPart = some i →
    let rows := (j.target e.la.asp.asn.toNat i).flatMap (·.dramRows)
    rows[(Config.freeWord s.free).toNat % rows.length]? = some row →
    let va := 1024 * row % 2 ^ 57
    (∃ asn lo hi, Region.mem asn lo hi ∈ j.target e.la.asp.asn.toNat i ∧ lo / 1024 ≤ row ∧ row ≤ (hi - 1) / 1024) ∧
    ∃ t1, exec (.bankComputeError t j.id 4) s = .next (attributedTrap t1 t
        ⟨0x0F, 0, 0, true, BitVec.ofNat 64 (va + 4 * 2 ^ 57), j.ua⟩) ∧
      named (t1.core (tCore t)) = some { j with part := j.part + 1, flag := none } ∧
      ∀ p, e.xlat s va .w = .ok p →
        let row := p.pa / 1024 * 1024
        (∀ n, n < 1024 → Memory.read t1.dram (row + n) = Config.freeByte (s.free + 2 + n)) ∧
        (∀ x, x < row ∨ row + 1024 ≤ x → Memory.read t1.dram x = Memory.read s.dram x))

/-! Context switches, mappings and self-tests. -/

/-- R38, R351, R336, R357: a unit for firmware or for a handler is elsewhere an undefined encoding with reason 9.
R352, R355: what `ctxsave`, `ctxload` and their team forms come to: a status without any other effect, or the saved or
restored team; a save waits for the publications that it has sent. R110: behind such a unit no K-marked write before
it is read. R337: `tinv` waits for its range to drain and then drops it. R357: `selftest` reports what fails. Bits of
a selector that R351 calls zero are ignored (log 45); the area is written at the homes of its lines and read through
the issuing core (log 46); the status words of a saved team are merged at the save too (log 49); what a self-test
finds is a free value (log 2). -/
def Obligations.FirmwareAndContextUnits : Prop :=
  ∀ (s : State) (c : Ctl) (e0 : Env) (xd xa xb xc : Reg),
    let undef (i : Instr) : Prop := exec i s = .next (raiseTrap s e0.t ⟨0x01, 9, 0, false, 0, 0⟩)
    let key := teamKey e0.t
    let core := tCore e0.t
    let ends (i : Instr) (s' : State) (e : Env) (v : Word) : Prop := ∃ t th, exec i s = .next t ∧
      Settled s' t e c.k [(xd, v)] (e.th.ctx.past 1) th ∧ ∀ r, r ≠ xd → th.read r = th.stored r
    let released (s1 : State) (e : Env) (core : Nat) (s2 : State) : Prop :=
      (e.th.wait = .none ∧ release s1 core = (s2, [])) ∨
        ∃ b ids, e.th.wait = .fence b ids ∧ (∀ p ∈ s1.pubs, p.id ∉ ids) ∧ s2 = s1
    let quiet (s1 : State) (e : Env) (k : Nat) (tm : Team) (ps : List Phys) : Prop :=
      tm.quieting = true ∧ heldWfix s1 k tm = [] ∧ teamQuiet s1 k tm = true ∧
      (∃ x, backChecks s1 e ((teamTids tm).map (threadOf k)) = .ok x) ∧ teamSpills s1 k tm = false ∧
      saveWaits s1 (k / 4) ps = false
    let spilled (s : State) (k : Nat) (tm : Team) : State :=
      keepStatus ((teamTids tm).foldl (fun s i => spillAll s (threadOf k i)) s) k tm
    (Passes s { settled := true, long := true } c e0 →
      (e0.th.inh = false → undef (.ctxsave c xd xa xb) ∧ undef (.ctxload c xd xa)) ∧
      (e0.tm.firmware = false → undef (.ctxsaveTeam c xd xa xb xc) ∧ undef (.ctxloadTeam c xd xa xc)) ∧
      (∀ s1 e, e0.th.inh = true → Reads s e0 [xa, xa + 1, xb, xd] s1 e → Arrived e [xa, xa + 1, xb] →
        let area := pairNat e.th.read xa
        let v := viewOf s1 key e.tm e.la (some (tTid e.t))
        (area % 4096 ≠ 0 → exec (.ctxsave c xd xa xb) s = .next (raiseTrap s1 e.t (trapOf 0x03 (area % 2 ^ 57)))) ∧
        (area % 4096 = 0 → area < 2 ^ 57 → e.tm.halted = true →
          ((e.th.read xb).toNat < v.size → ends (.ctxsave c xd xa xb) s1 e (natWord (1 + 2 ^ 8 * (v.size / 4096)))) ∧
          (∀ ps, v.size ≤ (e.th.read xb).toNat → areaPages s1 e .w area (v.size / 4096) = .ok ps →
            (e.tm.quieting = false → exec (.ctxsave c xd xa xb) s = .next (s1.quiet key true)) ∧
            (∀ s2, quiet s1 e key e.tm ps →
              (∀ i ids, e.th.wait = .none → release s1 core = (s2, i :: ids) →
                exec (.ctxsave c xd xa xb) s = .next (s2.waitFor e.t (.fence false (i :: ids)))) ∧
              (released s1 e core s2 →
                let s3 := spilled (s2.waitFor e.t .none) key e.tm
                let s4 := (writeArea s3 (viewOf s3 key ((s3.team? key).getD e.tm) e.la (some (tTid e.t))) ps).quiet key false
                ∀ e4, s4.env e.t = some e4 → ends (.ctxsave c xd xa xb) s4 e4 0))))) ∧
      (∀ s1 e, e0.tm.firmware = true → Reads s e0 [xa, xa + 1, xb, xc, xd] s1 e → Arrived e [xa, xa + 1, xb, xc] →
        let area := pairNat e.th.read xa
        let k := (e.th.read xc).toNat % 2 ^ 8 * 4 + (e.th.read xc).toNat / 2 ^ 8 % 4
        area % 4096 = 0 → area < 2 ^ 57 →
        (s1.team? k = none → ends (.ctxsaveTeam c xd xa xb xc) s1 e 5) ∧
        (∀ tm la, s1.team? k = some tm → find? s1.launches tm.lid = some la → tm.halted = true → tm.saving = true →
          let v := viewOf s1 k tm la none
          ((e.th.read xb).toNat < v.size → ends (.ctxsaveTeam c xd xa xb xc) s1 e (natWord (1 + 2 ^ 8 * (v.size / 4096)))) ∧
          (∀ ps, v.size ≤ (e.th.read xb).toNat → areaPages s1 e .w area (v.size / 4096) = .ok ps →
            (tm.quieting = false → exec (.ctxsaveTeam c xd xa xb xc) s = .next (s1.quiet k true)) ∧
            (∀ s2, quiet s1 e k tm ps → released s1 e (k / 4) s2 →
              exec (.ctxsaveTeam c xd xa xb xc) s = .next (s2.waitFor e.t (.flush (k / 4)))) ∧
            (∀ n, quiet s1 e k tm ps → e.th.wait = .flush n →
              let s3 := flushPrivate (spilled (s1.waitFor e.t .none) k tm) (k / 4)
              let tm3 := (s3.team? k).getD tm
              let s4 := freeSaved (writeArea s3 (viewOf s3 k tm3 la none) ps) k tm3
              ∀ e4, s4.env e.t = some e4 → ends (.ctxsaveTeam c xd xa xb xc) s4 e4 0)))) ∧
      (∀ (team : Bool) s1 e ps, (if team then e0.tm.firmware = true else e0.th.inh = true) →
        Reads s e0 (if team then [xa, xa + 1, xc, xd] else [xa, xa + 1, xd]) s1 e →
        Arrived e (if team then [xa, xa + 1, xc] else [xa, xa + 1]) →
        let i : Instr := if team then .ctxloadTeam c xd xa xc else .ctxload c xd xa
        let area := pairNat e.th.read xa
        let own := if team then none else some e.tm.lid
        let dest := (e.th.read xc).toNat % 2 ^ 8
        let reports (n : Word) : Prop := ends i s1 e n
        area % 4096 = 0 → area < 2 ^ 57 → areaPages s1 e .r area 1 = .ok ps →
        (headerOk (areaWords s1 (tCore e.t) ps) = false → reports 2) ∧
        (∀ all, headerOk (areaWords s1 (tCore e.t) ps) = true →
          areaPages s1 e .r area (areaSize (areaWords s1 (tCore e.t) ps) / 4096) = .ok all →
          let a := areaWords s1 (tCore e.t) all
          (areaLaunch s1 a = none → reports 3) ∧
          (∀ lid la, areaLaunch s1 a = some (lid, la) → team = false → lid ≠ e.tm.lid → reports 3) ∧
          (∀ lid la, areaLaunch s1 a = some (lid, la) → (team = true ∨ lid = e.tm.lid) → sectionsOk a la = false → reports 2) ∧
          (∀ lid la, checkArea s1 a own = .ok lid la →
            (team = true → loadRoom s1 dest la (areaHandles a) = false → reports 4) ∧
            (team = false → ownRoom (s1.core (teamKey e.t / 4)) e.tm (areaHandles a) = false → reports 4) ∧
            (team = false → ownRoom (s1.core (teamKey e.t / 4)) e.tm (areaHandles a) = true →
              teamQuiet s1 (teamKey e.t) e.tm = true →
              jobsFull (s1.core (teamKey e.t / 4)) (fun j => teamKey j.thread != teamKey e.t) (jobRecords a).length = false →
              (∃ x, backChecks s1 e ((teamTids e.tm).map (threadOf (teamKey e.t))) = .ok x) → teamSpills s1 (teamKey e.t) e.tm = false →
              exec i s = .next (loadOwn s1 a (teamKey e.t) e.tm lid la)) ∧
            (team = true → loadRoom s1 dest la (areaHandles a) = true →
              (s1.core dest).jobs.length + (jobRecords a).length ≤ 64 →
              ∀ e4, (loadTeam s1 a dest lid la).env e.t = some e4 → ends i (loadTeam s1 a dest lid la) e4 0))))) ∧
    (Passes s { settled := true } c e0 →
      (e0.tm.firmware = false → undef (.tinvUnmap c xa xb) ∧ undef (.tinvDowngrade c xa xb) ∧ undef (.tinvUnmapAll c xb) ∧
        undef (.selftestArray c xd xa) ∧ undef (.selftestBank c xd xa)) ∧
      (∀ (i : Instr) (rs : List Reg) keep, e0.tm.firmware = true →
        (i, rs, keep) ∈ [(.tinvUnmap c xa xb, [xa, xa + 1, xb, xb + 1], false),
          (.tinvDowngrade c xa xb, [xa, xa + 1, xb, xb + 1], true), (.tinvUnmapAll c xb, [xb, xb + 1], false)] →
        ∀ s1 e, Reads s e0 rs s1 e → Arrived e rs →
        let base := pairNat e.th.read xa / 2 ^ 16 * 2 ^ 16
        let count := pairNat e.th.read xb
        let r : VRange := if rs.length = 2 then ⟨BitVec.ofNat 16 (count / 2 ^ 48), 0, 2 ^ 57⟩
          else ⟨BitVec.ofNat 16 (count / 2 ^ 48), base, base + 2 ^ 16 * (count % 2 ^ 48)⟩
        (draining s1 r = true → exec i s = .next { s1 with stalled := true }) ∧
        (draining s1 r = false → ∀ e4, (dropRange s1 r keep).env e.t = some e4 →
          exec i s = .next (Gone (dropRange s1 r keep) e4 (e4.th.ctx.past 1)))) ∧
      (∀ s1 e, e0.tm.firmware = true → Reads s e0 [xa, xd] s1 e → Arrived e [xa] →
        let n := (e.th.read xa).toNat
        let found := Config.freeWord s1.free
        (∃ t th, exec (.selftestArray c xd xa) s = .next t ∧ t.thread? e.t = some th ∧
          RegsAfter e.th th c.k [(xd, found &&& 0xF)] ∧ (t.core (n % 2 ^ 8)).fenced = found.extractLsb' 0 4 ∧
          SameMemory s1 t) ∧
        ((∃ b, b < 16 ∧ find? s1.tickets (n % 2 ^ 9 * 16 + b) ≠ none) →
          exec (.selftestBank c xd xa) s = .next { s1 with stalled := true }) ∧
        ((∀ b, b < 16 → find? s1.tickets (n % 2 ^ 9 * 16 + b) = none) →
          ∃ t th, exec (.selftestBank c xd xa) s = .next t ∧ t.thread? e.t = some th ∧
            RegsAfter e.th th c.k [(xd, found &&& 0xFFFF)] ∧
            (∀ b, b ∈ t.badBanks ↔ b ∈ s1.badBanks ∨ (b / 16 = n % 2 ^ 9 ∧ found.getLsbD (b % 16) = true)) ∧
            SameMemory s1 t))) ∧
    (∀ (r : VRange) p x, (p, x) ∈ (dropRange s r false).pages → (p, x) ∈ s.pages ∧ r.page x = false)

/-- R353, R354, R355: where a save area holds what, and that a thread's record, read back, gives the thread again: its
resume address, what a rollback restores, its flags, status, trap record and the names at its lane. -/
def Obligations.SaveAreas : Prop :=
  (∀ (v : SaveView),
    (∀ i, i < 8 → v.sizes.getD i 0 % 4096 = 0 ∧ v.offsets.getD i 0 =
      if v.sizes.getD i 0 = 0 then v.size else 4096 + (v.sizes.take i).foldl (· + ·) 0) ∧
    v.size = 4096 + v.sizes.foldl (· + ·) 0 ∧
    (v.wordAt 0).toNat % 2 ^ 48 = 2 ^ 32 + 0x44584354 ∧ v.wordAt 0x10 = BitVec.ofNat 64 v.size ∧ v.wordAt 0x60 = v.la.ident ∧
    (∀ i off, i < 32 * v.tm.ngrp → off < 1024 → v.wordAt (4096 + 1024 * i + off) = v.threadAt i off)) ∧
  (∀ (th : Thread) (a : AreaWords) (o clk : Nat), o % 8 = 0 →
    (∀ off, off < 1024 → off % 8 = 0 → a (o + off) = threadWord th true true th.ctx.pc th.ctx.crem off) →
    (∀ k, k < 4 → if th.ctx.aset.getLsbD k then (th.ctx.anchor k).toNat % 32 = 0 ∧ (th.ctx.anchor k).toNat < 2 ^ 57
      else th.ctx.anchor k = 0) →
    th.wait ≠ .lock → th.xhold = false → th.param = none → th.pendTrap = none → th.ctx.depth < 2 ^ 32 → th.ctx.crem < 64 → th.skid < 32 →
    (∀ b tok, th.barWait = some (b, tok) → b < 128) →
    let r := recordThread a o clk
    r.ctx.pc = th.ctx.pc ∧ r.ctx.crem = th.ctx.crem ∧ r.ctx.depth = th.ctx.depth ∧ r.ctx.key = th.ctx.key ∧
    r.ctx.fpc = th.ctx.fpc &&& 0x31F ∧ r.fps = th.fps &&& 0x1F ∧ r.ctx.pmap = th.ctx.pmap ∧
    (∀ k, k < 4 → r.ctx.anchor k = th.ctx.anchor k) ∧ r.ctx.aset = th.ctx.aset ∧
    (∀ f, f < 12 → findD r.flags f 0 = findD th.flags f 0 % 256) ∧
    r.tcause = th.tcause &&& 0x00FF07FF ∧ r.tinfo = th.tinfo ∧ r.epc = th.epc ∧ r.ta = th.ta ∧ r.inh = th.inh ∧ r.exited = th.exited ∧
    r.pendTrap = none ∧ r.skid = th.skid ∧ r.xhold = false ∧
    (∀ b tok, th.barWait = some (b, tok) → (if th.inh then r.kept else r.wait) = .barrier b tok) ∧
    (∀ n : Reg, n.toNat < 128 → th.ctx.place n = .lane → r.stored n = th.stored n))

/-! Copies and homes. -/

/-- R288 to R290, R284, R285, R292, R309, R313, R402: publications write their bytes home and take ownership, replies
make them clean, revocations and recalls give words up, and both acknowledge; the deadlines publish dirty bytes and
drop clean ones; a reclassified page is shared and its owner holds no copy; `cinval` drops each line of its range and
completes when no copy of it is left, `cclean` writes each line to tier memory; an access from outside first makes its
page shared; an error of a write-back is the fault of the units that wait for it, or of the team that last stored to
the line. Maintenance acts on one line after the other (log 24), a write from outside revokes the owners of its words
(log 10), which bytes a failed write-back leaves and whom it blames is log 29, a prefetch fills 8 KiB in a step (log
52), and a T = 0 `ctxsave` takes the fault of its own write-back at once (log 62). -/
def Obligations.CoherenceEvents : Prop :=
  (∀ (s : State) (p : Pub), pub? s s.cur = some p → p.acted = false → p.acks = 0 → writeWaits s p.line = false →
    bytesTaken s p.line p.mask = false → p.queued s = false →
    (∀ q ∈ s.pubs, q.core = p.core → q.line = p.line → p.id ≤ q.id) →
    (registryRoom s p.core p.line = .full → exec .publicationRequest s = .next { s with stalled := true }) ∧
    (∀ v, registryRoom s p.core p.line = .recall v → ∃ t, exec .publicationRequest s = .next t ∧
      v ∈ s.registry ∧ t.registry = s.registry ∧ (⟨s.nextPub, v.core, v.line, v.mask, true, some p.id⟩ : Revoke) ∈ t.revs ∧
      pub? t p.id = some { p with acks := 1 } ∧ SameMemory s t) ∧
    (registryRoom s p.core p.line = .room → ∃ t, exec .publicationRequest s = .next t ∧
      (∀ i, i < 128 → t.byteAt (128 * p.line + i) =
        if p.mask.getLsbD i then (lineByte p.data i).toNat else s.byteAt (128 * p.line + i)) ∧
      (∃ q, pub? t p.id = some q ∧ q = { p with acted := true, acks := q.acks }) ∧
      (∀ e ∈ t.registry, e.line = p.line → e.core ≠ p.core → e.mask &&& wordsOf p.mask = 0) ∧
      (∃ e ∈ t.registry, e.line = p.line ∧ e.core = p.core ∧ e.mask &&& wordsOf p.mask = wordsOf p.mask) ∧
      (∀ e ∈ s.registry, e.line = p.line → e.core ≠ p.core → e.mask &&& wordsOf p.mask ≠ 0 →
        ∃ r ∈ t.revs, r.core = e.core ∧ r.line = p.line ∧ r.words = e.mask &&& wordsOf p.mask ∧ r.isRecall = false ∧
          r.pub = some p.id))) ∧
  (∀ (s : State) (p : Pub), pub? s s.cur = some p → p.acted = true → p.acks = 0 →
    (p.revoking s = true → exec .publicationReply s = .next { s with stalled := true }) ∧
    (p.revoking s = false → ∃ t, exec .publicationReply s = .next (endTeams t p.core) ∧ pub? t p.id = none ∧ SameMemory s t ∧
      find? (t.core p.core).fcache p.line = none ∧
      ∀ l, find? (s.core p.core).l1 p.line = some l → l.shared = true →
        ∃ l', find? (t.core p.core).l1 p.line = some l' ∧ ∀ i, i < 128 →
          (l'.dirty.getLsbD i = true ↔ l.dirty.getLsbD i = true ∧ (p.mask.getLsbD i = false ∨ l.fresh.getLsbD i = true ∨
            ∃ q ∈ s.pubs, q.core = p.core ∧ q.line = p.line ∧ p.id < q.id ∧ q.mask.getLsbD i = true)) ∧
          (p.mask.getLsbD i = true → l'.dirty.getLsbD i = false →
            l'.valid.getLsbD i = true ∧ (lineByte l'.data i).toNat = s.byteAt (128 * p.line + i)))) ∧
  (∀ (s : State) (r : Revoke), rev? s s.cur = some r →
    (r.isRecall = false → ∃ t, exec .revocation s = .next t ∧ rev? t r.id = none ∧ SameMemory s t ∧
      (∀ id q, r.pub = some id → pub? s id = some q → pub? t id = some { q with acks := q.acks - 1 }) ∧
      (∀ l', find? (t.core r.core).l1 r.line = some l' → ∃ l, find? (s.core r.core).l1 r.line = some l ∧
        l'.dirty = l.dirty ∧ ∀ i, i < 128 → (l'.valid.getLsbD i = true ↔
          l.valid.getLsbD i = true ∧ (r.words.getLsbD (i / 4) = false ∨ l.dirty.getLsbD i = true)))) ∧
    (r.isRecall = true → (∀ p ∈ s.pubs, p.core = r.core → p.line ≠ r.line) → writeWaits s r.line = false →
      bytesTaken s r.line (bytesOfMask r.words) = false →
      ∃ t, exec .registryRecall s = .next t ∧ rev? t r.id = none ∧
        (∀ e ∈ t.registry, e.core = r.core → e.line = r.line → e.mask &&& r.words = 0) ∧
        (∀ id q, r.pub = some id → pub? s id = some q → pub? t id = some { q with acks := q.acks - 1 }) ∧
        (∀ l, find? (s.core r.core).l1 r.line = some l →
          (∀ i, i < 128 → t.byteAt (128 * r.line + i) = if l.dirty.getLsbD i && r.words.getLsbD (i / 4) && l.owned.getLsbD (i / 4) then
            (lineByte l.data i).toNat else s.byteAt (128 * r.line + i)) ∧
          ∃ l', find? (t.core r.core).l1 r.line = some l' ∧ l'.owned &&& r.words = 0 ∧ ∀ i, i < 128 →
            (l'.dirty.getLsbD i = true ↔
              l.dirty.getLsbD i = true ∧ (r.words.getLsbD (i / 4) = false ∨ l.owned.getLsbD (i / 4) = false))))) ∧
  (∀ (s : State) (core line : Nat) (l : L1Line), find? (s.core core).l1 line = some l → l.shared = true →
    (unsent s core line l ≠ 0 → l.dirtyAt + 4096 ≤ s.clk → ∃ t, exec (.publishDeadline core line) s = .next t ∧
      t = publish s core line l ∧ ∃ p ∈ t.pubs, p.core = core ∧ p.line = line ∧ p.mask = unsent s core line l ∧ p.data = l.data) ∧
    (l.loose ≠ 0 → l.cleanAt + 4096 ≤ s.clk → ∃ t, exec (.cleanDropDeadline core line) s = .next t ∧ SameMemory s t ∧
      ∀ l', find? (t.core core).l1 line = some l' → l' = { l with valid := l'.valid } ∧ ∀ i, i < 128 →
        (l'.valid.getLsbD i = true ↔
          l.valid.getLsbD i = true ∧ (l.dirty.getLsbD i = true ∨ l.owned.getLsbD (i / 4) = true)))) ∧
  (∀ (s : State) (c : PageClass), s.cur ∈ s.reclass → find? s.pages s.cur = some c →
    (classOf s s.cur (BitVec.ofNat 64 (homeRead s s.cur 8))).1 = 1 → grpInFlight s c.own.toNat s.cur = false →
    (∀ e ∈ (s.core c.own.toNat).l1, e.2.pte = s.cur → e.2.dirty = 0 ∨ writeWaits s e.1 = false) →
    ∃ t x, exec .reclassification s = .next t ∧ s.cur ∉ t.reclass ∧ find? t.pages s.cur = some x ∧ x.cls = 2 ∧
      (∀ e ∈ (t.core c.own.toNat).l1, e.2.pte ≠ s.cur) ∧ (t.core c.own.toNat).fcache = []) ∧
  (∀ (s : State) (pte page bytes pa size : Nat) (v : DWord),
    let entry := BitVec.ofNat 64 (homeRead s pte 8)
    let cls := (classOf s pte entry).1
    let arrives (w : Option DWord) := exec (.remoteOrHostAccessArrival ⟨pte, page, bytes⟩ pa w size) s
    let s0 := if cls = 0 then setClass s ⟨0, 0, pte, entry, page, bytes⟩ 2 0 else s
    (cls = 0 → ∃ x, find? s0.pages pte = some x ∧ x.cls = 2 ∧ x.page = page ∧ x.size = bytes) ∧
    (physOk pa = false → ∀ w, arrives w = .fault .physicalHole) ∧
    (physOk pa = true → cls = 1 → ∀ w,
      (pte ∈ s.reclass → arrives w = .next { s with stalled := true }) ∧
      (pte ∉ s.reclass → arrives w = .next { s with reclass := s.reclass ++ [pte] })) ∧
    (physOk pa = true → cls ≠ 1 → homeWaits s0 (pa / 128) = false →
      arrives none = .next s0 ∧
      (∀ s1 y, siteTaken s0 none 0 pa size = false →
        revokeOwners s0 512 (pa / 128) (wordsOf (spanMask (pa % 128) size)) = (some s1, y) →
        arrives (some v) = .next (homeWrite s1 pa size (v.toNat % 2 ^ (8 * size)))))) ∧
  (∀ (s : State) (t : Nat) (e : Env) (a : Access) (l : List (Nat × Nat × Nat)), s.env t = some e → e.th.acc? a.id = some a →
    a.commit = true → a.walks = false →
    let within (ln : Nat) : Prop := ∃ p ∈ l, p.2.1 ≤ 128 * ln ∧ 128 * ln < p.2.1 + p.2.2
    let copy (s : State) (ln : Nat) : Prop := find? s.l2 ln ≠ none ∨ (∃ x ∈ s.registry, x.line = ln) ∨
      ∃ core, find? (s.core core).l1 ln ≠ none ∨ find? (s.core core).fcache ln ≠ none
    (a.kind.isMaint = true → e.th.inOrder a = true → ({ a with data := 0 } : Access).spans s e false a.size = .ok l →
      (nextLine s a l = none → exec (.maintenanceCompletion t a.id) s = .next (finishStore s t a) ∧
        ∀ ln, within ln → copy s ln → a.turn ln < a.data) ∧
      (∀ ln, nextLine s a l = some ln → within ln ∧ a.data ≤ a.turn ln ∧
        (∀ ln', within ln' → copy s ln' → a.data ≤ a.turn ln' → a.turn ln ≤ a.turn ln') ∧
        (a.kind = .cinval → (∀ p ∈ s.pubs, p.line ≠ ln) → siteTaken s none 0 (128 * ln) 128 = false → ∃ s1, ¬copy s1 ln ∧ s1.threads = s.threads ∧
          exec (.maintenanceCompletion t a.id) s = .next (a.passed t (a.turn ln + 1) s1)) ∧
        (a.kind = .cclean → lineBusy s ln = false → unsentShared s ln = true →
          exec (.maintenanceCompletion t a.id) s = .next (cleanCopies s ln)) ∧
        (a.kind = .cclean → lineBusy s ln = false → dirtyShared s ln = false → (∀ p ∈ s.pubs, p.line ≠ ln) →
          ∃ s1, s1.threads = s.threads ∧ (∀ x, find? s1.l2 ln = some x → x.dirty = false) ∧
            (∀ core x, find? (s1.core core).l1 ln = some x → x.dirty = 0) ∧
            exec (.maintenanceCompletion t a.id) s = .next (a.passed t (a.turn ln + 1) s1)))) ∧
    (a.kind = .pref → a.spans s e true 8192 = .ok l →
      (∀ ln, (∃ p ∈ l, ln ∈ linesOf p.2.1 (p.2.1 + p.2.2)) → ticketHeld s (128 * ln) = false) →
      ∃ s1, s1.cores = s.cores ∧ s1.threads = s.threads ∧ s1.hostMem = s.hostMem ∧ s1.remote = s.remote ∧
        (∀ x, (∀ y, find? s.l2 (x / 128) = some y → y.dirty = true ∨ find? s1.l2 (x / 128) = some y) →
          s1.byteAt x = s.byteAt x) ∧ exec (.prefCompletion t a.id) s = .next (
        if a.size ≤ a.data + 8192 then finishStore s1 t a else a.passed t (a.data + 8192) s1))) ∧
  (∀ (s : State) (addr : Nat),
    let trap := trapOf 0x13 (addr % 2 ^ 57)
    let attr (ua : DWord) : TrapInfo := ⟨0x13, 0, 0, true, BitVec.ofNat 64 (addr % 2 ^ 57), ua⟩
    (∀ t seq b, waiterFault addr s (t, some seq, b) = trapUnit s t seq trap) ∧
    (∀ t, waiterFault addr s (t, none, true) = raiseTrap (s.waitFor t .none) t trap) ∧
    (∀ t e, s.env t = some e → waiterFault addr s (t, none, false) =
      if e.tm.quieting = true ∧ e.th.inh = true then
        deliverTrap ((s.waitFor t .none).quiet (teamKey t) false) t (attr e.th.ctx.pc)
      else attributedTrap (s.waitFor t .none) t (attr e.th.ctx.pc)) ∧
    (∀ t th, s.thread? t = some th →
      (∀ u w, th.window = u :: w → blameStorer s (some t) addr = attributedTrap s t (attr u.ua)) ∧
      (th.window = [] → blameStorer s (some t) addr = attributedTrap s t (attr th.ctx.pc))) ∧
    blameStorer s none addr = s ∧
    (∀ p, pub? s p.id = some p → p.acted = false →
      ∃ s1, pub? s1 p.id = none ∧ SameMemory s s1 ∧ s1.threads = s.threads ∧
        (∀ l, find? (s.core p.core).l1 p.line = some l → ∃ l', find? (s1.core p.core).l1 p.line = some l' ∧
          l'.dirty = l.dirty ∧ ∀ i, p.mask.getLsbD i = true → l.dirty.getLsbD i = true → l'.fresh.getLsbD i = true) ∧
        (∀ q ∈ s.pubs, q.id ≠ p.id → (if q.id ∈ releasedWith s p.id then { q with lastBy := none } else q) ∈ s1.pubs) ∧
        exec (.writebackError (.publication p.id) addr) s = .next (
          if pubWaiters s p.id = [] then blameStorer s1 p.lastBy addr
          else (pubWaiters s p.id).foldl (waiterFault addr) s1)) ∧
    (∀ r l, rev? s r.id = some r → r.isRecall = true → find? (s.core r.core).l1 r.line = some l →
      l.dirty &&& bytesOfMask r.words ≠ 0 →
      ∃ s1, rev? s1 r.id = none ∧ SameMemory s s1 ∧
        find? (s1.core r.core).l1 r.line = some { l with owned := l.owned &&& ~~~r.words } ∧
        exec (.writebackError (.recall r.id) addr) s = .next (blameStorer s1 l.lastBy addr)) ∧
    (∀ core ln l, find? (s.core core).l1 ln = some l → l.shared = false → l.dirty ≠ 0 →
      (∀ t, flusher s core = some t → exec (.writebackError (.line core ln) addr) s = .next (waiterFault addr s (t, none, false))) ∧
      (flusher s core = none → exec (.writebackError (.line core ln) addr) s = .next (blameStorer
        (s.setCore core { s.core core with l1 := del (s.core core).l1 ln }) l.lastBy addr))) ∧
    (∀ t e a, s.env t = some e → e.th.acc? a.id = some a → a.kind.isStore = true ∨ a.kind.isAtom = true → a.commit = true →
      a.held e = false → (∃ p ∈ a.phys, p.tgt ≠ 0) →
      exec (.writebackError (.store t a.id) addr) s = .next (refusedStore s e a)))

/-! Translation. -/

/-- R309, R332, R338, R340 to R342, R365, R371: a walk that met a moving page is taken up again after a `tinv`, and so
is a read of the device's own, which tells firmware of a malformed entry; a host translation lets its waiters go on,
or a PRI request is sent in arrival order while the host's allocation leaves room; an invalidation drops the entries
at once and completes when what used them has performed; a refused PRI request fails the access; a request refused as
moved is translated and sent once more, against the home's conditions anew; a remote access that was sent and got no
response fails, and a refused store is its release's fault; lost pages become not present. From when the remote
timeout counts is log 25, the mark of a completed invalidation log 26, and that a walk is one step, taken up after a
`tinv`, log 58. -/
def Obligations.TranslationEvents : Prop :=
  (∀ (s : State) (e : Env) (va n : Nat), s.env s.cur = some e → find? s.walks s.cur = some n → e.th.wait = .walk va →
    (n = 0 → exec .pageWalk s = .next { s with stalled := true }) ∧
    (n ≠ 0 → ∃ t, exec .pageWalk s = .next t ∧
      (walk s e.la.asp va = .moving → t = { s with walks := t.walks } ∧ find? t.walks s.cur = some 0) ∧
      (walk s e.la.asp va ≠ .moving → t = { s.setThread s.cur { e.th with wait := .none } with walks := t.walks } ∧
        find? t.walks s.cur = none))) ∧
  (∀ (s : State) (die va n : Nat) (asp : AddrSpace),
    let page := (asp.asn.toNat, va / 65536)
    (page ∈ s.devWalks → devUnit s die asp va n = .wait { s with stalled := true }) ∧
    (page ∉ s.devWalks → translate s die asp va .r = .moving →
      devUnit s die asp va n = .wait { s with devWalks := s.devWalks ++ [page] }) ∧
    (∀ c, page ∉ s.devWalks → translate s die asp va .r = .trap c →
      devUnit s die asp va n = if s.untold asp va = true then .wait (s.tell asp va) else .bad c va)) ∧
  (∀ (s : State) (r : VRange) (keep : Bool) (w : Nat × Nat), w ∈ (dropRange s r keep).devWalks ↔
    w ∈ s.devWalks ∧ ¬(w.1 = r.asn.toNat ∧ r.meets (65536 * w.2) 65536 = true)) ∧
  (∀ (s : State) (r : AtsReq) (res : Option AtsResult),
    s.ats.find? (fun r' => r'.die == r.die && r'.pasid == r.pasid && r'.page == r.page) = some r →
    (r.pri ≠ none ∨ r.asks = true →
      exec (.translationRequestCompletion r.die r.pasid r.page res) s = .next { s with stalled := true }) ∧
    (r.pri = none → r.asks = false →
    ∃ t, exec (.translationRequestCompletion r.die r.pasid r.page res) s = .next t ∧ SameMemory s t ∧
      (∀ x, res = some x → (⟨r.die, r.pasid, r.page, x⟩ : AtcEntry) ∈ t.atc) ∧
      ((∃ x, res = some x ∧ (if r.write then x.w else x.r) = true) →
        (∀ q ∈ t.ats, ¬(q.die = r.die ∧ q.pasid = r.pasid ∧ q.page = r.page)) ∧
        ∀ u e, s.env u = some e → t.thread? u = some (
          match e.th.wait with
          | .ats p _ => if p = r.page ∧ e.la.asp.pasid = r.pasid ∧ dieOf (tCore u) = r.die then { e.th with wait := .none } else e.th
          | _ => e.th)) ∧
      (¬(∃ x, res = some x ∧ (if r.write then x.w else x.r) = true) → ∃ atc, t = priFill { s with
        atc := atc
        ats := s.ats.filter (fun q => ¬(q.die = r.die ∧ q.pasid = r.pasid ∧ q.page = r.page)) ++ [{ r with asks := true }] }))) ∧
  (∀ s : State, let room := Config.priRoom - (s.ats.filter (fun r => r.pri.isSome)).length
    priFill s = { s with ats := (priFill s).ats } ∧ (priFill s).ats.length = s.ats.length ∧
    ∀ i (r : AtsReq), s.ats[i]? = some r → (priFill s).ats[i]? = some (
      if r.asks = true ∧ ((s.ats.take i).filter (·.asks)).length < room then { r with pri := some s.clk, asks := false } else r)) ∧
  (∀ (s : State) (pasid page count : Nat),
    let hit (x : AtcEntry) : Prop := x.pasid = pasid ∧ page ≤ x.page ∧ x.page < page + count
    let mine (v : Inval) : Prop := v.pasid = pasid ∧ v.page = page ∧ v.count = count ∧ v.done = false
    ((∀ v ∈ s.invs, ¬mine v) → ∃ t v, exec (.invalidateRequest pasid page count) s = .next t ∧
      t = { s with atc := t.atc, invs := s.invs ++ [v] } ∧ (∀ x, x ∈ t.atc ↔ x ∈ s.atc ∧ ¬hit x) ∧
      v.pasid = pasid ∧ v.page = page ∧ v.count = count ∧ (v.done = true ↔ v.waits = []) ∧
      ∀ u id, (u, id) ∈ v.waits ↔ ∃ e a p x, s.env u = some e ∧ e.la.asp.pasid = pasid ∧ a ∈ e.th.accs ∧ a.id = id ∧ p ∈ a.phys ∧
        p.tgt = 1 ∧ x ∈ s.atc ∧ hit x ∧ p.pa / 65536 = x.res.page) ∧
    (∀ vs v ws, s.invs = vs ++ v :: ws → mine v → (∀ x ∈ vs ++ ws, ¬mine x) →
      let pending : Prop := ∃ w ∈ v.waits, ∃ th a, s.thread? w.1 = some th ∧ a ∈ th.accs ∧ a.id = w.2
      (pending → exec (.invalidateRequest pasid page count) s = .next { s with stalled := true }) ∧
      (¬pending → exec (.invalidateRequest pasid page count) s =
        .next { s with invs := vs ++ { v with done := true } :: ws }))) ∧
  (∀ (s : State) (pasid page : Nat),
    let waits (r : AtsReq) : Prop := r.pasid = pasid ∧ r.page = page ∧ r.pri ≠ none
    (∃ r ∈ s.ats, waits r) →
    exec (.prgResponse pasid page true) s = .next (priFill { s with
      ats := s.ats.map (fun r => if r.pasid = pasid ∧ r.page = page then { r with pri := none } else r) }) ∧
    (∃ t, exec (.prgResponse pasid page false) s = .next t ∧ ∀ r ∈ t.ats, waits r → r.pri = some s.clk) ∧
    ((∃ r c, r ∈ s.ats ∧ waits r ∧ r.pri = some c ∧ c + min s.policy.pri 9400000 ≤ s.clk) →
      ∃ t, exec (.priTimeout pasid page) s = .next t ∧
        ∀ r ∈ t.ats, ∀ c, waits r → r.pri = some c → s.clk < c + min s.policy.pri 9400000 ∨ c = s.clk) ∧
    ((∀ r c, r ∈ s.ats → waits r → r.pri = some c → s.clk < c + min s.policy.pri 9400000) →
      exec (.priTimeout pasid page) s = .next { s with stalled := true }) ∧
    (∀ r e va, s.ats = [r] → waits r → r.dev = false → atsWaiters s r.die pasid page = [(e, va)] →
      (∀ x ∈ s.cores, x.2.jobs = []) → (∀ x ∈ s.threads, ∀ a ∈ x.2.accs, a.moved = false) →
      let ti := trapOf (if s.atc.any (fun x => x.die == r.die && x.pasid == pasid && x.page == page) then 0x05 else 0x04) va
      let s1 : State := { s with ats := [] }
      let s2 := if e.la.dist.reader = some e.t then
        s1.modDist e.tm.lid (fun d => { d with reader := none, failed := some ti }) else s1
      exec (.prgResponse pasid page false) s = .next (raiseTrap (s2.waitFor e.t .none) e.t ti))) ∧
  (∀ (s : State) (t : Nat) (e : Env) (a : Access), s.env t = some e → e.th.acc? a.id = some a → e.th.trapped a.seq = false →
    let runs : Prop := a.moved = true ∧ a.walks = false
    let fails (c : BitVec 8) (tinfo : Nat) : Outcome :=
      let s := if c = 0x04 then s.tell e.la.asp tinfo else s
      .next (if a.commit then attributedTrap (s.setThread t (e.th.dropAcc a)) t (trapAttr c tinfo a.ua)
        else trapUnit s t a.seq (trapOf c tinfo))
    let again (ps : List Phys) : Prop := List.Forall₂ (fun x p => e.xlat s x.1 x.2 = .ok p) a.needs ps
    let rowsOk (ps : List Phys) : Prop :=
      a.kind.isRow = false ∨ ∀ p ∈ ps, p.tgt = 0 ∧ tier1 p.pa = true ∧ sameSubarray p.pa (ps.headD p).pa = true
    (a.moved = false ∨ a.walks = true → exec (.movedRefusal t a.id) s = .next { s with stalled := true }) ∧
    (∀ ps, runs → again ps → (∀ p ∈ ps, p.hole = false) → rowsOk ps → ((∀ p ∈ ps, p.tgt ≠ 1) ∨ a.kind.hostAtom = true) →
      ∃ th, exec (.movedRefusal t a.id) s = .next (s.setThread t th) ∧ th = { e.th with accs := th.accs } ∧
        th.acc? a.id = some { a with phys := ps, moved := false, started := false, arrived := none, sent := none }) ∧
    (∀ ps, runs → again ps → (∀ p ∈ ps, p.hole = false) → rowsOk ps → (∃ p ∈ ps, p.tgt = 1) → a.kind.hostAtom = false →
      exec (.movedRefusal t a.id) s = fails 0x05 a.va) ∧
    (∀ d ps va vas, runs → a.kind.isRow = true → again (d :: ps) → a.needs.map (·.1) = va :: vas →
      d.tgt ≠ 0 ∨ tier1 d.pa = false → exec (.movedRefusal t a.id) s = fails 0x0F (va + 9 * 2 ^ 57)) ∧
    (∀ ok x later ps, runs → a.needs = ok ++ x :: later → List.Forall₂ (fun x p => e.xlat s x.1 x.2 = .ok p) ok ps →
      (∀ c, e.xlat s x.1 x.2 = .trap c → exec (.movedRefusal t a.id) s = fails c x.1) ∧
      (e.xlat s x.1 x.2 = .moving → ∃ th, exec (.movedRefusal t a.id) s = .next (s.setThread t th) ∧
        th = { e.th with accs := th.accs } ∧ th.acc? a.id = some { a with walks := true }) ∧
      (∀ page, e.xlat s x.1 x.2 = .ats page → exec (.movedRefusal t a.id) s =
        .next (s.request (dieOf (tCore t)) e.la.asp.pasid page (decide (x.2 = .w ∨ x.2 = .rw)))))) ∧
  (∀ (s : State) (t : Nat) (e : Env) (a : Access), s.env t = some e → e.th.acc? a.id = some a →
    let late : Prop := (∃ c, a.sent = some c ∧ c + max 9400 (min s.policy.remote 1880000) ≤ s.clk) ∧ (∃ p ∈ a.phys, p.tgt = 2) ∧
      a.held e = false ∧ (a.commit = true ∨ a.kind.isLoad = true ∨ a.kind.isAtom = true)
    let waits (u : WUnit) : Bool := decide (a.seq < u.seq) && (match u.act with | .rel _ => true | _ => false)
    let s1 := s.setThread t (e.th.dropAcc a)
    (¬late → exec (.remoteAccessTimeout t a.id) s = .next { s with stalled := true }) ∧
    (late → a.commit = false →
      exec (.remoteAccessTimeout t a.id) s = .next (trapUnit s t a.seq (trapOf 0x13 a.va))) ∧
    (∀ u, late → a.commit = true → e.th.window.find? waits = some u →
      exec (.remoteAccessTimeout t a.id) s = .next (trapUnit s1 t u.seq (trapOf 0x13 a.va))) ∧
    (∀ u us, late → a.commit = true → e.th.window = u :: us → (∀ v ∈ e.th.window, waits v = false) →
      exec (.remoteAccessTimeout t a.id) s = .next (attributedTrap s1 t (trapAttr 0x13 a.va u.ua))) ∧
    (∀ ids, late → a.commit = true → e.th.window = [] → e.th.wait = .fence true ids →
      exec (.remoteAccessTimeout t a.id) s = .next (raiseTrap (s1.waitFor t .none) t (trapOf 0x13 a.va))) ∧
    (late → a.commit = true → e.th.window = [] → (∀ ids, e.th.wait ≠ .fence true ids) →
      exec (.remoteAccessTimeout t a.id) s = .next (attributedTrap s1 t (trapAttr 0x13 a.va e.th.ctx.pc)))) ∧
  (∀ (s : State) (root va : Nat) (p : Phys), Sorted s.l2 = true → walkFrom s 5 0 root va = .page p →
    (∀ a ∈ spacesOf s root, draining s ⟨a.asn, p.page, p.page + p.size⟩ = false) →
    (∀ k ∈ s.cores, ∀ l ∈ k.2.l1, l.1 = p.pte / 128 → l.2.dirty = 0) →
    ∃ t, exec (.dataLoss root va) s = .next t ∧ (root, p.page) ∈ t.lost ∧ t.byteAt p.pte % 2 = 0)

/-! Launches. -/

/-- R127, R242, R244, R246, R257 to R259, R260, R268, R276, R277, R325, R332, R349, R361, R362, R366: a team becomes
resident with its threads at the entry, where no launch of a better priority goes first, and a parameter that cannot
be read stands as the trap of every thread; a launch ends with its completion record; ready reports, start(GEN),
abort(GEN) and the ready deadline; pre-emption and its deadline, which kills the teams (the TID and EPC that their
records name are free values, log 2); firmware's own launches and ends of escalated teams; Medlar's actions, in firing
order over the device. The point at which a Medlar action works and the frames it gives are log 27, the cause 0x12 of
a killed team log 36, the offset of a refusal log 38, the messages log 40, and a refused launch of firmware log 41. -/
def Obligations.LaunchEvents : Prop :=
  (∀ (s : State) (lid core c0 slot : Nat) (l : Launch) (vs : List Nat), find? s.launches lid = some l →
    l.started = true → l.preempted = false → l.preempt = none → l.nextTeam < l.nteam → coreServes s core l = true →
    roomFor s core c0 l = true → slot < 4 → find? (s.core core).teams slot = none →
    (∀ i, i < slot → find? (s.core core).teams i ≠ none) →
    (otherFirst s core l = true → exec (.teamResident lid core c0) s = .next { s with stalled := true }) ∧
    (∀ c va, otherFirst s core l = false → s.tickets = [] → (∀ x ∈ s.threads, ∀ a ∈ x.2.accs, a.kind.isRow = false) →
      devValues s (dieOf core) l.asp 4 l.param l.npre = .bad c va →
      ∃ t, exec (.teamResident lid core c0) s = .next t ∧ find? t.launches lid = some { l with nextTeam := l.nextTeam + 1 } ∧
        ∀ tid, tid < 32 * l.ngrp → ∃ th, t.thread? (2048 * core + 512 * slot + tid) = some th ∧ th.ctx.pc = l.entry ∧
          th.param = some (trapOf c (va % 2 ^ 57)) ∧ ∀ n : Reg, th.stored n = 0) ∧
    (otherFirst s core l = false → s.tickets = [] → (∀ x ∈ s.threads, ∀ a ∈ x.2.accs, a.kind.isRow = false) →
    devValues s (dieOf core) l.asp 4 l.param l.npre = .ok vs →
    ∃ t tm, exec (.teamResident lid core c0) s = .next t ∧ find? t.launches lid = some { l with nextTeam := l.nextTeam + 1 } ∧
      t.team? (4 * core + slot) = some tm ∧ tm.lid = lid ∧ tm.index = l.nextTeam ∧ tm.ngrp = l.ngrp ∧ tm.c0 = c0 ∧
      tm.nbar = l.nbar ∧ tm.halted = false ∧ tm.guards = 0 ∧ tm.handles = [] ∧
      ∀ tid, tid < 32 * l.ngrp → ∃ th, t.thread? (2048 * core + 512 * slot + tid) = some th ∧
        let r : Bool := decide (l.nprod ≤ tid / 32)
        th.ctx.pc = l.entry ∧ th.ctx.crem = 0 ∧ th.ctx.depth = 0 ∧ th.ctx.fpc = l.fpc0 ∧ th.ctx.pmap = l.pmap r ∧
        th.ctx.aset = l.anchorsSet r ∧ th.exited = false ∧ th.param = none ∧ th.flags = [] ∧ th.window = [] ∧
        (∀ k, k < 4 → th.ctx.anchor k = if (l.anchorsSet r).getLsbD k then BitVec.ofNat 64
          (l.arBase + 65536 * l.arPages * l.nextTeam + 32 * (l.anchorOff r k + l.anchorStride r * tid)) else 0) ∧
        ∀ n : Reg, th.stored n = if th.ctx.place n = .unmapped then 0 else natWord (vs.getD n.toNat 0))) ∧
  (∀ (s : State) (l : Launch), find? s.launches s.cur = some l → l.started = true → l.preempted = false →
    hasTeam s s.cur = false →
    let status : Nat := if l.killed then 4 else if l.preempt.isSome || l.anySaved then 3 else if l.trapped then 2 else 0
    let lost := (s.lost.filter (fun p => p.1 == l.asp.root)).map (·.2)
    let (tc, tid, team, tinfo, epc, aua) := l.trec.getD (0, 0, 0, 0, 0, 0)
    let st (n : Nat) : Nat := (findD l.status (2 * n) 0).toNat + 2 ^ 32 * (findD l.status (2 * n + 1) 0).toNat
    let rec_ : List DWord := [0, l.sseq] ++ [status + 2 ^ 32 * l.ttskip, s.clk - l.startClk, st 0, st 1, st 2, st 3,
      tc + 2 ^ 32 * tid, team + 2 ^ 32 * l.ntrap, tinfo, epc, aua, l.nextTeam + 2 ^ 32 * lost.length,
      if status = 3 then l.prec else 0, lost.foldl min (lost.headD 0)].map (BitVec.ofNat 64)
    (l.nteam ≤ l.nextTeam → l.preempt = none → l.saved = [] →
      ∃ t, exec .launchEnd s = .next t ∧ find? t.launches s.cur = none ∧
        ∀ q p, l.qp = some q → find? s.queues q = some p → find? t.queues q = some { p with held := p.held ++ [rec_] }) ∧
    (l.preempt ≠ none → (∀ x ∈ l.saved, x.2 = false) →
      ∃ t, exec .launchEnd s = .next t ∧ find? t.launches s.cur = some { l with preempted := true } ∧
        ∀ q p, l.qp = some q → find? s.queues q = some p → find? t.queues q = some { p with held := p.held ++ [rec_] })) ∧
  (∀ (s : State) (lid lrec : Nat) (asp : AddrSpace) (l : Launch),
    (∀ r, submitRecord s (BitVec.ofNat 64 lid) none 0 asp lrec = .refused l r →
      exec (.recordReplication lid lrec asp) s =
        .next { s with devFail := [], msgs := s.msgs ++ [(1, lid, BitVec.ofNat 32 r.code)] }) ∧
    (submitRecord s (BitVec.ofNat 64 lid) none 0 asp lrec = .ok l →
      l.devs.findIdx? (fun d => bits (d.getD 0 0) 0 16 == s.config.moduleNo) = none →
      exec (.recordReplication lid lrec asp) s = .next { s with devFail := [], msgs := s.msgs ++ [(1, lid, 8)] }) ∧
    (∀ i, submitRecord s (BitVec.ofNat 64 lid) none 0 asp lrec = .ok l →
      l.devs.findIdx? (fun d => bits (d.getD 0 0) 0 16 == s.config.moduleNo) = some i →
      exec (.recordReplication lid lrec asp) s = .next { s with
        devFail := [], launches := put s.launches s.nextLid { l with didx := i }, nextLid := s.nextLid + 1
        cores := s.cores.map (fun e => (e.1, { e.2 with icache := [] })), msgs := s.msgs ++ [(0, lid, l.gen)] })) ∧
  (∀ (s : State) (lid : Nat) (l : Launch), find? s.launches lid = some l →
    (∀ c d, l.repEnd = some c → d < l.nd → d ∉ l.ready → ∃ t, exec (.readyReport lid d true) s = .next t ∧
      (l.ready.length + 1 ≠ l.nd → find? t.launches lid = some { l with ready := l.ready ++ [d] } ∧ t.msgs = s.msgs) ∧
      (l.ready.length + 1 = l.nd → find? t.launches lid = some { l with ready := l.ready ++ [d], repEnd := none } ∧
        t.msgs = s.msgs ++ [(2, lid, l.gen)])) ∧
    (∀ c d, l.repEnd = some c → d < l.nd → ∃ t, exec (.readyReport lid d false) s = .next t ∧
      find? t.launches lid = some { l with ready := [], repEnd := none } ∧ t.msgs = s.msgs ++ [(3, lid, l.gen)]) ∧
    (∀ c, l.repEnd = some c → s.cur = lid → c ≤ s.clk → ∃ t, exec .readyDeadlineExpiry s = .next t ∧
      find? t.launches lid = some { l with ready := [], repEnd := none } ∧ t.msgs = s.msgs ++ [(3, lid, l.gen)]) ∧
    (l.started = false → 1 < l.nd → l.repEnd = none →
      (∀ tt, l.didx ≠ 0 ∨ l.ready.length = l.nd → readEntries s l.asp l.ttb l.ttn = .ok tt →
        ∃ t, exec (.startGen lid l.gen) s = .next t ∧ find? t.launches lid = some { l with
          started := true, startClk := s.clk, timetab := tt, ttskip := (tt.filter (·.isEmpty)).length } ∧
          t.genMax.toNat = max s.genMax.toNat l.gen.toNat ∧ ∀ e ∈ t.cores, e.2.icache = []) ∧
      (∃ t, exec (.abortGen lid l.gen) s = .next t ∧ find? t.launches lid = none ∧
        ∀ q p, l.didx = 0 → l.qp = some q → find? s.queues q = some p → ∃ r, find? t.queues q = some { p with held := p.held ++ [r] } ∧
          r.getD 1 0 = l.sseq ∧ (r.getD 2 0).toNat % 2 ^ 32 = 1 + 2 ^ 8 * 8 + 2 ^ 16 * 0xE0)) ∧
    (∀ g, g ≠ l.gen → exec (.startGen lid g) s = .next s ∧ exec (.abortGen lid g) s = .next s) ∧
    (∀ prec, l.started = true → l.preempted = false → l.preempt = none →
      (∀ k ∈ s.cores, ∀ j ∈ k.2.jobs, ∀ n, j.state ≠ .suspended n) →
      ∃ t, exec (.preemptionRequest lid prec) s = .next t ∧ t = { s with launches := t.launches } ∧
        find? t.launches lid = some { l with preempt := some s.clk, prec := prec % 2 ^ 57 })) ∧
  (∀ (s : State) (l : Launch) (c k : Nat) (tm : Team), find? s.launches s.cur = some l → l.preempt = some c →
    c + min (findD s.policy.deadline l.dclass 94000000) 94000000 ≤ s.clk → s.team? k = some tm → tm.lid = s.cur →
    ∃ t l', exec .preemptionDeadline s = .next t ∧ (∀ n x, t.team? n = some x → x.lid ≠ s.cur) ∧
      find? t.launches s.cur = some l' ∧ l'.killed = true ∧ l.ntrap < l'.ntrap ∧
      (∀ r, l.trec = some r → l'.trec = some r) ∧
      (l.trec = none → ∃ tid index epc, tid < 512 ∧ l'.trec = some (0x12, tid, index, 0, epc, 0))) ∧
  (∀ (s : State) (num lrec : Nat) (asp : AddrSpace) (l : Launch) (tt : List (List DWord)),
    let ident : DWord := BitVec.ofNat 64 (2 ^ 63 + num % 2 ^ 63)
    (∀ r, submitRecord s ident none 0 asp lrec = .refused l r →
      exec (.firmwareLaunchStart num lrec asp) s = .next { s with devFail := [] }) ∧
    (submitRecord s ident none 0 asp lrec = .ok l → l.nd ≤ 1 → l.ident = ident ∧
      ((∀ k, readEntries { s with nextLid := s.nextLid + 1, cores := k } l.asp l.ttb l.ttn = .ok tt) →
      ∃ t, exec (.firmwareLaunchStart num lrec asp) s = .next t ∧ find? t.launches s.nextLid = some { l with
        started := true, startClk := s.clk, timetab := tt, ttskip := (tt.filter (·.isEmpty)).length } ∧
        (∀ e ∈ t.cores, e.2.icache = []) ∧ SameMemory s t))) ∧
  (∀ (s : State) (l : Launch) (team : Nat), find? s.launches s.cur = some l →
    (∀ esc, find? l.saved team = some esc → l.preempt = none ∨ esc = true → ∃ t, exec (.escalatedTeamEnd team true) s = .next t ∧
      find? t.launches s.cur = some { l with
        saved := if l.preempt = none then del l.saved team else put l.saved team false
        ntrap := if esc then l.ntrap + 1 else l.ntrap }) ∧
    (∀ k tm, (teamsOf s s.cur).find? (fun k => (s.team? k).any (fun x => x.index == team && x.escal)) = some k →
      s.team? k = some tm → tm.lid = s.cur → ∃ t l', exec (.escalatedTeamEnd team false) s = .next t ∧ t.team? k = none ∧
        find? t.launches s.cur = some l' ∧ l'.trapped = true ∧ l'.ntrap = l.ntrap + 1 ∧ l'.trec = l.trec)) ∧
  (∀ (s : State) (lid : Nat) (l : Launch) (a : MedAct) (frames : List Nat), find? s.launches lid = some l →
    l.act? a.id = some a → l.acts.filter (fun b => b.id == a.id) = [a] →
    let entry (k : Launch) (b : MedAct) : List DWord := k.timetab.getD b.entry []
    let e := entry l a
    let set (b : MedAct) : List MedAct := l.acts.map (fun x => if x.id = a.id then b else x)
    let waits : Prop := ∃ k ∈ s.launches, ∃ b ∈ k.2.acts,
      (b.fired < a.fired ∨ (b.fired = a.fired ∧ (b.entry < a.entry ∨ (b.entry = a.entry ∧ k.1 < lid)))) ∧
      (b.started = false ∨ (b.done = false ∧ k.2.asp.asn = l.asp.asn ∧
        meets (ttBase (entry k.2 b)) (ttLen (entry k.2 b)) (ttBase e) (ttLen e) = true))
    let goes : Prop := a.worked = false ∧ a.walks = false ∧ (a.started = true ∨ ¬waits)
    (a.worked = false ∨ a.done = true → exec (.medlarActionComplete lid a.id) s = .next { s with stalled := true }) ∧
    (a.worked = true → a.done = false → exec (.medlarActionComplete lid a.id) s =
      .next { s with launches := put s.launches lid { l with acts := set { a with done := true } } }) ∧
    (a.worked = true ∨ a.walks = true ∨ (a.started = false ∧ waits) →
      exec (.medlarActionStart lid a.id frames) s = .next { s with stalled := true }) ∧
    (goes → entryPages s l e = .moving → exec (.medlarActionStart lid a.id frames) s =
      .next { s with launches := put s.launches lid { l with acts := set { a with started := true, walks := true } } }) ∧
    (∀ va, goes → entryPages s l e = .tell va → exec (.medlarActionStart lid a.id frames) s =
      .next { s.tell l.asp va with launches := put s.launches lid { l with acts := set { a with started := true } } }) ∧
    (∀ ps, goes → entryPages s l e = .ok ps →
      let held : Prop := exec (.medlarActionStart lid a.id frames) s = .next (if a.started then { s with stalled := true }
        else { s with launches := put s.launches lid { l with acts := set { a with started := true } } })
      let lines := actionLines s ps (ttBase e) (ttBase e + ttLen e)
      let free : Prop := ∀ ln ∈ lines, ticketHeld s (128 * ln) = false
      let begins (t : State) : Prop := exec (.medlarActionStart lid a.id frames) s = .next t ∧
        find? t.launches lid = some { l with acts := set { a with started := true, worked := true } }
      (ttAct e = 1 ∨ ttAct e = 2 ∨ ttAct e = 3 → ¬free → held) ∧
      (ttAct e = 1 → free → ∃ t, begins t ∧ ∀ ln rest x, lines = ln :: rest → ln ∉ rest → Sorted s.l2 = true →
        find? s.l2 ln = some x →
        (x.pinned ≠ [] ∨ (pinnedLines s ((Config.homeSlice ln).val / 64) + 32 * usedS s ((Config.homeSlice ln).val / 64) < 131072 ∧
          ((l2Peers s ln).filter (fun y => !y.2.pinned.isEmpty)).length + sWays s ln < 4)) →
        find? t.l2 ln = some { x with pinned := x.pinned.erase lid ++ [lid], rc := BitVec.ofNat 2 (ttRc e) }) ∧
      (ttAct e = 2 → free → ∃ t, begins t ∧ ∀ ln ∈ lines, find? t.l2 ln = none ∧
        ∀ x, find? s.l2 ln = some x → x.dirty = true → ∀ i, i < 128 → t.byteAt (128 * ln + i) = (lineByte x.data i).toNat) ∧
      (ttAct e = 3 → free → ∃ t, begins t ∧ SameMemory s t ∧ ∀ ln ∈ lines, ∀ x, find? t.l2 ln = some x → x.dirty = false) ∧
      (ttAct e = 0 ∨ ttAct e = 4 → framesOk s (movers ps (ttAct e == 0)) frames (ttAct e == 0) = false ∨
          (∃ p ∈ movers ps (ttAct e == 0), draining s (p.range l.asp.asn) = true) ∨
          (∃ x ∈ (movers ps (ttAct e == 0)).zip frames, frameBusy s x.1.frame x.1.size = true ∨ frameBusy s x.2 x.1.size = true) →
        held) ∧
      (∀ p f, framesOk s [p] [f] (ttAct e == 0) = true → f % p.size = 0 ∧ (∀ i, i < p.size → Memory.read s.dram (f + i) = 0) ∧
        (∀ ln x, find? s.l2 ln = some x → 128 * ln < f ∨ f + p.size ≤ 128 * ln) ∧
        ∀ u ∈ framesInUse s, meets f p.size u.1 u.2 = false) ∧
      (∀ p f, ttAct e = 0 ∨ ttAct e = 4 → movers ps (ttAct e == 0) = [p] → frames = [f] →
        framesOk s [p] [f] (ttAct e == 0) = true → draining s (p.range l.asp.asn) = false →
        frameBusy s p.frame p.size = false → frameBusy s f p.size = false →
        ∃ t, begins t ∧ homeRead t p.pte 8 = (p.entry.toNat / 2 ^ 58 * 2 ^ 58 + f + p.entry.toNat % 2 ^ 6) % 2 ^ 64 ∧
          (s.MemOk → s.l2 = [] → (∀ k ∈ s.cores, k.2.l1 = []) → ∀ i, i < p.size →
            (∀ j, j < 128 → f + i ≠ p.pte / 128 * 128 + j) → t.byteAt (f + i) = s.byteAt (p.frame + i)))))

/-! The host port. -/

/-- R358, R359, R361 to R363: the host's writes of a queue pair's registers; which windows ignore them; grants; the
entries that are consumed, bad or overrun, refused or resumed; and completion records in host memory. The 39 words of
a record are log 7, what RESUME keeps and the pre-emption record logs 33 and 34, the offset of a refusal log 38, and
the overrun of SQTAIL log 39. -/
def Obligations.HostEvents : Prop :=
  (∀ (s : State) (q : Nat) (p : QueuePair), s.up = true → find? s.queues q = some p →
    let after (i : Instr) (p' : QueuePair) : Prop := ∃ t, exec i s = .next t ∧ t = { s with queues := t.queues } ∧
      find? t.queues q = some p' ∧ ∀ q', q' ≠ q → find? t.queues q' = find? s.queues q'
    let size (v : DWord) : Prop := 3 ≤ v.toNat ∧ v.toNat ≤ 12
    (∀ v, after (.queueStop q v) { p with stop := v }) ∧
    (∀ v, after (.cqheadWrite q v) { p with cqhead := v }) ∧ (∀ v, after (.registerWrite q 0x28 v) { p with cqhead := v }) ∧
    (∀ v (i : Instr), i = .sqtailWrite q v ∨ i = .registerWrite q 0x20 v → after i { p with
      sqtail := v, err := p.err || (p.en && decide (p.lastcons.toNat + 2 ^ p.sqlog.toNat < v.toNat)) }) ∧
    (∀ v : DWord, after (.registerWrite q 0x00 v) (if p.en then p else { p with sqbase := v &&& 0x01FFFFFFFFFFF000 }) ∧
      after (.registerWrite q 0x08 v) (if p.en then p else { p with sqlog := v &&& 0xF }) ∧
      after (.registerWrite q 0x10 v) (if p.en then p else { p with cqbase := v &&& 0x01FFFFFFFFFFF000 }) ∧
      after (.registerWrite q 0x18 v) (if p.en then p else { p with cqlog := v &&& 0xF }) ∧
      after (.registerWrite q 0x30 v) p ∧ after (.registerWrite q 0x38 v) p) ∧
    (∀ v : DWord, p.en = true ∨ v.getLsbD 0 = false → after (.registerWrite q 0x40 v)
      { p with en := v.getLsbD 0, stop := v.getLsbD 1, err := p.err && !v.getLsbD 3 }) ∧
    (∀ v : DWord, p.en = false → v.getLsbD 0 = true → size p.sqlog → size p.cqlog → after (.registerWrite q 0x40 v)
      { p with sqtail := 0, cqhead := 0, lastcons := 0, lastdone := 0, en := true, stop := v.getLsbD 1, err := p.err && !v.getLsbD 3 }) ∧
    (∀ v : DWord, p.en = false → v.getLsbD 0 = true → ¬(size p.sqlog ∧ size p.cqlog) → after (.registerWrite q 0x40 v) p) ∧
    (s.cur = q → after .errClear { p with err := false } ∧ (p.en = true → after .queueEnable p) ∧
      (p.en = false → size p.sqlog → size p.cqlog → after .queueEnable
        { p with sqtail := 0, cqhead := 0, lastcons := 0, lastdone := 0, en := true }))) ∧
  (∀ (s : State) (q off : Nat) (v : DWord) (b : Bool), s.up = false ∨ find? s.queues q = none → hostRegister s q off = 0 ∧
    ∀ i, i = .queueStop q b ∨ i = .sqtailWrite q v ∨ i = .cqheadWrite q v ∨ i = .registerWrite q off v ∨
      (s.cur = q ∧ (i = .queueEnable ∨ i = .errClear)) → exec i s = .next s) ∧
  (∀ (s : State) (q : Nat) (asp : AddrSpace), s.up = true → q < 64 → find? s.queues q = none →
    ∃ t p, exec (.queuePairGrant q asp) s = .next t ∧ t = { s with queues := t.queues } ∧ find? t.queues q = some p ∧
      p.asp = asp ∧ p.en = false ∧ p.stop = false ∧ p.err = false ∧ p.sqbase = 0 ∧ p.sqlog = 0 ∧ p.cqbase = 0 ∧ p.cqlog = 0 ∧
      p.sqtail = 0 ∧ p.cqhead = 0 ∧ p.lastcons = 0 ∧ p.lastdone = 0) ∧
  (∀ (s : State) (p : QueuePair), s.up = true → find? s.queues s.cur = some p →
    let n := p.lastcons + 1
    let w (i : Nat) : Nat := Memory.readN s.hostMem (p.sqbase.toNat + 64 * (n.toNat % 2 ^ p.sqlog.toNat) + 8 * i) 8
    let good : Prop := w 0 = n.toNat ∧ w 1 < 2 ^ 57 ∧ w 2 < 2 ∧ w 3 < 2 ^ 57 ∧ w 4 = 0 ∧ w 5 = 0 ∧ w 6 = 0 ∧ w 7 = 0
    let ready : Prop := p.en = true ∧ p.stop = false ∧ p.err = false ∧ p.lastcons.toNat < p.sqtail.toNat
    let fits : Prop := p.sqtail.toNat ≤ p.lastcons.toNat + 2 ^ p.sqlog.toNat
    let refused (t : State) (code off : Nat) : Prop := ∃ r, find? t.queues s.cur = some { p with lastcons := n, held := p.held ++ [r] } ∧
      r.getD 1 0 = n ∧ (r.getD 2 0).toNat % 2 ^ 32 = 1 + 2 ^ 8 * (code % 2 ^ 8) + 2 ^ 16 * (off % 2 ^ 16) ∧ r.getD 3 0 = 0
    let ident : DWord := BitVec.ofNat 64 (2 ^ 57 * s.cur + n.toNat % 2 ^ 57)
    (¬ready → exec .submissionConsume s = .next { s with stalled := true }) ∧
    (ready → ¬(fits ∧ good) → ∃ t, exec .submissionConsume s = .next t ∧ t = { s with queues := t.queues } ∧
      find? t.queues s.cur = some { p with err := true }) ∧
    (ready → fits → good → w 2 = 1 → ∀ l0 : Launch, l0.qp = some s.cur → l0.sseq = n → l0.ttskip = 0 →
      let passes : Prop := submitRecord s ident (some s.cur) n p.asp (w 1) = .ok l0 ∨
        ∃ off, submitRecord s ident (some s.cur) n p.asp (w 1) = .refused l0 ⟨9, off⟩
      (∀ r, submitRecord s ident (some s.cur) n p.asp (w 1) = .refused l0 r → r.code ≠ 9 → r.code < 2 ^ 8 → r.off < 2 ^ 16 →
        ∃ t, exec .submissionConsume s = .next t ∧ refused t r.code r.off ∧ t.launches = s.launches) ∧
      (∀ s', passes → devWords s p.asp (w 3) 1 = .wait s' → exec .submissionConsume s = .next s') ∧
      (passes → (∃ c a, devWords s p.asp (w 3) 1 = .bad c a) ∨ ((∃ ws, devWords s p.asp (w 3) 1 = .ok ws) ∧
          ∀ e ∈ s.launches, e.2.preempted = true → e.2.prec = w 3 → e.2.asp ≠ p.asp) →
        ∃ t, exec .submissionConsume s = .next t ∧ refused t 10 0 ∧ t.launches = s.launches) ∧
      (∀ k l ws, passes → devWords s p.asp (w 3) 1 = .ok ws → s.launches.find? (fun e => e.2.preempted && e.2.prec == w 3 && e.2.asp == p.asp) = some (k, l) →
        ∃ t, exec .submissionConsume s = .next t ∧ find? t.queues s.cur = some { p with lastcons := n } ∧
          find? t.launches k = some { l with qp := some s.cur, sseq := n, preempt := none, preempted := false, killed := false
                                             trapped := false, anySaved := false, trec := none, ntrap := 0 })) ∧
    (ready → fits → good → w 2 = 0 →
      (∀ l r, submitRecord s ident (some s.cur) n p.asp (w 1) = .refused l r → r.code < 2 ^ 8 → r.off < 2 ^ 16 → l.qp = some s.cur →
        l.sseq = n → l.ttskip = 0 → ∃ t, exec .submissionConsume s = .next t ∧ refused t r.code r.off ∧ t.launches = s.launches) ∧
      (∀ l tt, submitRecord s ident (some s.cur) n p.asp (w 1) = .ok l → l.nd ≤ 1 →
        (∀ k, readEntries { s with nextLid := s.nextLid + 1, cores := k } l.asp l.ttb l.ttn = .ok tt) →
        ∃ t, exec .submissionConsume s = .next t ∧ find? t.queues s.cur = some { p with lastcons := n } ∧
          find? t.launches s.nextLid = some { l with
            started := true, startClk := s.clk, timetab := tt, ttskip := (tt.filter (·.isEmpty)).length } ∧ l.ident = ident) ∧
      (∀ l, submitRecord s ident (some s.cur) n p.asp (w 1) = .ok l → 1 < l.nd →
        ∃ t, exec .submissionConsume s = .next t ∧ find? t.queues s.cur = some { p with lastcons := n } ∧
          find? t.launches s.nextLid = some { l with
            ready := [0], repEnd := some (s.clk + min (findD s.policy.deadline l.dclass 94000000) 94000000) } ∧
          t.msgs = s.msgs ++ [(4, s.nextLid, l.gen)]))) ∧
  (∀ (s : State) (p : QueuePair) (r : List DWord) (rs : List (List DWord)), find? s.queues s.cur = some p → p.held = r :: rs →
    let n := p.lastdone + 1
    let a := p.cqbase.toNat + 128 * (n.toNat % 2 ^ p.cqlog.toNat)
    (p.cqhead.toNat + 2 ^ p.cqlog.toNat < n.toNat → exec .completionRecordWrite s = .next { s with stalled := true }) ∧
    (n.toNat ≤ p.cqhead.toNat + 2 ^ p.cqlog.toNat → r.length = 16 → ∃ t, exec .completionRecordWrite s = .next t ∧
      t = { s with hostMem := t.hostMem, queues := t.queues } ∧
      find? t.queues s.cur = some { p with held := rs, lastdone := n, msix := p.msix + 1 } ∧
      Memory.readN t.hostMem a 8 = n.toNat ∧
      (∀ i, 0 < i → i < 16 → Memory.readN t.hostMem (a + 8 * i) 8 = (r.getD i 0).toNat) ∧
      ∀ b, b < a ∨ a + 128 ≤ b → Memory.read t.hostMem b = Memory.read s.hostMem b)) ∧
  (∀ (s : State) (ident sseq : DWord) (qp : Option Nat) (asp : AddrSpace) (lrec : Nat),
    (lrec % 64 ≠ 0 → ∃ l, submitRecord s ident qp sseq asp lrec = .refused l ⟨10, 0⟩) ∧
    ∀ ws, lrec % 64 = 0 → devWords s asp lrec 39 = .ok ws →
      let l := Launch.ofRecord ident qp sseq asp ws
      let refusedAs (c : Nat) : Prop := ∃ off, submitRecord s ident qp sseq asp lrec = .refused l ⟨c, off⟩
      let bad1 : Prop := bits (l.word 0) 0 8 ≠ 1 ∨ ∃ k, k < 39 ∧ l.word (8 * k) &&& ~~~recordMask (8 * k) ≠ 0
      let bad2 : Prop := l.ngrp = 0 ∨ 16 < l.ngrp ∨ l.ngrp < l.nprod ∨ l.nteam = 0 ∨ 96 < l.nbar ∨ l.depthLimit = 0 ∨ 16 < l.npre ∨
        2048 < l.lease0 ∨ 1024 < l.ng ∨ 8 < l.nstg ∨ l.nd = 0 ∨ 64 < l.nd
      let bad3 : Prop := l.entry.toNat % 8 ≠ 0 ∨ l.csb % 8 ≠ 0 ∨ l.gtb % 16 ≠ 0 ∨ l.wqb % 8 ≠ 0 ∨ l.stb % 8 ≠ 0 ∨
        l.tvec.toNat % 8 ≠ 0 ∨ (l.ng ≠ 0 ∧ l.fxb % 4096 ≠ 0)
      let bad4 : Prop := 16 < l.budget false ∨ 16 < l.budget true
      let bad5 : Prop := ∃ r, l.planBad r ≠ none
      let bad6 : Prop := ∃ k, k < 8 ∧ slotRefused (l.fs k) = true
      (bad1 → refusedAs 1) ∧ (¬bad1 → bad2 → refusedAs 2) ∧ (¬bad1 → ¬bad2 → bad3 → refusedAs 3) ∧
      (¬bad1 → ¬bad2 → ¬bad3 → bad4 → refusedAs 4) ∧ (¬bad1 → ¬bad2 → ¬bad3 → ¬bad4 → bad5 → refusedAs 5) ∧
      (¬bad1 → ¬bad2 → ¬bad3 → ¬bad4 → ¬bad5 → bad6 → refusedAs 6) ∧
      (¬bad1 → ¬bad2 → ¬bad3 → ¬bad4 → ¬bad5 → ¬bad6 → ∀ st, devWords s asp l.stb l.nstg = .ok st →
        ((∃ d ∈ st, bits d 1 4 = 0 ∨ 12 < bits d 1 4 ∨ bits d 7 2 = 0 ∨ bits d 5 2 = 0 ∨ 2 ^ 9 ≤ d.toNat) →
          submitRecord s ident qp sseq asp lrec = .refused l ⟨7, 0xB0⟩) ∧
        ((∀ d ∈ st, stageRefused d = false) → l.nd = 1 →
          submitRecord s ident qp sseq asp lrec = .ok { l with stages := st })))

/-! The window and the places. -/

/-- R62, R66, R107, R108, R111, R112, R114, R115, R118, R327, R346: operand sends and execute commands at their
places, in sequence order there, a waiting `xacq` among them, and a unit with a memory destination done with its last
send; the commit of the oldest unit; the rollback that makes a trapping thread precise, and the delivery of a pending
trap; starvation and the end of a yield exclusion. A unit that executes at the lane asks for its far sources before it
acts (R71, R107). -/
def Obligations.WindowEvents : Prop :=
  (∀ (s : State) (t : Nat) (e : Env), s.env t = some e →
    let th := e.th
    let clear (seq : Nat) (p : Site) : Prop := (∀ v ∈ th.window, v.seq < seq → v.trap = none →
      (∀ r ∈ v.sends, (siteOf s e v.before r).same p = false) ∧ (v.cmd ≠ none → (homeOf s e v).same p = false) ∧
      ∀ a ∈ th.accs, a.seq = v.seq → a.kind.isLoad = true → ∀ r ∈ a.kind.regs, (siteOf s e v.before r).same p = false) ∧
      (p.1 = .lane → th.xreq ≠ none → ∀ v ∈ th.window, seq ≤ v.seq)
    (∀ rs r, th.unit? th.nextSeq = none → th.arriving = some rs → r ∈ rs → exec (.operandSend t th.nextSeq r) s = .next (
      if clear th.nextSeq (siteOf s e th.ctx r) then s.setThread t { th with arriving := some (rs.erase r) }
      else { s with stalled := true })) ∧
    ∀ u : WUnit, th.unit? u.seq = some u → u.trap = none →
    (∀ r, r ∈ u.sends → clear u.seq (siteOf s e u.before r) →
      ∃ th', exec (.operandSend t u.seq r) s = .next (s.setThread t th') ∧
      th' = { th with window := th'.window } ∧ th'.unit? u.seq = some { u with
        sends := u.sends.erase r, done := u.done || ((u.sends.erase r).isEmpty && (match u.act with | .access _ => true | _ => false)) }) ∧
    (∀ r, r ∈ u.sends → ¬clear u.seq (siteOf s e u.before r) →
      exec (.operandSend t u.seq r) s = .next { s with stalled := true }) ∧
    (∀ o err, u.cmd = some o → u.sends ≠ [] ∨ ¬clear u.seq (homeOf s e u) →
      exec (.executeCommand t u.seq err) s = .next { s with stalled := true }) ∧
    (∀ o, u.cmd = some o → u.sends = [] → clear u.seq (homeOf s e u) → o.trap = none →
      ∃ th', exec (.executeCommand t u.seq false) s = .next (s.setThread t th') ∧
        th' = { th with regs := th'.regs, ctx := { th.ctx with fwd := th'.ctx.fwd }, window := th'.window } ∧
        (∀ r, th'.stored r = if u.kbit then th.stored r else (lastWrite o.writes r).getD (th.stored r)) ∧
        (∀ r v, lastWrite o.writes r = some v → u.kbit = false ∨ th.nextSeq - u.seq ≤ 7 → th'.read r = v) ∧
        th'.unit? u.seq = some { u with
          cmd := none, pend := [], done := true, fps := o.fps, act := o.act
          undo := if u.kbit then [] else o.writes.map (fun w => (w.1, th.stored w.1)) }) ∧
    (∀ o ti, u.cmd = some o → u.sends = [] → clear u.seq (homeOf s e u) → o.trap = some ti →
      exec (.executeCommand t u.seq false) s = .next (trapUnit s t u.seq ti)) ∧
    (∀ o r rs k pa va, u.cmd = some o → u.sends = [] → clear u.seq (homeOf s e u) → u.pend = r :: rs → u.before.place r = .bank k →
      bankOfUnit s e u = some (pa, va) → va = u.before.backing k (blockOf r) ∧
      ∃ s1, s1 = { s with errlog := s1.errlog, free := s1.free } ∧ exec (.executeCommand t u.seq true) s =
        .next (trapUnit s1 t u.seq (trapOf 0x0F (va % 2 ^ 57 / 1024 * 1024 + 5 * 2 ^ 57))))) ∧
  (∀ a b : Site, a.same b = true ↔ a.1 = b.1 ∨ (a.2 ≠ none ∧ a.2 = b.2)) ∧
  (∀ (s : State) (th : Thread) (u : WUnit) (us : List WUnit), s.thread? s.cur = some th → th.window = u :: us →
    let past (th : Thread) : Thread := { th with window := us, fps := th.fps ||| u.fps.setWidth 32 }
    (u.trap = none → u.act = .none → u.done = true → exec .unitCommit s = .next (s.setThread s.cur (past th))) ∧
    (u.trap = none → (∀ o, u.act ≠ .rel o) → u.act ≠ .exit → u.done = false →
      exec .unitCommit s = .next { s with stalled := true }) ∧
    (u.trap = none → (∀ o, u.act ≠ .rel o) → (∀ id, u.act ≠ .access id) → u.act ≠ .exit → u.done = true →
      exec .unitCommit s = .next (commitAct (s.setThread s.cur (past th)) s.cur u.act)) ∧
    (∀ e, u.trap = none → u.act = .exit → s.env s.cur = some e →
      (∀ x, spillChecks s e (List.range 32) = .ok x → spillsWait s s.cur = false →
        exec .unitCommit s = .next (exitThread (s.setThread s.cur (past th)) s.cur)) ∧
      (∀ ti, spillChecks s e (List.range 32) = .trap ti → exec .unitCommit s = .next (trapUnit s s.cur u.seq ti))) ∧
    (∀ id, u.trap = none → u.act = .access id → u.done = true → ∃ th', exec .unitCommit s = .next (s.setThread s.cur th') ∧
      th' = { past th with accs := th'.accs } ∧ (∀ a ∈ th'.accs, a.id = id → a.commit = true) ∧
      ∀ a ∈ th.accs, { a with commit := a.commit || decide (a.id = id) } ∈ th'.accs) ∧
    (∀ ids, u.trap = none → u.act = .rel (some ids) → (∀ p ∈ s.pubs, p.id ∉ ids) →
      exec .unitCommit s = .next (s.setThread s.cur (past th))) ∧
    (u.trap = none → u.act = .rel none → (∃ a ∈ th.accs, a.seq < u.seq) → exec .unitCommit s = .next { s with stalled := true }) ∧
    (∀ s1 ids, u.trap = none → u.act = .rel none → (∀ a ∈ th.accs, u.seq ≤ a.seq) → release s (tCore s.cur) = (s1, ids) →
      exec .unitCommit s = .next (s1.setThread s.cur
        (if ids = [] then past th else { th with window := { u with act := .rel (some ids) } :: us }))) ∧
    (∀ ti, u.trap = some ti → exec .unitCommit s = .next { s with stalled := true }) ∧
    (∀ ti th, u.trap = some ti → (∀ v ∈ us, u.seq ≤ v.seq) →
      let core := tCore s.cur
      let s1 := ((s.core core).jobs.filter (fun j => j.thread == s.cur && j.seq != 0 && decide (u.seq ≤ j.seq))).foldl
        (fun s j => dropJob s core j) s
      s1.thread? s.cur = some th → th.window = u :: us →
      ∃ th', th'.window = [] ∧ th'.ctx = { u.before with fwd := th'.ctx.fwd } ∧ th'.arriving = none ∧ th'.xreq = none ∧
      (∀ a, a ∈ th'.accs ↔ a ∈ th.accs ∧ a.seq < u.seq) ∧
      (∀ f, th'.flag f = th.flag f - (th.accs.filter (fun a => u.seq ≤ a.seq && a.flag == some f)).length) ∧
      (∀ r a v b w, u :: us = a ++ v :: b → (∀ x ∈ a, ∀ y ∈ x.undo, y.1 ≠ r) → lastWrite v.undo r = some w → th'.stored r = w) ∧
      (∀ r, (∀ x ∈ u :: us, ∀ y ∈ x.undo, y.1 ≠ r) → th'.stored r = th.stored r) ∧
      exec .trapRollback s = .next (takeTrap (s1.setThread s.cur th') s.cur ti))) ∧
  (∀ (s : State) (e : Env) (ti : TrapInfo), s.env s.cur = some e → e.th.window = [] → e.th.pendTrap = some ti →
    e.tm.halted = true → e.tm.trapTid = some (tTid s.cur) → e.th.inh = false → e.tm.escal = false →
    exec .trapRollback s = .next (deliverTrap (s.setThread s.cur { e.th with pendTrap := none }) s.cur ti)) ∧
  (∀ (s : State) (th : Thread), s.thread? s.cur = some th →
    (exec .starvation s = .next (if 4096 ≤ th.age ∧ th.starved = none then s.setThread s.cur { th with starved := some s.clk }
      else { s with stalled := true })) ∧
    (∀ c, th.yieldEnd = some c → exec .yieldExclusionEnd s = .next (if c ≤ s.clk then s.setThread s.cur { th with yieldEnd := none }
      else { s with stalled := true }))) ∧
  (∀ (s : State) (t : Nat) (tm : Team), s.team? (teamKey t) = some tm →
    (∀ f b, commitAct s t (.status f b) = s.setTeam (teamKey t)
      { tm with status := putD 0 tm.status f (findD tm.status f 0 ||| BitVec.ofNat 32 b) }) ∧
    (∀ g v, g < 16 → ∃ x, commitAct s t (.guard g v) = s.setTeam (teamKey t) x ∧ x = { tm with guards := x.guards } ∧
      ∀ n, n < 16 → x.guard n = if n = g then v else tm.guard n) ∧
    (∀ b n, commitAct s t (.bari b n) = s.setTeam (teamKey t)
      { tm with bars := put tm.bars b ⟨n, 0, (tm.bar b).phase⟩ }) ∧
    (∀ n, commitAct s t (.lease n) = s.setCore (tCore t) { s.core (tCore t) with
      leases := adjust (s.core (tCore t)).leases (gKey t) (fun l =>
        if n = 0 then { l with measured := true } else { l with measured := false, lines := n }) }) ∧
    commitAct s t .unlock = releaseLock s t ∧ SameMemory s (commitAct s t .slots)) ∧
  (∀ c cc (w64 fp : Bool) xd xa off (an gd sr : BitVec 8),
    Asks (.brc c cc w64 xd xa off) {} c (if w64 then [xd, xd + 1, xa, xa + 1] else [xd, xa]) [] ∧
    Asks (.jmp c xa) {} c [xa, xa + 1] [] ∧ Asks (.callr c xa) {} c [xa, xa + 1] [] ∧ Asks (.repack c xa) .queued c [xa] [] ∧
    Asks (.anch c an xa) .queued c [xa, xa + 1] [] ∧ Asks (.gset c cc fp gd xd xa) .queued c [xd, xa] [] ∧
    Asks (.gres c gd xa) .queued c [xa] [] ∧
    Asks (.wrs c sr xa) { settled := sr == 0x10 || sr == 0x11 || sr == 0x2A, lane := false } c
      (if wideSpecial sr then [xa, xa + 1] else [xa]) [])

/-! Device services. -/

/-- R8, R11, R222, R258, R356, R357, R364 to R370, R372: bring-up opens the windows of the queue pairs that a signed
configuration record lists, with whatever its self-tests find, and takes its policy, each time rounded up to a whole
clk, and the digest of the running firmware; recovery; attestation; the limiter, at the end of a window of 10 us;
ports; a flit error changes nothing; and what a device reset leaves, where what it keeps is the model's choice (log
12). That signatures, images and the policy come with the events, and that a report is the nonce and two digests, is
log 56. -/
def Obligations.DeviceEvents : Prop :=
  (∀ (s : State) (signed : Bool) (digest : BitVec 256) (conf : ConfigRecord),
    let up (ns clk : Nat) : Prop := 940 * ns ≤ 1000 * clk ∧ 1000 * clk < 940 * ns + 1000
    (s.up = true ∨ s.recovery = true → exec (.powerOn signed ⟨digest, conf⟩) s = .next { s with stalled := true }) ∧
    (s.up = false → s.recovery = false → signed = false ∨ conf.signed = false →
      exec (.powerOn signed ⟨digest, conf⟩) s = .next { s with recovery := true }) ∧
    (s.up = false → s.recovery = false → signed = true → conf.signed = true →
      ∃ t, exec (.powerOn signed ⟨digest, conf⟩) s = .next t ∧
        t = { s with up := true, config := conf, fwDigest := digest, policy := t.policy, powerAt := s.clk
                     queues := t.queues, cores := t.cores, badBanks := t.badBanks, free := t.free } ∧
        t.policy.prio = conf.policy.prio ∧ t.policy.plim = conf.policy.plim ∧
        up conf.policy.pri t.policy.pri ∧ up conf.policy.remote t.policy.remote ∧
        (∀ c ns, find? conf.policy.deadline c = some ns → ∃ clk, find? t.policy.deadline c = some clk ∧ up ns clk) ∧
        (∀ q, (find? t.queues q).isSome = true ↔ q < 64 ∧ ∃ a, (q, a) ∈ conf.queues) ∧
        (∀ c, c < 256 → c ∈ conf.cores → conf.dies.getLsbD (c / 64) = true →
          t.core c = { s.core c with fenced := (t.core c).fenced }) ∧
        (∀ c, c ∉ conf.cores ∨ conf.dies.getLsbD (c / 64) = false → t.core c = s.core c) ∧ ∀ b ∈ t.badBanks, b < 8192)) ∧
  (∀ (s : State) (d : BitVec 256), s.recovery = true →
    exec (.recoveryFirmwareLoad true d) s = .next { s with recovery := false, fwDigest := d } ∧
    exec (.recoveryFirmwareLoad false d) s = .next s) ∧
  (∀ (s : State) (nonce : BitVec 256), s.up = true →
    exec (.attestationReport nonce) s = .next { s with attest := s.attest ++ [(nonce, s.fwDigest, s.config.digest)] }) ∧
  (∀ (s : State) (w : Nat),
    (s.clk < s.powerAt + 9400 → exec (.powerWindow w) s = .next { s with stalled := true }) ∧
    (s.powerAt + 9400 ≤ s.clk → exec (.powerWindow w) s =
      .next { s with throttle := decide (min s.policy.plim 1600 < w), powerAt := s.clk })) ∧
  (∀ (s : State) (d : Nat) (hot : Bool), d < 4 → ∃ t, exec (.temperatureLimit d hot) s = .next t ∧ t = { s with hotDies := t.hotDies } ∧
    ∀ i, i < 4 → t.hotDies.getLsbD i = if i = d then hot else s.hotDies.getLsbD i) ∧
  (∀ s : State, s.cur < 24 → ∃ t, exec .portDown s = .next t ∧ t = { s with ports := t.ports } ∧
    ∀ i, i < 24 → t.ports.getLsbD i = (s.ports.getLsbD i && decide (i ≠ s.cur))) ∧
  (∀ s : State, exec .flitError s = .next s) ∧
  (∀ s : State, ∃ t, exec .deviceReset s = .next t ∧ t.genMax = 0 ∧ t.badBanks = [] ∧ t.threads = [] ∧
    (∀ c, t.core c = { Core.reset with fenced := (s.core c).fenced }) ∧
    t.launches = [] ∧ t.dram = s.dram ∧ t.hostMem = s.hostMem ∧ t.remote = s.remote ∧ t.config = s.config ∧
    ∀ q p, find? s.queues q = some p → ∃ p', find? t.queues q = some p' ∧ p'.asp = p.asp ∧ p'.en = false ∧ p'.stop = false ∧
      p'.err = false ∧ p'.sqbase = 0 ∧ p'.sqlog = 0 ∧ p'.cqbase = 0 ∧ p'.cqlog = 0 ∧ p'.sqtail = 0 ∧ p'.cqhead = 0 ∧
      p'.lastcons = 0 ∧ p'.lastdone = 0)

/-! Steps and selection. -/

/-- R16, R26, R32 to R34, R37, R63: a thread whose turn it is runs the unit that stands at its PC: the instruction
whose words, or the pair or header whose word, the fetch gives; a word that is no instruction traps with its reason. A
choice of the agenda that names an event runs it, and one that names an event that comes about by itself runs it if it
can. A clk ends where no line is overdue (R292) and no lease unit has something due (R270, R272, R273): the requests
to other modules that are on their way leave in it (R371), and lines whose count has run out go (R265). The choices of
the agenda are log 1, and that a remote request leaves at the end of the clk in which nothing holds it back is log 25.
-/
def Obligations.StepRunsDecoded : Prop :=
  (∀ (s : State) (t : Nat) (ts : List Nat) (e0 e : Env) (s1 s2 : State) (w : DWord), s.issueQ = t :: ts →
    let s0 : State := { s with issueQ := ts, cur := t, stalled := false, pair := none }
    let takes : Prop := e0.th.window.length < 8 ∧ e0.th.param = none ∧ e0.th.awaited = false ∧ ∀ u ∈ e0.th.window, u.act ≠ .exit
    s0.env t = some e0 → e0.th.exited = false → (∀ u ∈ e0.th.window, u.trap = none) →
    (e0.th.wait = .none ∨ (∃ b l, e0.th.wait = .fence b l) ∨ ∃ n, e0.th.wait = .flush n) →
    (e0.th.pendTrap = none ∨ e0.th.inh = true) →
    ((e0.th.stale = false ∧ e = e0 ∧ s1 = s0) ∨ ∃ cl left, e0.th.stale = true ∧ clauseAt s0 e0 e0.th.ctx.pc = .found cl left ∧
      e = { e0 with th := e0.th.atClause cl left } ∧ s1 = s0.setThread t e.th) →
    let c := e.th.ctx
    fetchWord s1 e c.pc = .ok s2 w →
    (∀ i, WellFormed i → encode i = [w] → (∀ h, i ≠ .clauseHeader h) → c.crem ≠ 0 → structureOk c i 1 = true →
      step s = exec i s2) ∧
    (∀ i s3 w2, WellFormed i → encode i = [w, w2] → 2 ≤ c.crem → structureOk c i 2 = true →
      fetchWord s2 e (c.pc + 8) = .ok s3 w2 → step s = exec i s3) ∧
    (∀ h : Header, h.wf = true → w = h.pack → step s = exec (.clauseHeader h) s2) ∧
    (∀ i0 i1, WellFormed i0 → WellFormed i1 → pairDestsOk i0 i1 = true → encodePair i0 i1 = some w → c.crem ≠ 0 →
      step s = match exec i0 s2 with
        | .next s3 => if s3.pair.isSome then exec i1 s3 else .next s3
        | r => r) ∧
    (∀ err, w.toNat / 2 ^ 62 = 0 → decodeWord w none = .error err → err.reason < 6 → takes →
      step s = .next (raiseTrap s0 t ⟨0x01, BitVec.ofNat 8 err.reason, 0, false, 0, 0⟩)) ∧
    (w.toNat / 2 ^ 62 = 2 → decodeHeader w = none → c.crem = 0 → takes →
      step s = .next (raiseTrap s0 t ⟨0x01, 5, 0, false, 0, 0⟩)) ∧
    (∀ i, WellFormed i → encode i = [w] → (∀ h, i ≠ .clauseHeader h) → c.crem = 0 ∨ structureOk c i 1 = false → takes →
      step s = .next (raiseTrap s0 t ⟨0x01, 6, 0, false, 0, 0⟩))) ∧
  (∀ (s : State) (subject : Nat) (i : Instr) (ms : List Move), s.issueQ = [] → s.agenda = .ev subject i :: ms →
    step s = exec i { s with agenda := ms, cur := subject, stalled := false, pair := none }) ∧
  (∀ (s : State) (subject : Nat) (i : Instr) (ms : List Move), s.issueQ = [] → s.agenda = .due subject i :: ms →
    let s0 : State := { s with agenda := ms, stalled := false, pair := none }
    (∀ t, exec i { s0 with cur := subject } = .next t → step s = .next (if t.stalled then s0 else t)) ∧
    ((∀ t, exec i { s0 with cur := subject } ≠ .next t) → step s = .next s0)) ∧
  (∀ (s : State) (ms : List Move), s.issueQ = [] → s.agenda = .tick :: ms →
    let s0 : State := { s with stalled := false, pair := none, agenda := ms }
    (lineOverdue s0 = true ∨ (∃ k ∈ s0.cores, leaseDue s0 k.2 = true) → step s = .next s0) ∧
    (lineOverdue s0 = false → (∀ k ∈ s0.cores, leaseDue s0 k.2 = false) → ∃ t, step s = .next t ∧ t.clk = s.clk + 1 ∧ t.issued = [] ∧ t.agenda = ms ∧ SameMemory s t ∧
      (∀ u e, s0.env u = some e → t.thread? u = some { e.th with
        accs := e.th.accs.map (fun a => if a.sent = none ∧ a.onWay e = true then { a with sent := some s.clk } else a) }) ∧
      ∀ c ln l, find? (t.core c).l1 ln = some l → find? (s.core c).l1 ln ≠ none ∧ l.drop = false))

/-- R60 to R62, R66, R367: the issue set of a cluster holds ready threads of it, at most one in a lane, all at one PC
and DEPTH; it is empty only where no thread is ready or the limiter withholds it. Where no thread is starved, no ready
thread has a higher key, and the set holds one of the greatest Age at its key; every lane with a ready thread that
fits has one. A selected thread's Age is 0; a ready one that was not selected ages; a set without a thread ends its
exclusion, and the guard that a thread's next unit reads is one that is not Open (R198). The clusters of a clk form
their sets in ascending order, and an issue set acts in ascending LANE, one at `xacq` the lower group slot first
(R117). That the clusters of a clk form their sets in ascending order and that a set acts in ascending LANE beyond
what R252 and R406 order is the model's choice (log 1). -/
def Obligations.IssueSets : Prop :=
  ∀ (s : State) (core cl : Nat) (ms : List Move), s.issueQ = [] → s.agenda = .issue core cl :: ms →
    let s0 : State := { s with stalled := false, pair := none, agenda := ms }
    let s1 := (clusterThreads s0 core cl).foldl comeUp s0
    let may (u : Nat) (c : Cand) : Prop := u ∈ clusterThreads s0 core cl ∧ ready s1 u = true ∧ candOf s1 u = some c
    let low (u : Nat) : Bool := (slotOf (s1.core core) (gKey u)).getD 0 % 2 == 0
    let locks (t : State) : Prop := ∃ u e s2 c n, t.issueSet.head? = some u ∧ t.env u = some e ∧
      nextUnit { t with issueQ := s1.issueQ, issueSet := s1.issueSet, issued := s1.issued } e = .run s2 (.one (.xacq c) n)
    ((core, cl) ∈ s.issued ∨ (∃ x ∈ s.issued, cl < x.2) → step s = .next s0) ∧
    ((core, cl) ∉ s.issued → (∀ x ∈ s.issued, x.2 ≤ cl) →
    ∃ t, step s = .next t ∧ t.issued = s1.issued ++ [(core, cl)] ∧ SameMemory s1 t ∧
      (locks t → t.issueQ = t.issueSet.filter low ++ t.issueSet.filter (fun u => !low u)) ∧ (¬locks t → t.issueQ = t.issueSet) ∧
      (withheld s1 core = true → t.issueSet = []) ∧
      (∀ u ∈ t.issueSet, ∃ c, may u c) ∧ t.issueSet.Pairwise (fun a b => tLane a < tLane b) ∧
      (withheld s1 core = false → (∃ u c, may u c) → ∃ r cr, r ∈ t.issueSet ∧ may r cr ∧
        (∀ u ∈ t.issueSet, ∀ c, may u c → c.pc = cr.pc ∧ c.depth = cr.depth ∧ c.dest = cr.dest) ∧
        (∀ u c, may u c → c.pc = cr.pc → c.depth = cr.depth → c.dest = cr.dest → ∃ v ∈ t.issueSet, tLane v = tLane u) ∧
        ((∃ u c, may u c ∧ c.starved ≠ none) → ∃ x, cr.starved = some x ∧ ∀ u c y, may u c → c.starved = some y → x ≤ y) ∧
        ((∀ u c, may u c → c.starved = none) → ∀ u c, may u c → c.depth < cr.depth ∨ (c.depth = cr.depth ∧ cr.pc < c.pc) ∨
          (c.depth = cr.depth ∧ c.pc = cr.pc ∧ c.age ≤ cr.age))) ∧
      (∀ u, u ∉ clusterThreads s0 core cl → t.thread? u = s1.thread? u) ∧
      (Sorted s1.threads = true → ∀ u th, u ∈ clusterThreads s0 core cl → s1.thread? u = some th →
        ∃ g, t.thread? u = some { th with
            age := if u ∈ t.issueSet then 0 else if ready s1 u = true then th.age + 1 else th.age
            starved := if u ∈ t.issueSet then none else th.starved
            yieldEnd := if t.issueSet = [] ∨ u ∈ t.issueSet then th.yieldEnd else none, gread := g } ∧
          (g = th.gread ∨ (th.gread = none ∧ ∃ e n, s1.env u = some e ∧ n < 16 ∧ n ≠ 0 ∧ e.guard n ≠ 2 ∧
            g = some (e.guard n == 1))))) ∧
    (∀ (x : State) (u : Nat) (e : Env), x.env u = some e → x.stalled = false → x.pair = none → e.th.stale = false →
      (e.th.window = [] → e.mayIssue x.clk = false ∨ e.th.ctx.crem ≠ 0 → comeUp x u = x) ∧
      (e.th.window = [] → e.mayIssue x.clk = true → e.th.ctx.crem = 0 → comeUp x u =
        match runThread x u with | .next y => if y.stalled then x else y | _ => x) ∧
      (∀ y, commitHead x u = some y → commitHead y u = none → comeUp x u = comeUp y u))

/-! Encodings. -/

/-- R16, R17, R25, R29, R33: decoding the words of a well-formed instruction, a well-formed header or a legal pair
gives it back, and leaves the bytes after it; a word that decodes is the word of a well-formed instruction, except
that `tinv` of a whole address space ignores its A field (R336). -/
def Obligations.RoundTrip : Prop :=
  (∀ (i : Instr) (rest : List Byte), WellFormed i → i.toFields ≠ none →
    decode (bytesOfWords (encode i) ++ rest) = .ok (.one i (encode i).length, rest)) ∧
  (∀ (h : Header) (rest : List Byte), h.wf = true → decode (bytesOfWords (encode (.clauseHeader h)) ++ rest) = .ok (.header h, rest)) ∧
  (∀ (i0 i1 : Instr) (w : DWord) (rest : List Byte), WellFormed i0 → WellFormed i1 → pairDestsOk i0 i1 = true →
    encodePair i0 i1 = some w → decode (bytesOfWords [w] ++ rest) = .ok (.pair i0 i1, rest)) ∧
  (∀ (w : DWord) (next : Option DWord) (i : Instr) (n : Nat), decodeWord w next = .ok (.one i n) → WellFormed i ∧
    ((∀ c xb, i ≠ .tinvUnmapAll c xb) → (n = 1 → encode i = [w]) ∧ (n = 2 → ∃ w2, next = some w2 ∧ encode i = [w, w2])))

/-- R16, R17, R25, R29, R33, R37: words of the spec's programs and the instructions that it writes beside them, and
words that are none with their reason. -/
def Obligations.DecodedWords : Prop :=
  let c : Ctl := Ctl.zero
  let k : Ctl := { c with k := true }
  let one (w : DWord) (i : Instr) : Prop := decodeWord w none = .ok (.one i 1)
  let bad (w : DWord) (reason : Nat) : Prop := ∃ i, decodeWord w none = .error ⟨reason, i⟩
  decodeWord 0x8004001480020000 none = .ok (.header ⟨1, none, none, 5, false, false, some 1⟩) ∧
  decodeWord 0x8000000A00000000 none = .ok (.header ⟨0, none, none, 2, true, false, none⟩) ∧
  one 0x0801028140000800 (.add k 4 10 (.reg 5)) ∧ one 0x2402808000000004 (.ld c 4 10 2 (.c8 0)) ∧
  decodeWord 0xC000000012345678 (some 0x0F41400000000800) = .ok (.one (.liB32 k 5 (.lit 0x12345678)) 2) ∧
  decodeWord 0x468302010A070400 none = .ok (.pair (.pairShl 6 (.imm 4 2)) (.pairXor 7 (.reg 4))) ∧
  one 0x0080408001000002 (.brc c 2 false 1 2 4) ∧ one 0x007FFFFFEDC00000 (.br c 0xFFFFFFB7) ∧
  one 0x14C0C04081800810 (.ffma k 0x10 3 1 2 6) ∧ one 0x2001000001400000 (.place c 4 5) ∧
  one 0x21C1860000000800 (.rds k 6 0x18) ∧ one 0x2CC0004182400000 (.tcopy c 0 1 6 9) ∧
  one 0x3101410540002000 (.mdrain c 2 false false 0 5 4 21) ∧ one 0x30410080C0000000 (.mma c 4 2 3) ∧
  one 0x24C1C00080000018 (.atomXchg c 1 false 7 0 2) ∧ one 0x2503800083C00810 (.cas k 1 false 14 0 2 15) ∧
  one 0x3C41000080000000 (.rowand c 4 0 2) ∧ one 0x3985804000000800 (.gwait k 22 1) ∧
  one 0x0300000001400000 (.trap c 5) ∧ one 0x3E02008101400001 (.ctxsaveTeam c 8 2 4 5) ∧
  one 0x34C0C00046000001 (.ksort c true 3 0 1 24) ∧ one 0x3585C34A00000000 (.wfix c 23 13 40) ∧
  bad 0x3FC0000000000000 1 ∧ bad 0x2402808000000007 2 ∧ bad 0x0000000000000001 3 ∧ bad 0x4000000000000001 4 ∧
  bad 0x8000000000000000 5 ∧ bad 0xC000000000000001 6 ∧ bad 0x0E81400000000000 7

/-! Memory and reset. -/

/-- R9, logs 4 and 5: every memory keeps its canonical form in every step, whatever runs (the form is the model's
own). -/
def Obligations.MemoryCanonicalKept : Prop :=
  ∀ s t : State, s.MemOk → step s = .next t → t.MemOk

/-- R258, R259, R358, R359, R366, R372, log 3: after reset no queue pair is granted and every window reads 0; no
launch, team or thread exists; the stored GEN is 0; every memory is in canonical form and lists nothing. What the
timeouts and PLIM are before firmware sets them is the model's choice (log 3). That every byte that nothing has
written reads 0 is the model's choice too (log 4). -/
def Obligations.ResetState : Prop :=
  State.reset.MemOk ∧ (∀ a, State.reset.byteAt a = 0) ∧ (∀ q off, hostRegister State.reset q off = 0) ∧
  State.reset.up = false ∧ State.reset.queues = [] ∧ State.reset.launches = [] ∧ State.reset.threads = [] ∧ State.reset.cores = [] ∧
  State.reset.genMax = 0 ∧ State.reset.clk = 0 ∧ State.reset.registry = [] ∧ State.reset.l2 = [] ∧ State.reset.badBanks = [] ∧
  deadlineOf State.reset (Launch.ofRecord 0 none 0 ⟨0, 0, 0⟩ []) = 94000000
end

