-- ==== Sys2Proof/Laws/Alu.lean ====
section
/-! SUPPORT. What the integer functions of Machine/Alu.lean compute, each once, in exact arithmetic (R140, R141). -/

namespace Sys2Proof.Machine

variable {w : Nat}

theorem addSatOp_eq (a b : Word) : addSatOp a b = intWord (clampS32 (a.toInt + b.toInt)) := by
  unfold addSatOp clamp32 clampInt intWord clampS32
  congr 1; split <;> [skip; split] <;> omega

theorem subSatOp_eq (a b : Word) : subSatOp a b = intWord (clampS32 (a.toInt - b.toInt)) := by
  unfold subSatOp clamp32 clampInt intWord clampS32
  congr 1; split <;> [skip; split] <;> omega

theorem sub_eq (a b : Word) : a - b = intWord ((a.toNat : Int) - b.toNat) := by
  apply BitVec.eq_of_toInt_eq
  rw [intWord, BitVec.toInt_ofInt, BitVec.toInt_sub]
  simp [BitVec.toInt_eq_toNat_bmod]

theorem minOp_signed (a b : Word) : minOp false a b = intWord (min a.toInt b.toInt) := by
  unfold minOp intWord
  by_cases h : b.toInt < a.toInt
  · simp [BitVec.slt, h, Int.min_eq_right (Int.le_of_lt h)]
  · simp [BitVec.slt, h, Int.min_eq_left (Int.not_lt.mp h)]

theorem minOp_unsigned (a b : Word) : minOp true a b = natWord (min a.toNat b.toNat) := by
  unfold minOp natWord
  by_cases h : b.toNat < a.toNat
  · simp [BitVec.ult, h, Nat.min_eq_right (Nat.le_of_lt h)]
  · simp [BitVec.ult, h, Nat.min_eq_left (Nat.not_lt.mp h)]

theorem maxOp_signed (a b : Word) : maxOp false a b = intWord (max a.toInt b.toInt) := by
  unfold maxOp intWord
  by_cases h : a.toInt < b.toInt
  · simp [BitVec.slt, h, Int.max_eq_right (Int.le_of_lt h)]
  · simp [BitVec.slt, h, Int.max_eq_left (Int.not_lt.mp h)]

theorem maxOp_unsigned (a b : Word) : maxOp true a b = natWord (max a.toNat b.toNat) := by
  unfold maxOp natWord
  by_cases h : a.toNat < b.toNat
  · simp [BitVec.ult, h, Nat.max_eq_right (Nat.le_of_lt h)]
  · simp [BitVec.ult, h, Nat.max_eq_left (Nat.not_lt.mp h)]

theorem absOp_eq (a : Word) : absOp a = natWord a.toInt.natAbs := by
  unfold absOp natWord
  apply BitVec.eq_of_toNat_eq
  have h := a.isLt
  by_cases hs : a.slt 0
  · have : a.toInt < 0 := by simpa [BitVec.slt] using hs
    rw [if_pos hs]
    rw [BitVec.toInt_eq_toNat_cond] at *
    split at this
    · omega
    · simp only [BitVec.toNat_sub, BitVec.toNat_ofNat]; rename_i h2; rw [if_neg h2];  simp; omega
  · have : ¬ a.toInt < 0 := by simpa [BitVec.slt] using hs
    rw [if_neg hs]
    rw [BitVec.toInt_eq_toNat_cond] at *
    split at this
    · rename_i h2; rw [if_pos h2]; simp
    · omega

theorem shlOp_eq (a : BitVec w) (n : Word) : shlOp w a n = BitVec.ofNat w (a.toNat * 2 ^ (n.toNat % w)) := by
  apply BitVec.eq_of_toNat_eq
  simp [shlOp, Nat.shiftLeft_eq]

theorem shrOp_eq (a : BitVec w) (n : Word) : shrOp w a n = BitVec.ofNat w (a.toNat / 2 ^ (n.toNat % w)) := by
  apply BitVec.eq_of_toNat_eq
  simp only [shrOp, BitVec.toNat_ushiftRight, BitVec.toNat_ofNat, Nat.shiftRight_eq_div_pow]
  rw [Nat.mod_eq_of_lt (Nat.lt_of_le_of_lt (Nat.div_le_self _ _) a.isLt)]

theorem sarOp_eq (a : BitVec w) (n : Word) : sarOp w a n = BitVec.ofInt w (a.toInt / 2 ^ (n.toNat % w)) := by
  simp [sarOp, BitVec.sshiftRight, Int.shiftRight_eq_div_pow]

theorem popNat_eq (n v : Nat) : popNat n v = ((List.range n).filter v.testBit).length := by
  induction n generalizing v with
  | zero => rfl
  | succ n ih =>
    have h : List.filter v.testBit (List.map Nat.succ (List.range n)) = List.map Nat.succ (List.filter (v / 2).testBit (List.range n)) := by
      rw [List.filter_map]
      congr 1
      apply List.filter_congr
      intro i _
      simp [Nat.testBit_succ]
    rw [popNat, ih, List.range_succ_eq_map, List.filter_cons, h]
    have := Nat.mod_two_eq_zero_or_one v
    by_cases hb : v.testBit 0 = true
    · rw [if_pos hb]
      rw [Nat.testBit_zero, decide_eq_true_eq] at hb
      simp [hb]; omega
    · rw [if_neg hb]
      rw [Nat.testBit_zero, decide_eq_true_eq] at hb
      simp; omega

theorem popcOp_eq (a : BitVec w) : popcOp w a = natWord ((List.range w).filter a.getLsbD).length := by
  rw [popcOp, popNat_eq]; rfl

theorem testBit_revNat (n v r i : Nat) :
    (revNat n v r).testBit i = if i < n then v.testBit (n - 1 - i) else r.testBit (i - n) := by
  induction n generalizing v r with
  | zero => simp [revNat]
  | succ n ih =>
    rw [revNat, ih]
    rcases Nat.lt_trichotomy i n with h | h | h
    · rw [if_pos h, if_pos (by omega), ← Nat.testBit_succ]
      congr 1; omega
    · subst h
      have : (2 * r + v % 2) % 2 = v % 2 := by omega
      simp [Nat.testBit_zero, this]
    · rw [if_neg (by omega), if_neg (by omega), show i - n = (i - (n + 1)) + 1 by omega, Nat.testBit_succ]
      congr 1; omega

theorem brevOp_eq (a : BitVec w) : brevOp w a = a.reverse := by
  ext i hi
  rw [← BitVec.getLsbD_eq_getElem, ← BitVec.getLsbD_eq_getElem, BitVec.getLsbD_reverse, brevOp, BitVec.getLsbD_ofNat,
    testBit_revNat, BitVec.getMsbD]
  simp [hi, BitVec.getLsbD]

theorem takeWhile_range (p : Nat → Bool) (k n : Nat) (h : ∀ i < k, p i = true) (hk : p k = false) :
    ((List.range (k + n)).takeWhile p).length = k := by
  rw [List.range_add, List.takeWhile_append_of_pos (by simpa using h)]
  cases n with
  | zero => simp
  | succ n => simp [List.range_succ_eq_map, hk]

theorem clzOp_eq (a : BitVec w) : clzOp w a = natWord ((List.range w).takeWhile (fun i => !a.getMsbD i)).length := by
  unfold clzOp bitLen natWord
  congr 1
  by_cases h : a.toNat = 0
  · rw [if_pos h]
    have : a = 0#w := BitVec.eq_of_toNat_eq (by simpa using h)
    subst this
    rw [List.takeWhile_eq_self_iff.mpr (by simp)]
    simp
  · rw [if_neg h]
    have hl : a.toNat.log2 < w := (Nat.log2_lt h).mpr a.isLt
    have hk := takeWhile_range (fun i => !a.getMsbD i) (w - (a.toNat.log2 + 1)) (a.toNat.log2 + 1) (fun i hi => by
        simp only [BitVec.getMsbD, BitVec.getLsbD, Bool.not_eq_true', Bool.and_eq_false_iff, decide_eq_false_iff_not]
        right
        apply Nat.testBit_lt_two_pow
        exact Nat.lt_of_lt_of_le Nat.lt_log2_self (Nat.pow_le_pow_right (by omega) (by omega)))
      (by
        simp only [BitVec.getMsbD, BitVec.getLsbD, Bool.not_eq_false', Bool.and_eq_true, decide_eq_true_eq]
        refine ⟨by omega, ?_⟩
        rw [show w - 1 - (w - (a.toNat.log2 + 1)) = a.toNat.log2 by omega]
        exact Nat.testBit_log2 h)
    rw [show w - (a.toNat.log2 + 1) + (a.toNat.log2 + 1) = w by omega] at hk
    exact hk.symm

theorem condInt_eq (cc : BitVec 3) (a b : BitVec w) : condInt w cc a b = holds cc a b := by
  unfold condInt holds
  have := cc.isLt
  match h : cc.toNat with
  | 0 => simp [BitVec.toNat_inj, beq_eq_decide]
  | 1 => simp [BitVec.toNat_inj, bne, beq_eq_decide]
  | 2 => rfl
  | 3 => rfl
  | 4 => rfl
  | 5 => rfl
  | 6 => rfl
  | 7 => rfl
  | n + 8 => omega

theorem sel_eq (a b d : Word) : (if (d != 0) then a else b) = (if d.toNat ≠ 0 then a else b) := by
  have hd : d = 0#32 ↔ d.toNat = 0 := by rw [← BitVec.toNat_inj]; rfl
  by_cases h : d.toNat = 0
  · simp [hd.mpr h]
  · simp [h, mt hd.mp h]

theorem add64_eq (n : Nat) (b : DWord) : BitVec.ofNat 64 n + b = BitVec.ofNat 64 (n + b.toNat) := by
  simp [BitVec.ofNat_add]

theorem leaOp_eq (n : Nat) (b : Word) (s : Nat) : leaOp (BitVec.ofNat 64 n) b s = BitVec.ofInt 64 (n + b.toInt * 2 ^ s) := by
  simp [leaOp, BitVec.ofInt_add]

theorem mul_two_pow_add_eq_or (x y : Nat) {n : Nat} (h : y < 2 ^ n) : x * 2 ^ n + y = (x <<< n) ||| y := by
  rw [Nat.shiftLeft_eq, Nat.mul_comm, Nat.two_pow_add_eq_or_of_lt h]

/-- A pair's value as a number (R92). -/
theorem readPair_eq (rd : Reg → Word) (r : Reg) : readPair rd r = BitVec.ofNat 64 (pairNat rd r) := by
  apply BitVec.eq_of_toNat_eq
  have h1 := (rd (r+1)).isLt
  have h2 := (rd r).isLt
  simp only [readPair, pairVal, pairNat, BitVec.toNat_append, BitVec.toNat_ofNat]
  rw [Nat.mod_eq_of_lt (by omega), mul_two_pow_add_eq_or _ _ h2]

theorem bfPos_eq (ctl : Word) : bfPos ctl = ctl.toNat % 2 ^ 8 := by
  simp [bfPos, BitVec.extractLsb'_toNat]

theorem bfLen_eq (ctl : Word) : bfLen ctl = min (ctl.toNat / 2 ^ 8 % 2 ^ 8) 32 := by
  simp [bfLen, BitVec.extractLsb'_toNat, Nat.shiftRight_eq_div_pow]

theorem bfeOp_unsigned (a v : Word) :
    bfeOp true a v = natWord (a.toNat / 2 ^ (v.toNat % 2 ^ 8) % 2 ^ min (v.toNat / 2 ^ 8 % 2 ^ 8) 32) := by
  unfold bfeOp
  rw [bfPos_eq, bfLen_eq]
  generalize min (v.toNat / 2 ^ 8 % 2 ^ 8) 32 = n
  by_cases h : n = 0
  · subst h; simp [natWord, Nat.mod_one]
  · simp [h, natWord]

/-- An n-bit field read as two's complement (R141). -/
theorem signedOf_eq {n f : Nat} (hf : f < 2 ^ n) : signedOf n f = if 2 ^ (n - 1) ≤ (f : Int) then (f : Int) - 2 ^ n else f := by
  have hc : (2 ^ (n - 1) ≤ (f : Int)) ↔ ¬ f < 2 ^ (n - 1) := by
    rw [show ((2 : Int) ^ (n - 1)) = ((2 ^ (n - 1) : Nat) : Int) by push_cast; rfl, Int.ofNat_le]; omega
  unfold signedOf
  rw [Nat.mod_eq_of_lt hf]
  by_cases h : f < 2 ^ (n - 1)
  · rw [if_pos h, if_neg (by rw [hc]; simpa using h)]
  · rw [if_neg h, if_pos (hc.mpr h)]; push_cast; rfl

theorem bfeOp_signed (a v : Word) : bfeOp false a v =
    let n := min (v.toNat / 2 ^ 8 % 2 ^ 8) 32
    let f : Int := ((a.toNat / 2 ^ (v.toNat % 2 ^ 8) % 2 ^ n : Nat) : Int)
    if n = 0 then 0 else intWord (if 2 ^ (n - 1) ≤ f then f - 2 ^ n else f) := by
  unfold bfeOp
  rw [bfPos_eq, bfLen_eq]
  generalize min (v.toNat / 2 ^ 8 % 2 ^ 8) 32 = n
  simp only [Bool.false_eq_true, if_false, intWord, signedOf_eq (Nat.mod_lt _ (Nat.two_pow_pos n))]

theorem bfiOp_eq (a ctl base : Word) : bfiOp a ctl base =
    let m := natWord ((2 ^ min (ctl.toNat / 2 ^ 8 % 2 ^ 8) 32 - 1) * 2 ^ (ctl.toNat % 2 ^ 8))
    (base &&& ~~~m) ||| (natWord (a.toNat * 2 ^ (ctl.toNat % 2 ^ 8)) &&& m) := by
  simp only [bfiOp, bfPos_eq, bfLen_eq, natWord]

/-- The byte of `prmt` that a selector names, as a number (R141). -/
def prmtNat (a b : Word) (s : Nat) : Nat :=
  let y := (b.toNat * 2 ^ 32 + a.toNat) / 2 ^ (8 * (s % 8)) % 256
  if s % 16 < 8 then y else if 128 ≤ y then 255 else 0

theorem prmtByte_eq (a b : Word) (s : BitVec 4) : (prmtByte (pairVal b a) s).toNat = prmtNat a b s.toNat := by
  have hq : (pairVal b a).toNat = b.toNat * 2 ^ 32 + a.toNat := by
    simp only [pairVal, BitVec.toNat_append]
    rw [mul_two_pow_add_eq_or _ _ a.isLt]
  have hs : (s.extractLsb' 0 3).toNat = s.toNat % 8 := by revert s; decide
  have hb : s.getLsbD 3 = decide (8 ≤ s.toNat % 16) := by revert s; decide
  unfold prmtByte prmtNat
  simp only [hq, hs, hb]
  generalize (b.toNat * 2 ^ 32 + a.toNat) / 2 ^ (8 * (s.toNat % 8)) = q
  have h7 : (BitVec.ofNat 8 q).getLsbD 7 = decide (128 ≤ q % 256) := by
    rw [show (BitVec.ofNat 8 q) = BitVec.ofNat 8 (q % 256) from BitVec.eq_of_toNat_eq (by rw [BitVec.toNat_ofNat, BitVec.toNat_ofNat]; omega)]
    have := Nat.mod_lt q (show 256 > 0 by omega)
    generalize q % 256 = y at *
    interval_cases y <;> rfl
  by_cases h8 : 8 ≤ s.toNat % 16
  · simp only [h8, decide_true, if_true, h7, decide_eq_true_eq, if_neg (Nat.not_lt.mpr h8)]
    split <;> rfl
  · simp only [h8, decide_false, Bool.false_eq_true, if_false, if_pos (Nat.lt_of_not_le h8)]
    simp

theorem prmtOp_eq (a b sel : Word) : prmtOp a b sel =
    natWord (prmtNat a b sel.toNat + 2 ^ 8 * prmtNat a b (sel.toNat / 16) + 2 ^ 16 * prmtNat a b (sel.toNat / 256)
      + 2 ^ 24 * prmtNat a b (sel.toNat / 4096)) := by
  have hm (n k : Nat) : prmtNat a b (n % 16) = prmtNat a b n := by
    unfold prmtNat
    rw [show n % 16 % 8 = n % 8 by omega, show n % 16 % 16 = n % 16 by omega]
  have hx (o : Nat) : (prmtByte (pairVal b a) (sel.extractLsb' o 4)).toNat = prmtNat a b (sel.toNat / 2 ^ o) := by
    rw [prmtByte_eq, BitVec.extractLsb'_toNat, Nat.shiftRight_eq_div_pow, show (2 : Nat) ^ 4 = 16 from rfl, hm _ 0]
  have h0 := hx 0
  have h4 := hx 4
  have h8 := hx 8
  have h12 := hx 12
  apply BitVec.eq_of_toNat_eq
  have hb (o : Nat) := (prmtByte (pairVal b a) (sel.extractLsb' o 4)).isLt
  have := hb 0; have := hb 4; have := hb 8; have := hb 12
  simp only [prmtOp, BitVec.toNat_append, natWord, BitVec.toNat_ofNat]
  rw [← mul_two_pow_add_eq_or _ _ (hb 8), ← mul_two_pow_add_eq_or _ _ (hb 4), ← mul_two_pow_add_eq_or _ _ (hb 0)]
  simp only [show (2 : Nat) ^ 0 = 1 from rfl, Nat.div_one, show (2 : Nat) ^ 4 = 16 from rfl, show (2 : Nat) ^ 12 = 4096 from rfl] at h0 h4 h8 h12
  rw [show (256 : Nat) = 2 ^ 8 from rfl, ← h0, ← h4, ← h8, ← h12]
  omega

end Sys2Proof.Machine
end

