-- ==== Sys2Proof/Laws/Dispatch.lean ====
section
/-! SUPPORT. What exec is on each constructor: one lemma for each arm. -/

namespace Sys2Proof.Machine

@[simp] theorem exec_clauseHeader h (s : State) : exec (.clauseHeader h) s = execClauseHeader h s := rfl
@[simp] theorem exec_operandSend t seq r (s : State) : exec (.operandSend t seq r) s = execOperandSend t seq r s := rfl
@[simp] theorem exec_executeCommand t seq err (s : State) : exec (.executeCommand t seq err) s = execExecuteCommand t seq err s := rfl
@[simp] theorem exec_tallocGrant core lvl (s : State) : exec (.tallocGrant core lvl) s = execTallocGrant core lvl s := rfl
@[simp] theorem exec_jobDispatch core job (s : State) : exec (.jobDispatch core job) s = execJobDispatch core job s := rfl
@[simp] theorem exec_jobRetire core job (s : State) : exec (.jobRetire core job) s = execJobRetire core job s := rfl
@[simp] theorem exec_arraySelfTest core failed (s : State) : exec (.arraySelfTest core failed) s = execArraySelfTest core failed s := rfl
@[simp] theorem exec_engineFault core job kind (s : State) : exec (.engineFault core job kind) s = execEngineFault core job kind s := rfl
@[simp] theorem exec_engineFaultResume core job resolved (s : State) : exec (.engineFaultResume core job resolved) s = execEngineFaultResume core job resolved s := rfl
@[simp] theorem exec_medlarActionStart lid act frames (s : State) : exec (.medlarActionStart lid act frames) s = execMedlarActionStart lid act frames s := rfl
@[simp] theorem exec_medlarActionComplete lid act (s : State) : exec (.medlarActionComplete lid act) s = execMedlarActionComplete lid act s := rfl
@[simp] theorem exec_loadReturn t acc (s : State) : exec (.loadReturn t acc) s = execLoadReturn t acc s := rfl
@[simp] theorem exec_storePerform t acc (s : State) : exec (.storePerform t acc) s = execStorePerform t acc s := rfl
@[simp] theorem exec_publishDeadline core line (s : State) : exec (.publishDeadline core line) s = execPublishDeadline core line s := rfl
@[simp] theorem exec_cleanDropDeadline core line (s : State) : exec (.cleanDropDeadline core line) s = execCleanDropDeadline core line s := rfl
@[simp] theorem exec_atomicPerform t acc (s : State) : exec (.atomicPerform t acc) s = execAtomicPerform t acc s := rfl
@[simp] theorem exec_writebackError what addr (s : State) : exec (.writebackError what addr) s = execWritebackError what addr s := rfl
@[simp] theorem exec_movedRefusal t acc (s : State) : exec (.movedRefusal t acc) s = execMovedRefusal t acc s := rfl
@[simp] theorem exec_translationRequestCompletion die pasid page result (s : State) : exec (.translationRequestCompletion die pasid page result) s = execTranslationRequestCompletion die pasid page result s := rfl
@[simp] theorem exec_invalidateRequest pasid page count (s : State) : exec (.invalidateRequest pasid page count) s = execInvalidateRequest pasid page count s := rfl
@[simp] theorem exec_prgResponse pasid page success (s : State) : exec (.prgResponse pasid page success) s = execPrgResponse pasid page success s := rfl
@[simp] theorem exec_priTimeout pasid page (s : State) : exec (.priTimeout pasid page) s = execPriTimeout pasid page s := rfl
@[simp] theorem exec_rowOperationStart t acc (s : State) : exec (.rowOperationStart t acc) s = execRowOperationStart t acc s := rfl
@[simp] theorem exec_rowOperationComplete t acc (s : State) : exec (.rowOperationComplete t acc) s = execRowOperationComplete t acc s := rfl
@[simp] theorem exec_bankComputeError t acc kind (s : State) : exec (.bankComputeError t acc kind) s = execBankComputeError t acc kind s := rfl
@[simp] theorem exec_teamResident lid core c0 (s : State) : exec (.teamResident lid core c0) s = execTeamResident lid core c0 s := rfl
@[simp] theorem exec_recordReplication lid lrec asp (s : State) : exec (.recordReplication lid lrec asp) s = execRecordReplication lid lrec asp s := rfl
@[simp] theorem exec_readyReport lid didx ready (s : State) : exec (.readyReport lid didx ready) s = execReadyReport lid didx ready s := rfl
@[simp] theorem exec_startGen lid gen (s : State) : exec (.startGen lid gen) s = execStartGen lid gen s := rfl
@[simp] theorem exec_abortGen lid gen (s : State) : exec (.abortGen lid gen) s = execAbortGen lid gen s := rfl
@[simp] theorem exec_preemptionRequest lid prec (s : State) : exec (.preemptionRequest lid prec) s = execPreemptionRequest lid prec s := rfl
@[simp] theorem exec_queueStop q stop (s : State) : exec (.queueStop q stop) s = execQueueStop q stop s := rfl
@[simp] theorem exec_sqtailWrite q v (s : State) : exec (.sqtailWrite q v) s = execSqtailWrite q v s := rfl
@[simp] theorem exec_cqheadWrite q v (s : State) : exec (.cqheadWrite q v) s = execCqheadWrite q v s := rfl
@[simp] theorem exec_registerWrite q off v (s : State) : exec (.registerWrite q off v) s = execRegisterWrite q off v s := rfl
@[simp] theorem exec_powerWindow watts (s : State) : exec (.powerWindow watts) s = execPowerWindow watts s := rfl
@[simp] theorem exec_temperatureLimit die hot (s : State) : exec (.temperatureLimit die hot) s = execTemperatureLimit die hot s := rfl
@[simp] theorem exec_remoteAccessTimeout t acc (s : State) : exec (.remoteAccessTimeout t acc) s = execRemoteAccessTimeout t acc s := rfl
@[simp] theorem exec_dataLoss root va (s : State) : exec (.dataLoss root va) s = execDataLoss root va s := rfl
@[simp] theorem exec_powerOn signed boot (s : State) : exec (.powerOn signed boot) s = execPowerOn signed boot s := rfl
@[simp] theorem exec_attestationReport nonce (s : State) : exec (.attestationReport nonce) s = execAttestationReport nonce s := rfl
@[simp] theorem exec_nop c (s : State) : exec (.nop c) s = execNop c s := rfl
@[simp] theorem exec_br c off (s : State) : exec (.br c off) s = execBr c off s := rfl
@[simp] theorem exec_brc c cc w64 xd xa off (s : State) : exec (.brc c cc w64 xd xa off) s = execBrc c cc w64 xd xa off s := rfl
@[simp] theorem exec_brg c off (s : State) : exec (.brg c off) s = execBrg c off s := rfl
@[simp] theorem exec_jmp c xa (s : State) : exec (.jmp c xa) s = execJmp c xa s := rfl
@[simp] theorem exec_call c off (s : State) : exec (.call c off) s = execCall c off s := rfl
@[simp] theorem exec_callr c xa (s : State) : exec (.callr c xa) s = execCallr c xa s := rfl
@[simp] theorem exec_ret c (s : State) : exec (.ret c) s = execRet c s := rfl
@[simp] theorem exec_exit c (s : State) : exec (.exit c) s = execExit c s := rfl
@[simp] theorem exec_refill c xd (s : State) : exec (.refill c xd) s = execRefill c xd s := rfl
@[simp] theorem exec_repack c xa (s : State) : exec (.repack c xa) s = execRepack c xa s := rfl
@[simp] theorem exec_yld c (s : State) : exec (.yld c) s = execYld c s := rfl
@[simp] theorem exec_trap c imm (s : State) : exec (.trap c imm) s = execTrap c imm s := rfl
@[simp] theorem exec_brk c (s : State) : exec (.brk c) s = execBrk c s := rfl
@[simp] theorem exec_eret c (s : State) : exec (.eret c) s = execEret c s := rfl
@[simp] theorem exec_shflIdx c xd xa xb (s : State) : exec (.shflIdx c xd xa xb) s = execShflIdx c xd xa xb s := rfl
@[simp] theorem exec_shflUp c xd xa n (s : State) : exec (.shflUp c xd xa n) s = execShflUp c xd xa n s := rfl
@[simp] theorem exec_shflDown c xd xa n (s : State) : exec (.shflDown c xd xa n) s = execShflDown c xd xa n s := rfl
@[simp] theorem exec_shflXor c xd xa n (s : State) : exec (.shflXor c xd xa n) s = execShflXor c xd xa n s := rfl
@[simp] theorem exec_voteAny c xd xa (s : State) : exec (.voteAny c xd xa) s = execVoteAny c xd xa s := rfl
@[simp] theorem exec_voteAll c xd xa (s : State) : exec (.voteAll c xd xa) s = execVoteAll c xd xa s := rfl
@[simp] theorem exec_voteBallot c xd xa (s : State) : exec (.voteBallot c xd xa) s = execVoteBallot c xd xa s := rfl
@[simp] theorem exec_reduxAdd c xd xa (s : State) : exec (.reduxAdd c xd xa) s = execReduxAdd c xd xa s := rfl
@[simp] theorem exec_reduxMin c uns xd xa (s : State) : exec (.reduxMin c uns xd xa) s = execReduxMin c uns xd xa s := rfl
@[simp] theorem exec_reduxMax c uns xd xa (s : State) : exec (.reduxMax c uns xd xa) s = execReduxMax c uns xd xa s := rfl
@[simp] theorem exec_reduxAnd c xd xa (s : State) : exec (.reduxAnd c xd xa) s = execReduxAnd c xd xa s := rfl
@[simp] theorem exec_reduxOr c xd xa (s : State) : exec (.reduxOr c xd xa) s = execReduxOr c xd xa s := rfl
@[simp] theorem exec_reduxFadd c xd xa (s : State) : exec (.reduxFadd c xd xa) s = execReduxFadd c xd xa s := rfl
@[simp] theorem exec_reduxFmin c xd xa (s : State) : exec (.reduxFmin c xd xa) s = execReduxFmin c xd xa s := rfl
@[simp] theorem exec_reduxFmax c xd xa (s : State) : exec (.reduxFmax c xd xa) s = execReduxFmax c xd xa s := rfl
@[simp] theorem exec_meet c (s : State) : exec (.meet c) s = execMeet c s := rfl
@[simp] theorem exec_add c xd xa v (s : State) : exec (.add c xd xa v) s = execAdd c xd xa v s := rfl
@[simp] theorem exec_addSat c xd xa v (s : State) : exec (.addSat c xd xa v) s = execAddSat c xd xa v s := rfl
@[simp] theorem exec_sub c xd xa v (s : State) : exec (.sub c xd xa v) s = execSub c xd xa v s := rfl
@[simp] theorem exec_subSat c xd xa v (s : State) : exec (.subSat c xd xa v) s = execSubSat c xd xa v s := rfl
@[simp] theorem exec_addc c xd xa xb xc (s : State) : exec (.addc c xd xa xb xc) s = execAddc c xd xa xb xc s := rfl
@[simp] theorem exec_mul c xd xa v (s : State) : exec (.mul c xd xa v) s = execMul c xd xa v s := rfl
@[simp] theorem exec_mulh c uns xd xa v (s : State) : exec (.mulh c uns xd xa v) s = execMulh c uns xd xa v s := rfl
@[simp] theorem exec_mad c xd xa xb xc (s : State) : exec (.mad c xd xa xb xc) s = execMad c xd xa xb xc s := rfl
@[simp] theorem exec_madS64 c xd xa xb xc (s : State) : exec (.madS64 c xd xa xb xc) s = execMadS64 c xd xa xb xc s := rfl
@[simp] theorem exec_min c uns xd xa v (s : State) : exec (.min c uns xd xa v) s = execMin c uns xd xa v s := rfl
@[simp] theorem exec_max c uns xd xa v (s : State) : exec (.max c uns xd xa v) s = execMax c uns xd xa v s := rfl
@[simp] theorem exec_abs c xd xa (s : State) : exec (.abs c xd xa) s = execAbs c xd xa s := rfl
@[simp] theorem exec_and c xd xa v (s : State) : exec (.and c xd xa v) s = execAnd c xd xa v s := rfl
@[simp] theorem exec_or c xd xa v (s : State) : exec (.or c xd xa v) s = execOr c xd xa v s := rfl
@[simp] theorem exec_xor c xd xa v (s : State) : exec (.xor c xd xa v) s = execXor c xd xa v s := rfl
@[simp] theorem exec_andn c xd xa v (s : State) : exec (.andn c xd xa v) s = execAndn c xd xa v s := rfl
@[simp] theorem exec_not c xd xa (s : State) : exec (.not c xd xa) s = execNot c xd xa s := rfl
@[simp] theorem exec_shl c w64 xd xa v (s : State) : exec (.shl c w64 xd xa v) s = execShl c w64 xd xa v s := rfl
@[simp] theorem exec_shr c w64 xd xa v (s : State) : exec (.shr c w64 xd xa v) s = execShr c w64 xd xa v s := rfl
@[simp] theorem exec_sar c w64 xd xa v (s : State) : exec (.sar c w64 xd xa v) s = execSar c w64 xd xa v s := rfl
@[simp] theorem exec_rol c w64 xd xa v (s : State) : exec (.rol c w64 xd xa v) s = execRol c w64 xd xa v s := rfl
@[simp] theorem exec_clz c w64 xd xa (s : State) : exec (.clz c w64 xd xa) s = execClz c w64 xd xa s := rfl
@[simp] theorem exec_popc c w64 xd xa (s : State) : exec (.popc c w64 xd xa) s = execPopc c w64 xd xa s := rfl
@[simp] theorem exec_brev c w64 xd xa (s : State) : exec (.brev c w64 xd xa) s = execBrev c w64 xd xa s := rfl
@[simp] theorem exec_bfe c uns xd xa v (s : State) : exec (.bfe c uns xd xa v) s = execBfe c uns xd xa v s := rfl
@[simp] theorem exec_bfi c xd xa xb xc (s : State) : exec (.bfi c xd xa xb xc) s = execBfi c xd xa xb xc s := rfl
@[simp] theorem exec_prmt c xd xa xb xc (s : State) : exec (.prmt c xd xa xb xc) s = execPrmt c xd xa xb xc s := rfl
@[simp] theorem exec_sel c xd xa xb xc (s : State) : exec (.sel c xd xa xb xc) s = execSel c xd xa xb xc s := rfl
@[simp] theorem exec_cmp c cc w64 xd xa v (s : State) : exec (.cmp c cc w64 xd xa v) s = execCmp c cc w64 xd xa v s := rfl
@[simp] theorem exec_add64 c xd xa v (s : State) : exec (.add64 c xd xa v) s = execAdd64 c xd xa v s := rfl
@[simp] theorem exec_lea c xd xa xb sh (s : State) : exec (.lea c xd xa xb sh) s = execLea c xd xa xb sh s := rfl
@[simp] theorem exec_mov c xd xa (s : State) : exec (.mov c xd xa) s = execMov c xd xa s := rfl
@[simp] theorem exec_liB32 c xd imm (s : State) : exec (.liB32 c xd imm) s = execLiB32 c xd imm s := rfl
@[simp] theorem exec_liB64 c xd imm (s : State) : exec (.liB64 c xd imm) s = execLiB64 c xd imm s := rfl
@[simp] theorem exec_fadd c md xd xa v (s : State) : exec (.fadd c md xd xa v) s = execFadd c md xd xa v s := rfl
@[simp] theorem exec_fsub c md xd xa v (s : State) : exec (.fsub c md xd xa v) s = execFsub c md xd xa v s := rfl
@[simp] theorem exec_fmul c md xd xa v (s : State) : exec (.fmul c md xd xa v) s = execFmul c md xd xa v s := rfl
@[simp] theorem exec_ffma c md xd xa xb xc (s : State) : exec (.ffma c md xd xa xb xc) s = execFfma c md xd xa xb xc s := rfl
@[simp] theorem exec_fmin c md xd xa v (s : State) : exec (.fmin c md xd xa v) s = execFmin c md xd xa v s := rfl
@[simp] theorem exec_fmax c md xd xa v (s : State) : exec (.fmax c md xd xa v) s = execFmax c md xd xa v s := rfl
@[simp] theorem exec_fcmp c cc xd xa v (s : State) : exec (.fcmp c cc xd xa v) s = execFcmp c cc xd xa v s := rfl
@[simp] theorem exec_frcp c md xd xa (s : State) : exec (.frcp c md xd xa) s = execFrcp c md xd xa s := rfl
@[simp] theorem exec_frsq c md xd xa (s : State) : exec (.frsq c md xd xa) s = execFrsq c md xd xa s := rfl
@[simp] theorem exec_fsqrt c md xd xa (s : State) : exec (.fsqrt c md xd xa) s = execFsqrt c md xd xa s := rfl
@[simp] theorem exec_fex2 c md xd xa (s : State) : exec (.fex2 c md xd xa) s = execFex2 c md xd xa s := rfl
@[simp] theorem exec_flg2 c md xd xa (s : State) : exec (.flg2 c md xd xa) s = execFlg2 c md xd xa s := rfl
@[simp] theorem exec_fcls c xd xa (s : State) : exec (.fcls c xd xa) s = execFcls c xd xa s := rfl
@[simp] theorem exec_fcvtF32S32 c xd xa (s : State) : exec (.fcvtF32S32 c xd xa) s = execFcvtF32S32 c xd xa s := rfl
@[simp] theorem exec_fcvtF32B32 c xd xa (s : State) : exec (.fcvtF32B32 c xd xa) s = execFcvtF32B32 c xd xa s := rfl
@[simp] theorem exec_fcvtS32F32 c xd xa (s : State) : exec (.fcvtS32F32 c xd xa) s = execFcvtS32F32 c xd xa s := rfl
@[simp] theorem exec_fcvtB32F32 c xd xa (s : State) : exec (.fcvtB32F32 c xd xa) s = execFcvtB32F32 c xd xa s := rfl
@[simp] theorem exec_fcvtF32Fs c fs xd xa (s : State) : exec (.fcvtF32Fs c fs xd xa) s = execFcvtF32Fs c fs xd xa s := rfl
@[simp] theorem exec_fcvtFsF32 c fs xd xa (s : State) : exec (.fcvtFsF32 c fs xd xa) s = execFcvtFsF32 c fs xd xa s := rfl
@[simp] theorem exec_fcvtFsF32Sat c fs xd xa (s : State) : exec (.fcvtFsF32Sat c fs xd xa) s = execFcvtFsF32Sat c fs xd xa s := rfl
@[simp] theorem exec_fcvtBf16x2F32 c xd xa xb (s : State) : exec (.fcvtBf16x2F32 c xd xa xb) s = execFcvtBf16x2F32 c xd xa xb s := rfl
@[simp] theorem exec_fcvtBf16x2F32Sat c xd xa xb (s : State) : exec (.fcvtBf16x2F32Sat c xd xa xb) s = execFcvtBf16x2F32Sat c xd xa xb s := rfl
@[simp] theorem exec_fcvtF32Bf16 c xd xa hi (s : State) : exec (.fcvtF32Bf16 c xd xa hi) s = execFcvtF32Bf16 c xd xa hi s := rfl
@[simp] theorem exec_fadd2Bf16 c md xd xa xb (s : State) : exec (.fadd2Bf16 c md xd xa xb) s = execFadd2Bf16 c md xd xa xb s := rfl
@[simp] theorem exec_fmul2Bf16 c md xd xa xb (s : State) : exec (.fmul2Bf16 c md xd xa xb) s = execFmul2Bf16 c md xd xa xb s := rfl
@[simp] theorem exec_ffma2Bf16 c md xd xa xb xc (s : State) : exec (.ffma2Bf16 c md xd xa xb xc) s = execFfma2Bf16 c md xd xa xb xc s := rfl
@[simp] theorem exec_place c b pl (s : State) : exec (.place c b pl) s = execPlace c b pl s := rfl
@[simp] theorem exec_reloc c b pl (s : State) : exec (.reloc c b pl) s = execReloc c b pl s := rfl
@[simp] theorem exec_anch c an xa (s : State) : exec (.anch c an xa) s = execAnch c an xa s := rfl
@[simp] theorem exec_xacq c (s : State) : exec (.xacq c) s = execXacq c s := rfl
@[simp] theorem exec_xrel c (s : State) : exec (.xrel c) s = execXrel c s := rfl
@[simp] theorem exec_ixld c xd xa imm (s : State) : exec (.ixld c xd xa imm) s = execIxld c xd xa imm s := rfl
@[simp] theorem exec_ixst c xa xb imm (s : State) : exec (.ixst c xa xb imm) s = execIxst c xa xb imm s := rfl
@[simp] theorem exec_rds c xd sr (s : State) : exec (.rds c xd sr) s = execRds c xd sr s := rfl
@[simp] theorem exec_wrs c sr xa (s : State) : exec (.wrs c sr xa) s = execWrs c sr xa s := rfl
@[simp] theorem exec_ld c sz xd xa off (s : State) : exec (.ld c sz xd xa off) s = execLd c sz xd xa off s := rfl
@[simp] theorem exec_ldc c sz n xd xa off (s : State) : exec (.ldc c sz n xd xa off) s = execLdc c sz n xd xa off s := rfl
@[simp] theorem exec_st c sz xa xb off (s : State) : exec (.st c sz xa xb off) s = execSt c sz xa xb off s := rfl
@[simp] theorem exec_atomAdd c pl w64 xd xa xb (s : State) : exec (.atomAdd c pl w64 xd xa xb) s = execAtomAdd c pl w64 xd xa xb s := rfl
@[simp] theorem exec_atomMin c uns pl w64 xd xa xb (s : State) : exec (.atomMin c uns pl w64 xd xa xb) s = execAtomMin c uns pl w64 xd xa xb s := rfl
@[simp] theorem exec_atomMax c uns pl w64 xd xa xb (s : State) : exec (.atomMax c uns pl w64 xd xa xb) s = execAtomMax c uns pl w64 xd xa xb s := rfl
@[simp] theorem exec_atomAnd c pl w64 xd xa xb (s : State) : exec (.atomAnd c pl w64 xd xa xb) s = execAtomAnd c pl w64 xd xa xb s := rfl
@[simp] theorem exec_atomOr c pl w64 xd xa xb (s : State) : exec (.atomOr c pl w64 xd xa xb) s = execAtomOr c pl w64 xd xa xb s := rfl
@[simp] theorem exec_atomXor c pl w64 xd xa xb (s : State) : exec (.atomXor c pl w64 xd xa xb) s = execAtomXor c pl w64 xd xa xb s := rfl
@[simp] theorem exec_atomXchg c pl w64 xd xa xb (s : State) : exec (.atomXchg c pl w64 xd xa xb) s = execAtomXchg c pl w64 xd xa xb s := rfl
@[simp] theorem exec_atomFadd c pl xd xa xb (s : State) : exec (.atomFadd c pl xd xa xb) s = execAtomFadd c pl xd xa xb s := rfl
@[simp] theorem exec_cas c pl w64 xd xa xb xc (s : State) : exec (.cas c pl w64 xd xa xb xc) s = execCas c pl w64 xd xa xb xc s := rfl
@[simp] theorem exec_acq c (s : State) : exec (.acq c) s = execAcq c s := rfl
@[simp] theorem exec_rel c (s : State) : exec (.rel c) s = execRel c s := rfl
@[simp] theorem exec_fence c (s : State) : exec (.fence c) s = execFence c s := rfl
@[simp] theorem exec_cclean c xa xb off (s : State) : exec (.cclean c xa xb off) s = execCclean c xa xb off s := rfl
@[simp] theorem exec_cinval c xa xb off (s : State) : exec (.cinval c xa xb off) s = execCinval c xa xb off s := rfl
@[simp] theorem exec_pref c xa xb off (s : State) : exec (.pref c xa xb off) s = execPref c xa xb off s := rfl
@[simp] theorem exec_talloc c lvlS hd xv (s : State) : exec (.talloc c lvlS hd xv) s = execTalloc c lvlS hd xv s := rfl
@[simp] theorem exec_tfree c hd (s : State) : exec (.tfree c hd) s = execTfree c hd s := rfl
@[simp] theorem exec_tmap c hd xa xv (s : State) : exec (.tmap c hd xa xv) s = execTmap c hd xa xv s := rfl
@[simp] theorem exec_tcopy c hd ha xr xo (s : State) : exec (.tcopy c hd ha xr xo) s = execTcopy c hd ha xr xo s := rfl
@[simp] theorem exec_tld c xd ha xc (s : State) : exec (.tld c xd ha xc) s = execTld c xd ha xc s := rfl
@[simp] theorem exec_tst c ha xc xb (s : State) : exec (.tst c ha xc xb) s = execTst c ha xc xb s := rfl
@[simp] theorem exec_tfill c hd xr xb (s : State) : exec (.tfill c hd xr xb) s = execTfill c hd xr xb s := rfl
@[simp] theorem exec_tadd c hd ha hb (s : State) : exec (.tadd c hd ha hb) s = execTadd c hd ha hb s := rfl
@[simp] theorem exec_tmul c hd ha hb (s : State) : exec (.tmul c hd ha hb) s = execTmul c hd ha hb s := rfl
@[simp] theorem exec_tfma c hd ha hb (s : State) : exec (.tfma c hd ha hb) s = execTfma c hd ha hb s := rfl
@[simp] theorem exec_tcvt c sat fs hd ha (s : State) : exec (.tcvt c sat fs hd ha) s = execTcvt c sat fs hd ha s := rfl
@[simp] theorem exec_tredAdd c axis hd ha (s : State) : exec (.tredAdd c axis hd ha) s = execTredAdd c axis hd ha s := rfl
@[simp] theorem exec_tredMax c axis hd ha (s : State) : exec (.tredMax c axis hd ha) s = execTredMax c axis hd ha s := rfl
@[simp] theorem exec_tredMin c axis hd ha (s : State) : exec (.tredMin c axis hd ha) s = execTredMin c axis hd ha s := rfl
@[simp] theorem exec_ttr c hd ha (s : State) : exec (.ttr c hd ha) s = execTtr c hd ha s := rfl
@[simp] theorem exec_mplane c fs hd ha hs (s : State) : exec (.mplane c fs hd ha hs) s = execMplane c fs hd ha hs s := rfl
@[simp] theorem exec_mma c hc ha hb (s : State) : exec (.mma c hc ha hb) s = execMma c hc ha hb s := rfl
@[simp] theorem exec_mmas c hc ha hb xm (s : State) : exec (.mmas c hc ha hb xm) s = execMmas c hc ha hb xm s := rfl
@[simp] theorem exec_gmm c hc ha hb xp (s : State) : exec (.gmm c hc ha hb xp) s = execGmm c hc ha hb xp s := rfl
@[simp] theorem exec_mdrain c fs z en prg hd hc xo (s : State) : exec (.mdrain c fs z en prg hd hc xo) s = execMdrain c fs z en prg hd hc xo s := rfl
@[simp] theorem exec_mzero c hc (s : State) : exec (.mzero c hc) s = execMzero c hc s := rfl
@[simp] theorem exec_epild c n xa (s : State) : exec (.epild c n xa) s = execEpild c n xa s := rfl
@[simp] theorem exec_fbind c fs hd xa xv (s : State) : exec (.fbind c fs hd xa xv) s = execFbind c fs hd xa xv s := rfl
@[simp] theorem exec_fget c xd hf xc (s : State) : exec (.fget c xd hf xc) s = execFget c xd hf xc s := rfl
@[simp] theorem exec_fgett c hd hf hi xq (s : State) : exec (.fgett c hd hf hi xq) s = execFgett c hd hf hi xq s := rfl
@[simp] theorem exec_ksort c o32 hp hk hc xs (s : State) : exec (.ksort c o32 hp hk hc xs) s = execKsort c o32 hp hk hc xs s := rfl
@[simp] theorem exec_kpack c hv hs hb xs (s : State) : exec (.kpack c hv hs hb xs) s = execKpack c hv hs hb xs s := rfl
@[simp] theorem exec_wtake c xd (s : State) : exec (.wtake c xd) s = execWtake c xd s := rfl
@[simp] theorem exec_wfix c xd hc xp (s : State) : exec (.wfix c xd hc xp) s = execWfix c xd hc xp s := rfl
@[simp] theorem exec_qpush c q xa (s : State) : exec (.qpush c q xa) s = execQpush c q xa s := rfl
@[simp] theorem exec_qpop c xd q (s : State) : exec (.qpop c xd q) s = execQpop c xd q s := rfl
@[simp] theorem exec_qpopAny c xd (s : State) : exec (.qpopAny c xd) s = execQpopAny c xd s := rfl
@[simp] theorem exec_bari c b cnt (s : State) : exec (.bari c b cnt) s = execBari c b cnt s := rfl
@[simp] theorem exec_barr c xd b (s : State) : exec (.barr c xd b) s = execBarr c xd b s := rfl
@[simp] theorem exec_barw c b xb (s : State) : exec (.barw c b xb) s = execBarw c b xb s := rfl
@[simp] theorem exec_bars c b (s : State) : exec (.bars c b) s = execBars c b s := rfl
@[simp] theorem exec_gset c cc fp gd xa xb (s : State) : exec (.gset c cc fp gd xa xb) s = execGset c cc fp gd xa xb s := rfl
@[simp] theorem exec_gres c gd xa (s : State) : exec (.gres c gd xa) s = execGres c gd xa s := rfl
@[simp] theorem exec_gresOpen c gd (s : State) : exec (.gresOpen c gd) s = execGresOpen c gd s := rfl
@[simp] theorem exec_gwait c xd ga (s : State) : exec (.gwait c xd ga) s = execGwait c xd ga s := rfl
@[simp] theorem exec_fwait c mask (s : State) : exec (.fwait c mask) s = execFwait c mask s := rfl
@[simp] theorem exec_lease c n (s : State) : exec (.lease c n) s = execLease c n s := rfl
@[simp] theorem exec_rowmaj c xd xa xb xc (s : State) : exec (.rowmaj c xd xa xb xc) s = execRowmaj c xd xa xb xc s := rfl
@[simp] theorem exec_rowand c xd xa xb (s : State) : exec (.rowand c xd xa xb) s = execRowand c xd xa xb s := rfl
@[simp] theorem exec_rowor c xd xa xb (s : State) : exec (.rowor c xd xa xb) s = execRowor c xd xa xb s := rfl
@[simp] theorem exec_rownot c xd xa (s : State) : exec (.rownot c xd xa) s = execRownot c xd xa s := rfl
@[simp] theorem exec_rowcp c xd xa (s : State) : exec (.rowcp c xd xa) s = execRowcp c xd xa s := rfl
@[simp] theorem exec_bkfence c (s : State) : exec (.bkfence c) s = execBkfence c s := rfl
@[simp] theorem exec_ctxsave c xd xa xb (s : State) : exec (.ctxsave c xd xa xb) s = execCtxsave c xd xa xb s := rfl
@[simp] theorem exec_ctxsaveTeam c xd xa xb xc (s : State) : exec (.ctxsaveTeam c xd xa xb xc) s = execCtxsaveTeam c xd xa xb xc s := rfl
@[simp] theorem exec_ctxload c xd xa (s : State) : exec (.ctxload c xd xa) s = execCtxload c xd xa s := rfl
@[simp] theorem exec_ctxloadTeam c xd xa xc (s : State) : exec (.ctxloadTeam c xd xa xc) s = execCtxloadTeam c xd xa xc s := rfl
@[simp] theorem exec_tinvUnmap c xa xb (s : State) : exec (.tinvUnmap c xa xb) s = execTinvUnmap c xa xb s := rfl
@[simp] theorem exec_tinvDowngrade c xa xb (s : State) : exec (.tinvDowngrade c xa xb) s = execTinvDowngrade c xa xb s := rfl
@[simp] theorem exec_tinvUnmapAll c xb (s : State) : exec (.tinvUnmapAll c xb) s = execTinvUnmapAll c xb s := rfl
@[simp] theorem exec_selftestArray c xd xa (s : State) : exec (.selftestArray c xd xa) s = execSelftestArray c xd xa s := rfl
@[simp] theorem exec_selftestBank c xd xa (s : State) : exec (.selftestBank c xd xa) s = execSelftestBank c xd xa s := rfl
@[simp] theorem exec_pairAdd d o (s : State) : exec (.pairAdd d o) s = execPairAdd d o s := rfl
@[simp] theorem exec_pairSub d o (s : State) : exec (.pairSub d o) s = execPairSub d o s := rfl
@[simp] theorem exec_pairAnd d o (s : State) : exec (.pairAnd d o) s = execPairAnd d o s := rfl
@[simp] theorem exec_pairOr d o (s : State) : exec (.pairOr d o) s = execPairOr d o s := rfl
@[simp] theorem exec_pairXor d o (s : State) : exec (.pairXor d o) s = execPairXor d o s := rfl
@[simp] theorem exec_pairShl d o (s : State) : exec (.pairShl d o) s = execPairShl d o s := rfl
@[simp] theorem exec_pairShr d o (s : State) : exec (.pairShr d o) s = execPairShr d o s := rfl
@[simp] theorem exec_pairSar d o (s : State) : exec (.pairSar d o) s = execPairSar d o s := rfl
@[simp] theorem exec_pairMinS32 d o (s : State) : exec (.pairMinS32 d o) s = execPairMinS32 d o s := rfl
@[simp] theorem exec_pairMinB32 d o (s : State) : exec (.pairMinB32 d o) s = execPairMinB32 d o s := rfl
@[simp] theorem exec_pairMaxS32 d o (s : State) : exec (.pairMaxS32 d o) s = execPairMaxS32 d o s := rfl
@[simp] theorem exec_pairMaxB32 d o (s : State) : exec (.pairMaxB32 d o) s = execPairMaxB32 d o s := rfl
@[simp] theorem exec_pairMov d o (s : State) : exec (.pairMov d o) s = execPairMov d o s := rfl
@[simp] theorem exec_pairFadd d o (s : State) : exec (.pairFadd d o) s = execPairFadd d o s := rfl
@[simp] theorem exec_pairFmul d o (s : State) : exec (.pairFmul d o) s = execPairFmul d o s := rfl
@[simp] theorem exec_pairFmin d o (s : State) : exec (.pairFmin d o) s = execPairFmin d o s := rfl
@[simp] theorem exec_pairFmax d o (s : State) : exec (.pairFmax d o) s = execPairFmax d o s := rfl
@[simp] theorem exec_remoteOrHostAccessArrival at_ pa write size (s : State) : exec (.remoteOrHostAccessArrival at_ pa write size) s = execRemoteOrHostAccessArrival at_ pa write size s := rfl
@[simp] theorem exec_queuePairGrant q asp (s : State) : exec (.queuePairGrant q asp) s = execQueuePairGrant q asp s := rfl
@[simp] theorem exec_firmwareLaunchStart num lrec asp (s : State) : exec (.firmwareLaunchStart num lrec asp) s = execFirmwareLaunchStart num lrec asp s := rfl
@[simp] theorem exec_escalatedTeamEnd team saved (s : State) : exec (.escalatedTeamEnd team saved) s = execEscalatedTeamEnd team saved s := rfl
@[simp] theorem exec_recoveryFirmwareLoad signed digest (s : State) : exec (.recoveryFirmwareLoad signed digest) s = execRecoveryFirmwareLoad signed digest s := rfl
@[simp] theorem exec_maintenanceCompletion t acc (s : State) : exec (.maintenanceCompletion t acc) s = execMaintenanceCompletion t acc s := rfl
@[simp] theorem exec_prefCompletion t acc (s : State) : exec (.prefCompletion t acc) s = execPrefCompletion t acc s := rfl
@[simp] theorem exec_starvation (s : State) : exec (.starvation) s = execStarvation s := rfl
@[simp] theorem exec_yieldExclusionEnd (s : State) : exec (.yieldExclusionEnd) s = execYieldExclusionEnd s := rfl
@[simp] theorem exec_unitCommit (s : State) : exec (.unitCommit) s = execUnitCommit s := rfl
@[simp] theorem exec_trapRollback (s : State) : exec (.trapRollback) s = execTrapRollback s := rfl
@[simp] theorem exec_meetComplete (s : State) : exec (.meetComplete) s = execMeetComplete s := rfl
@[simp] theorem exec_tallocTimeout (s : State) : exec (.tallocTimeout) s = execTallocTimeout s := rfl
@[simp] theorem exec_leaseEvaluation (s : State) : exec (.leaseEvaluation) s = execLeaseEvaluation s := rfl
@[simp] theorem exec_leaseQuietDecay (s : State) : exec (.leaseQuietDecay) s = execLeaseQuietDecay s := rfl
@[simp] theorem exec_parkedTimeExpiry (s : State) : exec (.parkedTimeExpiry) s = execParkedTimeExpiry s := rfl
@[simp] theorem exec_protectionEnd (s : State) : exec (.protectionEnd) s = execProtectionEnd s := rfl
@[simp] theorem exec_publicationRequest (s : State) : exec (.publicationRequest) s = execPublicationRequest s := rfl
@[simp] theorem exec_publicationReply (s : State) : exec (.publicationReply) s = execPublicationReply s := rfl
@[simp] theorem exec_revocation (s : State) : exec (.revocation) s = execRevocation s := rfl
@[simp] theorem exec_registryRecall (s : State) : exec (.registryRecall) s = execRegistryRecall s := rfl
@[simp] theorem exec_reclassification (s : State) : exec (.reclassification) s = execReclassification s := rfl
@[simp] theorem exec_pageWalk (s : State) : exec (.pageWalk) s = execPageWalk s := rfl
@[simp] theorem exec_launchEnd (s : State) : exec (.launchEnd) s = execLaunchEnd s := rfl
@[simp] theorem exec_readyDeadlineExpiry (s : State) : exec (.readyDeadlineExpiry) s = execReadyDeadlineExpiry s := rfl
@[simp] theorem exec_preemptionDeadline (s : State) : exec (.preemptionDeadline) s = execPreemptionDeadline s := rfl
@[simp] theorem exec_submissionConsume (s : State) : exec (.submissionConsume) s = execSubmissionConsume s := rfl
@[simp] theorem exec_completionRecordWrite (s : State) : exec (.completionRecordWrite) s = execCompletionRecordWrite s := rfl
@[simp] theorem exec_queueEnable (s : State) : exec (.queueEnable) s = execQueueEnable s := rfl
@[simp] theorem exec_errClear (s : State) : exec (.errClear) s = execErrClear s := rfl
@[simp] theorem exec_portDown (s : State) : exec (.portDown) s = execPortDown s := rfl
@[simp] theorem exec_pairPnop (s : State) : exec (.pairPnop) s = execPairPnop s := rfl
@[simp] theorem exec_deviceReset (s : State) : exec (.deviceReset) s = execDeviceReset s := rfl
@[simp] theorem exec_flitError (s : State) : exec (.flitError) s = execFlitError s := rfl

end Sys2Proof.Machine
end

