-- ==== Sys2Proof/Laws/Maps.lean ====
section
/-! SUPPORT. The laws of sorted lists of key and value, and of memory: a read after a write, every other place
left alone, and the canonical form kept by every memory operation. -/

namespace Sys2Proof.Machine

section Lists

variable {α : Type}

@[simp] theorem find?_nil (j : Nat) : find? ([] : List (Nat × α)) j = none := rfl

@[simp] theorem find?_put_self (m : List (Nat × α)) (k : Nat) (v : α) : find? (put m k v) k = some v := by
  induction m with
  | nil => simp [put, find?]
  | cons e m ih =>
    obtain ⟨j, w⟩ := e
    rcases Nat.lt_trichotomy k j with h | h | h
    · simp [put, h, find?]
    · subst h; simp [put, find?]
    · simp [put, Nat.not_lt.mpr (Nat.le_of_lt h), Nat.ne_of_gt h, find?, ih]

theorem find?_put_ne (m : List (Nat × α)) {k j : Nat} (v : α) (h : j ≠ k) : find? (put m k v) j = find? m j := by
  induction m with
  | nil => simp [put, find?, h]
  | cons e m ih =>
    obtain ⟨i, w⟩ := e
    simp only [put]
    split
    · simp [find?, h]
    · split
      · subst_vars; simp [find?, h]
      · simp [find?, ih]

theorem find?_put (m : List (Nat × α)) (k j : Nat) (v : α) :
    find? (put m k v) j = if j = k then some v else find? m j := by
  split
  · subst_vars; simp
  · exact find?_put_ne m v ‹_›

@[simp] theorem find?_del_self (m : List (Nat × α)) (k : Nat) : find? (del m k) k = none := by
  induction m with
  | nil => rfl
  | cons e m ih =>
    obtain ⟨i, w⟩ := e
    simp only [del]
    split
    · exact ih
    · simp [find?, *]

theorem find?_del_ne (m : List (Nat × α)) {k j : Nat} (h : j ≠ k) : find? (del m k) j = find? m j := by
  induction m with
  | nil => rfl
  | cons e m ih =>
    obtain ⟨i, w⟩ := e
    simp only [del]
    split
    · subst_vars; simp [find?, h, ih]
    · simp [find?, ih]

@[simp] theorem findD_put_self (m : List (Nat × α)) (k : Nat) (v d : α) : findD (put m k v) k d = v := by
  simp [findD]

theorem findD_put_ne (m : List (Nat × α)) {k j : Nat} (v d : α) (h : j ≠ k) : findD (put m k v) j d = findD m j d := by
  simp [findD, find?_put_ne m v h]

theorem findD_putD [DecidableEq α] (d : α) (m : List (Nat × α)) (k j : Nat) (v : α) :
    findD (putD d m k v) j d = if j = k then v else findD m j d := by
  unfold putD
  by_cases hj : j = k
  · subst hj; split <;> simp [findD, *]
  · split <;> simp [findD, find?_del_ne m hj, find?_put_ne m v hj]

theorem find?_adjust (m : List (Nat × α)) (k j : Nat) (f : α → α) :
    find? (adjust m k f) j = if j = k then (find? m k).map f else find? m j := by
  unfold adjust
  cases h : find? m k with
  | none => by_cases hj : j = k <;> simp_all
  | some v => simp [find?_put]

/-! The canonical form. -/

theorem mem_put {m : List (Nat × α)} {k : Nat} {v : α} {e : Nat × α} (h : e ∈ put m k v) : e = (k, v) ∨ e ∈ m := by
  induction m with
  | nil => exact .inl (by simpa [put] using h)
  | cons x m ih =>
    obtain ⟨i, w⟩ := x
    simp only [put] at h
    split at h
    · simpa using h
    · split at h
      · rcases List.mem_cons.mp h with h | h
        · exact .inl h
        · exact .inr (List.mem_cons_of_mem _ h)
      · rcases List.mem_cons.mp h with h | h
        · exact .inr (by simp [h])
        · exact (ih h).imp id (List.mem_cons_of_mem _)

theorem mem_del {m : List (Nat × α)} {k : Nat} {e : Nat × α} (h : e ∈ del m k) : e ∈ m := by
  induction m with
  | nil => simp [del] at h
  | cons x m ih =>
    obtain ⟨i, w⟩ := x
    simp only [del] at h
    split at h
    · exact List.mem_cons_of_mem _ (ih h)
    · rcases List.mem_cons.mp h with h | h
      · simp [h]
      · exact List.mem_cons_of_mem _ (ih h)

theorem sorted_cons {e : Nat × α} {m : List (Nat × α)} :
    Sorted (e :: m) = true ↔ (∀ x ∈ m, e.1 < x.1) ∧ Sorted m = true := by
  simp [Sorted]

theorem sorted_put {m : List (Nat × α)} (h : Sorted m = true) (k : Nat) (v : α) : Sorted (put m k v) = true := by
  induction m with
  | nil => simp [put, Sorted]
  | cons e m ih =>
    obtain ⟨i, w⟩ := e
    obtain ⟨h1, h2⟩ := sorted_cons.mp h
    simp only [put]
    split
    · refine sorted_cons.mpr ⟨fun x hx => ?_, h⟩
      rcases List.mem_cons.mp hx with hx | hx
      · simpa [hx]
      · exact Nat.lt_trans ‹_› (h1 x hx)
    · split
      · subst_vars; exact sorted_cons.mpr ⟨h1, h2⟩
      · refine sorted_cons.mpr ⟨fun x hx => ?_, ih h2⟩
        rcases mem_put hx with hx | hx
        · subst hx; simp; omega
        · exact h1 x hx

theorem sorted_del {m : List (Nat × α)} (h : Sorted m = true) (k : Nat) : Sorted (del m k) = true := by
  induction m with
  | nil => rfl
  | cons e m ih =>
    obtain ⟨i, w⟩ := e
    obtain ⟨h1, h2⟩ := sorted_cons.mp h
    simp only [del]
    split
    · exact ih h2
    · exact sorted_cons.mpr ⟨fun x hx => h1 x (mem_del hx), ih h2⟩

theorem sorted_filter {m : List (Nat × α)} (h : Sorted m = true) (p : Nat × α → Bool) : Sorted (m.filter p) = true := by
  induction m with
  | nil => rfl
  | cons e m ih =>
    obtain ⟨h1, h2⟩ := sorted_cons.mp h
    simp only [List.filter_cons]
    split
    · exact sorted_cons.mpr ⟨fun x hx => h1 x (List.mem_of_mem_filter hx), ih h2⟩
    · exact ih h2

end Lists

@[simp] theorem Memory.wf_nil : Memory.wf [] = true := rfl

theorem Memory.wf_iff {m : Memory} : m.wf = true ↔ Sorted m = true ∧ ∀ e ∈ m, e.2 ≠ 0 := by
  simp [Memory.wf]

/-- A byte read after a byte written. -/
theorem Memory.read_write (m : Memory) (a b : Nat) (v : Byte) : (m.write a v).read b = if b = a then v else m.read b :=
  findD_putD 0 m a b v

/-- A byte written keeps the canonical form. -/
theorem Memory.wf_write {m : Memory} (h : m.wf = true) (a : Nat) (v : Byte) : (m.write a v).wf = true := by
  obtain ⟨hs, hz⟩ := Memory.wf_iff.mp h
  unfold Memory.write putD
  split
  · exact Memory.wf_iff.mpr ⟨sorted_del hs a, fun e he => hz e (mem_del he)⟩
  · refine Memory.wf_iff.mpr ⟨sorted_put hs a v, fun e he => ?_⟩
    rcases mem_put he with he | he
    · subst he; assumption
    · exact hz e he

/-- A number written keeps the canonical form. -/
theorem Memory.wf_writeN {m : Memory} (h : m.wf = true) (a n v : Nat) : (m.writeN a n v).wf = true := by
  induction n generalizing m a v with
  | zero => exact h
  | succ n ih => exact ih (Memory.wf_write h _ _) _ _

/-- Some bytes left out keep the canonical form. -/
theorem Memory.wf_filter {m : Memory} (h : m.wf = true) (p : Host.Cell → Bool) : Memory.wf (m.filter p) = true := by
  obtain ⟨hs, hz⟩ := Memory.wf_iff.mp h
  exact Memory.wf_iff.mpr ⟨sorted_filter hs p, fun e he => hz e (List.mem_of_mem_filter he)⟩

/-- A number written leaves every byte outside its span alone. -/
theorem Memory.read_writeN_of_outside (m : Memory) (a n v b : Nat) (h : b < a ∨ a + n ≤ b) :
    (m.writeN a n v).read b = m.read b := by
  induction n generalizing m a v with
  | zero => rfl
  | succ n ih =>
    rw [Memory.writeN, ih _ _ _ (by omega), Memory.read_write, if_neg (by omega)]

/-- A number read depends on the bytes of its span alone. -/
theorem Memory.readN_congr {m m' : Memory} (a n : Nat) (h : ∀ b, a ≤ b → b < a + n → m.read b = m'.read b) :
    m.readN a n = m'.readN a n := by
  induction n generalizing a with
  | zero => rfl
  | succ n ih =>
    rw [Memory.readN, Memory.readN, h a (by omega) (by omega), ih (a + 1) (fun b h1 h2 => h b (by omega) (by omega))]

/-- A number read back where it was written is its residue modulo the span (R9). -/
theorem Memory.readN_writeN (m : Memory) (a n v : Nat) : (m.writeN a n v).readN a n = v % 256 ^ n := by
  induction n generalizing m a v with
  | zero => simp [Memory.readN, Nat.mod_one]
  | succ n ih =>
    rw [Memory.readN, Memory.writeN, ih, Memory.read_writeN_of_outside _ _ _ _ _ (by omega), Memory.read_write, if_pos rfl]
    rw [BitVec.toNat_ofNat, show (2 : Nat) ^ 8 = 256 from rfl, Nat.pow_succ', Nat.mod_mul]

end Sys2Proof.Machine
end

