-- ==== Sys2Proof/Laws/Ops.lean ====
section
/-! SUPPORT. What the shared operations of a unit do, each once: the gate, the register operands, and the issue of
a unit that computes registers. -/

namespace Sys2Proof.Machine

/-! Register writes. -/

@[simp] theorem lastWrite_nil (r : Reg) : lastWrite [] r = none := rfl

theorem lastWrite_append (xs ys : List (Reg × Word)) (r : Reg) :
    lastWrite (xs ++ ys) r = (lastWrite ys r).orElse fun _ => lastWrite xs r := by
  simp only [lastWrite, List.reverse_append, List.find?_append]
  cases List.find? (fun w => w.1 == r) ys.reverse <;> simp

theorem lastWrite_cons (x : Reg × Word) (xs : List (Reg × Word)) (r : Reg) :
    lastWrite (x :: xs) r = (lastWrite xs r).orElse fun _ => if x.1 = r then some x.2 else none := by
  rw [show x :: xs = [x] ++ xs from rfl, lastWrite_append]
  congr 1; funext _
  by_cases h : x.1 = r <;> simp [lastWrite, h]

theorem reg_toNat_inj {r q : Reg} : r.toNat = q.toNat ↔ r = q := BitVec.toNat_inj

/-- One register written with K = 0 (R22). -/
theorem stored_write (th : Thread) (seq : Nat) (q r : Reg) (v : Word) :
    (th.write false seq q v).stored r = if r = q then v else th.stored r := by
  simp [Thread.write, Thread.stored, findD_putD, reg_toNat_inj]

/-- One register written with K = 1 leaves every stored value alone (R22). -/
theorem stored_write_k (th : Thread) (seq : Nat) (q r : Reg) (v : Word) :
    (th.write true seq q v).stored r = th.stored r := rfl

/-- The context after register writes differs in the K-marked writes in reach only. -/
theorem writes_eq (th : Thread) (k : Bool) (seq : Nat) (ws : List (Reg × Word)) :
    th.writes k seq ws = { th with
      regs := (th.writes k seq ws).regs, ctx := { th.ctx with fwd := (th.writes k seq ws).ctx.fwd } } := by
  induction ws generalizing th with
  | nil => rfl
  | cons w ws ih =>
    obtain ⟨r, v⟩ := w
    rw [Thread.writes, ih]
    cases k <;> simp [Thread.write]

/-- Registers written in order: the last write of a register stands. -/
theorem stored_writes (th : Thread) (seq : Nat) (ws : List (Reg × Word)) (r : Reg) :
    (th.writes false seq ws).stored r = (lastWrite ws r).getD (th.stored r) := by
  induction ws generalizing th with
  | nil => rfl
  | cons w ws ih =>
    obtain ⟨q, v⟩ := w
    rw [Thread.writes, ih, stored_write, lastWrite_cons]
    cases lastWrite ws r with
    | some x => simp
    | none => by_cases h : q = r <;> simp [h, Ne.symm (a := q) (b := r)]

theorem stored_writes_k (th : Thread) (seq : Nat) (ws : List (Reg × Word)) (r : Reg) :
    (th.writes true seq ws).stored r = th.stored r := by
  induction ws generalizing th with
  | nil => rfl
  | cons w ws ih => obtain ⟨q, v⟩ := w; rw [Thread.writes, ih, stored_write_k]

/-- What a reader at the sequence number of the write finds in reach for a register. -/
def Thread.inReach (th : Thread) (n : Nat) (r : Reg) : Option Fwd :=
  th.ctx.fwd.find? (fun f => f.reg == r.toNat && n - f.seq ≤ 7)

theorem read_eq (th : Thread) (r : Reg) :
    th.read r = match th.inReach th.nextSeq r with | some f => f.val | none => th.stored r := by
  unfold Thread.read Thread.inReach Thread.stored
  cases List.find? _ _ <;> rfl

theorem find?_filter_ne (fs : List Fwd) (n q : Nat) (r : Reg) :
    (fs.filter (fun f => f.reg != q)).find? (fun f => f.reg == r.toNat && n - f.seq ≤ 7)
      = if r.toNat = q then none else fs.find? (fun f => f.reg == r.toNat && n - f.seq ≤ 7) := by
  rw [List.find?_filter]
  split
  · rename_i h
    rw [List.find?_eq_none]
    intro f _
    simp only [bne_iff_ne, Bool.and_eq_true, beq_iff_eq, decide_eq_true_eq, not_and]
    intro h1 h2; omega
  · rename_i h
    congr 1; funext f
    by_cases hf : f.reg = r.toNat
    · simp [hf, h]
    · simp [hf]

theorem inReach_write (th : Thread) (k : Bool) (seq n : Nat) (q r : Reg) (v : Word) (h : n - seq ≤ 7) :
    (th.write k seq q v).inReach n r
      = if r = q then (if k then some ⟨q.toNat, v, seq⟩ else none) else th.inReach n r := by
  unfold Thread.write Thread.inReach
  cases k with
  | false =>
    simp only [Bool.false_eq_true, if_false]
    exact (find?_filter_ne _ _ _ _).trans (by simp only [reg_toNat_inj])
  | true =>
    simp only [if_true, List.find?_cons, find?_filter_ne, reg_toNat_inj]
    by_cases hr : r = q
    · simp [hr, h]
    · simp [hr, beq_eq_false_iff_ne.mpr (fun hq => hr (reg_toNat_inj.mp hq).symm)]

/-- The last write of a register is what a reader within seven units finds (R110). -/
theorem found_writes (th : Thread) (k : Bool) (seq n : Nat) (ws : List (Reg × Word)) (r : Reg) (h : n - seq ≤ 7) :
    (match (th.writes k seq ws).inReach n r with | some f => f.val | none => (th.writes k seq ws).stored r)
      = (lastWrite ws r).getD (match th.inReach n r with | some f => f.val | none => th.stored r) := by
  induction ws generalizing th with
  | nil => rfl
  | cons w ws ih =>
    obtain ⟨q, v⟩ := w
    rw [Thread.writes, ih, inReach_write _ _ _ _ _ _ _ h, lastWrite_cons]
    cases lastWrite ws r with
    | some x => rfl
    | none =>
      by_cases hr : r = q
      · subst hr; cases k <;> simp [stored_write]
      · cases k <;> simp [hr, Ne.symm hr, stored_write, stored_write_k]

/-- The registers after a unit's writes (R22, R110). -/
theorem regsAfter_writes (th : Thread) (k : Bool) (ws : List (Reg × Word)) (new : Thread)
    (hr : new.regs = (th.writes k th.nextSeq ws).regs)
    (hf : new.ctx.fwd = (th.writes k th.nextSeq ws).ctx.fwd) (hn : new.nextSeq = th.nextSeq + 1) :
    RegsAfter th new k ws := by
  have hs : ∀ r, new.stored r = (th.writes k th.nextSeq ws).stored r := fun r => by
    simp only [Thread.stored, hr]
  refine ⟨fun r => ?_, fun r v hv => ?_⟩
  · cases k with
    | false => rw [hs, stored_writes]; rfl
    | true => rw [hs, stored_writes_k]; rfl
  · have h := found_writes th k th.nextSeq (th.nextSeq + 1) ws r (by omega)
    rw [hv, Option.getD_some] at h
    rw [read_eq, hn, hs]
    simpa only [Thread.inReach, hf] using h

/-! Memory under a thread's update. -/

theorem sameMemory_refl (s : State) : SameMemory s s := ⟨fun _ => rfl, fun _ => rfl, fun _ => rfl⟩

/-- A change of a thread changes no byte. -/
theorem sameMemory_setThread (s : State) (t : Nat) (th : Thread) : SameMemory s (s.setThread t th) :=
  ⟨fun _ => rfl, fun _ => rfl, fun _ => rfl⟩

/-! The gate and the operands. -/

/-- A unit that passes comes to its own effect. -/
theorem unit_of_passes {s : State} {m : Mode} {c : Ctl} {e : Env} (h : Passes s m c e) (n : Nat) (k : Env → Outcome) :
    unit s m c n k = k e := by
  have hg : ¬(c.g != 0 && !m.held && e.guardSeen c.g.toNat == 2) = true ∧
      ¬(c.g != 0 && !m.held && (e.guardSeen c.g.toNat == 1) == c.gn) = true := by
    rcases h.guard with hg | hg | ⟨h1, h2⟩
    · simp [hg]
    · simp [hg]
    · have h1' : (e.guardSeen c.g.toNat == 2) = false := by rw [beq_eq_false_iff_ne]; exact h1
      have h3 : ((e.guardSeen c.g.toNat == 1) == c.gn) = false := by
        rw [beq_eq_false_iff_ne]
        cases hc : c.gn with
        | false => rw [h2.mpr hc]; decide
        | true => intro h; rw [beq_iff_eq] at h; exact absurd (h2.mp h) (by simp [hc])
      exact ⟨by simp only [h1', Bool.and_false, Bool.false_eq_true, not_false_eq_true], by simp only [h3, Bool.and_false, Bool.false_eq_true, not_false_eq_true]⟩
  unfold unit
  simp only [h.env, h.free, h.param, hg.1, hg.2, if_false, Bool.false_eq_true]
  by_cases hl : m.long = true
  · obtain ⟨f, hf, hr⟩ := h.flag hl
    simp [hl, hf, Nat.not_le.mpr hr]
  · simp [hl]

/-- Operands that can be read let the unit go on. -/
theorem operands_of_reads {s : State} {e : Env} {rs : List Reg} {s' : State} {e' : Env} (h : Reads s e rs s' e')
    (k : State → Env → Outcome) : operands s e rs k = k s' e' := by
  have : rs.any (fun r => e.th.pending.contains r) = false := by
    simpa using h.written
  simp only [operands, h.checks, this, h.env, Bool.false_eq_true, if_false]

/-- A unit with register operands that is ready comes to its own effect. -/
theorem unit_of_ready {s : State} {m : Mode} {c : Ctl} {rs : List Reg} {s' : State} {e' : Env}
    (h : Ready s m c rs s' e') (n : Nat) (k : State → Env → Outcome) :
    (unit s m c n fun e => operands s e rs k) = k s' e' := by
  obtain ⟨e, hp, hr⟩ := h.reaches
  rw [unit_of_passes hp, operands_of_reads hr]

/-- What issuing leaves of a thread (R34, R66). -/
theorem issued_eq (th : Thread) (clk : Nat) (next : Ctx) : th.issued clk next = { th with
    ctx := next, nextSeq := th.nextSeq + 1, wait := .none, gread := none, arriving := none
    yieldEnd := th.yieldAfter clk next.crem } := by
  simp only [Thread.issued, Thread.yieldAfter, Bool.and_eq_true, beq_iff_eq, Bool.not_eq_true', and_assoc]

/-! Units that compute registers. -/

/-- A unit that computes registers, once ready, issues. -/
theorem compute_of_ready {s : State} {c : Ctl} {srcs dsts : List Reg} {s' : State} {e : Env}
    (h : Ready s .queued c (srcs ++ dsts) s' e) (n : Nat) (f : Word → (Reg → Word) → AluOut) :
    compute s c n srcs dsts f = .next (computeIssue s' e c.k n srcs dsts (f e.th.ctx.fpc e.th.read)) :=
  unit_of_ready h n _

theorem computeIssue_computed (s : State) (e : Env) (k : Bool) (n : Nat) (srcs dsts : List Reg) (o : AluOut) :
    Computed s (computeIssue s e k n srcs dsts o) e k n srcs dsts o := by
  unfold Computed computeIssue
  simp only [List.any_append, ← Bool.or_eq_true]
  split
  · refine ⟨_, rfl, rfl, ?_, sameMemory_setThread _ _ _⟩
    cases dsts <;> rfl
  · cases ho : o.trap with
    | some ti => rfl
    | none =>
      refine ⟨_, rfl, ?_, ?_, sameMemory_setThread _ _ _⟩
      · exact regsAfter_writes _ _ _ _ rfl rfl (by
          show (e.th.writes k e.th.nextSeq o.writes).nextSeq + 1 = _
          rw [writes_eq])
      · unfold Thread.past
        simp only [Thread.enter, Thread.issued]
        rw [writes_eq]
        simp [Ctx.advance, WUnit.start]

/-- A meaning that is such a unit has the effect that `Computes` states. -/
theorem computes_of_eq {i : Instr} {c : Ctl} {n : Nat} {srcs dsts : List Reg} {f g : Word → (Reg → Word) → AluOut}
    (hi : ∀ s, exec i s = compute s c n srcs dsts g) (hf : ∀ fpc rd, g fpc rd = f fpc rd) :
    Computes i c n srcs dsts f := by
  intro s s' e h
  refine ⟨_, by rw [hi, compute_of_ready h], ?_⟩
  rw [hf]
  exact computeIssue_computed _ _ _ _ _ _ _

end Sys2Proof.Machine
end

