-- ==== Sys2Proof/Laws/Results.lean ====
section
/-! SUPPORT. How the shapes of Machine/Operands.lean meet the terms of Safety.lean: what a unit writes, and one
lemma for each shape. -/

namespace Sys2Proof.Machine

/-- A result without flags is one register written. -/
theorem out1_plain (fpc : Word) (r : Reg) (v : Word) : out1 fpc r (plain v) = word r v := by
  simp [out1, plain, word, fpTrap]

/-- A 64-bit result is a register pair written. -/
theorem out64_eq (r : Reg) (v : DWord) : out64 r v = Machine.pair r v := by
  have h0 : loWord v = v.setWidth 32 := by ext i; simp [loWord]
  have h1 : hiWord v = (v >>> 32).setWidth 32 := by ext i; simp [hiWord]
  simp only [out64, Machine.pair, write64, h0, h1]

theorem unaryResult_of {i : Ctl → Reg → Reg → Instr} {f g : Word → Word}
    (hi : ∀ c xd xa s, exec (i c xd xa) s = unary s c xd xa fun _ a => plain (g a)) (h : ∀ a, g a = f a) :
    UnaryResult i f :=
  fun c xd xa => computes_of_eq (hi c xd xa) fun _ _ => by rw [out1_plain, h]

theorem binaryResult_of {i : Ctl → Reg → Reg → Src2 → Instr} {imm : Imm → Word} {f g : Word → Word → Word}
    (hi : ∀ c xd xa v s, exec (i c xd xa v) s = binary s c xd xa v imm fun _ a b => plain (g a b))
    (h : ∀ a b, g a b = f a b) : BinaryResult i imm f :=
  fun c xd xa v => computes_of_eq (hi c xd xa v) fun _ _ => by rw [out1_plain, h]

theorem ternaryResult_of {i : Ctl → Reg → Reg → Reg → Reg → Instr} {f g : Word → Word → Word → Word}
    (hi : ∀ c xd xa xb xc s, exec (i c xd xa xb xc) s = ternary s c xd xa xb xc fun _ a b d => plain (g a b d))
    (h : ∀ a b d, g a b d = f a b d) : TernaryResult i f :=
  fun c xd xa xb xc => computes_of_eq (hi c xd xa xb xc) fun _ _ => by rw [out1_plain, h]

theorem pairShiftResult_of {i : Ctl → Reg → Reg → Src2 → Instr} {f : DWord → Nat → DWord} {g : DWord → Word → DWord}
    (hi : ∀ c xd xa v s, exec (i c xd xa v) s = shift64 s c xd xa v g) (h : ∀ a n, g a n = f a (n.toNat % 64)) :
    PairShiftResult i f :=
  fun c xd xa v => computes_of_eq (hi c xd xa v) fun _ _ => by rw [out64_eq, h, readPair_eq]

end Sys2Proof.Machine
end

