-- ==== Sys2Proof/Laws/FpResults.lean ====
section
/-! SUPPORT. How the shapes of the FP units meet the terms of Safety.lean (R131 to R138, R142). -/

namespace Sys2Proof.Machine

theorem fmodOp_a (md : BitVec 6) (x : Word) : fmodOp (mdA md) x = modified sign32 md 0 x := by
  simp [fmodOp, modified, mdA, sign32]

theorem fmodOp_b (md : BitVec 6) (x : Word) : fmodOp (mdB md) x = modified sign32 md 1 x := by
  simp [fmodOp, modified, mdB, sign32]

theorem fmodOp_c (md : BitVec 6) (x : Word) : fmodOp (mdC md) x = modified sign32 md 2 x := by
  simp [fmodOp, modified, mdC, sign32]

/-- One register written with flags, which trap when FPC enables one (R136). -/
theorem out1_fpWord (fpc : Word) (r : Reg) (v : FRes) : out1 fpc r v = fpWord fpc r v := by
  simp [out1, fpWord, fpTrap, enablesOf, trapOf, BitVec.and_comm, BitVec.ofNat_toNat]

theorem fpBinaryResult_of {i : Ctl → BitVec 6 → Reg → Reg → Src2 → Instr} {f : Rm → Word → Word → FRes}
    (hi : ∀ c md xd xa v s, exec (i c md xd xa v) s = fbinary s c md xd xa v f) : FpBinaryResult i f := by
  intro c md xd xa v
  simp only [fbinary, binary] at hi
  refine computes_of_eq (hi c md xd xa v) fun fpc rd => ?_
  rw [out1_fpWord]
  cases v with
  | reg r => simp only [Src2.isImm, Src2.value, fmodOp_a, fmodOp_b, Bool.false_eq_true, if_false]
  | imm n => simp only [Src2.isImm, Src2.value, fmodOp_a, if_true]

theorem fpUnaryResult_of {i : Ctl → BitVec 6 → Reg → Reg → Instr} {f : Rm → Word → FRes}
    (hi : ∀ c md xd xa s, exec (i c md xd xa) s = funary s c md xd xa f) : FpUnaryResult i f := by
  intro c md xd xa
  simp only [funary, unary] at hi
  refine computes_of_eq (hi c md xd xa) fun fpc rd => ?_
  rw [out1_fpWord]; simp only [fmodOp_a]

theorem flagResult_of {i : Ctl → Reg → Reg → Instr} {f g : Word → FRes}
    (hi : ∀ c xd xa s, exec (i c xd xa) s = unary s c xd xa fun _ a => g a) (h : ∀ a, g a = f a) :
    FlagResult i f := by
  intro c xd xa
  simp only [unary] at hi
  refine computes_of_eq (hi c xd xa) fun fpc rd => ?_
  rw [out1_fpWord, ← h]

end Sys2Proof.Machine
end

