-- ==== Sys2Proof/Laws/PerInstr.lean ====
section
/-! SUPPORT. For each instruction: the decoder reads from its fields and its literal the instruction itself (R17, R33, R42
to R51). -/

set_option linter.unusedSimpArgs false
set_option linter.unusedTactic false
set_option linter.unreachableTactic false

namespace Sys2Proof.Laws.RoundTrip

open Sys2Proof

/-- What the encoder writes into the fields, the decoder reads back. An event, a header or a pair slot has no fields. -/
def Statement (i : Instr) : Prop := ∀ f lit, i.toFields = some (f, lit) → ofFields f lit = .ok i

/-! Fields of an encoding. -/

section
variable (c : Ctl) (op d a b cf m : BitVec 8) (fs : BitVec 3)

theorem mk_ctl : (mk c op d a b cf fs m).ctl = c := by
  obtain ⟨g, gn, h, k, ru, fl⟩ := c
  have h1 : (BitVec.ofBool fl ++ m).getLsbD 8 = fl := by rw [BitVec.getLsbD_append]; cases fl <;> rfl
  simp only [mk, Fields.ctl, h1]
  cases gn <;> cases k <;> rfl

theorem mk_op : (mk c op d a b cf fs m).op = op := rfl
theorem mk_d : (mk c op d a b cf fs m).d = d := rfl
theorem mk_a : (mk c op d a b cf fs m).a = a := rfl
theorem mk_b : (mk c op d a b cf fs m).b = b := rfl
theorem mk_c : (mk c op d a b cf fs m).c = cf := rfl
theorem mk_fs : (mk c op d a b cf fs m).fs = fs := rfl

theorem mk_bit {i : Nat} (h : i < 8) : (mk c op d a b cf fs m).mod.getLsbD i = m.getLsbD i := by
  simp only [mk]
  rw [BitVec.getLsbD_append]
  simp only [h, if_true]

theorem mk_part {i n : Nat} (h : i + n ≤ 8) : (mk c op d a b cf fs m).mod.extractLsb' i n = m.extractLsb' i n := by
  refine BitVec.eq_of_getLsbD_eq fun j hj => ?_
  simp only [mk, BitVec.getLsbD_extractLsb', BitVec.getLsbD_append, show i + j < 8 from by omega, if_true]

theorem src2Of_mk (v : Src2) (h : m.getLsbD 7 = v.iBit.getLsbD 0) : src2Of (mk c op d a v.bField v.cField fs m) v.lit? = v := by
  unfold src2Of
  rw [mk_bit _ _ _ _ _ _ _ _ (by decide), h]
  rcases v with r | (x | x)
  · exact if_neg (show ¬ (0 : BitVec 1).getLsbD 0 = true from Bool.false_ne_true)
  · exact if_pos (show (1 : BitVec 1).getLsbD 0 = true from rfl)
  · exact if_pos (show (1 : BitVec 1).getLsbD 0 = true from rfl)

theorem immOf_mk (v : Imm) : immOf (mk c op d a b v.cField fs m) v.lit? = v := by cases v <;> rfl
end

/-! Parts of joined bits. -/

theorem part_low {p q : Nat} (x : BitVec p) (y : BitVec q) {n : Nat} (h : n ≤ q) : (x ++ y).extractLsb' 0 n = y.extractLsb' 0 n := by
  refine BitVec.eq_of_getLsbD_eq fun j hj => ?_
  simp only [BitVec.getLsbD_extractLsb', BitVec.getLsbD_append, show 0 + j < q from by omega, if_true]

theorem part_high {p q : Nat} (x : BitVec p) (y : BitVec q) {i n : Nat} (h : q ≤ i) : (x ++ y).extractLsb' i n = x.extractLsb' (i - q) n := by
  refine BitVec.eq_of_getLsbD_eq fun j hj => ?_
  simp only [BitVec.getLsbD_extractLsb', BitVec.getLsbD_append, show ¬ i + j < q from by omega, if_false,
    show i + j - q = i - q + j from by omega]

theorem part_all {p : Nat} (x : BitVec p) : x.extractLsb' 0 p = x := by
  refine BitVec.eq_of_getLsbD_eq fun j hj => ?_
  simp [BitVec.getLsbD_extractLsb', hj]

theorem join_part {p : Nat} (x : BitVec p) {i n k : Nat} : x.extractLsb' (i + k) n ++ x.extractLsb' i k = x.extractLsb' i (n + k) := by
  refine BitVec.eq_of_getLsbD_eq fun j hj => ?_
  rw [BitVec.getLsbD_append]
  by_cases h : j < k
  · simp [h, BitVec.getLsbD_extractLsb', show j < n + k from hj]
  · simp [h, BitVec.getLsbD_extractLsb', show j < n + k from hj, show j - k < n from by omega, show i + k + (j - k) = i + j from by omega]

theorem join32 (x : BitVec 32) : (x.extractLsb' 24 8 ++ x.extractLsb' 16 8 ++ x.extractLsb' 8 8 ++ x.extractLsb' 0 8 : BitVec 32) = x := by
  rw [show (x.extractLsb' 24 8 ++ x.extractLsb' 16 8 : BitVec 16) = x.extractLsb' 16 16 from join_part x (i := 16) (n := 8) (k := 8),
    show (x.extractLsb' 16 16 ++ x.extractLsb' 8 8 : BitVec 24) = x.extractLsb' 8 24 from join_part x (i := 8) (n := 16) (k := 8),
    show (x.extractLsb' 8 24 ++ x.extractLsb' 0 8 : BitVec 32) = x.extractLsb' 0 32 from join_part x (i := 0) (n := 24) (k := 8), part_all]

theorem join16 (x : BitVec 16) : (x.extractLsb' 8 8 ++ x.extractLsb' 0 8 : BitVec 16) = x := by
  rw [show (x.extractLsb' 8 8 ++ x.extractLsb' 0 8 : BitVec 16) = x.extractLsb' 0 16 from join_part x (i := 0) (n := 8) (k := 8), part_all]

theorem bit_of_bool (b : Bool) : (BitVec.ofBool b).getLsbD 0 = b := by cases b <;> rfl

theorem part_wide4 (x : BitVec 4) : (x.setWidth 8).extractLsb' 0 4 = x := by revert x; decide

theorem join12 (x : BitVec 12) : (((x.extractLsb' 8 4).setWidth 8).extractLsb' 0 4 ++ x.extractLsb' 0 8 : BitVec 12) = x := by
  rw [part_wide4, show (x.extractLsb' 8 4 ++ x.extractLsb' 0 8 : BitVec 12) = x.extractLsb' 0 12 from
    join_part x (i := 0) (n := 4) (k := 8), part_all]

theorem part_wide (x : BitVec 3) : (x.setWidth 8).extractLsb' 0 3 = x := by revert x; decide

/-! What each opcode reads. -/

theorem of_00 {f : Fields} {lit : Option (BitVec 62)} (h : f.op = 0x00) : ofFields f lit =
    .ok (.nop f.ctl) := by
  unfold ofFields; rw [h]; rfl
theorem of_01 {f : Fields} {lit : Option (BitVec 62)} (h : f.op = 0x01) : ofFields f lit =
    .ok (.br f.ctl (f.d ++ f.a ++ f.b ++ f.c)) := by
  unfold ofFields; rw [h]; rfl
theorem of_02 {f : Fields} {lit : Option (BitVec 62)} (h : f.op = 0x02) : ofFields f lit =
    .ok (.brc f.ctl (f.mod.extractLsb' 0 3) (f.mod.getLsbD 3) f.d f.a (f.b ++ f.c)) := by
  unfold ofFields; rw [h]; rfl
theorem of_03 {f : Fields} {lit : Option (BitVec 62)} (h : f.op = 0x03) : ofFields f lit =
    .ok (.brg f.ctl (f.d ++ f.a ++ f.b ++ f.c)) := by
  unfold ofFields; rw [h]; rfl
theorem of_04 {f : Fields} {lit : Option (BitVec 62)} (h : f.op = 0x04) : ofFields f lit =
    .ok (.jmp f.ctl f.a) := by
  unfold ofFields; rw [h]; rfl
theorem of_05 {f : Fields} {lit : Option (BitVec 62)} (h : f.op = 0x05) : ofFields f lit =
    .ok (.call f.ctl (f.d ++ f.a ++ f.b ++ f.c)) := by
  unfold ofFields; rw [h]; rfl
theorem of_06 {f : Fields} {lit : Option (BitVec 62)} (h : f.op = 0x06) : ofFields f lit =
    .ok (.callr f.ctl f.a) := by
  unfold ofFields; rw [h]; rfl
theorem of_07 {f : Fields} {lit : Option (BitVec 62)} (h : f.op = 0x07) : ofFields f lit =
    .ok (.ret f.ctl) := by
  unfold ofFields; rw [h]; rfl
theorem of_08 {f : Fields} {lit : Option (BitVec 62)} (h : f.op = 0x08) : ofFields f lit =
    .ok (.exit f.ctl) := by
  unfold ofFields; rw [h]; rfl
theorem of_09 {f : Fields} {lit : Option (BitVec 62)} (h : f.op = 0x09) : ofFields f lit =
    .ok (.refill f.ctl f.d) := by
  unfold ofFields; rw [h]; rfl
theorem of_0a {f : Fields} {lit : Option (BitVec 62)} (h : f.op = 0x0a) : ofFields f lit =
    .ok (.repack f.ctl f.a) := by
  unfold ofFields; rw [h]; rfl
theorem of_0b {f : Fields} {lit : Option (BitVec 62)} (h : f.op = 0x0b) : ofFields f lit =
    .ok (.yld f.ctl) := by
  unfold ofFields; rw [h]; rfl
theorem of_0c {f : Fields} {lit : Option (BitVec 62)} (h : f.op = 0x0c) : ofFields f lit =
    .ok (.trap f.ctl f.c) := by
  unfold ofFields; rw [h]; rfl
theorem of_0d {f : Fields} {lit : Option (BitVec 62)} (h : f.op = 0x0d) : ofFields f lit =
    .ok (.brk f.ctl) := by
  unfold ofFields; rw [h]; rfl
theorem of_0e {f : Fields} {lit : Option (BitVec 62)} (h : f.op = 0x0e) : ofFields f lit =
    .ok (.eret f.ctl) := by
  unfold ofFields; rw [h]; rfl
theorem of_10 {f : Fields} {lit : Option (BitVec 62)} (h : f.op = 0x10) : ofFields f lit =
    match (f.mod.extractLsb' 0 2).toNat with
      | 0 => .ok (.shflIdx f.ctl f.d f.a f.b)
      | 1 => .ok (.shflUp f.ctl f.d f.a f.c)
      | 2 => .ok (.shflDown f.ctl f.d f.a f.c)
      | 3 => .ok (.shflXor f.ctl f.d f.a f.c)
      | _ => .error 2 := by
  unfold ofFields; rw [h]; rfl
theorem of_11 {f : Fields} {lit : Option (BitVec 62)} (h : f.op = 0x11) : ofFields f lit =
    match (f.mod.extractLsb' 0 2).toNat with
      | 0 => .ok (.voteAny f.ctl f.d f.a)
      | 1 => .ok (.voteAll f.ctl f.d f.a)
      | 2 => .ok (.voteBallot f.ctl f.d f.a)
      | _ => .error 2 := by
  unfold ofFields; rw [h]; rfl
theorem of_12 {f : Fields} {lit : Option (BitVec 62)} (h : f.op = 0x12) : ofFields f lit =
    match (f.mod.extractLsb' 0 4).toNat with
      | 0 => .ok (.reduxAdd f.ctl f.d f.a)
      | 1 => .ok (.reduxMin f.ctl false f.d f.a)
      | 2 => .ok (.reduxMin f.ctl true f.d f.a)
      | 3 => .ok (.reduxMax f.ctl false f.d f.a)
      | 4 => .ok (.reduxMax f.ctl true f.d f.a)
      | 5 => .ok (.reduxAnd f.ctl f.d f.a)
      | 6 => .ok (.reduxOr f.ctl f.d f.a)
      | 7 => .ok (.reduxFadd f.ctl f.d f.a)
      | 8 => .ok (.reduxFmin f.ctl f.d f.a)
      | 9 => .ok (.reduxFmax f.ctl f.d f.a)
      | _ => .error 2 := by
  unfold ofFields; rw [h]; rfl
theorem of_13 {f : Fields} {lit : Option (BitVec 62)} (h : f.op = 0x13) : ofFields f lit =
    .ok (.meet f.ctl) := by
  unfold ofFields; rw [h]; rfl
theorem of_20 {f : Fields} {lit : Option (BitVec 62)} (h : f.op = 0x20) : ofFields f lit =
    match (f.mod.extractLsb' 0 1).toNat with
      | 0 => .ok (.add f.ctl f.d f.a (src2Of f lit))
      | 1 => .ok (.addSat f.ctl f.d f.a (src2Of f lit))
      | _ => .error 2 := by
  unfold ofFields; rw [h]; rfl
theorem of_21 {f : Fields} {lit : Option (BitVec 62)} (h : f.op = 0x21) : ofFields f lit =
    match (f.mod.extractLsb' 0 1).toNat with
      | 0 => .ok (.sub f.ctl f.d f.a (src2Of f lit))
      | 1 => .ok (.subSat f.ctl f.d f.a (src2Of f lit))
      | _ => .error 2 := by
  unfold ofFields; rw [h]; rfl
theorem of_22 {f : Fields} {lit : Option (BitVec 62)} (h : f.op = 0x22) : ofFields f lit =
    .ok (.addc f.ctl f.d f.a f.b f.c) := by
  unfold ofFields; rw [h]; rfl
theorem of_23 {f : Fields} {lit : Option (BitVec 62)} (h : f.op = 0x23) : ofFields f lit =
    .ok (.mul f.ctl f.d f.a (src2Of f lit)) := by
  unfold ofFields; rw [h]; rfl
theorem of_24 {f : Fields} {lit : Option (BitVec 62)} (h : f.op = 0x24) : ofFields f lit =
    .ok (.mulh f.ctl (f.mod.getLsbD 0) f.d f.a (src2Of f lit)) := by
  unfold ofFields; rw [h]; rfl
theorem of_25 {f : Fields} {lit : Option (BitVec 62)} (h : f.op = 0x25) : ofFields f lit =
    match (f.mod.extractLsb' 0 1).toNat with
      | 0 => .ok (.mad f.ctl f.d f.a f.b f.c)
      | 1 => .ok (.madS64 f.ctl f.d f.a f.b f.c)
      | _ => .error 2 := by
  unfold ofFields; rw [h]; rfl
theorem of_26 {f : Fields} {lit : Option (BitVec 62)} (h : f.op = 0x26) : ofFields f lit =
    .ok (.min f.ctl (f.mod.getLsbD 0) f.d f.a (src2Of f lit)) := by
  unfold ofFields; rw [h]; rfl
theorem of_27 {f : Fields} {lit : Option (BitVec 62)} (h : f.op = 0x27) : ofFields f lit =
    .ok (.max f.ctl (f.mod.getLsbD 0) f.d f.a (src2Of f lit)) := by
  unfold ofFields; rw [h]; rfl
theorem of_28 {f : Fields} {lit : Option (BitVec 62)} (h : f.op = 0x28) : ofFields f lit =
    .ok (.abs f.ctl f.d f.a) := by
  unfold ofFields; rw [h]; rfl
theorem of_29 {f : Fields} {lit : Option (BitVec 62)} (h : f.op = 0x29) : ofFields f lit =
    .ok (.and f.ctl f.d f.a (src2Of f lit)) := by
  unfold ofFields; rw [h]; rfl
theorem of_2a {f : Fields} {lit : Option (BitVec 62)} (h : f.op = 0x2a) : ofFields f lit =
    .ok (.or f.ctl f.d f.a (src2Of f lit)) := by
  unfold ofFields; rw [h]; rfl
theorem of_2b {f : Fields} {lit : Option (BitVec 62)} (h : f.op = 0x2b) : ofFields f lit =
    .ok (.xor f.ctl f.d f.a (src2Of f lit)) := by
  unfold ofFields; rw [h]; rfl
theorem of_2c {f : Fields} {lit : Option (BitVec 62)} (h : f.op = 0x2c) : ofFields f lit =
    .ok (.andn f.ctl f.d f.a (src2Of f lit)) := by
  unfold ofFields; rw [h]; rfl
theorem of_2d {f : Fields} {lit : Option (BitVec 62)} (h : f.op = 0x2d) : ofFields f lit =
    .ok (.not f.ctl f.d f.a) := by
  unfold ofFields; rw [h]; rfl
theorem of_2e {f : Fields} {lit : Option (BitVec 62)} (h : f.op = 0x2e) : ofFields f lit =
    .ok (.shl f.ctl (f.mod.getLsbD 0) f.d f.a (src2Of f lit)) := by
  unfold ofFields; rw [h]; rfl
theorem of_2f {f : Fields} {lit : Option (BitVec 62)} (h : f.op = 0x2f) : ofFields f lit =
    .ok (.shr f.ctl (f.mod.getLsbD 0) f.d f.a (src2Of f lit)) := by
  unfold ofFields; rw [h]; rfl
theorem of_30 {f : Fields} {lit : Option (BitVec 62)} (h : f.op = 0x30) : ofFields f lit =
    .ok (.sar f.ctl (f.mod.getLsbD 0) f.d f.a (src2Of f lit)) := by
  unfold ofFields; rw [h]; rfl
theorem of_31 {f : Fields} {lit : Option (BitVec 62)} (h : f.op = 0x31) : ofFields f lit =
    .ok (.rol f.ctl (f.mod.getLsbD 0) f.d f.a (src2Of f lit)) := by
  unfold ofFields; rw [h]; rfl
theorem of_32 {f : Fields} {lit : Option (BitVec 62)} (h : f.op = 0x32) : ofFields f lit =
    .ok (.clz f.ctl (f.mod.getLsbD 0) f.d f.a) := by
  unfold ofFields; rw [h]; rfl
theorem of_33 {f : Fields} {lit : Option (BitVec 62)} (h : f.op = 0x33) : ofFields f lit =
    .ok (.popc f.ctl (f.mod.getLsbD 0) f.d f.a) := by
  unfold ofFields; rw [h]; rfl
theorem of_34 {f : Fields} {lit : Option (BitVec 62)} (h : f.op = 0x34) : ofFields f lit =
    .ok (.brev f.ctl (f.mod.getLsbD 0) f.d f.a) := by
  unfold ofFields; rw [h]; rfl
theorem of_35 {f : Fields} {lit : Option (BitVec 62)} (h : f.op = 0x35) : ofFields f lit =
    .ok (.bfe f.ctl (f.mod.getLsbD 0) f.d f.a (src2Of f lit)) := by
  unfold ofFields; rw [h]; rfl
theorem of_36 {f : Fields} {lit : Option (BitVec 62)} (h : f.op = 0x36) : ofFields f lit =
    .ok (.bfi f.ctl f.d f.a f.b f.c) := by
  unfold ofFields; rw [h]; rfl
theorem of_37 {f : Fields} {lit : Option (BitVec 62)} (h : f.op = 0x37) : ofFields f lit =
    .ok (.prmt f.ctl f.d f.a f.b f.c) := by
  unfold ofFields; rw [h]; rfl
theorem of_38 {f : Fields} {lit : Option (BitVec 62)} (h : f.op = 0x38) : ofFields f lit =
    .ok (.sel f.ctl f.d f.a f.b f.c) := by
  unfold ofFields; rw [h]; rfl
theorem of_39 {f : Fields} {lit : Option (BitVec 62)} (h : f.op = 0x39) : ofFields f lit =
    .ok (.cmp f.ctl (f.mod.extractLsb' 0 3) (f.mod.getLsbD 3) f.d f.a (src2Of f lit)) := by
  unfold ofFields; rw [h]; rfl
theorem of_3a {f : Fields} {lit : Option (BitVec 62)} (h : f.op = 0x3a) : ofFields f lit =
    .ok (.add64 f.ctl f.d f.a (src2Of f lit)) := by
  unfold ofFields; rw [h]; rfl
theorem of_3b {f : Fields} {lit : Option (BitVec 62)} (h : f.op = 0x3b) : ofFields f lit =
    .ok (.lea f.ctl f.d f.a f.b (f.c.extractLsb' 0 3)) := by
  unfold ofFields; rw [h]; rfl
theorem of_3c {f : Fields} {lit : Option (BitVec 62)} (h : f.op = 0x3c) : ofFields f lit =
    .ok (.mov f.ctl f.d f.a) := by
  unfold ofFields; rw [h]; rfl
theorem of_3d {f : Fields} {lit : Option (BitVec 62)} (h : f.op = 0x3d) : ofFields f lit =
    match (f.mod.extractLsb' 0 1).toNat with
      | 0 => .ok (.liB32 f.ctl f.d (immOf f lit))
      | 1 => .ok (.liB64 f.ctl f.d (immOf f lit))
      | _ => .error 2 := by
  unfold ofFields; rw [h]; rfl
theorem of_50 {f : Fields} {lit : Option (BitVec 62)} (h : f.op = 0x50) : ofFields f lit =
    .ok (.fadd f.ctl (f.mod.extractLsb' 0 6) f.d f.a (src2Of f lit)) := by
  unfold ofFields; rw [h]; rfl
theorem of_51 {f : Fields} {lit : Option (BitVec 62)} (h : f.op = 0x51) : ofFields f lit =
    .ok (.fsub f.ctl (f.mod.extractLsb' 0 6) f.d f.a (src2Of f lit)) := by
  unfold ofFields; rw [h]; rfl
theorem of_52 {f : Fields} {lit : Option (BitVec 62)} (h : f.op = 0x52) : ofFields f lit =
    .ok (.fmul f.ctl (f.mod.extractLsb' 0 6) f.d f.a (src2Of f lit)) := by
  unfold ofFields; rw [h]; rfl
theorem of_53 {f : Fields} {lit : Option (BitVec 62)} (h : f.op = 0x53) : ofFields f lit =
    .ok (.ffma f.ctl (f.mod.extractLsb' 0 6) f.d f.a f.b f.c) := by
  unfold ofFields; rw [h]; rfl
theorem of_54 {f : Fields} {lit : Option (BitVec 62)} (h : f.op = 0x54) : ofFields f lit =
    .ok (.fmin f.ctl (f.mod.extractLsb' 0 6) f.d f.a (src2Of f lit)) := by
  unfold ofFields; rw [h]; rfl
theorem of_55 {f : Fields} {lit : Option (BitVec 62)} (h : f.op = 0x55) : ofFields f lit =
    .ok (.fmax f.ctl (f.mod.extractLsb' 0 6) f.d f.a (src2Of f lit)) := by
  unfold ofFields; rw [h]; rfl
theorem of_56 {f : Fields} {lit : Option (BitVec 62)} (h : f.op = 0x56) : ofFields f lit =
    .ok (.fcmp f.ctl (f.mod.extractLsb' 0 3) f.d f.a (src2Of f lit)) := by
  unfold ofFields; rw [h]; rfl
theorem of_57 {f : Fields} {lit : Option (BitVec 62)} (h : f.op = 0x57) : ofFields f lit =
    .ok (.frcp f.ctl (f.mod.extractLsb' 0 6) f.d f.a) := by
  unfold ofFields; rw [h]; rfl
theorem of_58 {f : Fields} {lit : Option (BitVec 62)} (h : f.op = 0x58) : ofFields f lit =
    .ok (.frsq f.ctl (f.mod.extractLsb' 0 6) f.d f.a) := by
  unfold ofFields; rw [h]; rfl
theorem of_59 {f : Fields} {lit : Option (BitVec 62)} (h : f.op = 0x59) : ofFields f lit =
    .ok (.fsqrt f.ctl (f.mod.extractLsb' 0 6) f.d f.a) := by
  unfold ofFields; rw [h]; rfl
theorem of_5a {f : Fields} {lit : Option (BitVec 62)} (h : f.op = 0x5a) : ofFields f lit =
    .ok (.fex2 f.ctl (f.mod.extractLsb' 0 6) f.d f.a) := by
  unfold ofFields; rw [h]; rfl
theorem of_5b {f : Fields} {lit : Option (BitVec 62)} (h : f.op = 0x5b) : ofFields f lit =
    .ok (.flg2 f.ctl (f.mod.extractLsb' 0 6) f.d f.a) := by
  unfold ofFields; rw [h]; rfl
theorem of_5c {f : Fields} {lit : Option (BitVec 62)} (h : f.op = 0x5c) : ofFields f lit =
    .ok (.fcls f.ctl f.d f.a) := by
  unfold ofFields; rw [h]; rfl
theorem of_5d {f : Fields} {lit : Option (BitVec 62)} (h : f.op = 0x5d) : ofFields f lit =
    match (f.mod.extractLsb' 0 4).toNat with
      | 0 => .ok (.fcvtF32S32 f.ctl f.d f.a)
      | 1 => .ok (.fcvtF32B32 f.ctl f.d f.a)
      | 2 => .ok (.fcvtS32F32 f.ctl f.d f.a)
      | 3 => .ok (.fcvtB32F32 f.ctl f.d f.a)
      | 4 => .ok (.fcvtF32Fs f.ctl f.fs f.d f.a)
      | 5 => .ok (.fcvtFsF32 f.ctl f.fs f.d f.a)
      | 6 => .ok (.fcvtFsF32Sat f.ctl f.fs f.d f.a)
      | 7 => .ok (.fcvtBf16x2F32 f.ctl f.d f.a f.b)
      | 8 => .ok (.fcvtBf16x2F32Sat f.ctl f.d f.a f.b)
      | 9 => .ok (.fcvtF32Bf16 f.ctl f.d f.a (f.c.getLsbD 0))
      | _ => .error 2 := by
  unfold ofFields; rw [h]; rfl
theorem of_60 {f : Fields} {lit : Option (BitVec 62)} (h : f.op = 0x60) : ofFields f lit =
    .ok (.fadd2Bf16 f.ctl (f.mod.extractLsb' 0 6) f.d f.a f.b) := by
  unfold ofFields; rw [h]; rfl
theorem of_61 {f : Fields} {lit : Option (BitVec 62)} (h : f.op = 0x61) : ofFields f lit =
    .ok (.fmul2Bf16 f.ctl (f.mod.extractLsb' 0 6) f.d f.a f.b) := by
  unfold ofFields; rw [h]; rfl
theorem of_62 {f : Fields} {lit : Option (BitVec 62)} (h : f.op = 0x62) : ofFields f lit =
    .ok (.ffma2Bf16 f.ctl (f.mod.extractLsb' 0 6) f.d f.a f.b f.c) := by
  unfold ofFields; rw [h]; rfl
theorem of_80 {f : Fields} {lit : Option (BitVec 62)} (h : f.op = 0x80) : ofFields f lit =
    .ok (.place f.ctl f.d f.c) := by
  unfold ofFields; rw [h]; rfl
theorem of_81 {f : Fields} {lit : Option (BitVec 62)} (h : f.op = 0x81) : ofFields f lit =
    .ok (.reloc f.ctl f.d f.c) := by
  unfold ofFields; rw [h]; rfl
theorem of_82 {f : Fields} {lit : Option (BitVec 62)} (h : f.op = 0x82) : ofFields f lit =
    .ok (.anch f.ctl f.d f.a) := by
  unfold ofFields; rw [h]; rfl
theorem of_83 {f : Fields} {lit : Option (BitVec 62)} (h : f.op = 0x83) : ofFields f lit =
    .ok (.xacq f.ctl) := by
  unfold ofFields; rw [h]; rfl
theorem of_84 {f : Fields} {lit : Option (BitVec 62)} (h : f.op = 0x84) : ofFields f lit =
    .ok (.xrel f.ctl) := by
  unfold ofFields; rw [h]; rfl
theorem of_85 {f : Fields} {lit : Option (BitVec 62)} (h : f.op = 0x85) : ofFields f lit =
    .ok (.ixld f.ctl f.d f.a (immOf f lit)) := by
  unfold ofFields; rw [h]; rfl
theorem of_86 {f : Fields} {lit : Option (BitVec 62)} (h : f.op = 0x86) : ofFields f lit =
    .ok (.ixst f.ctl f.a f.b (immOf f lit)) := by
  unfold ofFields; rw [h]; rfl
theorem of_87 {f : Fields} {lit : Option (BitVec 62)} (h : f.op = 0x87) : ofFields f lit =
    .ok (.rds f.ctl f.d f.a) := by
  unfold ofFields; rw [h]; rfl
theorem of_88 {f : Fields} {lit : Option (BitVec 62)} (h : f.op = 0x88) : ofFields f lit =
    .ok (.wrs f.ctl f.d f.a) := by
  unfold ofFields; rw [h]; rfl
theorem of_90 {f : Fields} {lit : Option (BitVec 62)} (h : f.op = 0x90) : ofFields f lit =
    .ok (.ld f.ctl (f.mod.extractLsb' 0 3) f.d f.a (immOf f lit)) := by
  unfold ofFields; rw [h]; rfl
theorem of_91 {f : Fields} {lit : Option (BitVec 62)} (h : f.op = 0x91) : ofFields f lit =
    .ok (.ldc f.ctl (f.mod.extractLsb' 0 2) (f.mod.extractLsb' 4 4) f.d f.a (immOf f lit)) := by
  unfold ofFields; rw [h]; rfl
theorem of_92 {f : Fields} {lit : Option (BitVec 62)} (h : f.op = 0x92) : ofFields f lit =
    .ok (.st f.ctl (f.mod.extractLsb' 0 3) f.a f.b (immOf f lit)) := by
  unfold ofFields; rw [h]; rfl
theorem of_93 {f : Fields} {lit : Option (BitVec 62)} (h : f.op = 0x93) : ofFields f lit =
    match (f.mod.extractLsb' 0 4).toNat with
      | 0 => .ok (.atomAdd f.ctl (f.mod.extractLsb' 4 2) (f.mod.getLsbD 6) f.d f.a f.b)
      | 1 => .ok (.atomMin f.ctl false (f.mod.extractLsb' 4 2) (f.mod.getLsbD 6) f.d f.a f.b)
      | 2 => .ok (.atomMin f.ctl true (f.mod.extractLsb' 4 2) (f.mod.getLsbD 6) f.d f.a f.b)
      | 3 => .ok (.atomMax f.ctl false (f.mod.extractLsb' 4 2) (f.mod.getLsbD 6) f.d f.a f.b)
      | 4 => .ok (.atomMax f.ctl true (f.mod.extractLsb' 4 2) (f.mod.getLsbD 6) f.d f.a f.b)
      | 5 => .ok (.atomAnd f.ctl (f.mod.extractLsb' 4 2) (f.mod.getLsbD 6) f.d f.a f.b)
      | 6 => .ok (.atomOr f.ctl (f.mod.extractLsb' 4 2) (f.mod.getLsbD 6) f.d f.a f.b)
      | 7 => .ok (.atomXor f.ctl (f.mod.extractLsb' 4 2) (f.mod.getLsbD 6) f.d f.a f.b)
      | 8 => .ok (.atomXchg f.ctl (f.mod.extractLsb' 4 2) (f.mod.getLsbD 6) f.d f.a f.b)
      | 9 => if f.mod.getLsbD 6 then .error 2 else .ok (.atomFadd f.ctl (f.mod.extractLsb' 4 2) f.d f.a f.b)
      | _ => .error 2 := by
  unfold ofFields; rw [h]; rfl
theorem of_94 {f : Fields} {lit : Option (BitVec 62)} (h : f.op = 0x94) : ofFields f lit =
    .ok (.cas f.ctl (f.mod.extractLsb' 4 2) (f.mod.getLsbD 6) f.d f.a f.b f.c) := by
  unfold ofFields; rw [h]; rfl
theorem of_95 {f : Fields} {lit : Option (BitVec 62)} (h : f.op = 0x95) : ofFields f lit =
    .ok (.acq f.ctl) := by
  unfold ofFields; rw [h]; rfl
theorem of_96 {f : Fields} {lit : Option (BitVec 62)} (h : f.op = 0x96) : ofFields f lit =
    .ok (.rel f.ctl) := by
  unfold ofFields; rw [h]; rfl
theorem of_97 {f : Fields} {lit : Option (BitVec 62)} (h : f.op = 0x97) : ofFields f lit =
    .ok (.fence f.ctl) := by
  unfold ofFields; rw [h]; rfl
theorem of_98 {f : Fields} {lit : Option (BitVec 62)} (h : f.op = 0x98) : ofFields f lit =
    .ok (.cclean f.ctl f.a f.b (immOf f lit)) := by
  unfold ofFields; rw [h]; rfl
theorem of_99 {f : Fields} {lit : Option (BitVec 62)} (h : f.op = 0x99) : ofFields f lit =
    .ok (.cinval f.ctl f.a f.b (immOf f lit)) := by
  unfold ofFields; rw [h]; rfl
theorem of_9a {f : Fields} {lit : Option (BitVec 62)} (h : f.op = 0x9a) : ofFields f lit =
    .ok (.pref f.ctl f.a f.b (immOf f lit)) := by
  unfold ofFields; rw [h]; rfl
theorem of_b0 {f : Fields} {lit : Option (BitVec 62)} (h : f.op = 0xb0) : ofFields f lit =
    .ok (.talloc f.ctl (f.mod.getLsbD 0) f.d f.a) := by
  unfold ofFields; rw [h]; rfl
theorem of_b1 {f : Fields} {lit : Option (BitVec 62)} (h : f.op = 0xb1) : ofFields f lit =
    .ok (.tfree f.ctl f.d) := by
  unfold ofFields; rw [h]; rfl
theorem of_b2 {f : Fields} {lit : Option (BitVec 62)} (h : f.op = 0xb2) : ofFields f lit =
    .ok (.tmap f.ctl f.d f.a f.b) := by
  unfold ofFields; rw [h]; rfl
theorem of_b3 {f : Fields} {lit : Option (BitVec 62)} (h : f.op = 0xb3) : ofFields f lit =
    .ok (.tcopy f.ctl f.d f.a f.b f.c) := by
  unfold ofFields; rw [h]; rfl
theorem of_b4 {f : Fields} {lit : Option (BitVec 62)} (h : f.op = 0xb4) : ofFields f lit =
    .ok (.tld f.ctl f.d f.a f.b) := by
  unfold ofFields; rw [h]; rfl
theorem of_b5 {f : Fields} {lit : Option (BitVec 62)} (h : f.op = 0xb5) : ofFields f lit =
    .ok (.tst f.ctl f.d f.a f.b) := by
  unfold ofFields; rw [h]; rfl
theorem of_b6 {f : Fields} {lit : Option (BitVec 62)} (h : f.op = 0xb6) : ofFields f lit =
    .ok (.tfill f.ctl f.d f.a f.b) := by
  unfold ofFields; rw [h]; rfl
theorem of_b7 {f : Fields} {lit : Option (BitVec 62)} (h : f.op = 0xb7) : ofFields f lit =
    .ok (.tadd f.ctl f.d f.a f.b) := by
  unfold ofFields; rw [h]; rfl
theorem of_b8 {f : Fields} {lit : Option (BitVec 62)} (h : f.op = 0xb8) : ofFields f lit =
    .ok (.tmul f.ctl f.d f.a f.b) := by
  unfold ofFields; rw [h]; rfl
theorem of_b9 {f : Fields} {lit : Option (BitVec 62)} (h : f.op = 0xb9) : ofFields f lit =
    .ok (.tfma f.ctl f.d f.a f.b) := by
  unfold ofFields; rw [h]; rfl
theorem of_ba {f : Fields} {lit : Option (BitVec 62)} (h : f.op = 0xba) : ofFields f lit =
    .ok (.tcvt f.ctl (f.mod.getLsbD 0) f.fs f.d f.a) := by
  unfold ofFields; rw [h]; rfl
theorem of_bb {f : Fields} {lit : Option (BitVec 62)} (h : f.op = 0xbb) : ofFields f lit =
    match (f.mod.extractLsb' 0 2).toNat with
      | 0 => .ok (.tredAdd f.ctl (f.c.getLsbD 0) f.d f.a)
      | 1 => .ok (.tredMax f.ctl (f.c.getLsbD 0) f.d f.a)
      | 2 => .ok (.tredMin f.ctl (f.c.getLsbD 0) f.d f.a)
      | _ => .error 2 := by
  unfold ofFields; rw [h]; rfl
theorem of_bc {f : Fields} {lit : Option (BitVec 62)} (h : f.op = 0xbc) : ofFields f lit =
    .ok (.ttr f.ctl f.d f.a) := by
  unfold ofFields; rw [h]; rfl
theorem of_c0 {f : Fields} {lit : Option (BitVec 62)} (h : f.op = 0xc0) : ofFields f lit =
    .ok (.mplane f.ctl f.fs f.d f.a f.b) := by
  unfold ofFields; rw [h]; rfl
theorem of_c1 {f : Fields} {lit : Option (BitVec 62)} (h : f.op = 0xc1) : ofFields f lit =
    .ok (.mma f.ctl f.d f.a f.b) := by
  unfold ofFields; rw [h]; rfl
theorem of_c2 {f : Fields} {lit : Option (BitVec 62)} (h : f.op = 0xc2) : ofFields f lit =
    .ok (.mmas f.ctl f.d f.a f.b f.c) := by
  unfold ofFields; rw [h]; rfl
theorem of_c3 {f : Fields} {lit : Option (BitVec 62)} (h : f.op = 0xc3) : ofFields f lit =
    .ok (.gmm f.ctl f.d f.a f.b f.c) := by
  unfold ofFields; rw [h]; rfl
theorem of_c4 {f : Fields} {lit : Option (BitVec 62)} (h : f.op = 0xc4) : ofFields f lit =
    .ok (.mdrain f.ctl f.fs (f.c.getLsbD 3) (f.c.getLsbD 2) (f.c.extractLsb' 0 2) f.d f.a f.b) := by
  unfold ofFields; rw [h]; rfl
theorem of_c5 {f : Fields} {lit : Option (BitVec 62)} (h : f.op = 0xc5) : ofFields f lit =
    .ok (.mzero f.ctl f.d) := by
  unfold ofFields; rw [h]; rfl
theorem of_c6 {f : Fields} {lit : Option (BitVec 62)} (h : f.op = 0xc6) : ofFields f lit =
    .ok (.epild f.ctl f.d f.a) := by
  unfold ofFields; rw [h]; rfl
theorem of_d0 {f : Fields} {lit : Option (BitVec 62)} (h : f.op = 0xd0) : ofFields f lit =
    .ok (.fbind f.ctl f.fs f.d f.a f.b) := by
  unfold ofFields; rw [h]; rfl
theorem of_d1 {f : Fields} {lit : Option (BitVec 62)} (h : f.op = 0xd1) : ofFields f lit =
    .ok (.fget f.ctl f.d f.a f.b) := by
  unfold ofFields; rw [h]; rfl
theorem of_d2 {f : Fields} {lit : Option (BitVec 62)} (h : f.op = 0xd2) : ofFields f lit =
    .ok (.fgett f.ctl f.d f.a f.b f.c) := by
  unfold ofFields; rw [h]; rfl
theorem of_d3 {f : Fields} {lit : Option (BitVec 62)} (h : f.op = 0xd3) : ofFields f lit =
    .ok (.ksort f.ctl (f.mod.getLsbD 0) f.d f.a f.b f.c) := by
  unfold ofFields; rw [h]; rfl
theorem of_d4 {f : Fields} {lit : Option (BitVec 62)} (h : f.op = 0xd4) : ofFields f lit =
    .ok (.kpack f.ctl f.d f.a f.b f.c) := by
  unfold ofFields; rw [h]; rfl
theorem of_d5 {f : Fields} {lit : Option (BitVec 62)} (h : f.op = 0xd5) : ofFields f lit =
    .ok (.wtake f.ctl f.d) := by
  unfold ofFields; rw [h]; rfl
theorem of_d6 {f : Fields} {lit : Option (BitVec 62)} (h : f.op = 0xd6) : ofFields f lit =
    .ok (.wfix f.ctl f.d f.a f.b) := by
  unfold ofFields; rw [h]; rfl
theorem of_d7 {f : Fields} {lit : Option (BitVec 62)} (h : f.op = 0xd7) : ofFields f lit =
    .ok (.qpush f.ctl f.d f.a) := by
  unfold ofFields; rw [h]; rfl
theorem of_d8 {f : Fields} {lit : Option (BitVec 62)} (h : f.op = 0xd8) : ofFields f lit =
    match (f.mod.extractLsb' 0 1).toNat with
      | 0 => .ok (.qpop f.ctl f.d f.a)
      | 1 => .ok (.qpopAny f.ctl f.d)
      | _ => .error 2 := by
  unfold ofFields; rw [h]; rfl
theorem of_e0 {f : Fields} {lit : Option (BitVec 62)} (h : f.op = 0xe0) : ofFields f lit =
    .ok (.bari f.ctl f.a (immOf f lit)) := by
  unfold ofFields; rw [h]; rfl
theorem of_e1 {f : Fields} {lit : Option (BitVec 62)} (h : f.op = 0xe1) : ofFields f lit =
    .ok (.barr f.ctl f.d f.a) := by
  unfold ofFields; rw [h]; rfl
theorem of_e2 {f : Fields} {lit : Option (BitVec 62)} (h : f.op = 0xe2) : ofFields f lit =
    .ok (.barw f.ctl f.a f.b) := by
  unfold ofFields; rw [h]; rfl
theorem of_e3 {f : Fields} {lit : Option (BitVec 62)} (h : f.op = 0xe3) : ofFields f lit =
    .ok (.bars f.ctl f.a) := by
  unfold ofFields; rw [h]; rfl
theorem of_e4 {f : Fields} {lit : Option (BitVec 62)} (h : f.op = 0xe4) : ofFields f lit =
    .ok (.gset f.ctl (f.mod.extractLsb' 0 3) (f.mod.getLsbD 3) f.d f.a f.b) := by
  unfold ofFields; rw [h]; rfl
theorem of_e5 {f : Fields} {lit : Option (BitVec 62)} (h : f.op = 0xe5) : ofFields f lit =
    match f.c.toNat with
      | 1 => .ok (.gresOpen f.ctl f.d)
      | _ => .ok (.gres f.ctl f.d f.a) := by
  unfold ofFields; rw [h]; rfl
theorem of_e6 {f : Fields} {lit : Option (BitVec 62)} (h : f.op = 0xe6) : ofFields f lit =
    .ok (.gwait f.ctl f.d f.a) := by
  unfold ofFields; rw [h]; rfl
theorem of_e7 {f : Fields} {lit : Option (BitVec 62)} (h : f.op = 0xe7) : ofFields f lit =
    .ok (.fwait f.ctl (f.b.extractLsb' 0 4 ++ f.c)) := by
  unfold ofFields; rw [h]; rfl
theorem of_e8 {f : Fields} {lit : Option (BitVec 62)} (h : f.op = 0xe8) : ofFields f lit =
    .ok (.lease f.ctl (f.b.extractLsb' 0 4 ++ f.c)) := by
  unfold ofFields; rw [h]; rfl
theorem of_f0 {f : Fields} {lit : Option (BitVec 62)} (h : f.op = 0xf0) : ofFields f lit =
    .ok (.rowmaj f.ctl f.d f.a f.b f.c) := by
  unfold ofFields; rw [h]; rfl
theorem of_f1 {f : Fields} {lit : Option (BitVec 62)} (h : f.op = 0xf1) : ofFields f lit =
    .ok (.rowand f.ctl f.d f.a f.b) := by
  unfold ofFields; rw [h]; rfl
theorem of_f2 {f : Fields} {lit : Option (BitVec 62)} (h : f.op = 0xf2) : ofFields f lit =
    .ok (.rowor f.ctl f.d f.a f.b) := by
  unfold ofFields; rw [h]; rfl
theorem of_f3 {f : Fields} {lit : Option (BitVec 62)} (h : f.op = 0xf3) : ofFields f lit =
    .ok (.rownot f.ctl f.d f.a) := by
  unfold ofFields; rw [h]; rfl
theorem of_f4 {f : Fields} {lit : Option (BitVec 62)} (h : f.op = 0xf4) : ofFields f lit =
    .ok (.rowcp f.ctl f.d f.a) := by
  unfold ofFields; rw [h]; rfl
theorem of_f5 {f : Fields} {lit : Option (BitVec 62)} (h : f.op = 0xf5) : ofFields f lit =
    .ok (.bkfence f.ctl) := by
  unfold ofFields; rw [h]; rfl
theorem of_f8 {f : Fields} {lit : Option (BitVec 62)} (h : f.op = 0xf8) : ofFields f lit =
    match (f.mod.extractLsb' 0 1).toNat with
      | 0 => .ok (.ctxsave f.ctl f.d f.a f.b)
      | 1 => .ok (.ctxsaveTeam f.ctl f.d f.a f.b f.c)
      | _ => .error 2 := by
  unfold ofFields; rw [h]; rfl
theorem of_f9 {f : Fields} {lit : Option (BitVec 62)} (h : f.op = 0xf9) : ofFields f lit =
    match (f.mod.extractLsb' 0 1).toNat with
      | 0 => .ok (.ctxload f.ctl f.d f.a)
      | 1 => .ok (.ctxloadTeam f.ctl f.d f.a f.c)
      | _ => .error 2 := by
  unfold ofFields; rw [h]; rfl
theorem of_fa {f : Fields} {lit : Option (BitVec 62)} (h : f.op = 0xfa) : ofFields f lit =
    match f.c.toNat with
      | 1 => .ok (.tinvDowngrade f.ctl f.a f.b)
      | 2 => .ok (.tinvUnmapAll f.ctl f.b)
      | _ => .ok (.tinvUnmap f.ctl f.a f.b) := by
  unfold ofFields; rw [h]; rfl
theorem of_fb {f : Fields} {lit : Option (BitVec 62)} (h : f.op = 0xfb) : ofFields f lit =
    match f.c.toNat with
      | 1 => .ok (.selftestBank f.ctl f.d f.a)
      | _ => .ok (.selftestArray f.ctl f.d f.a) := by
  unfold ofFields; rw [h]; rfl

/-! One lemma for each constructor. -/

theorem clauseHeader (h : Header) : Statement (.clauseHeader h) := fun _ _ h => nomatch h
theorem operandSend (t seq : Nat) (r : Reg) : Statement (.operandSend t seq r) := fun _ _ h => nomatch h
theorem executeCommand (t seq : Nat) (err : Bool) : Statement (.executeCommand t seq err) := fun _ _ h => nomatch h
theorem tallocGrant (core : Nat) (lvl : BitVec 2) : Statement (.tallocGrant core lvl) := fun _ _ h => nomatch h
theorem jobDispatch (core job : Nat) : Statement (.jobDispatch core job) := fun _ _ h => nomatch h
theorem jobRetire (core job : Nat) : Statement (.jobRetire core job) := fun _ _ h => nomatch h
theorem arraySelfTest (core : Nat) (failed : BitVec 4) : Statement (.arraySelfTest core failed) := fun _ _ h => nomatch h
theorem engineFault (core job : Nat) (kind : BitVec 4) : Statement (.engineFault core job kind) := fun _ _ h => nomatch h
theorem engineFaultResume (core job : Nat) (resolved : Bool) : Statement (.engineFaultResume core job resolved) := fun _ _ h => nomatch h
theorem medlarActionStart (lid : Nat) (act : Nat) (frames : List Nat) : Statement (.medlarActionStart lid act frames) := fun _ _ h => nomatch h
theorem medlarActionComplete (lid : Nat) (act : Nat) : Statement (.medlarActionComplete lid act) := fun _ _ h => nomatch h
theorem loadReturn (t acc : Nat) : Statement (.loadReturn t acc) := fun _ _ h => nomatch h
theorem storePerform (t acc : Nat) : Statement (.storePerform t acc) := fun _ _ h => nomatch h
theorem publishDeadline (core line : Nat) : Statement (.publishDeadline core line) := fun _ _ h => nomatch h
theorem cleanDropDeadline (core line : Nat) : Statement (.cleanDropDeadline core line) := fun _ _ h => nomatch h
theorem atomicPerform (t acc : Nat) : Statement (.atomicPerform t acc) := fun _ _ h => nomatch h
theorem writebackError (what : WriteBack) (addr : Nat) : Statement (.writebackError what addr) := fun _ _ h => nomatch h
theorem movedRefusal (t acc : Nat) : Statement (.movedRefusal t acc) := fun _ _ h => nomatch h
theorem translationRequestCompletion (die : Nat) (pasid : Nat) (page : Nat) (result : Option AtsResult) : Statement (.translationRequestCompletion die pasid page result) := fun _ _ h => nomatch h
theorem invalidateRequest (pasid : Nat) (page count : Nat) : Statement (.invalidateRequest pasid page count) := fun _ _ h => nomatch h
theorem prgResponse (pasid : Nat) (page : Nat) (success : Bool) : Statement (.prgResponse pasid page success) := fun _ _ h => nomatch h
theorem priTimeout (pasid : Nat) (page : Nat) : Statement (.priTimeout pasid page) := fun _ _ h => nomatch h
theorem rowOperationStart (t acc : Nat) : Statement (.rowOperationStart t acc) := fun _ _ h => nomatch h
theorem rowOperationComplete (t acc : Nat) : Statement (.rowOperationComplete t acc) := fun _ _ h => nomatch h
theorem bankComputeError (t acc : Nat) (kind : BitVec 4) : Statement (.bankComputeError t acc kind) := fun _ _ h => nomatch h
theorem teamResident (lid : Nat) (core c0 : Nat) : Statement (.teamResident lid core c0) := fun _ _ h => nomatch h
theorem recordReplication (lid : Nat) (lrec : Nat) (asp : AddrSpace) : Statement (.recordReplication lid lrec asp) := fun _ _ h => nomatch h
theorem readyReport (lid : Nat) (didx : Nat) (ready : Bool) : Statement (.readyReport lid didx ready) := fun _ _ h => nomatch h
theorem startGen (lid : Nat) (gen : Word) : Statement (.startGen lid gen) := fun _ _ h => nomatch h
theorem abortGen (lid : Nat) (gen : Word) : Statement (.abortGen lid gen) := fun _ _ h => nomatch h
theorem preemptionRequest (lid : Nat) (prec : Nat) : Statement (.preemptionRequest lid prec) := fun _ _ h => nomatch h
theorem queueStop (q : Nat) (stop : Bool) : Statement (.queueStop q stop) := fun _ _ h => nomatch h
theorem sqtailWrite (q : Nat) (v : DWord) : Statement (.sqtailWrite q v) := fun _ _ h => nomatch h
theorem cqheadWrite (q : Nat) (v : DWord) : Statement (.cqheadWrite q v) := fun _ _ h => nomatch h
theorem registerWrite (q : Nat) (off : Nat) (v : DWord) : Statement (.registerWrite q off v) := fun _ _ h => nomatch h
theorem powerWindow (watts : Nat) : Statement (.powerWindow watts) := fun _ _ h => nomatch h
theorem temperatureLimit (die : Nat) (hot : Bool) : Statement (.temperatureLimit die hot) := fun _ _ h => nomatch h
theorem remoteAccessTimeout (t acc : Nat) : Statement (.remoteAccessTimeout t acc) := fun _ _ h => nomatch h
theorem dataLoss (root : Nat) (va : Nat) : Statement (.dataLoss root va) := fun _ _ h => nomatch h
theorem powerOn (signed : Bool) (boot : Boot) : Statement (.powerOn signed boot) := fun _ _ h => nomatch h
theorem attestationReport (nonce : BitVec 256) : Statement (.attestationReport nonce) := fun _ _ h => nomatch h
theorem nop (c : Ctl) : Statement (.nop c) := by
  intro f lit h; cases h; rw [of_00 rfl, mk_ctl] <;> rfl
theorem br (c : Ctl) (off : BitVec 32) : Statement (.br c off) := by
  intro f lit h; cases h; rw [of_01 rfl]
  simp only [mk_ctl, mk_d, mk_a, mk_b, mk_c, mk_fs, immOf_mk, mk_bit, mk_part, Nat.reduceAdd, Nat.reduceLeDiff, Nat.reduceLT]
  repeat (first
    | (rw [src2Of_mk _ _ _ _ _ _ _ (by repeat rw [BitVec.getLsbD_append]
                                       rfl)])
    | (rw [part_low]; case h => decide)
    | (rw [part_high]; case h => decide)
    | rw [part_all]
    | rw [BitVec.getLsbD_append]
    | rw [join32]
    | rw [join16]
    | rw [join12]
    | rw [part_wide])
  first | rfl | skip
theorem brc (c : Ctl) (cc : BitVec 3) (w64 : Bool) (xd xa : Reg) (off : BitVec 16) : Statement (.brc c cc w64 xd xa off) := by
  intro f lit h; cases h; rw [of_02 rfl]
  simp only [mk_ctl, mk_d, mk_a, mk_b, mk_c, mk_fs, immOf_mk, mk_bit, mk_part, Nat.reduceAdd, Nat.reduceLeDiff, Nat.reduceLT]
  repeat (first
    | (rw [src2Of_mk _ _ _ _ _ _ _ (by repeat rw [BitVec.getLsbD_append]
                                       rfl)])
    | (rw [part_low]; case h => decide)
    | (rw [part_high]; case h => decide)
    | rw [part_all]
    | rw [BitVec.getLsbD_append]
    | rw [join32]
    | rw [join16]
    | rw [join12]
    | rw [part_wide])
  first | rfl | (cases w64 <;> rfl)
theorem brg (c : Ctl) (off : BitVec 32) : Statement (.brg c off) := by
  intro f lit h; cases h; rw [of_03 rfl]
  simp only [mk_ctl, mk_d, mk_a, mk_b, mk_c, mk_fs, immOf_mk, mk_bit, mk_part, Nat.reduceAdd, Nat.reduceLeDiff, Nat.reduceLT]
  repeat (first
    | (rw [src2Of_mk _ _ _ _ _ _ _ (by repeat rw [BitVec.getLsbD_append]
                                       rfl)])
    | (rw [part_low]; case h => decide)
    | (rw [part_high]; case h => decide)
    | rw [part_all]
    | rw [BitVec.getLsbD_append]
    | rw [join32]
    | rw [join16]
    | rw [join12]
    | rw [part_wide])
  first | rfl | skip
theorem jmp (c : Ctl) (xa : Reg) : Statement (.jmp c xa) := by
  intro f lit h; cases h; rw [of_04 rfl, mk_ctl]; rfl
theorem call (c : Ctl) (off : BitVec 32) : Statement (.call c off) := by
  intro f lit h; cases h; rw [of_05 rfl]
  simp only [mk_ctl, mk_d, mk_a, mk_b, mk_c, mk_fs, immOf_mk, mk_bit, mk_part, Nat.reduceAdd, Nat.reduceLeDiff, Nat.reduceLT]
  repeat (first
    | (rw [src2Of_mk _ _ _ _ _ _ _ (by repeat rw [BitVec.getLsbD_append]
                                       rfl)])
    | (rw [part_low]; case h => decide)
    | (rw [part_high]; case h => decide)
    | rw [part_all]
    | rw [BitVec.getLsbD_append]
    | rw [join32]
    | rw [join16]
    | rw [join12]
    | rw [part_wide])
  first | rfl | skip
theorem callr (c : Ctl) (xa : Reg) : Statement (.callr c xa) := by
  intro f lit h; cases h; rw [of_06 rfl, mk_ctl]; rfl
theorem ret (c : Ctl) : Statement (.ret c) := by
  intro f lit h; cases h; rw [of_07 rfl, mk_ctl] <;> rfl
theorem exit (c : Ctl) : Statement (.exit c) := by
  intro f lit h; cases h; rw [of_08 rfl, mk_ctl] <;> rfl
theorem refill (c : Ctl) (xd : Reg) : Statement (.refill c xd) := by
  intro f lit h; cases h; rw [of_09 rfl, mk_ctl]; rfl
theorem repack (c : Ctl) (xa : Reg) : Statement (.repack c xa) := by
  intro f lit h; cases h; rw [of_0a rfl, mk_ctl]; rfl
theorem yld (c : Ctl) : Statement (.yld c) := by
  intro f lit h; cases h; rw [of_0b rfl, mk_ctl] <;> rfl
theorem trap (c : Ctl) (imm : BitVec 8) : Statement (.trap c imm) := by
  intro f lit h; cases h; rw [of_0c rfl, mk_ctl]; rfl
theorem brk (c : Ctl) : Statement (.brk c) := by
  intro f lit h; cases h; rw [of_0d rfl, mk_ctl] <;> rfl
theorem eret (c : Ctl) : Statement (.eret c) := by
  intro f lit h; cases h; rw [of_0e rfl, mk_ctl] <;> rfl
theorem shflIdx (c : Ctl) (xd xa xb : Reg) : Statement (.shflIdx c xd xa xb) := by
  intro f lit h; cases h; rw [of_10 rfl]
  simp only [mk_ctl, mk_d, mk_a, mk_b, mk_c, mk_fs, immOf_mk, mk_bit, mk_part, Nat.reduceAdd, Nat.reduceLeDiff, Nat.reduceLT]
  repeat (first
    | (rw [src2Of_mk _ _ _ _ _ _ _ (by repeat rw [BitVec.getLsbD_append]
                                       rfl)])
    | (rw [part_low]; case h => decide)
    | (rw [part_high]; case h => decide)
    | rw [part_all]
    | rw [BitVec.getLsbD_append]
    | rw [join32]
    | rw [join16]
    | rw [join12]
    | rw [part_wide])
  first | rfl | skip
theorem shflUp (c : Ctl) (xd xa : Reg) (n : BitVec 8) : Statement (.shflUp c xd xa n) := by
  intro f lit h; cases h; rw [of_10 rfl]
  simp only [mk_ctl, mk_d, mk_a, mk_b, mk_c, mk_fs, immOf_mk, mk_bit, mk_part, Nat.reduceAdd, Nat.reduceLeDiff, Nat.reduceLT]
  repeat (first
    | (rw [src2Of_mk _ _ _ _ _ _ _ (by repeat rw [BitVec.getLsbD_append]
                                       rfl)])
    | (rw [part_low]; case h => decide)
    | (rw [part_high]; case h => decide)
    | rw [part_all]
    | rw [BitVec.getLsbD_append]
    | rw [join32]
    | rw [join16]
    | rw [join12]
    | rw [part_wide])
  first | rfl | skip
theorem shflDown (c : Ctl) (xd xa : Reg) (n : BitVec 8) : Statement (.shflDown c xd xa n) := by
  intro f lit h; cases h; rw [of_10 rfl]
  simp only [mk_ctl, mk_d, mk_a, mk_b, mk_c, mk_fs, immOf_mk, mk_bit, mk_part, Nat.reduceAdd, Nat.reduceLeDiff, Nat.reduceLT]
  repeat (first
    | (rw [src2Of_mk _ _ _ _ _ _ _ (by repeat rw [BitVec.getLsbD_append]
                                       rfl)])
    | (rw [part_low]; case h => decide)
    | (rw [part_high]; case h => decide)
    | rw [part_all]
    | rw [BitVec.getLsbD_append]
    | rw [join32]
    | rw [join16]
    | rw [join12]
    | rw [part_wide])
  first | rfl | skip
theorem shflXor (c : Ctl) (xd xa : Reg) (n : BitVec 8) : Statement (.shflXor c xd xa n) := by
  intro f lit h; cases h; rw [of_10 rfl]
  simp only [mk_ctl, mk_d, mk_a, mk_b, mk_c, mk_fs, immOf_mk, mk_bit, mk_part, Nat.reduceAdd, Nat.reduceLeDiff, Nat.reduceLT]
  repeat (first
    | (rw [src2Of_mk _ _ _ _ _ _ _ (by repeat rw [BitVec.getLsbD_append]
                                       rfl)])
    | (rw [part_low]; case h => decide)
    | (rw [part_high]; case h => decide)
    | rw [part_all]
    | rw [BitVec.getLsbD_append]
    | rw [join32]
    | rw [join16]
    | rw [join12]
    | rw [part_wide])
  first | rfl | skip
theorem voteAny (c : Ctl) (xd xa : Reg) : Statement (.voteAny c xd xa) := by
  intro f lit h; cases h; rw [of_11 rfl]
  simp only [mk_ctl, mk_d, mk_a, mk_b, mk_c, mk_fs, immOf_mk, mk_bit, mk_part, Nat.reduceAdd, Nat.reduceLeDiff, Nat.reduceLT]
  repeat (first
    | (rw [src2Of_mk _ _ _ _ _ _ _ (by repeat rw [BitVec.getLsbD_append]
                                       rfl)])
    | (rw [part_low]; case h => decide)
    | (rw [part_high]; case h => decide)
    | rw [part_all]
    | rw [BitVec.getLsbD_append]
    | rw [join32]
    | rw [join16]
    | rw [join12]
    | rw [part_wide])
  first | rfl | skip
theorem voteAll (c : Ctl) (xd xa : Reg) : Statement (.voteAll c xd xa) := by
  intro f lit h; cases h; rw [of_11 rfl]
  simp only [mk_ctl, mk_d, mk_a, mk_b, mk_c, mk_fs, immOf_mk, mk_bit, mk_part, Nat.reduceAdd, Nat.reduceLeDiff, Nat.reduceLT]
  repeat (first
    | (rw [src2Of_mk _ _ _ _ _ _ _ (by repeat rw [BitVec.getLsbD_append]
                                       rfl)])
    | (rw [part_low]; case h => decide)
    | (rw [part_high]; case h => decide)
    | rw [part_all]
    | rw [BitVec.getLsbD_append]
    | rw [join32]
    | rw [join16]
    | rw [join12]
    | rw [part_wide])
  first | rfl | skip
theorem voteBallot (c : Ctl) (xd xa : Reg) : Statement (.voteBallot c xd xa) := by
  intro f lit h; cases h; rw [of_11 rfl]
  simp only [mk_ctl, mk_d, mk_a, mk_b, mk_c, mk_fs, immOf_mk, mk_bit, mk_part, Nat.reduceAdd, Nat.reduceLeDiff, Nat.reduceLT]
  repeat (first
    | (rw [src2Of_mk _ _ _ _ _ _ _ (by repeat rw [BitVec.getLsbD_append]
                                       rfl)])
    | (rw [part_low]; case h => decide)
    | (rw [part_high]; case h => decide)
    | rw [part_all]
    | rw [BitVec.getLsbD_append]
    | rw [join32]
    | rw [join16]
    | rw [join12]
    | rw [part_wide])
  first | rfl | skip
theorem reduxAdd (c : Ctl) (xd xa : Reg) : Statement (.reduxAdd c xd xa) := by
  intro f lit h; cases h; rw [of_12 rfl]
  simp only [mk_ctl, mk_d, mk_a, mk_b, mk_c, mk_fs, immOf_mk, mk_bit, mk_part, Nat.reduceAdd, Nat.reduceLeDiff, Nat.reduceLT]
  repeat (first
    | (rw [src2Of_mk _ _ _ _ _ _ _ (by repeat rw [BitVec.getLsbD_append]
                                       rfl)])
    | (rw [part_low]; case h => decide)
    | (rw [part_high]; case h => decide)
    | rw [part_all]
    | rw [BitVec.getLsbD_append]
    | rw [join32]
    | rw [join16]
    | rw [join12]
    | rw [part_wide])
  first | rfl | skip
theorem reduxMin (c : Ctl) (uns : Bool) (xd xa : Reg) : Statement (.reduxMin c uns xd xa) := by
  intro f lit h; cases h; rw [of_12 rfl]
  simp only [mk_ctl, mk_d, mk_a, mk_b, mk_c, mk_fs, immOf_mk, mk_bit, mk_part, Nat.reduceAdd, Nat.reduceLeDiff, Nat.reduceLT]
  repeat (first
    | (rw [src2Of_mk _ _ _ _ _ _ _ (by repeat rw [BitVec.getLsbD_append]
                                       rfl)])
    | (rw [part_low]; case h => decide)
    | (rw [part_high]; case h => decide)
    | rw [part_all]
    | rw [BitVec.getLsbD_append]
    | rw [join32]
    | rw [join16]
    | rw [join12]
    | rw [part_wide])
  first | rfl | (cases uns <;> rfl)
theorem reduxMax (c : Ctl) (uns : Bool) (xd xa : Reg) : Statement (.reduxMax c uns xd xa) := by
  intro f lit h; cases h; rw [of_12 rfl]
  simp only [mk_ctl, mk_d, mk_a, mk_b, mk_c, mk_fs, immOf_mk, mk_bit, mk_part, Nat.reduceAdd, Nat.reduceLeDiff, Nat.reduceLT]
  repeat (first
    | (rw [src2Of_mk _ _ _ _ _ _ _ (by repeat rw [BitVec.getLsbD_append]
                                       rfl)])
    | (rw [part_low]; case h => decide)
    | (rw [part_high]; case h => decide)
    | rw [part_all]
    | rw [BitVec.getLsbD_append]
    | rw [join32]
    | rw [join16]
    | rw [join12]
    | rw [part_wide])
  first | rfl | (cases uns <;> rfl)
theorem reduxAnd (c : Ctl) (xd xa : Reg) : Statement (.reduxAnd c xd xa) := by
  intro f lit h; cases h; rw [of_12 rfl]
  simp only [mk_ctl, mk_d, mk_a, mk_b, mk_c, mk_fs, immOf_mk, mk_bit, mk_part, Nat.reduceAdd, Nat.reduceLeDiff, Nat.reduceLT]
  repeat (first
    | (rw [src2Of_mk _ _ _ _ _ _ _ (by repeat rw [BitVec.getLsbD_append]
                                       rfl)])
    | (rw [part_low]; case h => decide)
    | (rw [part_high]; case h => decide)
    | rw [part_all]
    | rw [BitVec.getLsbD_append]
    | rw [join32]
    | rw [join16]
    | rw [join12]
    | rw [part_wide])
  first | rfl | skip
theorem reduxOr (c : Ctl) (xd xa : Reg) : Statement (.reduxOr c xd xa) := by
  intro f lit h; cases h; rw [of_12 rfl]
  simp only [mk_ctl, mk_d, mk_a, mk_b, mk_c, mk_fs, immOf_mk, mk_bit, mk_part, Nat.reduceAdd, Nat.reduceLeDiff, Nat.reduceLT]
  repeat (first
    | (rw [src2Of_mk _ _ _ _ _ _ _ (by repeat rw [BitVec.getLsbD_append]
                                       rfl)])
    | (rw [part_low]; case h => decide)
    | (rw [part_high]; case h => decide)
    | rw [part_all]
    | rw [BitVec.getLsbD_append]
    | rw [join32]
    | rw [join16]
    | rw [join12]
    | rw [part_wide])
  first | rfl | skip
theorem reduxFadd (c : Ctl) (xd xa : Reg) : Statement (.reduxFadd c xd xa) := by
  intro f lit h; cases h; rw [of_12 rfl]
  simp only [mk_ctl, mk_d, mk_a, mk_b, mk_c, mk_fs, immOf_mk, mk_bit, mk_part, Nat.reduceAdd, Nat.reduceLeDiff, Nat.reduceLT]
  repeat (first
    | (rw [src2Of_mk _ _ _ _ _ _ _ (by repeat rw [BitVec.getLsbD_append]
                                       rfl)])
    | (rw [part_low]; case h => decide)
    | (rw [part_high]; case h => decide)
    | rw [part_all]
    | rw [BitVec.getLsbD_append]
    | rw [join32]
    | rw [join16]
    | rw [join12]
    | rw [part_wide])
  first | rfl | skip
theorem reduxFmin (c : Ctl) (xd xa : Reg) : Statement (.reduxFmin c xd xa) := by
  intro f lit h; cases h; rw [of_12 rfl]
  simp only [mk_ctl, mk_d, mk_a, mk_b, mk_c, mk_fs, immOf_mk, mk_bit, mk_part, Nat.reduceAdd, Nat.reduceLeDiff, Nat.reduceLT]
  repeat (first
    | (rw [src2Of_mk _ _ _ _ _ _ _ (by repeat rw [BitVec.getLsbD_append]
                                       rfl)])
    | (rw [part_low]; case h => decide)
    | (rw [part_high]; case h => decide)
    | rw [part_all]
    | rw [BitVec.getLsbD_append]
    | rw [join32]
    | rw [join16]
    | rw [join12]
    | rw [part_wide])
  first | rfl | skip
theorem reduxFmax (c : Ctl) (xd xa : Reg) : Statement (.reduxFmax c xd xa) := by
  intro f lit h; cases h; rw [of_12 rfl]
  simp only [mk_ctl, mk_d, mk_a, mk_b, mk_c, mk_fs, immOf_mk, mk_bit, mk_part, Nat.reduceAdd, Nat.reduceLeDiff, Nat.reduceLT]
  repeat (first
    | (rw [src2Of_mk _ _ _ _ _ _ _ (by repeat rw [BitVec.getLsbD_append]
                                       rfl)])
    | (rw [part_low]; case h => decide)
    | (rw [part_high]; case h => decide)
    | rw [part_all]
    | rw [BitVec.getLsbD_append]
    | rw [join32]
    | rw [join16]
    | rw [join12]
    | rw [part_wide])
  first | rfl | skip
theorem meet (c : Ctl) : Statement (.meet c) := by
  intro f lit h; cases h; rw [of_13 rfl, mk_ctl] <;> rfl
theorem add (c : Ctl) (xd xa : Reg) (v : Src2) : Statement (.add c xd xa v) := by
  intro f lit h; cases h; rw [of_20 rfl]
  simp only [mk_ctl, mk_d, mk_a, mk_b, mk_c, mk_fs, immOf_mk, mk_bit, mk_part, Nat.reduceAdd, Nat.reduceLeDiff, Nat.reduceLT]
  repeat (first
    | (rw [src2Of_mk _ _ _ _ _ _ _ (by repeat rw [BitVec.getLsbD_append]
                                       rfl)])
    | (rw [part_low]; case h => decide)
    | (rw [part_high]; case h => decide)
    | rw [part_all]
    | rw [BitVec.getLsbD_append]
    | rw [join32]
    | rw [join16]
    | rw [join12]
    | rw [part_wide])
  first | rfl | skip
theorem addSat (c : Ctl) (xd xa : Reg) (v : Src2) : Statement (.addSat c xd xa v) := by
  intro f lit h; cases h; rw [of_20 rfl]
  simp only [mk_ctl, mk_d, mk_a, mk_b, mk_c, mk_fs, immOf_mk, mk_bit, mk_part, Nat.reduceAdd, Nat.reduceLeDiff, Nat.reduceLT]
  repeat (first
    | (rw [src2Of_mk _ _ _ _ _ _ _ (by repeat rw [BitVec.getLsbD_append]
                                       rfl)])
    | (rw [part_low]; case h => decide)
    | (rw [part_high]; case h => decide)
    | rw [part_all]
    | rw [BitVec.getLsbD_append]
    | rw [join32]
    | rw [join16]
    | rw [join12]
    | rw [part_wide])
  first | rfl | skip
theorem sub (c : Ctl) (xd xa : Reg) (v : Src2) : Statement (.sub c xd xa v) := by
  intro f lit h; cases h; rw [of_21 rfl]
  simp only [mk_ctl, mk_d, mk_a, mk_b, mk_c, mk_fs, immOf_mk, mk_bit, mk_part, Nat.reduceAdd, Nat.reduceLeDiff, Nat.reduceLT]
  repeat (first
    | (rw [src2Of_mk _ _ _ _ _ _ _ (by repeat rw [BitVec.getLsbD_append]
                                       rfl)])
    | (rw [part_low]; case h => decide)
    | (rw [part_high]; case h => decide)
    | rw [part_all]
    | rw [BitVec.getLsbD_append]
    | rw [join32]
    | rw [join16]
    | rw [join12]
    | rw [part_wide])
  first | rfl | skip
theorem subSat (c : Ctl) (xd xa : Reg) (v : Src2) : Statement (.subSat c xd xa v) := by
  intro f lit h; cases h; rw [of_21 rfl]
  simp only [mk_ctl, mk_d, mk_a, mk_b, mk_c, mk_fs, immOf_mk, mk_bit, mk_part, Nat.reduceAdd, Nat.reduceLeDiff, Nat.reduceLT]
  repeat (first
    | (rw [src2Of_mk _ _ _ _ _ _ _ (by repeat rw [BitVec.getLsbD_append]
                                       rfl)])
    | (rw [part_low]; case h => decide)
    | (rw [part_high]; case h => decide)
    | rw [part_all]
    | rw [BitVec.getLsbD_append]
    | rw [join32]
    | rw [join16]
    | rw [join12]
    | rw [part_wide])
  first | rfl | skip
theorem addc (c : Ctl) (xd xa xb xc : Reg) : Statement (.addc c xd xa xb xc) := by
  intro f lit h; cases h; rw [of_22 rfl, mk_ctl]; rfl
theorem mul (c : Ctl) (xd xa : Reg) (v : Src2) : Statement (.mul c xd xa v) := by
  intro f lit h; cases h; rw [of_23 rfl]
  simp only [mk_ctl, mk_d, mk_a, mk_b, mk_c, mk_fs, immOf_mk, mk_bit, mk_part, Nat.reduceAdd, Nat.reduceLeDiff, Nat.reduceLT]
  repeat (first
    | (rw [src2Of_mk _ _ _ _ _ _ _ (by repeat rw [BitVec.getLsbD_append]
                                       rfl)])
    | (rw [part_low]; case h => decide)
    | (rw [part_high]; case h => decide)
    | rw [part_all]
    | rw [BitVec.getLsbD_append]
    | rw [join32]
    | rw [join16]
    | rw [join12]
    | rw [part_wide])
  first | rfl | skip
theorem mulh (c : Ctl) (uns : Bool) (xd xa : Reg) (v : Src2) : Statement (.mulh c uns xd xa v) := by
  intro f lit h; cases h; rw [of_24 rfl]
  simp only [mk_ctl, mk_d, mk_a, mk_b, mk_c, mk_fs, immOf_mk, mk_bit, mk_part, Nat.reduceAdd, Nat.reduceLeDiff, Nat.reduceLT]
  repeat (first
    | (rw [src2Of_mk _ _ _ _ _ _ _ (by repeat rw [BitVec.getLsbD_append]
                                       rfl)])
    | (rw [part_low]; case h => decide)
    | (rw [part_high]; case h => decide)
    | rw [part_all]
    | rw [BitVec.getLsbD_append]
    | rw [join32]
    | rw [join16]
    | rw [join12]
    | rw [part_wide])
  first | rfl | (cases uns <;> rfl)
theorem mad (c : Ctl) (xd xa xb xc : Reg) : Statement (.mad c xd xa xb xc) := by
  intro f lit h; cases h; rw [of_25 rfl]
  simp only [mk_ctl, mk_d, mk_a, mk_b, mk_c, mk_fs, immOf_mk, mk_bit, mk_part, Nat.reduceAdd, Nat.reduceLeDiff, Nat.reduceLT]
  repeat (first
    | (rw [src2Of_mk _ _ _ _ _ _ _ (by repeat rw [BitVec.getLsbD_append]
                                       rfl)])
    | (rw [part_low]; case h => decide)
    | (rw [part_high]; case h => decide)
    | rw [part_all]
    | rw [BitVec.getLsbD_append]
    | rw [join32]
    | rw [join16]
    | rw [join12]
    | rw [part_wide])
  first | rfl | skip
theorem madS64 (c : Ctl) (xd xa xb xc : Reg) : Statement (.madS64 c xd xa xb xc) := by
  intro f lit h; cases h; rw [of_25 rfl]
  simp only [mk_ctl, mk_d, mk_a, mk_b, mk_c, mk_fs, immOf_mk, mk_bit, mk_part, Nat.reduceAdd, Nat.reduceLeDiff, Nat.reduceLT]
  repeat (first
    | (rw [src2Of_mk _ _ _ _ _ _ _ (by repeat rw [BitVec.getLsbD_append]
                                       rfl)])
    | (rw [part_low]; case h => decide)
    | (rw [part_high]; case h => decide)
    | rw [part_all]
    | rw [BitVec.getLsbD_append]
    | rw [join32]
    | rw [join16]
    | rw [join12]
    | rw [part_wide])
  first | rfl | skip
theorem min (c : Ctl) (uns : Bool) (xd xa : Reg) (v : Src2) : Statement (.min c uns xd xa v) := by
  intro f lit h; cases h; rw [of_26 rfl]
  simp only [mk_ctl, mk_d, mk_a, mk_b, mk_c, mk_fs, immOf_mk, mk_bit, mk_part, Nat.reduceAdd, Nat.reduceLeDiff, Nat.reduceLT]
  repeat (first
    | (rw [src2Of_mk _ _ _ _ _ _ _ (by repeat rw [BitVec.getLsbD_append]
                                       rfl)])
    | (rw [part_low]; case h => decide)
    | (rw [part_high]; case h => decide)
    | rw [part_all]
    | rw [BitVec.getLsbD_append]
    | rw [join32]
    | rw [join16]
    | rw [join12]
    | rw [part_wide])
  first | rfl | (cases uns <;> rfl)
theorem max (c : Ctl) (uns : Bool) (xd xa : Reg) (v : Src2) : Statement (.max c uns xd xa v) := by
  intro f lit h; cases h; rw [of_27 rfl]
  simp only [mk_ctl, mk_d, mk_a, mk_b, mk_c, mk_fs, immOf_mk, mk_bit, mk_part, Nat.reduceAdd, Nat.reduceLeDiff, Nat.reduceLT]
  repeat (first
    | (rw [src2Of_mk _ _ _ _ _ _ _ (by repeat rw [BitVec.getLsbD_append]
                                       rfl)])
    | (rw [part_low]; case h => decide)
    | (rw [part_high]; case h => decide)
    | rw [part_all]
    | rw [BitVec.getLsbD_append]
    | rw [join32]
    | rw [join16]
    | rw [join12]
    | rw [part_wide])
  first | rfl | (cases uns <;> rfl)
theorem abs (c : Ctl) (xd xa : Reg) : Statement (.abs c xd xa) := by
  intro f lit h; cases h; rw [of_28 rfl, mk_ctl]; rfl
theorem and (c : Ctl) (xd xa : Reg) (v : Src2) : Statement (.and c xd xa v) := by
  intro f lit h; cases h; rw [of_29 rfl]
  simp only [mk_ctl, mk_d, mk_a, mk_b, mk_c, mk_fs, immOf_mk, mk_bit, mk_part, Nat.reduceAdd, Nat.reduceLeDiff, Nat.reduceLT]
  repeat (first
    | (rw [src2Of_mk _ _ _ _ _ _ _ (by repeat rw [BitVec.getLsbD_append]
                                       rfl)])
    | (rw [part_low]; case h => decide)
    | (rw [part_high]; case h => decide)
    | rw [part_all]
    | rw [BitVec.getLsbD_append]
    | rw [join32]
    | rw [join16]
    | rw [join12]
    | rw [part_wide])
  first | rfl | skip
theorem or (c : Ctl) (xd xa : Reg) (v : Src2) : Statement (.or c xd xa v) := by
  intro f lit h; cases h; rw [of_2a rfl]
  simp only [mk_ctl, mk_d, mk_a, mk_b, mk_c, mk_fs, immOf_mk, mk_bit, mk_part, Nat.reduceAdd, Nat.reduceLeDiff, Nat.reduceLT]
  repeat (first
    | (rw [src2Of_mk _ _ _ _ _ _ _ (by repeat rw [BitVec.getLsbD_append]
                                       rfl)])
    | (rw [part_low]; case h => decide)
    | (rw [part_high]; case h => decide)
    | rw [part_all]
    | rw [BitVec.getLsbD_append]
    | rw [join32]
    | rw [join16]
    | rw [join12]
    | rw [part_wide])
  first | rfl | skip
theorem xor (c : Ctl) (xd xa : Reg) (v : Src2) : Statement (.xor c xd xa v) := by
  intro f lit h; cases h; rw [of_2b rfl]
  simp only [mk_ctl, mk_d, mk_a, mk_b, mk_c, mk_fs, immOf_mk, mk_bit, mk_part, Nat.reduceAdd, Nat.reduceLeDiff, Nat.reduceLT]
  repeat (first
    | (rw [src2Of_mk _ _ _ _ _ _ _ (by repeat rw [BitVec.getLsbD_append]
                                       rfl)])
    | (rw [part_low]; case h => decide)
    | (rw [part_high]; case h => decide)
    | rw [part_all]
    | rw [BitVec.getLsbD_append]
    | rw [join32]
    | rw [join16]
    | rw [join12]
    | rw [part_wide])
  first | rfl | skip
theorem andn (c : Ctl) (xd xa : Reg) (v : Src2) : Statement (.andn c xd xa v) := by
  intro f lit h; cases h; rw [of_2c rfl]
  simp only [mk_ctl, mk_d, mk_a, mk_b, mk_c, mk_fs, immOf_mk, mk_bit, mk_part, Nat.reduceAdd, Nat.reduceLeDiff, Nat.reduceLT]
  repeat (first
    | (rw [src2Of_mk _ _ _ _ _ _ _ (by repeat rw [BitVec.getLsbD_append]
                                       rfl)])
    | (rw [part_low]; case h => decide)
    | (rw [part_high]; case h => decide)
    | rw [part_all]
    | rw [BitVec.getLsbD_append]
    | rw [join32]
    | rw [join16]
    | rw [join12]
    | rw [part_wide])
  first | rfl | skip
theorem not (c : Ctl) (xd xa : Reg) : Statement (.not c xd xa) := by
  intro f lit h; cases h; rw [of_2d rfl, mk_ctl]; rfl
theorem shl (c : Ctl) (w64 : Bool) (xd xa : Reg) (v : Src2) : Statement (.shl c w64 xd xa v) := by
  intro f lit h; cases h; rw [of_2e rfl]
  simp only [mk_ctl, mk_d, mk_a, mk_b, mk_c, mk_fs, immOf_mk, mk_bit, mk_part, Nat.reduceAdd, Nat.reduceLeDiff, Nat.reduceLT]
  repeat (first
    | (rw [src2Of_mk _ _ _ _ _ _ _ (by repeat rw [BitVec.getLsbD_append]
                                       rfl)])
    | (rw [part_low]; case h => decide)
    | (rw [part_high]; case h => decide)
    | rw [part_all]
    | rw [BitVec.getLsbD_append]
    | rw [join32]
    | rw [join16]
    | rw [join12]
    | rw [part_wide])
  first | rfl | (cases w64 <;> rfl)
theorem shr (c : Ctl) (w64 : Bool) (xd xa : Reg) (v : Src2) : Statement (.shr c w64 xd xa v) := by
  intro f lit h; cases h; rw [of_2f rfl]
  simp only [mk_ctl, mk_d, mk_a, mk_b, mk_c, mk_fs, immOf_mk, mk_bit, mk_part, Nat.reduceAdd, Nat.reduceLeDiff, Nat.reduceLT]
  repeat (first
    | (rw [src2Of_mk _ _ _ _ _ _ _ (by repeat rw [BitVec.getLsbD_append]
                                       rfl)])
    | (rw [part_low]; case h => decide)
    | (rw [part_high]; case h => decide)
    | rw [part_all]
    | rw [BitVec.getLsbD_append]
    | rw [join32]
    | rw [join16]
    | rw [join12]
    | rw [part_wide])
  first | rfl | (cases w64 <;> rfl)
theorem sar (c : Ctl) (w64 : Bool) (xd xa : Reg) (v : Src2) : Statement (.sar c w64 xd xa v) := by
  intro f lit h; cases h; rw [of_30 rfl]
  simp only [mk_ctl, mk_d, mk_a, mk_b, mk_c, mk_fs, immOf_mk, mk_bit, mk_part, Nat.reduceAdd, Nat.reduceLeDiff, Nat.reduceLT]
  repeat (first
    | (rw [src2Of_mk _ _ _ _ _ _ _ (by repeat rw [BitVec.getLsbD_append]
                                       rfl)])
    | (rw [part_low]; case h => decide)
    | (rw [part_high]; case h => decide)
    | rw [part_all]
    | rw [BitVec.getLsbD_append]
    | rw [join32]
    | rw [join16]
    | rw [join12]
    | rw [part_wide])
  first | rfl | (cases w64 <;> rfl)
theorem rol (c : Ctl) (w64 : Bool) (xd xa : Reg) (v : Src2) : Statement (.rol c w64 xd xa v) := by
  intro f lit h; cases h; rw [of_31 rfl]
  simp only [mk_ctl, mk_d, mk_a, mk_b, mk_c, mk_fs, immOf_mk, mk_bit, mk_part, Nat.reduceAdd, Nat.reduceLeDiff, Nat.reduceLT]
  repeat (first
    | (rw [src2Of_mk _ _ _ _ _ _ _ (by repeat rw [BitVec.getLsbD_append]
                                       rfl)])
    | (rw [part_low]; case h => decide)
    | (rw [part_high]; case h => decide)
    | rw [part_all]
    | rw [BitVec.getLsbD_append]
    | rw [join32]
    | rw [join16]
    | rw [join12]
    | rw [part_wide])
  first | rfl | (cases w64 <;> rfl)
theorem clz (c : Ctl) (w64 : Bool) (xd xa : Reg) : Statement (.clz c w64 xd xa) := by
  intro f lit h; cases h; rw [of_32 rfl]
  simp only [mk_ctl, mk_d, mk_a, mk_b, mk_c, mk_fs, immOf_mk, mk_bit, mk_part, Nat.reduceAdd, Nat.reduceLeDiff, Nat.reduceLT]
  repeat (first
    | (rw [src2Of_mk _ _ _ _ _ _ _ (by repeat rw [BitVec.getLsbD_append]
                                       rfl)])
    | (rw [part_low]; case h => decide)
    | (rw [part_high]; case h => decide)
    | rw [part_all]
    | rw [BitVec.getLsbD_append]
    | rw [join32]
    | rw [join16]
    | rw [join12]
    | rw [part_wide])
  first | rfl | (cases w64 <;> rfl)
theorem popc (c : Ctl) (w64 : Bool) (xd xa : Reg) : Statement (.popc c w64 xd xa) := by
  intro f lit h; cases h; rw [of_33 rfl]
  simp only [mk_ctl, mk_d, mk_a, mk_b, mk_c, mk_fs, immOf_mk, mk_bit, mk_part, Nat.reduceAdd, Nat.reduceLeDiff, Nat.reduceLT]
  repeat (first
    | (rw [src2Of_mk _ _ _ _ _ _ _ (by repeat rw [BitVec.getLsbD_append]
                                       rfl)])
    | (rw [part_low]; case h => decide)
    | (rw [part_high]; case h => decide)
    | rw [part_all]
    | rw [BitVec.getLsbD_append]
    | rw [join32]
    | rw [join16]
    | rw [join12]
    | rw [part_wide])
  first | rfl | (cases w64 <;> rfl)
theorem brev (c : Ctl) (w64 : Bool) (xd xa : Reg) : Statement (.brev c w64 xd xa) := by
  intro f lit h; cases h; rw [of_34 rfl]
  simp only [mk_ctl, mk_d, mk_a, mk_b, mk_c, mk_fs, immOf_mk, mk_bit, mk_part, Nat.reduceAdd, Nat.reduceLeDiff, Nat.reduceLT]
  repeat (first
    | (rw [src2Of_mk _ _ _ _ _ _ _ (by repeat rw [BitVec.getLsbD_append]
                                       rfl)])
    | (rw [part_low]; case h => decide)
    | (rw [part_high]; case h => decide)
    | rw [part_all]
    | rw [BitVec.getLsbD_append]
    | rw [join32]
    | rw [join16]
    | rw [join12]
    | rw [part_wide])
  first | rfl | (cases w64 <;> rfl)
theorem bfe (c : Ctl) (uns : Bool) (xd xa : Reg) (v : Src2) : Statement (.bfe c uns xd xa v) := by
  intro f lit h; cases h; rw [of_35 rfl]
  simp only [mk_ctl, mk_d, mk_a, mk_b, mk_c, mk_fs, immOf_mk, mk_bit, mk_part, Nat.reduceAdd, Nat.reduceLeDiff, Nat.reduceLT]
  repeat (first
    | (rw [src2Of_mk _ _ _ _ _ _ _ (by repeat rw [BitVec.getLsbD_append]
                                       rfl)])
    | (rw [part_low]; case h => decide)
    | (rw [part_high]; case h => decide)
    | rw [part_all]
    | rw [BitVec.getLsbD_append]
    | rw [join32]
    | rw [join16]
    | rw [join12]
    | rw [part_wide])
  first | rfl | (cases uns <;> rfl)
theorem bfi (c : Ctl) (xd xa xb xc : Reg) : Statement (.bfi c xd xa xb xc) := by
  intro f lit h; cases h; rw [of_36 rfl, mk_ctl]; rfl
theorem prmt (c : Ctl) (xd xa xb xc : Reg) : Statement (.prmt c xd xa xb xc) := by
  intro f lit h; cases h; rw [of_37 rfl, mk_ctl]; rfl
theorem sel (c : Ctl) (xd xa xb xc : Reg) : Statement (.sel c xd xa xb xc) := by
  intro f lit h; cases h; rw [of_38 rfl, mk_ctl]; rfl
theorem cmp (c : Ctl) (cc : BitVec 3) (w64 : Bool) (xd xa : Reg) (v : Src2) : Statement (.cmp c cc w64 xd xa v) := by
  intro f lit h; cases h; rw [of_39 rfl]
  simp only [mk_ctl, mk_d, mk_a, mk_b, mk_c, mk_fs, immOf_mk, mk_bit, mk_part, Nat.reduceAdd, Nat.reduceLeDiff, Nat.reduceLT]
  repeat (first
    | (rw [src2Of_mk _ _ _ _ _ _ _ (by repeat rw [BitVec.getLsbD_append]
                                       rfl)])
    | (rw [part_low]; case h => decide)
    | (rw [part_high]; case h => decide)
    | rw [part_all]
    | rw [BitVec.getLsbD_append]
    | rw [join32]
    | rw [join16]
    | rw [join12]
    | rw [part_wide])
  first | rfl | (cases w64 <;> rfl)
theorem add64 (c : Ctl) (xd xa : Reg) (v : Src2) : Statement (.add64 c xd xa v) := by
  intro f lit h; cases h; rw [of_3a rfl]
  simp only [mk_ctl, mk_d, mk_a, mk_b, mk_c, mk_fs, immOf_mk, mk_bit, mk_part, Nat.reduceAdd, Nat.reduceLeDiff, Nat.reduceLT]
  repeat (first
    | (rw [src2Of_mk _ _ _ _ _ _ _ (by repeat rw [BitVec.getLsbD_append]
                                       rfl)])
    | (rw [part_low]; case h => decide)
    | (rw [part_high]; case h => decide)
    | rw [part_all]
    | rw [BitVec.getLsbD_append]
    | rw [join32]
    | rw [join16]
    | rw [join12]
    | rw [part_wide])
  first | rfl | skip
theorem lea (c : Ctl) (xd xa xb : Reg) (sh : BitVec 3) : Statement (.lea c xd xa xb sh) := by
  intro f lit h; cases h; rw [of_3b rfl]
  simp only [mk_ctl, mk_d, mk_a, mk_b, mk_c, mk_fs, immOf_mk, mk_bit, mk_part, Nat.reduceAdd, Nat.reduceLeDiff, Nat.reduceLT]
  repeat (first
    | (rw [src2Of_mk _ _ _ _ _ _ _ (by repeat rw [BitVec.getLsbD_append]
                                       rfl)])
    | (rw [part_low]; case h => decide)
    | (rw [part_high]; case h => decide)
    | rw [part_all]
    | rw [BitVec.getLsbD_append]
    | rw [join32]
    | rw [join16]
    | rw [join12]
    | rw [part_wide])
  first | rfl | skip
theorem mov (c : Ctl) (xd xa : Reg) : Statement (.mov c xd xa) := by
  intro f lit h; cases h; rw [of_3c rfl, mk_ctl]; rfl
theorem liB32 (c : Ctl) (xd : Reg) (imm : Imm) : Statement (.liB32 c xd imm) := by
  intro f lit h; cases h; rw [of_3d rfl]
  simp only [mk_ctl, mk_d, mk_a, mk_b, mk_c, mk_fs, immOf_mk, mk_bit, mk_part, Nat.reduceAdd, Nat.reduceLeDiff, Nat.reduceLT]
  repeat (first
    | (rw [src2Of_mk _ _ _ _ _ _ _ (by repeat rw [BitVec.getLsbD_append]
                                       rfl)])
    | (rw [part_low]; case h => decide)
    | (rw [part_high]; case h => decide)
    | rw [part_all]
    | rw [BitVec.getLsbD_append]
    | rw [join32]
    | rw [join16]
    | rw [join12]
    | rw [part_wide])
  first | rfl | skip
theorem liB64 (c : Ctl) (xd : Reg) (imm : Imm) : Statement (.liB64 c xd imm) := by
  intro f lit h; cases h; rw [of_3d rfl]
  simp only [mk_ctl, mk_d, mk_a, mk_b, mk_c, mk_fs, immOf_mk, mk_bit, mk_part, Nat.reduceAdd, Nat.reduceLeDiff, Nat.reduceLT]
  repeat (first
    | (rw [src2Of_mk _ _ _ _ _ _ _ (by repeat rw [BitVec.getLsbD_append]
                                       rfl)])
    | (rw [part_low]; case h => decide)
    | (rw [part_high]; case h => decide)
    | rw [part_all]
    | rw [BitVec.getLsbD_append]
    | rw [join32]
    | rw [join16]
    | rw [join12]
    | rw [part_wide])
  first | rfl | skip
theorem fadd (c : Ctl) (md : BitVec 6) (xd xa : Reg) (v : Src2) : Statement (.fadd c md xd xa v) := by
  intro f lit h; cases h; rw [of_50 rfl]
  simp only [mk_ctl, mk_d, mk_a, mk_b, mk_c, mk_fs, immOf_mk, mk_bit, mk_part, Nat.reduceAdd, Nat.reduceLeDiff, Nat.reduceLT]
  repeat (first
    | (rw [src2Of_mk _ _ _ _ _ _ _ (by repeat rw [BitVec.getLsbD_append]
                                       rfl)])
    | (rw [part_low]; case h => decide)
    | (rw [part_high]; case h => decide)
    | rw [part_all]
    | rw [BitVec.getLsbD_append]
    | rw [join32]
    | rw [join16]
    | rw [join12]
    | rw [part_wide])
  first | rfl | skip
theorem fsub (c : Ctl) (md : BitVec 6) (xd xa : Reg) (v : Src2) : Statement (.fsub c md xd xa v) := by
  intro f lit h; cases h; rw [of_51 rfl]
  simp only [mk_ctl, mk_d, mk_a, mk_b, mk_c, mk_fs, immOf_mk, mk_bit, mk_part, Nat.reduceAdd, Nat.reduceLeDiff, Nat.reduceLT]
  repeat (first
    | (rw [src2Of_mk _ _ _ _ _ _ _ (by repeat rw [BitVec.getLsbD_append]
                                       rfl)])
    | (rw [part_low]; case h => decide)
    | (rw [part_high]; case h => decide)
    | rw [part_all]
    | rw [BitVec.getLsbD_append]
    | rw [join32]
    | rw [join16]
    | rw [join12]
    | rw [part_wide])
  first | rfl | skip
theorem fmul (c : Ctl) (md : BitVec 6) (xd xa : Reg) (v : Src2) : Statement (.fmul c md xd xa v) := by
  intro f lit h; cases h; rw [of_52 rfl]
  simp only [mk_ctl, mk_d, mk_a, mk_b, mk_c, mk_fs, immOf_mk, mk_bit, mk_part, Nat.reduceAdd, Nat.reduceLeDiff, Nat.reduceLT]
  repeat (first
    | (rw [src2Of_mk _ _ _ _ _ _ _ (by repeat rw [BitVec.getLsbD_append]
                                       rfl)])
    | (rw [part_low]; case h => decide)
    | (rw [part_high]; case h => decide)
    | rw [part_all]
    | rw [BitVec.getLsbD_append]
    | rw [join32]
    | rw [join16]
    | rw [join12]
    | rw [part_wide])
  first | rfl | skip
theorem ffma (c : Ctl) (md : BitVec 6) (xd xa xb xc : Reg) : Statement (.ffma c md xd xa xb xc) := by
  intro f lit h; cases h; rw [of_53 rfl]
  simp only [mk_ctl, mk_d, mk_a, mk_b, mk_c, mk_fs, immOf_mk, mk_bit, mk_part, Nat.reduceAdd, Nat.reduceLeDiff, Nat.reduceLT]
  repeat (first
    | (rw [src2Of_mk _ _ _ _ _ _ _ (by repeat rw [BitVec.getLsbD_append]
                                       rfl)])
    | (rw [part_low]; case h => decide)
    | (rw [part_high]; case h => decide)
    | rw [part_all]
    | rw [BitVec.getLsbD_append]
    | rw [join32]
    | rw [join16]
    | rw [join12]
    | rw [part_wide])
  first | rfl | skip
theorem fmin (c : Ctl) (md : BitVec 6) (xd xa : Reg) (v : Src2) : Statement (.fmin c md xd xa v) := by
  intro f lit h; cases h; rw [of_54 rfl]
  simp only [mk_ctl, mk_d, mk_a, mk_b, mk_c, mk_fs, immOf_mk, mk_bit, mk_part, Nat.reduceAdd, Nat.reduceLeDiff, Nat.reduceLT]
  repeat (first
    | (rw [src2Of_mk _ _ _ _ _ _ _ (by repeat rw [BitVec.getLsbD_append]
                                       rfl)])
    | (rw [part_low]; case h => decide)
    | (rw [part_high]; case h => decide)
    | rw [part_all]
    | rw [BitVec.getLsbD_append]
    | rw [join32]
    | rw [join16]
    | rw [join12]
    | rw [part_wide])
  first | rfl | skip
theorem fmax (c : Ctl) (md : BitVec 6) (xd xa : Reg) (v : Src2) : Statement (.fmax c md xd xa v) := by
  intro f lit h; cases h; rw [of_55 rfl]
  simp only [mk_ctl, mk_d, mk_a, mk_b, mk_c, mk_fs, immOf_mk, mk_bit, mk_part, Nat.reduceAdd, Nat.reduceLeDiff, Nat.reduceLT]
  repeat (first
    | (rw [src2Of_mk _ _ _ _ _ _ _ (by repeat rw [BitVec.getLsbD_append]
                                       rfl)])
    | (rw [part_low]; case h => decide)
    | (rw [part_high]; case h => decide)
    | rw [part_all]
    | rw [BitVec.getLsbD_append]
    | rw [join32]
    | rw [join16]
    | rw [join12]
    | rw [part_wide])
  first | rfl | skip
theorem fcmp (c : Ctl) (cc : BitVec 3) (xd xa : Reg) (v : Src2) : Statement (.fcmp c cc xd xa v) := by
  intro f lit h; cases h; rw [of_56 rfl]
  simp only [mk_ctl, mk_d, mk_a, mk_b, mk_c, mk_fs, immOf_mk, mk_bit, mk_part, Nat.reduceAdd, Nat.reduceLeDiff, Nat.reduceLT]
  repeat (first
    | (rw [src2Of_mk _ _ _ _ _ _ _ (by repeat rw [BitVec.getLsbD_append]
                                       rfl)])
    | (rw [part_low]; case h => decide)
    | (rw [part_high]; case h => decide)
    | rw [part_all]
    | rw [BitVec.getLsbD_append]
    | rw [join32]
    | rw [join16]
    | rw [join12]
    | rw [part_wide])
  first | rfl | skip
theorem frcp (c : Ctl) (md : BitVec 6) (xd xa : Reg) : Statement (.frcp c md xd xa) := by
  intro f lit h; cases h; rw [of_57 rfl]
  simp only [mk_ctl, mk_d, mk_a, mk_b, mk_c, mk_fs, immOf_mk, mk_bit, mk_part, Nat.reduceAdd, Nat.reduceLeDiff, Nat.reduceLT]
  repeat (first
    | (rw [src2Of_mk _ _ _ _ _ _ _ (by repeat rw [BitVec.getLsbD_append]
                                       rfl)])
    | (rw [part_low]; case h => decide)
    | (rw [part_high]; case h => decide)
    | rw [part_all]
    | rw [BitVec.getLsbD_append]
    | rw [join32]
    | rw [join16]
    | rw [join12]
    | rw [part_wide])
  first | rfl | skip
theorem frsq (c : Ctl) (md : BitVec 6) (xd xa : Reg) : Statement (.frsq c md xd xa) := by
  intro f lit h; cases h; rw [of_58 rfl]
  simp only [mk_ctl, mk_d, mk_a, mk_b, mk_c, mk_fs, immOf_mk, mk_bit, mk_part, Nat.reduceAdd, Nat.reduceLeDiff, Nat.reduceLT]
  repeat (first
    | (rw [src2Of_mk _ _ _ _ _ _ _ (by repeat rw [BitVec.getLsbD_append]
                                       rfl)])
    | (rw [part_low]; case h => decide)
    | (rw [part_high]; case h => decide)
    | rw [part_all]
    | rw [BitVec.getLsbD_append]
    | rw [join32]
    | rw [join16]
    | rw [join12]
    | rw [part_wide])
  first | rfl | skip
theorem fsqrt (c : Ctl) (md : BitVec 6) (xd xa : Reg) : Statement (.fsqrt c md xd xa) := by
  intro f lit h; cases h; rw [of_59 rfl]
  simp only [mk_ctl, mk_d, mk_a, mk_b, mk_c, mk_fs, immOf_mk, mk_bit, mk_part, Nat.reduceAdd, Nat.reduceLeDiff, Nat.reduceLT]
  repeat (first
    | (rw [src2Of_mk _ _ _ _ _ _ _ (by repeat rw [BitVec.getLsbD_append]
                                       rfl)])
    | (rw [part_low]; case h => decide)
    | (rw [part_high]; case h => decide)
    | rw [part_all]
    | rw [BitVec.getLsbD_append]
    | rw [join32]
    | rw [join16]
    | rw [join12]
    | rw [part_wide])
  first | rfl | skip
theorem fex2 (c : Ctl) (md : BitVec 6) (xd xa : Reg) : Statement (.fex2 c md xd xa) := by
  intro f lit h; cases h; rw [of_5a rfl]
  simp only [mk_ctl, mk_d, mk_a, mk_b, mk_c, mk_fs, immOf_mk, mk_bit, mk_part, Nat.reduceAdd, Nat.reduceLeDiff, Nat.reduceLT]
  repeat (first
    | (rw [src2Of_mk _ _ _ _ _ _ _ (by repeat rw [BitVec.getLsbD_append]
                                       rfl)])
    | (rw [part_low]; case h => decide)
    | (rw [part_high]; case h => decide)
    | rw [part_all]
    | rw [BitVec.getLsbD_append]
    | rw [join32]
    | rw [join16]
    | rw [join12]
    | rw [part_wide])
  first | rfl | skip
theorem flg2 (c : Ctl) (md : BitVec 6) (xd xa : Reg) : Statement (.flg2 c md xd xa) := by
  intro f lit h; cases h; rw [of_5b rfl]
  simp only [mk_ctl, mk_d, mk_a, mk_b, mk_c, mk_fs, immOf_mk, mk_bit, mk_part, Nat.reduceAdd, Nat.reduceLeDiff, Nat.reduceLT]
  repeat (first
    | (rw [src2Of_mk _ _ _ _ _ _ _ (by repeat rw [BitVec.getLsbD_append]
                                       rfl)])
    | (rw [part_low]; case h => decide)
    | (rw [part_high]; case h => decide)
    | rw [part_all]
    | rw [BitVec.getLsbD_append]
    | rw [join32]
    | rw [join16]
    | rw [join12]
    | rw [part_wide])
  first | rfl | skip
theorem fcls (c : Ctl) (xd xa : Reg) : Statement (.fcls c xd xa) := by
  intro f lit h; cases h; rw [of_5c rfl, mk_ctl]; rfl
theorem fcvtF32S32 (c : Ctl) (xd xa : Reg) : Statement (.fcvtF32S32 c xd xa) := by
  intro f lit h; cases h; rw [of_5d rfl]
  simp only [mk_ctl, mk_d, mk_a, mk_b, mk_c, mk_fs, immOf_mk, mk_bit, mk_part, Nat.reduceAdd, Nat.reduceLeDiff, Nat.reduceLT]
  repeat (first
    | (rw [src2Of_mk _ _ _ _ _ _ _ (by repeat rw [BitVec.getLsbD_append]
                                       rfl)])
    | (rw [part_low]; case h => decide)
    | (rw [part_high]; case h => decide)
    | rw [part_all]
    | rw [BitVec.getLsbD_append]
    | rw [join32]
    | rw [join16]
    | rw [join12]
    | rw [part_wide])
  first | rfl | skip
theorem fcvtF32B32 (c : Ctl) (xd xa : Reg) : Statement (.fcvtF32B32 c xd xa) := by
  intro f lit h; cases h; rw [of_5d rfl]
  simp only [mk_ctl, mk_d, mk_a, mk_b, mk_c, mk_fs, immOf_mk, mk_bit, mk_part, Nat.reduceAdd, Nat.reduceLeDiff, Nat.reduceLT]
  repeat (first
    | (rw [src2Of_mk _ _ _ _ _ _ _ (by repeat rw [BitVec.getLsbD_append]
                                       rfl)])
    | (rw [part_low]; case h => decide)
    | (rw [part_high]; case h => decide)
    | rw [part_all]
    | rw [BitVec.getLsbD_append]
    | rw [join32]
    | rw [join16]
    | rw [join12]
    | rw [part_wide])
  first | rfl | skip
theorem fcvtS32F32 (c : Ctl) (xd xa : Reg) : Statement (.fcvtS32F32 c xd xa) := by
  intro f lit h; cases h; rw [of_5d rfl]
  simp only [mk_ctl, mk_d, mk_a, mk_b, mk_c, mk_fs, immOf_mk, mk_bit, mk_part, Nat.reduceAdd, Nat.reduceLeDiff, Nat.reduceLT]
  repeat (first
    | (rw [src2Of_mk _ _ _ _ _ _ _ (by repeat rw [BitVec.getLsbD_append]
                                       rfl)])
    | (rw [part_low]; case h => decide)
    | (rw [part_high]; case h => decide)
    | rw [part_all]
    | rw [BitVec.getLsbD_append]
    | rw [join32]
    | rw [join16]
    | rw [join12]
    | rw [part_wide])
  first | rfl | skip
theorem fcvtB32F32 (c : Ctl) (xd xa : Reg) : Statement (.fcvtB32F32 c xd xa) := by
  intro f lit h; cases h; rw [of_5d rfl]
  simp only [mk_ctl, mk_d, mk_a, mk_b, mk_c, mk_fs, immOf_mk, mk_bit, mk_part, Nat.reduceAdd, Nat.reduceLeDiff, Nat.reduceLT]
  repeat (first
    | (rw [src2Of_mk _ _ _ _ _ _ _ (by repeat rw [BitVec.getLsbD_append]
                                       rfl)])
    | (rw [part_low]; case h => decide)
    | (rw [part_high]; case h => decide)
    | rw [part_all]
    | rw [BitVec.getLsbD_append]
    | rw [join32]
    | rw [join16]
    | rw [join12]
    | rw [part_wide])
  first | rfl | skip
theorem fcvtF32Fs (c : Ctl) (fs : BitVec 3) (xd xa : Reg) : Statement (.fcvtF32Fs c fs xd xa) := by
  intro f lit h; cases h; rw [of_5d rfl]
  simp only [mk_ctl, mk_d, mk_a, mk_b, mk_c, mk_fs, immOf_mk, mk_bit, mk_part, Nat.reduceAdd, Nat.reduceLeDiff, Nat.reduceLT]
  repeat (first
    | (rw [src2Of_mk _ _ _ _ _ _ _ (by repeat rw [BitVec.getLsbD_append]
                                       rfl)])
    | (rw [part_low]; case h => decide)
    | (rw [part_high]; case h => decide)
    | rw [part_all]
    | rw [BitVec.getLsbD_append]
    | rw [join32]
    | rw [join16]
    | rw [join12]
    | rw [part_wide])
  first | rfl | skip
theorem fcvtFsF32 (c : Ctl) (fs : BitVec 3) (xd xa : Reg) : Statement (.fcvtFsF32 c fs xd xa) := by
  intro f lit h; cases h; rw [of_5d rfl]
  simp only [mk_ctl, mk_d, mk_a, mk_b, mk_c, mk_fs, immOf_mk, mk_bit, mk_part, Nat.reduceAdd, Nat.reduceLeDiff, Nat.reduceLT]
  repeat (first
    | (rw [src2Of_mk _ _ _ _ _ _ _ (by repeat rw [BitVec.getLsbD_append]
                                       rfl)])
    | (rw [part_low]; case h => decide)
    | (rw [part_high]; case h => decide)
    | rw [part_all]
    | rw [BitVec.getLsbD_append]
    | rw [join32]
    | rw [join16]
    | rw [join12]
    | rw [part_wide])
  first | rfl | skip
theorem fcvtFsF32Sat (c : Ctl) (fs : BitVec 3) (xd xa : Reg) : Statement (.fcvtFsF32Sat c fs xd xa) := by
  intro f lit h; cases h; rw [of_5d rfl]
  simp only [mk_ctl, mk_d, mk_a, mk_b, mk_c, mk_fs, immOf_mk, mk_bit, mk_part, Nat.reduceAdd, Nat.reduceLeDiff, Nat.reduceLT]
  repeat (first
    | (rw [src2Of_mk _ _ _ _ _ _ _ (by repeat rw [BitVec.getLsbD_append]
                                       rfl)])
    | (rw [part_low]; case h => decide)
    | (rw [part_high]; case h => decide)
    | rw [part_all]
    | rw [BitVec.getLsbD_append]
    | rw [join32]
    | rw [join16]
    | rw [join12]
    | rw [part_wide])
  first | rfl | skip
theorem fcvtBf16x2F32 (c : Ctl) (xd xa xb : Reg) : Statement (.fcvtBf16x2F32 c xd xa xb) := by
  intro f lit h; cases h; rw [of_5d rfl]
  simp only [mk_ctl, mk_d, mk_a, mk_b, mk_c, mk_fs, immOf_mk, mk_bit, mk_part, Nat.reduceAdd, Nat.reduceLeDiff, Nat.reduceLT]
  repeat (first
    | (rw [src2Of_mk _ _ _ _ _ _ _ (by repeat rw [BitVec.getLsbD_append]
                                       rfl)])
    | (rw [part_low]; case h => decide)
    | (rw [part_high]; case h => decide)
    | rw [part_all]
    | rw [BitVec.getLsbD_append]
    | rw [join32]
    | rw [join16]
    | rw [join12]
    | rw [part_wide])
  first | rfl | skip
theorem fcvtBf16x2F32Sat (c : Ctl) (xd xa xb : Reg) : Statement (.fcvtBf16x2F32Sat c xd xa xb) := by
  intro f lit h; cases h; rw [of_5d rfl]
  simp only [mk_ctl, mk_d, mk_a, mk_b, mk_c, mk_fs, immOf_mk, mk_bit, mk_part, Nat.reduceAdd, Nat.reduceLeDiff, Nat.reduceLT]
  repeat (first
    | (rw [src2Of_mk _ _ _ _ _ _ _ (by repeat rw [BitVec.getLsbD_append]
                                       rfl)])
    | (rw [part_low]; case h => decide)
    | (rw [part_high]; case h => decide)
    | rw [part_all]
    | rw [BitVec.getLsbD_append]
    | rw [join32]
    | rw [join16]
    | rw [join12]
    | rw [part_wide])
  first | rfl | skip
theorem fcvtF32Bf16 (c : Ctl) (xd xa : Reg) (hi : Bool) : Statement (.fcvtF32Bf16 c xd xa hi) := by
  intro f lit h; cases h; rw [of_5d rfl]
  simp only [mk_ctl, mk_d, mk_a, mk_b, mk_c, mk_fs, immOf_mk, mk_bit, mk_part, Nat.reduceAdd, Nat.reduceLeDiff, Nat.reduceLT]
  repeat (first
    | (rw [src2Of_mk _ _ _ _ _ _ _ (by repeat rw [BitVec.getLsbD_append]
                                       rfl)])
    | (rw [part_low]; case h => decide)
    | (rw [part_high]; case h => decide)
    | rw [part_all]
    | rw [BitVec.getLsbD_append]
    | rw [join32]
    | rw [join16]
    | rw [join12]
    | rw [part_wide])
  first | rfl | (cases hi <;> rfl)
theorem fadd2Bf16 (c : Ctl) (md : BitVec 6) (xd xa xb : Reg) : Statement (.fadd2Bf16 c md xd xa xb) := by
  intro f lit h; cases h; rw [of_60 rfl]
  simp only [mk_ctl, mk_d, mk_a, mk_b, mk_c, mk_fs, immOf_mk, mk_bit, mk_part, Nat.reduceAdd, Nat.reduceLeDiff, Nat.reduceLT]
  repeat (first
    | (rw [src2Of_mk _ _ _ _ _ _ _ (by repeat rw [BitVec.getLsbD_append]
                                       rfl)])
    | (rw [part_low]; case h => decide)
    | (rw [part_high]; case h => decide)
    | rw [part_all]
    | rw [BitVec.getLsbD_append]
    | rw [join32]
    | rw [join16]
    | rw [join12]
    | rw [part_wide])
  first | rfl | skip
theorem fmul2Bf16 (c : Ctl) (md : BitVec 6) (xd xa xb : Reg) : Statement (.fmul2Bf16 c md xd xa xb) := by
  intro f lit h; cases h; rw [of_61 rfl]
  simp only [mk_ctl, mk_d, mk_a, mk_b, mk_c, mk_fs, immOf_mk, mk_bit, mk_part, Nat.reduceAdd, Nat.reduceLeDiff, Nat.reduceLT]
  repeat (first
    | (rw [src2Of_mk _ _ _ _ _ _ _ (by repeat rw [BitVec.getLsbD_append]
                                       rfl)])
    | (rw [part_low]; case h => decide)
    | (rw [part_high]; case h => decide)
    | rw [part_all]
    | rw [BitVec.getLsbD_append]
    | rw [join32]
    | rw [join16]
    | rw [join12]
    | rw [part_wide])
  first | rfl | skip
theorem ffma2Bf16 (c : Ctl) (md : BitVec 6) (xd xa xb xc : Reg) : Statement (.ffma2Bf16 c md xd xa xb xc) := by
  intro f lit h; cases h; rw [of_62 rfl]
  simp only [mk_ctl, mk_d, mk_a, mk_b, mk_c, mk_fs, immOf_mk, mk_bit, mk_part, Nat.reduceAdd, Nat.reduceLeDiff, Nat.reduceLT]
  repeat (first
    | (rw [src2Of_mk _ _ _ _ _ _ _ (by repeat rw [BitVec.getLsbD_append]
                                       rfl)])
    | (rw [part_low]; case h => decide)
    | (rw [part_high]; case h => decide)
    | rw [part_all]
    | rw [BitVec.getLsbD_append]
    | rw [join32]
    | rw [join16]
    | rw [join12]
    | rw [part_wide])
  first | rfl | skip
theorem place (c : Ctl) (b : BitVec 8) (pl : BitVec 8) : Statement (.place c b pl) := by
  intro f lit h; cases h; rw [of_80 rfl, mk_ctl]; rfl
theorem reloc (c : Ctl) (b : BitVec 8) (pl : BitVec 8) : Statement (.reloc c b pl) := by
  intro f lit h; cases h; rw [of_81 rfl, mk_ctl]; rfl
theorem anch (c : Ctl) (an : BitVec 8) (xa : Reg) : Statement (.anch c an xa) := by
  intro f lit h; cases h; rw [of_82 rfl, mk_ctl]; rfl
theorem xacq (c : Ctl) : Statement (.xacq c) := by
  intro f lit h; cases h; rw [of_83 rfl, mk_ctl] <;> rfl
theorem xrel (c : Ctl) : Statement (.xrel c) := by
  intro f lit h; cases h; rw [of_84 rfl, mk_ctl] <;> rfl
theorem ixld (c : Ctl) (xd xa : Reg) (imm : Imm) : Statement (.ixld c xd xa imm) := by
  intro f lit h; cases h; rw [of_85 rfl]
  simp only [mk_ctl, mk_d, mk_a, mk_b, mk_c, mk_fs, immOf_mk, mk_bit, mk_part, Nat.reduceAdd, Nat.reduceLeDiff, Nat.reduceLT]
  repeat (first
    | (rw [src2Of_mk _ _ _ _ _ _ _ (by repeat rw [BitVec.getLsbD_append]
                                       rfl)])
    | (rw [part_low]; case h => decide)
    | (rw [part_high]; case h => decide)
    | rw [part_all]
    | rw [BitVec.getLsbD_append]
    | rw [join32]
    | rw [join16]
    | rw [join12]
    | rw [part_wide])
  first | rfl | skip
theorem ixst (c : Ctl) (xa xb : Reg) (imm : Imm) : Statement (.ixst c xa xb imm) := by
  intro f lit h; cases h; rw [of_86 rfl]
  simp only [mk_ctl, mk_d, mk_a, mk_b, mk_c, mk_fs, immOf_mk, mk_bit, mk_part, Nat.reduceAdd, Nat.reduceLeDiff, Nat.reduceLT]
  repeat (first
    | (rw [src2Of_mk _ _ _ _ _ _ _ (by repeat rw [BitVec.getLsbD_append]
                                       rfl)])
    | (rw [part_low]; case h => decide)
    | (rw [part_high]; case h => decide)
    | rw [part_all]
    | rw [BitVec.getLsbD_append]
    | rw [join32]
    | rw [join16]
    | rw [join12]
    | rw [part_wide])
  first | rfl | skip
theorem rds (c : Ctl) (xd : Reg) (sr : BitVec 8) : Statement (.rds c xd sr) := by
  intro f lit h; cases h; rw [of_87 rfl, mk_ctl]; rfl
theorem wrs (c : Ctl) (sr : BitVec 8) (xa : Reg) : Statement (.wrs c sr xa) := by
  intro f lit h; cases h; rw [of_88 rfl, mk_ctl]; rfl
theorem ld (c : Ctl) (sz : BitVec 3) (xd xa : Reg) (off : Imm) : Statement (.ld c sz xd xa off) := by
  intro f lit h; cases h; rw [of_90 rfl]
  simp only [mk_ctl, mk_d, mk_a, mk_b, mk_c, mk_fs, immOf_mk, mk_bit, mk_part, Nat.reduceAdd, Nat.reduceLeDiff, Nat.reduceLT]
  repeat (first
    | (rw [src2Of_mk _ _ _ _ _ _ _ (by repeat rw [BitVec.getLsbD_append]
                                       rfl)])
    | (rw [part_low]; case h => decide)
    | (rw [part_high]; case h => decide)
    | rw [part_all]
    | rw [BitVec.getLsbD_append]
    | rw [join32]
    | rw [join16]
    | rw [join12]
    | rw [part_wide])
  first | rfl | skip
theorem ldc (c : Ctl) (sz : BitVec 2) (n : BitVec 4) (xd xa : Reg) (off : Imm) : Statement (.ldc c sz n xd xa off) := by
  intro f lit h; cases h; rw [of_91 rfl]
  simp only [mk_ctl, mk_d, mk_a, mk_b, mk_c, mk_fs, immOf_mk, mk_bit, mk_part, Nat.reduceAdd, Nat.reduceLeDiff, Nat.reduceLT]
  repeat (first
    | (rw [src2Of_mk _ _ _ _ _ _ _ (by repeat rw [BitVec.getLsbD_append]
                                       rfl)])
    | (rw [part_low]; case h => decide)
    | (rw [part_high]; case h => decide)
    | rw [part_all]
    | rw [BitVec.getLsbD_append]
    | rw [join32]
    | rw [join16]
    | rw [join12]
    | rw [part_wide])
  first | rfl | skip
theorem st (c : Ctl) (sz : BitVec 3) (xa xb : Reg) (off : Imm) : Statement (.st c sz xa xb off) := by
  intro f lit h; cases h; rw [of_92 rfl]
  simp only [mk_ctl, mk_d, mk_a, mk_b, mk_c, mk_fs, immOf_mk, mk_bit, mk_part, Nat.reduceAdd, Nat.reduceLeDiff, Nat.reduceLT]
  repeat (first
    | (rw [src2Of_mk _ _ _ _ _ _ _ (by repeat rw [BitVec.getLsbD_append]
                                       rfl)])
    | (rw [part_low]; case h => decide)
    | (rw [part_high]; case h => decide)
    | rw [part_all]
    | rw [BitVec.getLsbD_append]
    | rw [join32]
    | rw [join16]
    | rw [join12]
    | rw [part_wide])
  first | rfl | skip
theorem atomAdd (c : Ctl) (pl : BitVec 2) (w64 : Bool) (xd xa xb : Reg) : Statement (.atomAdd c pl w64 xd xa xb) := by
  intro f lit h; cases h; rw [of_93 rfl]
  simp only [mk_ctl, mk_d, mk_a, mk_b, mk_c, mk_fs, immOf_mk, mk_bit, mk_part, Nat.reduceAdd, Nat.reduceLeDiff, Nat.reduceLT]
  repeat (first
    | (rw [src2Of_mk _ _ _ _ _ _ _ (by repeat rw [BitVec.getLsbD_append]
                                       rfl)])
    | (rw [part_low]; case h => decide)
    | (rw [part_high]; case h => decide)
    | rw [part_all]
    | rw [BitVec.getLsbD_append]
    | rw [join32]
    | rw [join16]
    | rw [join12]
    | rw [part_wide])
  first | rfl | (cases w64 <;> rfl)
theorem atomMin (c : Ctl) (uns : Bool) (pl : BitVec 2) (w64 : Bool) (xd xa xb : Reg) : Statement (.atomMin c uns pl w64 xd xa xb) := by
  intro f lit h; cases h; rw [of_93 rfl]
  simp only [mk_ctl, mk_d, mk_a, mk_b, mk_c, mk_fs, immOf_mk, mk_bit, mk_part, Nat.reduceAdd, Nat.reduceLeDiff, Nat.reduceLT]
  repeat (first
    | (rw [src2Of_mk _ _ _ _ _ _ _ (by repeat rw [BitVec.getLsbD_append]
                                       rfl)])
    | (rw [part_low]; case h => decide)
    | (rw [part_high]; case h => decide)
    | rw [part_all]
    | rw [BitVec.getLsbD_append]
    | rw [join32]
    | rw [join16]
    | rw [join12]
    | rw [part_wide])
  first | rfl | (cases uns <;> cases w64 <;> rfl)
theorem atomMax (c : Ctl) (uns : Bool) (pl : BitVec 2) (w64 : Bool) (xd xa xb : Reg) : Statement (.atomMax c uns pl w64 xd xa xb) := by
  intro f lit h; cases h; rw [of_93 rfl]
  simp only [mk_ctl, mk_d, mk_a, mk_b, mk_c, mk_fs, immOf_mk, mk_bit, mk_part, Nat.reduceAdd, Nat.reduceLeDiff, Nat.reduceLT]
  repeat (first
    | (rw [src2Of_mk _ _ _ _ _ _ _ (by repeat rw [BitVec.getLsbD_append]
                                       rfl)])
    | (rw [part_low]; case h => decide)
    | (rw [part_high]; case h => decide)
    | rw [part_all]
    | rw [BitVec.getLsbD_append]
    | rw [join32]
    | rw [join16]
    | rw [join12]
    | rw [part_wide])
  first | rfl | (cases uns <;> cases w64 <;> rfl)
theorem atomAnd (c : Ctl) (pl : BitVec 2) (w64 : Bool) (xd xa xb : Reg) : Statement (.atomAnd c pl w64 xd xa xb) := by
  intro f lit h; cases h; rw [of_93 rfl]
  simp only [mk_ctl, mk_d, mk_a, mk_b, mk_c, mk_fs, immOf_mk, mk_bit, mk_part, Nat.reduceAdd, Nat.reduceLeDiff, Nat.reduceLT]
  repeat (first
    | (rw [src2Of_mk _ _ _ _ _ _ _ (by repeat rw [BitVec.getLsbD_append]
                                       rfl)])
    | (rw [part_low]; case h => decide)
    | (rw [part_high]; case h => decide)
    | rw [part_all]
    | rw [BitVec.getLsbD_append]
    | rw [join32]
    | rw [join16]
    | rw [join12]
    | rw [part_wide])
  first | rfl | (cases w64 <;> rfl)
theorem atomOr (c : Ctl) (pl : BitVec 2) (w64 : Bool) (xd xa xb : Reg) : Statement (.atomOr c pl w64 xd xa xb) := by
  intro f lit h; cases h; rw [of_93 rfl]
  simp only [mk_ctl, mk_d, mk_a, mk_b, mk_c, mk_fs, immOf_mk, mk_bit, mk_part, Nat.reduceAdd, Nat.reduceLeDiff, Nat.reduceLT]
  repeat (first
    | (rw [src2Of_mk _ _ _ _ _ _ _ (by repeat rw [BitVec.getLsbD_append]
                                       rfl)])
    | (rw [part_low]; case h => decide)
    | (rw [part_high]; case h => decide)
    | rw [part_all]
    | rw [BitVec.getLsbD_append]
    | rw [join32]
    | rw [join16]
    | rw [join12]
    | rw [part_wide])
  first | rfl | (cases w64 <;> rfl)
theorem atomXor (c : Ctl) (pl : BitVec 2) (w64 : Bool) (xd xa xb : Reg) : Statement (.atomXor c pl w64 xd xa xb) := by
  intro f lit h; cases h; rw [of_93 rfl]
  simp only [mk_ctl, mk_d, mk_a, mk_b, mk_c, mk_fs, immOf_mk, mk_bit, mk_part, Nat.reduceAdd, Nat.reduceLeDiff, Nat.reduceLT]
  repeat (first
    | (rw [src2Of_mk _ _ _ _ _ _ _ (by repeat rw [BitVec.getLsbD_append]
                                       rfl)])
    | (rw [part_low]; case h => decide)
    | (rw [part_high]; case h => decide)
    | rw [part_all]
    | rw [BitVec.getLsbD_append]
    | rw [join32]
    | rw [join16]
    | rw [join12]
    | rw [part_wide])
  first | rfl | (cases w64 <;> rfl)
theorem atomXchg (c : Ctl) (pl : BitVec 2) (w64 : Bool) (xd xa xb : Reg) : Statement (.atomXchg c pl w64 xd xa xb) := by
  intro f lit h; cases h; rw [of_93 rfl]
  simp only [mk_ctl, mk_d, mk_a, mk_b, mk_c, mk_fs, immOf_mk, mk_bit, mk_part, Nat.reduceAdd, Nat.reduceLeDiff, Nat.reduceLT]
  repeat (first
    | (rw [src2Of_mk _ _ _ _ _ _ _ (by repeat rw [BitVec.getLsbD_append]
                                       rfl)])
    | (rw [part_low]; case h => decide)
    | (rw [part_high]; case h => decide)
    | rw [part_all]
    | rw [BitVec.getLsbD_append]
    | rw [join32]
    | rw [join16]
    | rw [join12]
    | rw [part_wide])
  first | rfl | (cases w64 <;> rfl)
theorem atomFadd (c : Ctl) (pl : BitVec 2) (xd xa xb : Reg) : Statement (.atomFadd c pl xd xa xb) := by
  intro f lit h; cases h; rw [of_93 rfl]
  simp only [mk_ctl, mk_d, mk_a, mk_b, mk_c, mk_fs, immOf_mk, mk_bit, mk_part, Nat.reduceAdd, Nat.reduceLeDiff, Nat.reduceLT]
  repeat (first
    | (rw [src2Of_mk _ _ _ _ _ _ _ (by repeat rw [BitVec.getLsbD_append]
                                       rfl)])
    | (rw [part_low]; case h => decide)
    | (rw [part_high]; case h => decide)
    | rw [part_all]
    | rw [BitVec.getLsbD_append]
    | rw [join32]
    | rw [join16]
    | rw [join12]
    | rw [part_wide])
  first | rfl | skip
theorem cas (c : Ctl) (pl : BitVec 2) (w64 : Bool) (xd xa xb xc : Reg) : Statement (.cas c pl w64 xd xa xb xc) := by
  intro f lit h; cases h; rw [of_94 rfl]
  simp only [mk_ctl, mk_d, mk_a, mk_b, mk_c, mk_fs, immOf_mk, mk_bit, mk_part, Nat.reduceAdd, Nat.reduceLeDiff, Nat.reduceLT]
  repeat (first
    | (rw [src2Of_mk _ _ _ _ _ _ _ (by repeat rw [BitVec.getLsbD_append]
                                       rfl)])
    | (rw [part_low]; case h => decide)
    | (rw [part_high]; case h => decide)
    | rw [part_all]
    | rw [BitVec.getLsbD_append]
    | rw [join32]
    | rw [join16]
    | rw [join12]
    | rw [part_wide])
  first | rfl | (cases w64 <;> rfl)
theorem acq (c : Ctl) : Statement (.acq c) := by
  intro f lit h; cases h; rw [of_95 rfl, mk_ctl] <;> rfl
theorem rel (c : Ctl) : Statement (.rel c) := by
  intro f lit h; cases h; rw [of_96 rfl, mk_ctl] <;> rfl
theorem fence (c : Ctl) : Statement (.fence c) := by
  intro f lit h; cases h; rw [of_97 rfl, mk_ctl] <;> rfl
theorem cclean (c : Ctl) (xa xb : Reg) (off : Imm) : Statement (.cclean c xa xb off) := by
  intro f lit h; cases h; rw [of_98 rfl]
  simp only [mk_ctl, mk_d, mk_a, mk_b, mk_c, mk_fs, immOf_mk, mk_bit, mk_part, Nat.reduceAdd, Nat.reduceLeDiff, Nat.reduceLT]
  repeat (first
    | (rw [src2Of_mk _ _ _ _ _ _ _ (by repeat rw [BitVec.getLsbD_append]
                                       rfl)])
    | (rw [part_low]; case h => decide)
    | (rw [part_high]; case h => decide)
    | rw [part_all]
    | rw [BitVec.getLsbD_append]
    | rw [join32]
    | rw [join16]
    | rw [join12]
    | rw [part_wide])
  first | rfl | skip
theorem cinval (c : Ctl) (xa xb : Reg) (off : Imm) : Statement (.cinval c xa xb off) := by
  intro f lit h; cases h; rw [of_99 rfl]
  simp only [mk_ctl, mk_d, mk_a, mk_b, mk_c, mk_fs, immOf_mk, mk_bit, mk_part, Nat.reduceAdd, Nat.reduceLeDiff, Nat.reduceLT]
  repeat (first
    | (rw [src2Of_mk _ _ _ _ _ _ _ (by repeat rw [BitVec.getLsbD_append]
                                       rfl)])
    | (rw [part_low]; case h => decide)
    | (rw [part_high]; case h => decide)
    | rw [part_all]
    | rw [BitVec.getLsbD_append]
    | rw [join32]
    | rw [join16]
    | rw [join12]
    | rw [part_wide])
  first | rfl | skip
theorem pref (c : Ctl) (xa xb : Reg) (off : Imm) : Statement (.pref c xa xb off) := by
  intro f lit h; cases h; rw [of_9a rfl]
  simp only [mk_ctl, mk_d, mk_a, mk_b, mk_c, mk_fs, immOf_mk, mk_bit, mk_part, Nat.reduceAdd, Nat.reduceLeDiff, Nat.reduceLT]
  repeat (first
    | (rw [src2Of_mk _ _ _ _ _ _ _ (by repeat rw [BitVec.getLsbD_append]
                                       rfl)])
    | (rw [part_low]; case h => decide)
    | (rw [part_high]; case h => decide)
    | rw [part_all]
    | rw [BitVec.getLsbD_append]
    | rw [join32]
    | rw [join16]
    | rw [join12]
    | rw [part_wide])
  first | rfl | skip
theorem talloc (c : Ctl) (lvlS : Bool) (hd : BitVec 8) (xv : Reg) : Statement (.talloc c lvlS hd xv) := by
  intro f lit h; cases h; rw [of_b0 rfl]
  simp only [mk_ctl, mk_d, mk_a, mk_b, mk_c, mk_fs, immOf_mk, mk_bit, mk_part, Nat.reduceAdd, Nat.reduceLeDiff, Nat.reduceLT]
  repeat (first
    | (rw [src2Of_mk _ _ _ _ _ _ _ (by repeat rw [BitVec.getLsbD_append]
                                       rfl)])
    | (rw [part_low]; case h => decide)
    | (rw [part_high]; case h => decide)
    | rw [part_all]
    | rw [BitVec.getLsbD_append]
    | rw [join32]
    | rw [join16]
    | rw [join12]
    | rw [part_wide])
  first | rfl | (cases lvlS <;> rfl)
theorem tfree (c : Ctl) (hd : BitVec 8) : Statement (.tfree c hd) := by
  intro f lit h; cases h; rw [of_b1 rfl, mk_ctl]; rfl
theorem tmap (c : Ctl) (hd : BitVec 8) (xa xv : Reg) : Statement (.tmap c hd xa xv) := by
  intro f lit h; cases h; rw [of_b2 rfl, mk_ctl]; rfl
theorem tcopy (c : Ctl) (hd ha : BitVec 8) (xr xo : Reg) : Statement (.tcopy c hd ha xr xo) := by
  intro f lit h; cases h; rw [of_b3 rfl, mk_ctl]; rfl
theorem tld (c : Ctl) (xd : Reg) (ha : BitVec 8) (xc : Reg) : Statement (.tld c xd ha xc) := by
  intro f lit h; cases h; rw [of_b4 rfl, mk_ctl]; rfl
theorem tst (c : Ctl) (ha : BitVec 8) (xc xb : Reg) : Statement (.tst c ha xc xb) := by
  intro f lit h; cases h; rw [of_b5 rfl, mk_ctl]; rfl
theorem tfill (c : Ctl) (hd : BitVec 8) (xr xb : Reg) : Statement (.tfill c hd xr xb) := by
  intro f lit h; cases h; rw [of_b6 rfl, mk_ctl]; rfl
theorem tadd (c : Ctl) (hd ha hb : BitVec 8) : Statement (.tadd c hd ha hb) := by
  intro f lit h; cases h; rw [of_b7 rfl, mk_ctl]; rfl
theorem tmul (c : Ctl) (hd ha hb : BitVec 8) : Statement (.tmul c hd ha hb) := by
  intro f lit h; cases h; rw [of_b8 rfl, mk_ctl]; rfl
theorem tfma (c : Ctl) (hd ha hb : BitVec 8) : Statement (.tfma c hd ha hb) := by
  intro f lit h; cases h; rw [of_b9 rfl, mk_ctl]; rfl
theorem tcvt (c : Ctl) (sat : Bool) (fs : BitVec 3) (hd ha : BitVec 8) : Statement (.tcvt c sat fs hd ha) := by
  intro f lit h; cases h; rw [of_ba rfl]
  simp only [mk_ctl, mk_d, mk_a, mk_b, mk_c, mk_fs, immOf_mk, mk_bit, mk_part, Nat.reduceAdd, Nat.reduceLeDiff, Nat.reduceLT]
  repeat (first
    | (rw [src2Of_mk _ _ _ _ _ _ _ (by repeat rw [BitVec.getLsbD_append]
                                       rfl)])
    | (rw [part_low]; case h => decide)
    | (rw [part_high]; case h => decide)
    | rw [part_all]
    | rw [BitVec.getLsbD_append]
    | rw [join32]
    | rw [join16]
    | rw [join12]
    | rw [part_wide])
  first | rfl | (cases sat <;> rfl)
theorem tredAdd (c : Ctl) (axis : Bool) (hd ha : BitVec 8) : Statement (.tredAdd c axis hd ha) := by
  intro f lit h; cases h; rw [of_bb rfl]
  simp only [mk_ctl, mk_d, mk_a, mk_b, mk_c, mk_fs, immOf_mk, mk_bit, mk_part, Nat.reduceAdd, Nat.reduceLeDiff, Nat.reduceLT]
  repeat (first
    | (rw [src2Of_mk _ _ _ _ _ _ _ (by repeat rw [BitVec.getLsbD_append]
                                       rfl)])
    | (rw [part_low]; case h => decide)
    | (rw [part_high]; case h => decide)
    | rw [part_all]
    | rw [BitVec.getLsbD_append]
    | rw [join32]
    | rw [join16]
    | rw [join12]
    | rw [part_wide])
  first | rfl | (cases axis <;> rfl)
theorem tredMax (c : Ctl) (axis : Bool) (hd ha : BitVec 8) : Statement (.tredMax c axis hd ha) := by
  intro f lit h; cases h; rw [of_bb rfl]
  simp only [mk_ctl, mk_d, mk_a, mk_b, mk_c, mk_fs, immOf_mk, mk_bit, mk_part, Nat.reduceAdd, Nat.reduceLeDiff, Nat.reduceLT]
  repeat (first
    | (rw [src2Of_mk _ _ _ _ _ _ _ (by repeat rw [BitVec.getLsbD_append]
                                       rfl)])
    | (rw [part_low]; case h => decide)
    | (rw [part_high]; case h => decide)
    | rw [part_all]
    | rw [BitVec.getLsbD_append]
    | rw [join32]
    | rw [join16]
    | rw [join12]
    | rw [part_wide])
  first | rfl | (cases axis <;> rfl)
theorem tredMin (c : Ctl) (axis : Bool) (hd ha : BitVec 8) : Statement (.tredMin c axis hd ha) := by
  intro f lit h; cases h; rw [of_bb rfl]
  simp only [mk_ctl, mk_d, mk_a, mk_b, mk_c, mk_fs, immOf_mk, mk_bit, mk_part, Nat.reduceAdd, Nat.reduceLeDiff, Nat.reduceLT]
  repeat (first
    | (rw [src2Of_mk _ _ _ _ _ _ _ (by repeat rw [BitVec.getLsbD_append]
                                       rfl)])
    | (rw [part_low]; case h => decide)
    | (rw [part_high]; case h => decide)
    | rw [part_all]
    | rw [BitVec.getLsbD_append]
    | rw [join32]
    | rw [join16]
    | rw [join12]
    | rw [part_wide])
  first | rfl | (cases axis <;> rfl)
theorem ttr (c : Ctl) (hd ha : BitVec 8) : Statement (.ttr c hd ha) := by
  intro f lit h; cases h; rw [of_bc rfl, mk_ctl]; rfl
theorem mplane (c : Ctl) (fs : BitVec 3) (hd ha hs : BitVec 8) : Statement (.mplane c fs hd ha hs) := by
  intro f lit h; cases h; rw [of_c0 rfl, mk_ctl]; rfl
theorem mma (c : Ctl) (hc ha hb : BitVec 8) : Statement (.mma c hc ha hb) := by
  intro f lit h; cases h; rw [of_c1 rfl, mk_ctl]; rfl
theorem mmas (c : Ctl) (hc ha hb : BitVec 8) (xm : Reg) : Statement (.mmas c hc ha hb xm) := by
  intro f lit h; cases h; rw [of_c2 rfl, mk_ctl]; rfl
theorem gmm (c : Ctl) (hc ha hb : BitVec 8) (xp : Reg) : Statement (.gmm c hc ha hb xp) := by
  intro f lit h; cases h; rw [of_c3 rfl, mk_ctl]; rfl
theorem mdrain (c : Ctl) (fs : BitVec 3) (z en : Bool) (prg : BitVec 2) (hd hc : BitVec 8) (xo : Reg) : Statement (.mdrain c fs z en prg hd hc xo) := by
  intro f lit h; cases h; rw [of_c4 rfl]
  simp only [mk_ctl, mk_d, mk_a, mk_b, mk_c, mk_fs, immOf_mk, mk_bit, mk_part, Nat.reduceAdd, Nat.reduceLeDiff, Nat.reduceLT]
  repeat (first
    | (rw [src2Of_mk _ _ _ _ _ _ _ (by repeat rw [BitVec.getLsbD_append]
                                       rfl)])
    | (rw [part_low]; case h => decide)
    | (rw [part_high]; case h => decide)
    | rw [part_all]
    | rw [BitVec.getLsbD_append]
    | rw [join32]
    | rw [join16]
    | rw [join12]
    | rw [part_wide])
  first | rfl | (cases z <;> cases en <;> rfl)
theorem mzero (c : Ctl) (hc : BitVec 8) : Statement (.mzero c hc) := by
  intro f lit h; cases h; rw [of_c5 rfl, mk_ctl]; rfl
theorem epild (c : Ctl) (n : BitVec 8) (xa : Reg) : Statement (.epild c n xa) := by
  intro f lit h; cases h; rw [of_c6 rfl, mk_ctl]; rfl
theorem fbind (c : Ctl) (fs : BitVec 3) (hd : BitVec 8) (xa xv : Reg) : Statement (.fbind c fs hd xa xv) := by
  intro f lit h; cases h; rw [of_d0 rfl, mk_ctl]; rfl
theorem fget (c : Ctl) (xd : Reg) (hf : BitVec 8) (xc : Reg) : Statement (.fget c xd hf xc) := by
  intro f lit h; cases h; rw [of_d1 rfl, mk_ctl]; rfl
theorem fgett (c : Ctl) (hd hf hi : BitVec 8) (xq : Reg) : Statement (.fgett c hd hf hi xq) := by
  intro f lit h; cases h; rw [of_d2 rfl, mk_ctl]; rfl
theorem ksort (c : Ctl) (o32 : Bool) (hp hk hc : BitVec 8) (xs : Reg) : Statement (.ksort c o32 hp hk hc xs) := by
  intro f lit h; cases h; rw [of_d3 rfl]
  simp only [mk_ctl, mk_d, mk_a, mk_b, mk_c, mk_fs, immOf_mk, mk_bit, mk_part, Nat.reduceAdd, Nat.reduceLeDiff, Nat.reduceLT]
  repeat (first
    | (rw [src2Of_mk _ _ _ _ _ _ _ (by repeat rw [BitVec.getLsbD_append]
                                       rfl)])
    | (rw [part_low]; case h => decide)
    | (rw [part_high]; case h => decide)
    | rw [part_all]
    | rw [BitVec.getLsbD_append]
    | rw [join32]
    | rw [join16]
    | rw [join12]
    | rw [part_wide])
  first | rfl | (cases o32 <;> rfl)
theorem kpack (c : Ctl) (hv hs hb : BitVec 8) (xs : Reg) : Statement (.kpack c hv hs hb xs) := by
  intro f lit h; cases h; rw [of_d4 rfl, mk_ctl]; rfl
theorem wtake (c : Ctl) (xd : Reg) : Statement (.wtake c xd) := by
  intro f lit h; cases h; rw [of_d5 rfl, mk_ctl]; rfl
theorem wfix (c : Ctl) (xd : Reg) (hc : BitVec 8) (xp : Reg) : Statement (.wfix c xd hc xp) := by
  intro f lit h; cases h; rw [of_d6 rfl, mk_ctl]; rfl
theorem qpush (c : Ctl) (q : BitVec 8) (xa : Reg) : Statement (.qpush c q xa) := by
  intro f lit h; cases h; rw [of_d7 rfl, mk_ctl]; rfl
theorem qpop (c : Ctl) (xd : Reg) (q : BitVec 8) : Statement (.qpop c xd q) := by
  intro f lit h; cases h; rw [of_d8 rfl]
  simp only [mk_ctl, mk_d, mk_a, mk_b, mk_c, mk_fs, immOf_mk, mk_bit, mk_part, Nat.reduceAdd, Nat.reduceLeDiff, Nat.reduceLT]
  repeat (first
    | (rw [src2Of_mk _ _ _ _ _ _ _ (by repeat rw [BitVec.getLsbD_append]
                                       rfl)])
    | (rw [part_low]; case h => decide)
    | (rw [part_high]; case h => decide)
    | rw [part_all]
    | rw [BitVec.getLsbD_append]
    | rw [join32]
    | rw [join16]
    | rw [join12]
    | rw [part_wide])
  first | rfl | skip
theorem qpopAny (c : Ctl) (xd : Reg) : Statement (.qpopAny c xd) := by
  intro f lit h; cases h; rw [of_d8 rfl]
  simp only [mk_ctl, mk_d, mk_a, mk_b, mk_c, mk_fs, immOf_mk, mk_bit, mk_part, Nat.reduceAdd, Nat.reduceLeDiff, Nat.reduceLT]
  repeat (first
    | (rw [src2Of_mk _ _ _ _ _ _ _ (by repeat rw [BitVec.getLsbD_append]
                                       rfl)])
    | (rw [part_low]; case h => decide)
    | (rw [part_high]; case h => decide)
    | rw [part_all]
    | rw [BitVec.getLsbD_append]
    | rw [join32]
    | rw [join16]
    | rw [join12]
    | rw [part_wide])
  first | rfl | skip
theorem bari (c : Ctl) (b : BitVec 8) (cnt : Imm) : Statement (.bari c b cnt) := by
  intro f lit h; cases h; rw [of_e0 rfl]
  simp only [mk_ctl, mk_d, mk_a, mk_b, mk_c, mk_fs, immOf_mk, mk_bit, mk_part, Nat.reduceAdd, Nat.reduceLeDiff, Nat.reduceLT]
  repeat (first
    | (rw [src2Of_mk _ _ _ _ _ _ _ (by repeat rw [BitVec.getLsbD_append]
                                       rfl)])
    | (rw [part_low]; case h => decide)
    | (rw [part_high]; case h => decide)
    | rw [part_all]
    | rw [BitVec.getLsbD_append]
    | rw [join32]
    | rw [join16]
    | rw [join12]
    | rw [part_wide])
  first | rfl | skip
theorem barr (c : Ctl) (xd : Reg) (b : BitVec 8) : Statement (.barr c xd b) := by
  intro f lit h; cases h; rw [of_e1 rfl, mk_ctl]; rfl
theorem barw (c : Ctl) (b : BitVec 8) (xb : Reg) : Statement (.barw c b xb) := by
  intro f lit h; cases h; rw [of_e2 rfl, mk_ctl]; rfl
theorem bars (c : Ctl) (b : BitVec 8) : Statement (.bars c b) := by
  intro f lit h; cases h; rw [of_e3 rfl, mk_ctl]; rfl
theorem gset (c : Ctl) (cc : BitVec 3) (fp : Bool) (gd : BitVec 8) (xa xb : Reg) : Statement (.gset c cc fp gd xa xb) := by
  intro f lit h; cases h; rw [of_e4 rfl]
  simp only [mk_ctl, mk_d, mk_a, mk_b, mk_c, mk_fs, immOf_mk, mk_bit, mk_part, Nat.reduceAdd, Nat.reduceLeDiff, Nat.reduceLT]
  repeat (first
    | (rw [src2Of_mk _ _ _ _ _ _ _ (by repeat rw [BitVec.getLsbD_append]
                                       rfl)])
    | (rw [part_low]; case h => decide)
    | (rw [part_high]; case h => decide)
    | rw [part_all]
    | rw [BitVec.getLsbD_append]
    | rw [join32]
    | rw [join16]
    | rw [join12]
    | rw [part_wide])
  first | rfl | (cases fp <;> rfl)
theorem gres (c : Ctl) (gd : BitVec 8) (xa : Reg) : Statement (.gres c gd xa) := by
  intro f lit h; cases h; rw [of_e5 rfl, mk_ctl]; rfl
theorem gresOpen (c : Ctl) (gd : BitVec 8) : Statement (.gresOpen c gd) := by
  intro f lit h; cases h; rw [of_e5 rfl, mk_ctl]; rfl
theorem gwait (c : Ctl) (xd : Reg) (ga : BitVec 8) : Statement (.gwait c xd ga) := by
  intro f lit h; cases h; rw [of_e6 rfl, mk_ctl]; rfl
theorem fwait (c : Ctl) (mask : BitVec 12) : Statement (.fwait c mask) := by
  intro f lit h; cases h; rw [of_e7 rfl]
  simp only [mk_ctl, mk_d, mk_a, mk_b, mk_c, mk_fs, immOf_mk, mk_bit, mk_part, Nat.reduceAdd, Nat.reduceLeDiff, Nat.reduceLT]
  repeat (first
    | (rw [src2Of_mk _ _ _ _ _ _ _ (by repeat rw [BitVec.getLsbD_append]
                                       rfl)])
    | (rw [part_low]; case h => decide)
    | (rw [part_high]; case h => decide)
    | rw [part_all]
    | rw [BitVec.getLsbD_append]
    | rw [join32]
    | rw [join16]
    | rw [join12]
    | rw [part_wide])
  first | rfl | skip
theorem lease (c : Ctl) (n : BitVec 12) : Statement (.lease c n) := by
  intro f lit h; cases h; rw [of_e8 rfl]
  simp only [mk_ctl, mk_d, mk_a, mk_b, mk_c, mk_fs, immOf_mk, mk_bit, mk_part, Nat.reduceAdd, Nat.reduceLeDiff, Nat.reduceLT]
  repeat (first
    | (rw [src2Of_mk _ _ _ _ _ _ _ (by repeat rw [BitVec.getLsbD_append]
                                       rfl)])
    | (rw [part_low]; case h => decide)
    | (rw [part_high]; case h => decide)
    | rw [part_all]
    | rw [BitVec.getLsbD_append]
    | rw [join32]
    | rw [join16]
    | rw [join12]
    | rw [part_wide])
  first | rfl | skip
theorem rowmaj (c : Ctl) (xd xa xb xc : Reg) : Statement (.rowmaj c xd xa xb xc) := by
  intro f lit h; cases h; rw [of_f0 rfl, mk_ctl]; rfl
theorem rowand (c : Ctl) (xd xa xb : Reg) : Statement (.rowand c xd xa xb) := by
  intro f lit h; cases h; rw [of_f1 rfl, mk_ctl]; rfl
theorem rowor (c : Ctl) (xd xa xb : Reg) : Statement (.rowor c xd xa xb) := by
  intro f lit h; cases h; rw [of_f2 rfl, mk_ctl]; rfl
theorem rownot (c : Ctl) (xd xa : Reg) : Statement (.rownot c xd xa) := by
  intro f lit h; cases h; rw [of_f3 rfl, mk_ctl]; rfl
theorem rowcp (c : Ctl) (xd xa : Reg) : Statement (.rowcp c xd xa) := by
  intro f lit h; cases h; rw [of_f4 rfl, mk_ctl]; rfl
theorem bkfence (c : Ctl) : Statement (.bkfence c) := by
  intro f lit h; cases h; rw [of_f5 rfl, mk_ctl] <;> rfl
theorem ctxsave (c : Ctl) (xd xa xb : Reg) : Statement (.ctxsave c xd xa xb) := by
  intro f lit h; cases h; rw [of_f8 rfl]
  simp only [mk_ctl, mk_d, mk_a, mk_b, mk_c, mk_fs, immOf_mk, mk_bit, mk_part, Nat.reduceAdd, Nat.reduceLeDiff, Nat.reduceLT]
  repeat (first
    | (rw [src2Of_mk _ _ _ _ _ _ _ (by repeat rw [BitVec.getLsbD_append]
                                       rfl)])
    | (rw [part_low]; case h => decide)
    | (rw [part_high]; case h => decide)
    | rw [part_all]
    | rw [BitVec.getLsbD_append]
    | rw [join32]
    | rw [join16]
    | rw [join12]
    | rw [part_wide])
  first | rfl | skip
theorem ctxsaveTeam (c : Ctl) (xd xa xb xc : Reg) : Statement (.ctxsaveTeam c xd xa xb xc) := by
  intro f lit h; cases h; rw [of_f8 rfl]
  simp only [mk_ctl, mk_d, mk_a, mk_b, mk_c, mk_fs, immOf_mk, mk_bit, mk_part, Nat.reduceAdd, Nat.reduceLeDiff, Nat.reduceLT]
  repeat (first
    | (rw [src2Of_mk _ _ _ _ _ _ _ (by repeat rw [BitVec.getLsbD_append]
                                       rfl)])
    | (rw [part_low]; case h => decide)
    | (rw [part_high]; case h => decide)
    | rw [part_all]
    | rw [BitVec.getLsbD_append]
    | rw [join32]
    | rw [join16]
    | rw [join12]
    | rw [part_wide])
  first | rfl | skip
theorem ctxload (c : Ctl) (xd xa : Reg) : Statement (.ctxload c xd xa) := by
  intro f lit h; cases h; rw [of_f9 rfl]
  simp only [mk_ctl, mk_d, mk_a, mk_b, mk_c, mk_fs, immOf_mk, mk_bit, mk_part, Nat.reduceAdd, Nat.reduceLeDiff, Nat.reduceLT]
  repeat (first
    | (rw [src2Of_mk _ _ _ _ _ _ _ (by repeat rw [BitVec.getLsbD_append]
                                       rfl)])
    | (rw [part_low]; case h => decide)
    | (rw [part_high]; case h => decide)
    | rw [part_all]
    | rw [BitVec.getLsbD_append]
    | rw [join32]
    | rw [join16]
    | rw [join12]
    | rw [part_wide])
  first | rfl | skip
theorem ctxloadTeam (c : Ctl) (xd xa xc : Reg) : Statement (.ctxloadTeam c xd xa xc) := by
  intro f lit h; cases h; rw [of_f9 rfl]
  simp only [mk_ctl, mk_d, mk_a, mk_b, mk_c, mk_fs, immOf_mk, mk_bit, mk_part, Nat.reduceAdd, Nat.reduceLeDiff, Nat.reduceLT]
  repeat (first
    | (rw [src2Of_mk _ _ _ _ _ _ _ (by repeat rw [BitVec.getLsbD_append]
                                       rfl)])
    | (rw [part_low]; case h => decide)
    | (rw [part_high]; case h => decide)
    | rw [part_all]
    | rw [BitVec.getLsbD_append]
    | rw [join32]
    | rw [join16]
    | rw [join12]
    | rw [part_wide])
  first | rfl | skip
theorem tinvUnmap (c : Ctl) (xa xb : Reg) : Statement (.tinvUnmap c xa xb) := by
  intro f lit h; cases h; rw [of_fa rfl, mk_ctl]; rfl
theorem tinvDowngrade (c : Ctl) (xa xb : Reg) : Statement (.tinvDowngrade c xa xb) := by
  intro f lit h; cases h; rw [of_fa rfl, mk_ctl]; rfl
theorem tinvUnmapAll (c : Ctl) (xb : Reg) : Statement (.tinvUnmapAll c xb) := by
  intro f lit h; cases h; rw [of_fa rfl, mk_ctl]; rfl
theorem selftestArray (c : Ctl) (xd xa : Reg) : Statement (.selftestArray c xd xa) := by
  intro f lit h; cases h; rw [of_fb rfl, mk_ctl]; rfl
theorem selftestBank (c : Ctl) (xd xa : Reg) : Statement (.selftestBank c xd xa) := by
  intro f lit h; cases h; rw [of_fb rfl, mk_ctl]; rfl
theorem pairAdd (d : Reg) (o : PairSrc) : Statement (.pairAdd d o) := fun _ _ h => nomatch h
theorem pairSub (d : Reg) (o : PairSrc) : Statement (.pairSub d o) := fun _ _ h => nomatch h
theorem pairAnd (d : Reg) (o : PairSrc) : Statement (.pairAnd d o) := fun _ _ h => nomatch h
theorem pairOr (d : Reg) (o : PairSrc) : Statement (.pairOr d o) := fun _ _ h => nomatch h
theorem pairXor (d : Reg) (o : PairSrc) : Statement (.pairXor d o) := fun _ _ h => nomatch h
theorem pairShl (d : Reg) (o : PairSrc) : Statement (.pairShl d o) := fun _ _ h => nomatch h
theorem pairShr (d : Reg) (o : PairSrc) : Statement (.pairShr d o) := fun _ _ h => nomatch h
theorem pairSar (d : Reg) (o : PairSrc) : Statement (.pairSar d o) := fun _ _ h => nomatch h
theorem pairMinS32 (d : Reg) (o : PairSrc) : Statement (.pairMinS32 d o) := fun _ _ h => nomatch h
theorem pairMinB32 (d : Reg) (o : PairSrc) : Statement (.pairMinB32 d o) := fun _ _ h => nomatch h
theorem pairMaxS32 (d : Reg) (o : PairSrc) : Statement (.pairMaxS32 d o) := fun _ _ h => nomatch h
theorem pairMaxB32 (d : Reg) (o : PairSrc) : Statement (.pairMaxB32 d o) := fun _ _ h => nomatch h
theorem pairMov (d : Reg) (o : PairSrc) : Statement (.pairMov d o) := fun _ _ h => nomatch h
theorem pairFadd (d : Reg) (o : PairSrc) : Statement (.pairFadd d o) := fun _ _ h => nomatch h
theorem pairFmul (d : Reg) (o : PairSrc) : Statement (.pairFmul d o) := fun _ _ h => nomatch h
theorem pairFmin (d : Reg) (o : PairSrc) : Statement (.pairFmin d o) := fun _ _ h => nomatch h
theorem pairFmax (d : Reg) (o : PairSrc) : Statement (.pairFmax d o) := fun _ _ h => nomatch h
theorem remoteOrHostAccessArrival (at_ : ArrivalPage) (pa : Nat) (write : Option DWord) (size : Nat) : Statement (.remoteOrHostAccessArrival at_ pa write size) := fun _ _ h => nomatch h
theorem queuePairGrant (q : Nat) (asp : AddrSpace) : Statement (.queuePairGrant q asp) := fun _ _ h => nomatch h
theorem firmwareLaunchStart (num : Nat) (lrec : Nat) (asp : AddrSpace) : Statement (.firmwareLaunchStart num lrec asp) := fun _ _ h => nomatch h
theorem escalatedTeamEnd (team : Nat) (saved : Bool) : Statement (.escalatedTeamEnd team saved) := fun _ _ h => nomatch h
theorem recoveryFirmwareLoad (signed : Bool) (digest : BitVec 256) : Statement (.recoveryFirmwareLoad signed digest) := fun _ _ h => nomatch h
theorem maintenanceCompletion (t acc : Nat) : Statement (.maintenanceCompletion t acc) := fun _ _ h => nomatch h
theorem prefCompletion (t acc : Nat) : Statement (.prefCompletion t acc) := fun _ _ h => nomatch h
theorem starvation : Statement .starvation := fun _ _ h => nomatch h
theorem yieldExclusionEnd : Statement .yieldExclusionEnd := fun _ _ h => nomatch h
theorem unitCommit : Statement .unitCommit := fun _ _ h => nomatch h
theorem trapRollback : Statement .trapRollback := fun _ _ h => nomatch h
theorem meetComplete : Statement .meetComplete := fun _ _ h => nomatch h
theorem tallocTimeout : Statement .tallocTimeout := fun _ _ h => nomatch h
theorem leaseEvaluation : Statement .leaseEvaluation := fun _ _ h => nomatch h
theorem leaseQuietDecay : Statement .leaseQuietDecay := fun _ _ h => nomatch h
theorem parkedTimeExpiry : Statement .parkedTimeExpiry := fun _ _ h => nomatch h
theorem protectionEnd : Statement .protectionEnd := fun _ _ h => nomatch h
theorem publicationRequest : Statement .publicationRequest := fun _ _ h => nomatch h
theorem publicationReply : Statement .publicationReply := fun _ _ h => nomatch h
theorem revocation : Statement .revocation := fun _ _ h => nomatch h
theorem registryRecall : Statement .registryRecall := fun _ _ h => nomatch h
theorem reclassification : Statement .reclassification := fun _ _ h => nomatch h
theorem pageWalk : Statement .pageWalk := fun _ _ h => nomatch h
theorem launchEnd : Statement .launchEnd := fun _ _ h => nomatch h
theorem readyDeadlineExpiry : Statement .readyDeadlineExpiry := fun _ _ h => nomatch h
theorem preemptionDeadline : Statement .preemptionDeadline := fun _ _ h => nomatch h
theorem submissionConsume : Statement .submissionConsume := fun _ _ h => nomatch h
theorem completionRecordWrite : Statement .completionRecordWrite := fun _ _ h => nomatch h
theorem queueEnable : Statement .queueEnable := fun _ _ h => nomatch h
theorem errClear : Statement .errClear := fun _ _ h => nomatch h
theorem portDown : Statement .portDown := fun _ _ h => nomatch h
theorem pairPnop : Statement .pairPnop := fun _ _ h => nomatch h
theorem deviceReset : Statement .deviceReset := fun _ _ h => nomatch h
theorem flitError : Statement .flitError := fun _ _ h => nomatch h

end Sys2Proof.Laws.RoundTrip
end

