-- ==== Sys2Proof/Laws/State.lean ====
section
/-! SUPPORT. What the updates of a state and of a thread leave in each field, so that no later proof unfolds a
record update. -/

namespace Sys2Proof.Machine


/-! One thread set. -/

@[simp] theorem State_setThread_threads (s : State) (t : Nat) (th : Thread) : (s.setThread t th).threads = put s.threads t th := rfl
@[simp] theorem State_setThread_cores (s : State) (t : Nat) (th : Thread) : (s.setThread t th).cores = s.cores := rfl
@[simp] theorem State_setThread_dram (s : State) (t : Nat) (th : Thread) : (s.setThread t th).dram = s.dram := rfl
@[simp] theorem State_setThread_hostMem (s : State) (t : Nat) (th : Thread) : (s.setThread t th).hostMem = s.hostMem := rfl
@[simp] theorem State_setThread_remote (s : State) (t : Nat) (th : Thread) : (s.setThread t th).remote = s.remote := rfl
@[simp] theorem State_setThread_l2 (s : State) (t : Nat) (th : Thread) : (s.setThread t th).l2 = s.l2 := rfl
@[simp] theorem State_setThread_registry (s : State) (t : Nat) (th : Thread) : (s.setThread t th).registry = s.registry := rfl
@[simp] theorem State_setThread_pages (s : State) (t : Nat) (th : Thread) : (s.setThread t th).pages = s.pages := rfl
@[simp] theorem State_setThread_reclass (s : State) (t : Nat) (th : Thread) : (s.setThread t th).reclass = s.reclass := rfl
@[simp] theorem State_setThread_pubs (s : State) (t : Nat) (th : Thread) : (s.setThread t th).pubs = s.pubs := rfl
@[simp] theorem State_setThread_revs (s : State) (t : Nat) (th : Thread) : (s.setThread t th).revs = s.revs := rfl
@[simp] theorem State_setThread_nextPub (s : State) (t : Nat) (th : Thread) : (s.setThread t th).nextPub = s.nextPub := rfl
@[simp] theorem State_setThread_allocS (s : State) (t : Nat) (th : Thread) : (s.setThread t th).allocS = s.allocS := rfl
@[simp] theorem State_setThread_slots (s : State) (t : Nat) (th : Thread) : (s.setThread t th).slots = s.slots := rfl
@[simp] theorem State_setThread_tickets (s : State) (t : Nat) (th : Thread) : (s.setThread t th).tickets = s.tickets := rfl
@[simp] theorem State_setThread_badBanks (s : State) (t : Nat) (th : Thread) : (s.setThread t th).badBanks = s.badBanks := rfl
@[simp] theorem State_setThread_errlog (s : State) (t : Nat) (th : Thread) : (s.setThread t th).errlog = s.errlog := rfl
@[simp] theorem State_setThread_atc (s : State) (t : Nat) (th : Thread) : (s.setThread t th).atc = s.atc := rfl
@[simp] theorem State_setThread_ats (s : State) (t : Nat) (th : Thread) : (s.setThread t th).ats = s.ats := rfl
@[simp] theorem State_setThread_invs (s : State) (t : Nat) (th : Thread) : (s.setThread t th).invs = s.invs := rfl
@[simp] theorem State_setThread_devFail (s : State) (t : Nat) (th : Thread) : (s.setThread t th).devFail = s.devFail := rfl
@[simp] theorem State_setThread_devWalks (s : State) (t : Nat) (th : Thread) : (s.setThread t th).devWalks = s.devWalks := rfl
@[simp] theorem State_setThread_walks (s : State) (t : Nat) (th : Thread) : (s.setThread t th).walks = s.walks := rfl
@[simp] theorem State_setThread_launches (s : State) (t : Nat) (th : Thread) : (s.setThread t th).launches = s.launches := rfl
@[simp] theorem State_setThread_nextLid (s : State) (t : Nat) (th : Thread) : (s.setThread t th).nextLid = s.nextLid := rfl
@[simp] theorem State_setThread_queues (s : State) (t : Nat) (th : Thread) : (s.setThread t th).queues = s.queues := rfl
@[simp] theorem State_setThread_lost (s : State) (t : Nat) (th : Thread) : (s.setThread t th).lost = s.lost := rfl
@[simp] theorem State_setThread_genMax (s : State) (t : Nat) (th : Thread) : (s.setThread t th).genMax = s.genMax := rfl
@[simp] theorem State_setThread_policy (s : State) (t : Nat) (th : Thread) : (s.setThread t th).policy = s.policy := rfl
@[simp] theorem State_setThread_ports (s : State) (t : Nat) (th : Thread) : (s.setThread t th).ports = s.ports := rfl
@[simp] theorem State_setThread_throttle (s : State) (t : Nat) (th : Thread) : (s.setThread t th).throttle = s.throttle := rfl
@[simp] theorem State_setThread_powerAt (s : State) (t : Nat) (th : Thread) : (s.setThread t th).powerAt = s.powerAt := rfl
@[simp] theorem State_setThread_hotDies (s : State) (t : Nat) (th : Thread) : (s.setThread t th).hotDies = s.hotDies := rfl
@[simp] theorem State_setThread_up (s : State) (t : Nat) (th : Thread) : (s.setThread t th).up = s.up := rfl
@[simp] theorem State_setThread_recovery (s : State) (t : Nat) (th : Thread) : (s.setThread t th).recovery = s.recovery := rfl
@[simp] theorem State_setThread_config (s : State) (t : Nat) (th : Thread) : (s.setThread t th).config = s.config := rfl
@[simp] theorem State_setThread_fwDigest (s : State) (t : Nat) (th : Thread) : (s.setThread t th).fwDigest = s.fwDigest := rfl
@[simp] theorem State_setThread_attest (s : State) (t : Nat) (th : Thread) : (s.setThread t th).attest = s.attest := rfl
@[simp] theorem State_setThread_msgs (s : State) (t : Nat) (th : Thread) : (s.setThread t th).msgs = s.msgs := rfl
@[simp] theorem State_setThread_told (s : State) (t : Nat) (th : Thread) : (s.setThread t th).told = s.told := rfl
@[simp] theorem State_setThread_clk (s : State) (t : Nat) (th : Thread) : (s.setThread t th).clk = s.clk := rfl
@[simp] theorem State_setThread_agenda (s : State) (t : Nat) (th : Thread) : (s.setThread t th).agenda = s.agenda := rfl
@[simp] theorem State_setThread_issued (s : State) (t : Nat) (th : Thread) : (s.setThread t th).issued = s.issued := rfl
@[simp] theorem State_setThread_cur (s : State) (t : Nat) (th : Thread) : (s.setThread t th).cur = s.cur := rfl
@[simp] theorem State_setThread_issueQ (s : State) (t : Nat) (th : Thread) : (s.setThread t th).issueQ = s.issueQ := rfl
@[simp] theorem State_setThread_issueSet (s : State) (t : Nat) (th : Thread) : (s.setThread t th).issueSet = s.issueSet := rfl
@[simp] theorem State_setThread_pair (s : State) (t : Nat) (th : Thread) : (s.setThread t th).pair = s.pair := rfl
@[simp] theorem State_setThread_stalled (s : State) (t : Nat) (th : Thread) : (s.setThread t th).stalled = s.stalled := rfl
@[simp] theorem State_setThread_free (s : State) (t : Nat) (th : Thread) : (s.setThread t th).free = s.free := rfl

/-! One thread changed. -/

@[simp] theorem State_modThread_threads (s : State) (t : Nat) (f : Thread → Thread) : (s.modThread t f).threads = adjust s.threads t f := rfl
@[simp] theorem State_modThread_cores (s : State) (t : Nat) (f : Thread → Thread) : (s.modThread t f).cores = s.cores := rfl
@[simp] theorem State_modThread_dram (s : State) (t : Nat) (f : Thread → Thread) : (s.modThread t f).dram = s.dram := rfl
@[simp] theorem State_modThread_hostMem (s : State) (t : Nat) (f : Thread → Thread) : (s.modThread t f).hostMem = s.hostMem := rfl
@[simp] theorem State_modThread_remote (s : State) (t : Nat) (f : Thread → Thread) : (s.modThread t f).remote = s.remote := rfl
@[simp] theorem State_modThread_l2 (s : State) (t : Nat) (f : Thread → Thread) : (s.modThread t f).l2 = s.l2 := rfl
@[simp] theorem State_modThread_registry (s : State) (t : Nat) (f : Thread → Thread) : (s.modThread t f).registry = s.registry := rfl
@[simp] theorem State_modThread_pages (s : State) (t : Nat) (f : Thread → Thread) : (s.modThread t f).pages = s.pages := rfl
@[simp] theorem State_modThread_reclass (s : State) (t : Nat) (f : Thread → Thread) : (s.modThread t f).reclass = s.reclass := rfl
@[simp] theorem State_modThread_pubs (s : State) (t : Nat) (f : Thread → Thread) : (s.modThread t f).pubs = s.pubs := rfl
@[simp] theorem State_modThread_revs (s : State) (t : Nat) (f : Thread → Thread) : (s.modThread t f).revs = s.revs := rfl
@[simp] theorem State_modThread_nextPub (s : State) (t : Nat) (f : Thread → Thread) : (s.modThread t f).nextPub = s.nextPub := rfl
@[simp] theorem State_modThread_allocS (s : State) (t : Nat) (f : Thread → Thread) : (s.modThread t f).allocS = s.allocS := rfl
@[simp] theorem State_modThread_slots (s : State) (t : Nat) (f : Thread → Thread) : (s.modThread t f).slots = s.slots := rfl
@[simp] theorem State_modThread_tickets (s : State) (t : Nat) (f : Thread → Thread) : (s.modThread t f).tickets = s.tickets := rfl
@[simp] theorem State_modThread_badBanks (s : State) (t : Nat) (f : Thread → Thread) : (s.modThread t f).badBanks = s.badBanks := rfl
@[simp] theorem State_modThread_errlog (s : State) (t : Nat) (f : Thread → Thread) : (s.modThread t f).errlog = s.errlog := rfl
@[simp] theorem State_modThread_atc (s : State) (t : Nat) (f : Thread → Thread) : (s.modThread t f).atc = s.atc := rfl
@[simp] theorem State_modThread_ats (s : State) (t : Nat) (f : Thread → Thread) : (s.modThread t f).ats = s.ats := rfl
@[simp] theorem State_modThread_invs (s : State) (t : Nat) (f : Thread → Thread) : (s.modThread t f).invs = s.invs := rfl
@[simp] theorem State_modThread_devFail (s : State) (t : Nat) (f : Thread → Thread) : (s.modThread t f).devFail = s.devFail := rfl
@[simp] theorem State_modThread_devWalks (s : State) (t : Nat) (f : Thread → Thread) : (s.modThread t f).devWalks = s.devWalks := rfl
@[simp] theorem State_modThread_walks (s : State) (t : Nat) (f : Thread → Thread) : (s.modThread t f).walks = s.walks := rfl
@[simp] theorem State_modThread_launches (s : State) (t : Nat) (f : Thread → Thread) : (s.modThread t f).launches = s.launches := rfl
@[simp] theorem State_modThread_nextLid (s : State) (t : Nat) (f : Thread → Thread) : (s.modThread t f).nextLid = s.nextLid := rfl
@[simp] theorem State_modThread_queues (s : State) (t : Nat) (f : Thread → Thread) : (s.modThread t f).queues = s.queues := rfl
@[simp] theorem State_modThread_lost (s : State) (t : Nat) (f : Thread → Thread) : (s.modThread t f).lost = s.lost := rfl
@[simp] theorem State_modThread_genMax (s : State) (t : Nat) (f : Thread → Thread) : (s.modThread t f).genMax = s.genMax := rfl
@[simp] theorem State_modThread_policy (s : State) (t : Nat) (f : Thread → Thread) : (s.modThread t f).policy = s.policy := rfl
@[simp] theorem State_modThread_ports (s : State) (t : Nat) (f : Thread → Thread) : (s.modThread t f).ports = s.ports := rfl
@[simp] theorem State_modThread_throttle (s : State) (t : Nat) (f : Thread → Thread) : (s.modThread t f).throttle = s.throttle := rfl
@[simp] theorem State_modThread_powerAt (s : State) (t : Nat) (f : Thread → Thread) : (s.modThread t f).powerAt = s.powerAt := rfl
@[simp] theorem State_modThread_hotDies (s : State) (t : Nat) (f : Thread → Thread) : (s.modThread t f).hotDies = s.hotDies := rfl
@[simp] theorem State_modThread_up (s : State) (t : Nat) (f : Thread → Thread) : (s.modThread t f).up = s.up := rfl
@[simp] theorem State_modThread_recovery (s : State) (t : Nat) (f : Thread → Thread) : (s.modThread t f).recovery = s.recovery := rfl
@[simp] theorem State_modThread_config (s : State) (t : Nat) (f : Thread → Thread) : (s.modThread t f).config = s.config := rfl
@[simp] theorem State_modThread_fwDigest (s : State) (t : Nat) (f : Thread → Thread) : (s.modThread t f).fwDigest = s.fwDigest := rfl
@[simp] theorem State_modThread_attest (s : State) (t : Nat) (f : Thread → Thread) : (s.modThread t f).attest = s.attest := rfl
@[simp] theorem State_modThread_msgs (s : State) (t : Nat) (f : Thread → Thread) : (s.modThread t f).msgs = s.msgs := rfl
@[simp] theorem State_modThread_told (s : State) (t : Nat) (f : Thread → Thread) : (s.modThread t f).told = s.told := rfl
@[simp] theorem State_modThread_clk (s : State) (t : Nat) (f : Thread → Thread) : (s.modThread t f).clk = s.clk := rfl
@[simp] theorem State_modThread_agenda (s : State) (t : Nat) (f : Thread → Thread) : (s.modThread t f).agenda = s.agenda := rfl
@[simp] theorem State_modThread_issued (s : State) (t : Nat) (f : Thread → Thread) : (s.modThread t f).issued = s.issued := rfl
@[simp] theorem State_modThread_cur (s : State) (t : Nat) (f : Thread → Thread) : (s.modThread t f).cur = s.cur := rfl
@[simp] theorem State_modThread_issueQ (s : State) (t : Nat) (f : Thread → Thread) : (s.modThread t f).issueQ = s.issueQ := rfl
@[simp] theorem State_modThread_issueSet (s : State) (t : Nat) (f : Thread → Thread) : (s.modThread t f).issueSet = s.issueSet := rfl
@[simp] theorem State_modThread_pair (s : State) (t : Nat) (f : Thread → Thread) : (s.modThread t f).pair = s.pair := rfl
@[simp] theorem State_modThread_stalled (s : State) (t : Nat) (f : Thread → Thread) : (s.modThread t f).stalled = s.stalled := rfl
@[simp] theorem State_modThread_free (s : State) (t : Nat) (f : Thread → Thread) : (s.modThread t f).free = s.free := rfl

/-! One core set. -/

@[simp] theorem State_setCore_threads (s : State) (c : Nat) (k : Core) : (s.setCore c k).threads = s.threads := rfl
@[simp] theorem State_setCore_cores (s : State) (c : Nat) (k : Core) : (s.setCore c k).cores = put s.cores c k := rfl
@[simp] theorem State_setCore_dram (s : State) (c : Nat) (k : Core) : (s.setCore c k).dram = s.dram := rfl
@[simp] theorem State_setCore_hostMem (s : State) (c : Nat) (k : Core) : (s.setCore c k).hostMem = s.hostMem := rfl
@[simp] theorem State_setCore_remote (s : State) (c : Nat) (k : Core) : (s.setCore c k).remote = s.remote := rfl
@[simp] theorem State_setCore_l2 (s : State) (c : Nat) (k : Core) : (s.setCore c k).l2 = s.l2 := rfl
@[simp] theorem State_setCore_registry (s : State) (c : Nat) (k : Core) : (s.setCore c k).registry = s.registry := rfl
@[simp] theorem State_setCore_pages (s : State) (c : Nat) (k : Core) : (s.setCore c k).pages = s.pages := rfl
@[simp] theorem State_setCore_reclass (s : State) (c : Nat) (k : Core) : (s.setCore c k).reclass = s.reclass := rfl
@[simp] theorem State_setCore_pubs (s : State) (c : Nat) (k : Core) : (s.setCore c k).pubs = s.pubs := rfl
@[simp] theorem State_setCore_revs (s : State) (c : Nat) (k : Core) : (s.setCore c k).revs = s.revs := rfl
@[simp] theorem State_setCore_nextPub (s : State) (c : Nat) (k : Core) : (s.setCore c k).nextPub = s.nextPub := rfl
@[simp] theorem State_setCore_allocS (s : State) (c : Nat) (k : Core) : (s.setCore c k).allocS = s.allocS := rfl
@[simp] theorem State_setCore_slots (s : State) (c : Nat) (k : Core) : (s.setCore c k).slots = s.slots := rfl
@[simp] theorem State_setCore_tickets (s : State) (c : Nat) (k : Core) : (s.setCore c k).tickets = s.tickets := rfl
@[simp] theorem State_setCore_badBanks (s : State) (c : Nat) (k : Core) : (s.setCore c k).badBanks = s.badBanks := rfl
@[simp] theorem State_setCore_errlog (s : State) (c : Nat) (k : Core) : (s.setCore c k).errlog = s.errlog := rfl
@[simp] theorem State_setCore_atc (s : State) (c : Nat) (k : Core) : (s.setCore c k).atc = s.atc := rfl
@[simp] theorem State_setCore_ats (s : State) (c : Nat) (k : Core) : (s.setCore c k).ats = s.ats := rfl
@[simp] theorem State_setCore_invs (s : State) (c : Nat) (k : Core) : (s.setCore c k).invs = s.invs := rfl
@[simp] theorem State_setCore_devFail (s : State) (c : Nat) (k : Core) : (s.setCore c k).devFail = s.devFail := rfl
@[simp] theorem State_setCore_devWalks (s : State) (c : Nat) (k : Core) : (s.setCore c k).devWalks = s.devWalks := rfl
@[simp] theorem State_setCore_walks (s : State) (c : Nat) (k : Core) : (s.setCore c k).walks = s.walks := rfl
@[simp] theorem State_setCore_launches (s : State) (c : Nat) (k : Core) : (s.setCore c k).launches = s.launches := rfl
@[simp] theorem State_setCore_nextLid (s : State) (c : Nat) (k : Core) : (s.setCore c k).nextLid = s.nextLid := rfl
@[simp] theorem State_setCore_queues (s : State) (c : Nat) (k : Core) : (s.setCore c k).queues = s.queues := rfl
@[simp] theorem State_setCore_lost (s : State) (c : Nat) (k : Core) : (s.setCore c k).lost = s.lost := rfl
@[simp] theorem State_setCore_genMax (s : State) (c : Nat) (k : Core) : (s.setCore c k).genMax = s.genMax := rfl
@[simp] theorem State_setCore_policy (s : State) (c : Nat) (k : Core) : (s.setCore c k).policy = s.policy := rfl
@[simp] theorem State_setCore_ports (s : State) (c : Nat) (k : Core) : (s.setCore c k).ports = s.ports := rfl
@[simp] theorem State_setCore_throttle (s : State) (c : Nat) (k : Core) : (s.setCore c k).throttle = s.throttle := rfl
@[simp] theorem State_setCore_powerAt (s : State) (c : Nat) (k : Core) : (s.setCore c k).powerAt = s.powerAt := rfl
@[simp] theorem State_setCore_hotDies (s : State) (c : Nat) (k : Core) : (s.setCore c k).hotDies = s.hotDies := rfl
@[simp] theorem State_setCore_up (s : State) (c : Nat) (k : Core) : (s.setCore c k).up = s.up := rfl
@[simp] theorem State_setCore_recovery (s : State) (c : Nat) (k : Core) : (s.setCore c k).recovery = s.recovery := rfl
@[simp] theorem State_setCore_config (s : State) (c : Nat) (k : Core) : (s.setCore c k).config = s.config := rfl
@[simp] theorem State_setCore_fwDigest (s : State) (c : Nat) (k : Core) : (s.setCore c k).fwDigest = s.fwDigest := rfl
@[simp] theorem State_setCore_attest (s : State) (c : Nat) (k : Core) : (s.setCore c k).attest = s.attest := rfl
@[simp] theorem State_setCore_msgs (s : State) (c : Nat) (k : Core) : (s.setCore c k).msgs = s.msgs := rfl
@[simp] theorem State_setCore_told (s : State) (c : Nat) (k : Core) : (s.setCore c k).told = s.told := rfl
@[simp] theorem State_setCore_clk (s : State) (c : Nat) (k : Core) : (s.setCore c k).clk = s.clk := rfl
@[simp] theorem State_setCore_agenda (s : State) (c : Nat) (k : Core) : (s.setCore c k).agenda = s.agenda := rfl
@[simp] theorem State_setCore_issued (s : State) (c : Nat) (k : Core) : (s.setCore c k).issued = s.issued := rfl
@[simp] theorem State_setCore_cur (s : State) (c : Nat) (k : Core) : (s.setCore c k).cur = s.cur := rfl
@[simp] theorem State_setCore_issueQ (s : State) (c : Nat) (k : Core) : (s.setCore c k).issueQ = s.issueQ := rfl
@[simp] theorem State_setCore_issueSet (s : State) (c : Nat) (k : Core) : (s.setCore c k).issueSet = s.issueSet := rfl
@[simp] theorem State_setCore_pair (s : State) (c : Nat) (k : Core) : (s.setCore c k).pair = s.pair := rfl
@[simp] theorem State_setCore_stalled (s : State) (c : Nat) (k : Core) : (s.setCore c k).stalled = s.stalled := rfl
@[simp] theorem State_setCore_free (s : State) (c : Nat) (k : Core) : (s.setCore c k).free = s.free := rfl

/-! One team set. -/

@[simp] theorem State_setTeam_threads (s : State) (k : Nat) (tm : Team) : (s.setTeam k tm).threads = s.threads := rfl
@[simp] theorem State_setTeam_cores (s : State) (k : Nat) (tm : Team) : (s.setTeam k tm).cores = put s.cores (k / 4) { s.core (k / 4) with teams := put (s.core (k / 4)).teams (k % 4) tm } := rfl
@[simp] theorem State_setTeam_dram (s : State) (k : Nat) (tm : Team) : (s.setTeam k tm).dram = s.dram := rfl
@[simp] theorem State_setTeam_hostMem (s : State) (k : Nat) (tm : Team) : (s.setTeam k tm).hostMem = s.hostMem := rfl
@[simp] theorem State_setTeam_remote (s : State) (k : Nat) (tm : Team) : (s.setTeam k tm).remote = s.remote := rfl
@[simp] theorem State_setTeam_l2 (s : State) (k : Nat) (tm : Team) : (s.setTeam k tm).l2 = s.l2 := rfl
@[simp] theorem State_setTeam_registry (s : State) (k : Nat) (tm : Team) : (s.setTeam k tm).registry = s.registry := rfl
@[simp] theorem State_setTeam_pages (s : State) (k : Nat) (tm : Team) : (s.setTeam k tm).pages = s.pages := rfl
@[simp] theorem State_setTeam_reclass (s : State) (k : Nat) (tm : Team) : (s.setTeam k tm).reclass = s.reclass := rfl
@[simp] theorem State_setTeam_pubs (s : State) (k : Nat) (tm : Team) : (s.setTeam k tm).pubs = s.pubs := rfl
@[simp] theorem State_setTeam_revs (s : State) (k : Nat) (tm : Team) : (s.setTeam k tm).revs = s.revs := rfl
@[simp] theorem State_setTeam_nextPub (s : State) (k : Nat) (tm : Team) : (s.setTeam k tm).nextPub = s.nextPub := rfl
@[simp] theorem State_setTeam_allocS (s : State) (k : Nat) (tm : Team) : (s.setTeam k tm).allocS = s.allocS := rfl
@[simp] theorem State_setTeam_slots (s : State) (k : Nat) (tm : Team) : (s.setTeam k tm).slots = s.slots := rfl
@[simp] theorem State_setTeam_tickets (s : State) (k : Nat) (tm : Team) : (s.setTeam k tm).tickets = s.tickets := rfl
@[simp] theorem State_setTeam_badBanks (s : State) (k : Nat) (tm : Team) : (s.setTeam k tm).badBanks = s.badBanks := rfl
@[simp] theorem State_setTeam_errlog (s : State) (k : Nat) (tm : Team) : (s.setTeam k tm).errlog = s.errlog := rfl
@[simp] theorem State_setTeam_atc (s : State) (k : Nat) (tm : Team) : (s.setTeam k tm).atc = s.atc := rfl
@[simp] theorem State_setTeam_ats (s : State) (k : Nat) (tm : Team) : (s.setTeam k tm).ats = s.ats := rfl
@[simp] theorem State_setTeam_invs (s : State) (k : Nat) (tm : Team) : (s.setTeam k tm).invs = s.invs := rfl
@[simp] theorem State_setTeam_devFail (s : State) (k : Nat) (tm : Team) : (s.setTeam k tm).devFail = s.devFail := rfl
@[simp] theorem State_setTeam_devWalks (s : State) (k : Nat) (tm : Team) : (s.setTeam k tm).devWalks = s.devWalks := rfl
@[simp] theorem State_setTeam_walks (s : State) (k : Nat) (tm : Team) : (s.setTeam k tm).walks = s.walks := rfl
@[simp] theorem State_setTeam_launches (s : State) (k : Nat) (tm : Team) : (s.setTeam k tm).launches = s.launches := rfl
@[simp] theorem State_setTeam_nextLid (s : State) (k : Nat) (tm : Team) : (s.setTeam k tm).nextLid = s.nextLid := rfl
@[simp] theorem State_setTeam_queues (s : State) (k : Nat) (tm : Team) : (s.setTeam k tm).queues = s.queues := rfl
@[simp] theorem State_setTeam_lost (s : State) (k : Nat) (tm : Team) : (s.setTeam k tm).lost = s.lost := rfl
@[simp] theorem State_setTeam_genMax (s : State) (k : Nat) (tm : Team) : (s.setTeam k tm).genMax = s.genMax := rfl
@[simp] theorem State_setTeam_policy (s : State) (k : Nat) (tm : Team) : (s.setTeam k tm).policy = s.policy := rfl
@[simp] theorem State_setTeam_ports (s : State) (k : Nat) (tm : Team) : (s.setTeam k tm).ports = s.ports := rfl
@[simp] theorem State_setTeam_throttle (s : State) (k : Nat) (tm : Team) : (s.setTeam k tm).throttle = s.throttle := rfl
@[simp] theorem State_setTeam_powerAt (s : State) (k : Nat) (tm : Team) : (s.setTeam k tm).powerAt = s.powerAt := rfl
@[simp] theorem State_setTeam_hotDies (s : State) (k : Nat) (tm : Team) : (s.setTeam k tm).hotDies = s.hotDies := rfl
@[simp] theorem State_setTeam_up (s : State) (k : Nat) (tm : Team) : (s.setTeam k tm).up = s.up := rfl
@[simp] theorem State_setTeam_recovery (s : State) (k : Nat) (tm : Team) : (s.setTeam k tm).recovery = s.recovery := rfl
@[simp] theorem State_setTeam_config (s : State) (k : Nat) (tm : Team) : (s.setTeam k tm).config = s.config := rfl
@[simp] theorem State_setTeam_fwDigest (s : State) (k : Nat) (tm : Team) : (s.setTeam k tm).fwDigest = s.fwDigest := rfl
@[simp] theorem State_setTeam_attest (s : State) (k : Nat) (tm : Team) : (s.setTeam k tm).attest = s.attest := rfl
@[simp] theorem State_setTeam_msgs (s : State) (k : Nat) (tm : Team) : (s.setTeam k tm).msgs = s.msgs := rfl
@[simp] theorem State_setTeam_told (s : State) (k : Nat) (tm : Team) : (s.setTeam k tm).told = s.told := rfl
@[simp] theorem State_setTeam_clk (s : State) (k : Nat) (tm : Team) : (s.setTeam k tm).clk = s.clk := rfl
@[simp] theorem State_setTeam_agenda (s : State) (k : Nat) (tm : Team) : (s.setTeam k tm).agenda = s.agenda := rfl
@[simp] theorem State_setTeam_issued (s : State) (k : Nat) (tm : Team) : (s.setTeam k tm).issued = s.issued := rfl
@[simp] theorem State_setTeam_cur (s : State) (k : Nat) (tm : Team) : (s.setTeam k tm).cur = s.cur := rfl
@[simp] theorem State_setTeam_issueQ (s : State) (k : Nat) (tm : Team) : (s.setTeam k tm).issueQ = s.issueQ := rfl
@[simp] theorem State_setTeam_issueSet (s : State) (k : Nat) (tm : Team) : (s.setTeam k tm).issueSet = s.issueSet := rfl
@[simp] theorem State_setTeam_pair (s : State) (k : Nat) (tm : Team) : (s.setTeam k tm).pair = s.pair := rfl
@[simp] theorem State_setTeam_stalled (s : State) (k : Nat) (tm : Team) : (s.setTeam k tm).stalled = s.stalled := rfl
@[simp] theorem State_setTeam_free (s : State) (k : Nat) (tm : Team) : (s.setTeam k tm).free = s.free := rfl

/-! One launch changed. -/

@[simp] theorem State_modLaunch_threads (s : State) (l : Nat) (f : Launch → Launch) : (s.modLaunch l f).threads = s.threads := rfl
@[simp] theorem State_modLaunch_cores (s : State) (l : Nat) (f : Launch → Launch) : (s.modLaunch l f).cores = s.cores := rfl
@[simp] theorem State_modLaunch_dram (s : State) (l : Nat) (f : Launch → Launch) : (s.modLaunch l f).dram = s.dram := rfl
@[simp] theorem State_modLaunch_hostMem (s : State) (l : Nat) (f : Launch → Launch) : (s.modLaunch l f).hostMem = s.hostMem := rfl
@[simp] theorem State_modLaunch_remote (s : State) (l : Nat) (f : Launch → Launch) : (s.modLaunch l f).remote = s.remote := rfl
@[simp] theorem State_modLaunch_l2 (s : State) (l : Nat) (f : Launch → Launch) : (s.modLaunch l f).l2 = s.l2 := rfl
@[simp] theorem State_modLaunch_registry (s : State) (l : Nat) (f : Launch → Launch) : (s.modLaunch l f).registry = s.registry := rfl
@[simp] theorem State_modLaunch_pages (s : State) (l : Nat) (f : Launch → Launch) : (s.modLaunch l f).pages = s.pages := rfl
@[simp] theorem State_modLaunch_reclass (s : State) (l : Nat) (f : Launch → Launch) : (s.modLaunch l f).reclass = s.reclass := rfl
@[simp] theorem State_modLaunch_pubs (s : State) (l : Nat) (f : Launch → Launch) : (s.modLaunch l f).pubs = s.pubs := rfl
@[simp] theorem State_modLaunch_revs (s : State) (l : Nat) (f : Launch → Launch) : (s.modLaunch l f).revs = s.revs := rfl
@[simp] theorem State_modLaunch_nextPub (s : State) (l : Nat) (f : Launch → Launch) : (s.modLaunch l f).nextPub = s.nextPub := rfl
@[simp] theorem State_modLaunch_allocS (s : State) (l : Nat) (f : Launch → Launch) : (s.modLaunch l f).allocS = s.allocS := rfl
@[simp] theorem State_modLaunch_slots (s : State) (l : Nat) (f : Launch → Launch) : (s.modLaunch l f).slots = s.slots := rfl
@[simp] theorem State_modLaunch_tickets (s : State) (l : Nat) (f : Launch → Launch) : (s.modLaunch l f).tickets = s.tickets := rfl
@[simp] theorem State_modLaunch_badBanks (s : State) (l : Nat) (f : Launch → Launch) : (s.modLaunch l f).badBanks = s.badBanks := rfl
@[simp] theorem State_modLaunch_errlog (s : State) (l : Nat) (f : Launch → Launch) : (s.modLaunch l f).errlog = s.errlog := rfl
@[simp] theorem State_modLaunch_atc (s : State) (l : Nat) (f : Launch → Launch) : (s.modLaunch l f).atc = s.atc := rfl
@[simp] theorem State_modLaunch_ats (s : State) (l : Nat) (f : Launch → Launch) : (s.modLaunch l f).ats = s.ats := rfl
@[simp] theorem State_modLaunch_invs (s : State) (l : Nat) (f : Launch → Launch) : (s.modLaunch l f).invs = s.invs := rfl
@[simp] theorem State_modLaunch_devFail (s : State) (l : Nat) (f : Launch → Launch) : (s.modLaunch l f).devFail = s.devFail := rfl
@[simp] theorem State_modLaunch_devWalks (s : State) (l : Nat) (f : Launch → Launch) : (s.modLaunch l f).devWalks = s.devWalks := rfl
@[simp] theorem State_modLaunch_walks (s : State) (l : Nat) (f : Launch → Launch) : (s.modLaunch l f).walks = s.walks := rfl
@[simp] theorem State_modLaunch_launches (s : State) (l : Nat) (f : Launch → Launch) : (s.modLaunch l f).launches = adjust s.launches l f := rfl
@[simp] theorem State_modLaunch_nextLid (s : State) (l : Nat) (f : Launch → Launch) : (s.modLaunch l f).nextLid = s.nextLid := rfl
@[simp] theorem State_modLaunch_queues (s : State) (l : Nat) (f : Launch → Launch) : (s.modLaunch l f).queues = s.queues := rfl
@[simp] theorem State_modLaunch_lost (s : State) (l : Nat) (f : Launch → Launch) : (s.modLaunch l f).lost = s.lost := rfl
@[simp] theorem State_modLaunch_genMax (s : State) (l : Nat) (f : Launch → Launch) : (s.modLaunch l f).genMax = s.genMax := rfl
@[simp] theorem State_modLaunch_policy (s : State) (l : Nat) (f : Launch → Launch) : (s.modLaunch l f).policy = s.policy := rfl
@[simp] theorem State_modLaunch_ports (s : State) (l : Nat) (f : Launch → Launch) : (s.modLaunch l f).ports = s.ports := rfl
@[simp] theorem State_modLaunch_throttle (s : State) (l : Nat) (f : Launch → Launch) : (s.modLaunch l f).throttle = s.throttle := rfl
@[simp] theorem State_modLaunch_powerAt (s : State) (l : Nat) (f : Launch → Launch) : (s.modLaunch l f).powerAt = s.powerAt := rfl
@[simp] theorem State_modLaunch_hotDies (s : State) (l : Nat) (f : Launch → Launch) : (s.modLaunch l f).hotDies = s.hotDies := rfl
@[simp] theorem State_modLaunch_up (s : State) (l : Nat) (f : Launch → Launch) : (s.modLaunch l f).up = s.up := rfl
@[simp] theorem State_modLaunch_recovery (s : State) (l : Nat) (f : Launch → Launch) : (s.modLaunch l f).recovery = s.recovery := rfl
@[simp] theorem State_modLaunch_config (s : State) (l : Nat) (f : Launch → Launch) : (s.modLaunch l f).config = s.config := rfl
@[simp] theorem State_modLaunch_fwDigest (s : State) (l : Nat) (f : Launch → Launch) : (s.modLaunch l f).fwDigest = s.fwDigest := rfl
@[simp] theorem State_modLaunch_attest (s : State) (l : Nat) (f : Launch → Launch) : (s.modLaunch l f).attest = s.attest := rfl
@[simp] theorem State_modLaunch_msgs (s : State) (l : Nat) (f : Launch → Launch) : (s.modLaunch l f).msgs = s.msgs := rfl
@[simp] theorem State_modLaunch_told (s : State) (l : Nat) (f : Launch → Launch) : (s.modLaunch l f).told = s.told := rfl
@[simp] theorem State_modLaunch_clk (s : State) (l : Nat) (f : Launch → Launch) : (s.modLaunch l f).clk = s.clk := rfl
@[simp] theorem State_modLaunch_agenda (s : State) (l : Nat) (f : Launch → Launch) : (s.modLaunch l f).agenda = s.agenda := rfl
@[simp] theorem State_modLaunch_issued (s : State) (l : Nat) (f : Launch → Launch) : (s.modLaunch l f).issued = s.issued := rfl
@[simp] theorem State_modLaunch_cur (s : State) (l : Nat) (f : Launch → Launch) : (s.modLaunch l f).cur = s.cur := rfl
@[simp] theorem State_modLaunch_issueQ (s : State) (l : Nat) (f : Launch → Launch) : (s.modLaunch l f).issueQ = s.issueQ := rfl
@[simp] theorem State_modLaunch_issueSet (s : State) (l : Nat) (f : Launch → Launch) : (s.modLaunch l f).issueSet = s.issueSet := rfl
@[simp] theorem State_modLaunch_pair (s : State) (l : Nat) (f : Launch → Launch) : (s.modLaunch l f).pair = s.pair := rfl
@[simp] theorem State_modLaunch_stalled (s : State) (l : Nat) (f : Launch → Launch) : (s.modLaunch l f).stalled = s.stalled := rfl
@[simp] theorem State_modLaunch_free (s : State) (l : Nat) (f : Launch → Launch) : (s.modLaunch l f).free = s.free := rfl

/-! The begin of a step. -/

@[simp] theorem State_fresh_threads (s : State)  : (s.fresh).threads = s.threads := rfl
@[simp] theorem State_fresh_cores (s : State)  : (s.fresh).cores = s.cores := rfl
@[simp] theorem State_fresh_dram (s : State)  : (s.fresh).dram = s.dram := rfl
@[simp] theorem State_fresh_hostMem (s : State)  : (s.fresh).hostMem = s.hostMem := rfl
@[simp] theorem State_fresh_remote (s : State)  : (s.fresh).remote = s.remote := rfl
@[simp] theorem State_fresh_l2 (s : State)  : (s.fresh).l2 = s.l2 := rfl
@[simp] theorem State_fresh_registry (s : State)  : (s.fresh).registry = s.registry := rfl
@[simp] theorem State_fresh_pages (s : State)  : (s.fresh).pages = s.pages := rfl
@[simp] theorem State_fresh_reclass (s : State)  : (s.fresh).reclass = s.reclass := rfl
@[simp] theorem State_fresh_pubs (s : State)  : (s.fresh).pubs = s.pubs := rfl
@[simp] theorem State_fresh_revs (s : State)  : (s.fresh).revs = s.revs := rfl
@[simp] theorem State_fresh_nextPub (s : State)  : (s.fresh).nextPub = s.nextPub := rfl
@[simp] theorem State_fresh_allocS (s : State)  : (s.fresh).allocS = s.allocS := rfl
@[simp] theorem State_fresh_slots (s : State)  : (s.fresh).slots = s.slots := rfl
@[simp] theorem State_fresh_tickets (s : State)  : (s.fresh).tickets = s.tickets := rfl
@[simp] theorem State_fresh_badBanks (s : State)  : (s.fresh).badBanks = s.badBanks := rfl
@[simp] theorem State_fresh_errlog (s : State)  : (s.fresh).errlog = s.errlog := rfl
@[simp] theorem State_fresh_atc (s : State)  : (s.fresh).atc = s.atc := rfl
@[simp] theorem State_fresh_ats (s : State)  : (s.fresh).ats = s.ats := rfl
@[simp] theorem State_fresh_invs (s : State)  : (s.fresh).invs = s.invs := rfl
@[simp] theorem State_fresh_devFail (s : State)  : (s.fresh).devFail = s.devFail := rfl
@[simp] theorem State_fresh_devWalks (s : State)  : (s.fresh).devWalks = s.devWalks := rfl
@[simp] theorem State_fresh_walks (s : State)  : (s.fresh).walks = s.walks := rfl
@[simp] theorem State_fresh_launches (s : State)  : (s.fresh).launches = s.launches := rfl
@[simp] theorem State_fresh_nextLid (s : State)  : (s.fresh).nextLid = s.nextLid := rfl
@[simp] theorem State_fresh_queues (s : State)  : (s.fresh).queues = s.queues := rfl
@[simp] theorem State_fresh_lost (s : State)  : (s.fresh).lost = s.lost := rfl
@[simp] theorem State_fresh_genMax (s : State)  : (s.fresh).genMax = s.genMax := rfl
@[simp] theorem State_fresh_policy (s : State)  : (s.fresh).policy = s.policy := rfl
@[simp] theorem State_fresh_ports (s : State)  : (s.fresh).ports = s.ports := rfl
@[simp] theorem State_fresh_throttle (s : State)  : (s.fresh).throttle = s.throttle := rfl
@[simp] theorem State_fresh_powerAt (s : State)  : (s.fresh).powerAt = s.powerAt := rfl
@[simp] theorem State_fresh_hotDies (s : State)  : (s.fresh).hotDies = s.hotDies := rfl
@[simp] theorem State_fresh_up (s : State)  : (s.fresh).up = s.up := rfl
@[simp] theorem State_fresh_recovery (s : State)  : (s.fresh).recovery = s.recovery := rfl
@[simp] theorem State_fresh_config (s : State)  : (s.fresh).config = s.config := rfl
@[simp] theorem State_fresh_fwDigest (s : State)  : (s.fresh).fwDigest = s.fwDigest := rfl
@[simp] theorem State_fresh_attest (s : State)  : (s.fresh).attest = s.attest := rfl
@[simp] theorem State_fresh_msgs (s : State)  : (s.fresh).msgs = s.msgs := rfl
@[simp] theorem State_fresh_told (s : State)  : (s.fresh).told = s.told := rfl
@[simp] theorem State_fresh_clk (s : State)  : (s.fresh).clk = s.clk := rfl
@[simp] theorem State_fresh_agenda (s : State)  : (s.fresh).agenda = s.agenda := rfl
@[simp] theorem State_fresh_issued (s : State)  : (s.fresh).issued = s.issued := rfl
@[simp] theorem State_fresh_cur (s : State)  : (s.fresh).cur = s.cur := rfl
@[simp] theorem State_fresh_issueQ (s : State)  : (s.fresh).issueQ = s.issueQ := rfl
@[simp] theorem State_fresh_issueSet (s : State)  : (s.fresh).issueSet = s.issueSet := rfl
@[simp] theorem State_fresh_pair (s : State)  : (s.fresh).pair = none := rfl
@[simp] theorem State_fresh_stalled (s : State)  : (s.fresh).stalled = false := rfl
@[simp] theorem State_fresh_free (s : State)  : (s.fresh).free = s.free := rfl

/-! A unit issues. -/

@[simp] theorem Thread_issued_ctx (th : Thread) (clk : Nat) (next : Ctx) : (th.issued clk next).ctx = next := rfl
@[simp] theorem Thread_issued_regs (th : Thread) (clk : Nat) (next : Ctx) : (th.issued clk next).regs = th.regs := rfl
@[simp] theorem Thread_issued_flags (th : Thread) (clk : Nat) (next : Ctx) : (th.issued clk next).flags = th.flags := rfl
@[simp] theorem Thread_issued_fps (th : Thread) (clk : Nat) (next : Ctx) : (th.issued clk next).fps = th.fps := rfl
@[simp] theorem Thread_issued_tcause (th : Thread) (clk : Nat) (next : Ctx) : (th.issued clk next).tcause = th.tcause := rfl
@[simp] theorem Thread_issued_tinfo (th : Thread) (clk : Nat) (next : Ctx) : (th.issued clk next).tinfo = th.tinfo := rfl
@[simp] theorem Thread_issued_epc (th : Thread) (clk : Nat) (next : Ctx) : (th.issued clk next).epc = th.epc := rfl
@[simp] theorem Thread_issued_ta (th : Thread) (clk : Nat) (next : Ctx) : (th.issued clk next).ta = th.ta := rfl
@[simp] theorem Thread_issued_taCrem (th : Thread) (clk : Nat) (next : Ctx) : (th.issued clk next).taCrem = th.taCrem := rfl
@[simp] theorem Thread_issued_taClause (th : Thread) (clk : Nat) (next : Ctx) : (th.issued clk next).taClause = th.taClause := rfl
@[simp] theorem Thread_issued_inh (th : Thread) (clk : Nat) (next : Ctx) : (th.issued clk next).inh = th.inh := rfl
@[simp] theorem Thread_issued_pendTrap (th : Thread) (clk : Nat) (next : Ctx) : (th.issued clk next).pendTrap = th.pendTrap := rfl
@[simp] theorem Thread_issued_exited (th : Thread) (clk : Nat) (next : Ctx) : (th.issued clk next).exited = th.exited := rfl
@[simp] theorem Thread_issued_wait (th : Thread) (clk : Nat) (next : Ctx) : (th.issued clk next).wait = .none := rfl
@[simp] theorem Thread_issued_window (th : Thread) (clk : Nat) (next : Ctx) : (th.issued clk next).window = th.window := rfl
@[simp] theorem Thread_issued_nextSeq (th : Thread) (clk : Nat) (next : Ctx) : (th.issued clk next).nextSeq = th.nextSeq + 1 := rfl
@[simp] theorem Thread_issued_accs (th : Thread) (clk : Nat) (next : Ctx) : (th.issued clk next).accs = th.accs := rfl
@[simp] theorem Thread_issued_nextAcc (th : Thread) (clk : Nat) (next : Ctx) : (th.issued clk next).nextAcc = th.nextAcc := rfl
@[simp] theorem Thread_issued_age (th : Thread) (clk : Nat) (next : Ctx) : (th.issued clk next).age = th.age := rfl
@[simp] theorem Thread_issued_starved (th : Thread) (clk : Nat) (next : Ctx) : (th.issued clk next).starved = th.starved := rfl
@[simp] theorem Thread_issued_yieldEnd (th : Thread) (clk : Nat) (next : Ctx) : (th.issued clk next).yieldEnd = if next.crem == 0 && th.ctx.clause.y && !th.waiting then some (clk + 64) else th.yieldEnd := rfl
@[simp] theorem Thread_issued_skid (th : Thread) (clk : Nat) (next : Ctx) : (th.issued clk next).skid = th.skid := rfl
@[simp] theorem Thread_issued_xhold (th : Thread) (clk : Nat) (next : Ctx) : (th.issued clk next).xhold = th.xhold := rfl
@[simp] theorem Thread_issued_xreq (th : Thread) (clk : Nat) (next : Ctx) : (th.issued clk next).xreq = th.xreq := rfl
@[simp] theorem Thread_issued_xsave (th : Thread) (clk : Nat) (next : Ctx) : (th.issued clk next).xsave = th.xsave := rfl
@[simp] theorem Thread_issued_bound (th : Thread) (clk : Nat) (next : Ctx) : (th.issued clk next).bound = th.bound := rfl
@[simp] theorem Thread_issued_param (th : Thread) (clk : Nat) (next : Ctx) : (th.issued clk next).param = th.param := rfl
@[simp] theorem Thread_issued_gread (th : Thread) (clk : Nat) (next : Ctx) : (th.issued clk next).gread = none := rfl
@[simp] theorem Thread_issued_arriving (th : Thread) (clk : Nat) (next : Ctx) : (th.issued clk next).arriving = none := rfl
@[simp] theorem Thread_issued_kept (th : Thread) (clk : Nat) (next : Ctx) : (th.issued clk next).kept = th.kept := rfl
@[simp] theorem Thread_issued_unread (th : Thread) (clk : Nat) (next : Ctx) : (th.issued clk next).unread = th.unread := rfl
@[simp] theorem Thread_issued_stale (th : Thread) (clk : Nat) (next : Ctx) : (th.issued clk next).stale = th.stale := rfl
@[simp] theorem Thread_issued_taStale (th : Thread) (clk : Nat) (next : Ctx) : (th.issued clk next).taStale = th.taStale := rfl

/-! A unit enters the window. -/

@[simp] theorem Thread_enter_ctx (th : Thread) (clk : Nat) (u : WUnit) (next : Ctx) : (th.enter clk u next).ctx = next := rfl
@[simp] theorem Thread_enter_regs (th : Thread) (clk : Nat) (u : WUnit) (next : Ctx) : (th.enter clk u next).regs = th.regs := rfl
@[simp] theorem Thread_enter_flags (th : Thread) (clk : Nat) (u : WUnit) (next : Ctx) : (th.enter clk u next).flags = th.flags := rfl
@[simp] theorem Thread_enter_fps (th : Thread) (clk : Nat) (u : WUnit) (next : Ctx) : (th.enter clk u next).fps = th.fps := rfl
@[simp] theorem Thread_enter_tcause (th : Thread) (clk : Nat) (u : WUnit) (next : Ctx) : (th.enter clk u next).tcause = th.tcause := rfl
@[simp] theorem Thread_enter_tinfo (th : Thread) (clk : Nat) (u : WUnit) (next : Ctx) : (th.enter clk u next).tinfo = th.tinfo := rfl
@[simp] theorem Thread_enter_epc (th : Thread) (clk : Nat) (u : WUnit) (next : Ctx) : (th.enter clk u next).epc = th.epc := rfl
@[simp] theorem Thread_enter_ta (th : Thread) (clk : Nat) (u : WUnit) (next : Ctx) : (th.enter clk u next).ta = th.ta := rfl
@[simp] theorem Thread_enter_taCrem (th : Thread) (clk : Nat) (u : WUnit) (next : Ctx) : (th.enter clk u next).taCrem = th.taCrem := rfl
@[simp] theorem Thread_enter_taClause (th : Thread) (clk : Nat) (u : WUnit) (next : Ctx) : (th.enter clk u next).taClause = th.taClause := rfl
@[simp] theorem Thread_enter_inh (th : Thread) (clk : Nat) (u : WUnit) (next : Ctx) : (th.enter clk u next).inh = th.inh := rfl
@[simp] theorem Thread_enter_pendTrap (th : Thread) (clk : Nat) (u : WUnit) (next : Ctx) : (th.enter clk u next).pendTrap = th.pendTrap := rfl
@[simp] theorem Thread_enter_exited (th : Thread) (clk : Nat) (u : WUnit) (next : Ctx) : (th.enter clk u next).exited = th.exited := rfl
@[simp] theorem Thread_enter_wait (th : Thread) (clk : Nat) (u : WUnit) (next : Ctx) : (th.enter clk u next).wait = .none := rfl
@[simp] theorem Thread_enter_window (th : Thread) (clk : Nat) (u : WUnit) (next : Ctx) : (th.enter clk u next).window = th.window ++ [u] := rfl
@[simp] theorem Thread_enter_nextSeq (th : Thread) (clk : Nat) (u : WUnit) (next : Ctx) : (th.enter clk u next).nextSeq = th.nextSeq + 1 := rfl
@[simp] theorem Thread_enter_accs (th : Thread) (clk : Nat) (u : WUnit) (next : Ctx) : (th.enter clk u next).accs = th.accs := rfl
@[simp] theorem Thread_enter_nextAcc (th : Thread) (clk : Nat) (u : WUnit) (next : Ctx) : (th.enter clk u next).nextAcc = th.nextAcc := rfl
@[simp] theorem Thread_enter_age (th : Thread) (clk : Nat) (u : WUnit) (next : Ctx) : (th.enter clk u next).age = th.age := rfl
@[simp] theorem Thread_enter_starved (th : Thread) (clk : Nat) (u : WUnit) (next : Ctx) : (th.enter clk u next).starved = th.starved := rfl
@[simp] theorem Thread_enter_yieldEnd (th : Thread) (clk : Nat) (u : WUnit) (next : Ctx) : (th.enter clk u next).yieldEnd = if next.crem == 0 && th.ctx.clause.y && !th.waiting then some (clk + 64) else th.yieldEnd := rfl
@[simp] theorem Thread_enter_skid (th : Thread) (clk : Nat) (u : WUnit) (next : Ctx) : (th.enter clk u next).skid = th.skid := rfl
@[simp] theorem Thread_enter_xhold (th : Thread) (clk : Nat) (u : WUnit) (next : Ctx) : (th.enter clk u next).xhold = th.xhold := rfl
@[simp] theorem Thread_enter_xreq (th : Thread) (clk : Nat) (u : WUnit) (next : Ctx) : (th.enter clk u next).xreq = th.xreq := rfl
@[simp] theorem Thread_enter_xsave (th : Thread) (clk : Nat) (u : WUnit) (next : Ctx) : (th.enter clk u next).xsave = th.xsave := rfl
@[simp] theorem Thread_enter_bound (th : Thread) (clk : Nat) (u : WUnit) (next : Ctx) : (th.enter clk u next).bound = th.bound := rfl
@[simp] theorem Thread_enter_param (th : Thread) (clk : Nat) (u : WUnit) (next : Ctx) : (th.enter clk u next).param = th.param := rfl
@[simp] theorem Thread_enter_gread (th : Thread) (clk : Nat) (u : WUnit) (next : Ctx) : (th.enter clk u next).gread = none := rfl
@[simp] theorem Thread_enter_arriving (th : Thread) (clk : Nat) (u : WUnit) (next : Ctx) : (th.enter clk u next).arriving = none := rfl
@[simp] theorem Thread_enter_kept (th : Thread) (clk : Nat) (u : WUnit) (next : Ctx) : (th.enter clk u next).kept = th.kept := rfl
@[simp] theorem Thread_enter_unread (th : Thread) (clk : Nat) (u : WUnit) (next : Ctx) : (th.enter clk u next).unread = th.unread := rfl
@[simp] theorem Thread_enter_stale (th : Thread) (clk : Nat) (u : WUnit) (next : Ctx) : (th.enter clk u next).stale = th.stale := rfl
@[simp] theorem Thread_enter_taStale (th : Thread) (clk : Nat) (u : WUnit) (next : Ctx) : (th.enter clk u next).taStale = th.taStale := rfl

/-! Reading back. -/

@[simp] theorem thread?_setThread_self (s : State) (t : Nat) (th : Thread) : (s.setThread t th).thread? t = some th :=
  find?_put_self _ _ _

theorem thread?_setThread_ne (s : State) {t u : Nat} (th : Thread) (h : u ≠ t) :
    (s.setThread t th).thread? u = s.thread? u := find?_put_ne _ _ h

@[simp] theorem thread?_setCore (s : State) (c t : Nat) (k : Core) : (s.setCore c k).thread? t = s.thread? t := rfl

@[simp] theorem core_setCore_self (s : State) (c : Nat) (k : Core) : (s.setCore c k).core c = k := findD_put_self _ _ _ _

theorem core_setCore_ne (s : State) {c d : Nat} (k : Core) (h : d ≠ c) : (s.setCore c k).core d = s.core d :=
  findD_put_ne _ _ _ h

@[simp] theorem core_setThread (s : State) (t c : Nat) (th : Thread) : (s.setThread t th).core c = s.core c := rfl

@[simp] theorem team?_setThread (s : State) (t k : Nat) (th : Thread) : (s.setThread t th).team? k = s.team? k := rfl

@[simp] theorem team?_setTeam_self (s : State) (k : Nat) (tm : Team) : (s.setTeam k tm).team? k = some tm := by
  simp [State.team?, State.setTeam]

theorem team?_setTeam_ne (s : State) {k j : Nat} (tm : Team) (h : j ≠ k) : (s.setTeam k tm).team? j = s.team? j := by
  unfold State.team? State.setTeam
  by_cases hc : j / 4 = k / 4
  · rw [hc, core_setCore_self]
    exact find?_put_ne _ _ (by omega)
  · rw [core_setCore_ne _ _ hc]

/-- A thread keeps its team and launch when its thread state is set. -/
theorem env_setThread {s : State} {t : Nat} {e : Env} (h : s.env t = some e) (th : Thread) :
    (s.setThread t th).env t = some { e with th := th } := by
  unfold State.env at h ⊢
  rw [thread?_setThread_self]
  split at h <;> try cases h
  rw [team?_setThread]
  split at h <;> try cases h
  split at h <;> try cases h
  simp_all

end Sys2Proof.Machine
end

