-- ==== Sys2Proof/Laws/Units.lean ====
section
/-! SUPPORT. Units without a register destination, the slots of a pair word, guards that fail and transfers: how the
operations of Machine/ meet the terms of Safety.lean. -/

namespace Sys2Proof.Machine

/-- The pair word completes as a unit that computes registers, from the results of its slots (R26). -/
theorem finishPair_eq (s : State) (e : Env) (srcs dsts) (o0 o1 : AluOut) :
    finishPair s e srcs dsts o0 o1 = computeIssue s e false 1 srcs dsts (bothSlots o0 o1) := by
  simp only [finishPair, bothSlots]
  cases o0.trap <;> cases o1.trap <;> rfl

/-- The environment of a thread carries its number. -/
theorem env_t {s : State} {t : Nat} {e : Env} (h : s.env t = some e) : e.t = t := by
  unfold State.env at h
  split at h <;> try cases h
  split at h <;> try cases h
  split at h <;> try cases h
  rfl

/-- A meaning that is a slot has the effect that `PairSlot` states. -/
theorem pairSlot_of {i : Instr} {srcs : List Reg} {dst : Option Reg} {f g : Word → (Reg → Word) → AluOut}
    (hi : ∀ s, exec i s = slot s srcs dst g) (h : ∀ fpc rd, g fpc rd = f fpc rd) : PairSlot i srcs dst f := by
  intro s s' e hr hl
  obtain ⟨e0, hp, hr⟩ := hr.reaches
  have h0 : dst.any (fun d => e0.th.ctx.place d != .lane) = false := by
    have := hl e0 hp.env
    cases dst with
    | none => rfl
    | some d => simp [this d rfl]
  have hw : (srcs ++ dst.toList).any (fun r => e0.th.pending.contains r) = false := by
    rw [List.any_eq_false]; intro r hm; simpa using hr.written r hm
  have key : ∀ (first : Option (AluOut × List Reg)), s.pair = first → exec i s =
      match first with
        | none => .next { s' with pair := some (f e.th.ctx.fpc e.th.read, srcs) }
        | some (o0, srcs0) =>
          .next (finishPair s' e (srcs0 ++ srcs) (o0.writes.map (·.1) ++ dst.toList) o0 (f e.th.ctx.fpc e.th.read)) := by
    intro first hf
    rw [hi, slot, hf]
    simp only []
    rw [unit_of_passes hp]
    simp only [h0, hr.checks, hw, hr.env, Bool.false_eq_true, if_false, h]
    first | done | (cases first <;> rfl)
  have := key _ rfl
  show match s.pair with | none => _ | some (o0, srcs0) => _
  revert this
  cases s.pair with
  | none => intro this; exact this
  | some p => intro this; refine ⟨_, this, ?_⟩; rw [finishPair_eq]; exact computeIssue_computed _ _ _ _ _ _ _

/-- A unit whose gate comes first waits or is past when its guard fails (R19, R198). -/
theorem guarded_of {i m c n} {k : State → Env → Outcome} (hi : ∀ s, exec i s = unit s (m s) c n (k s))
   (hm : ∀ s, (m s).held = false) : Guarded i m c n := by
  intro s e he hb hp hf hg
  have hfl : ((m s).long && (e.th.ctx.clause.flag c.fl).isNone) = false := by
    cases hl : (m s).long with
    | false => rfl
    | true => have := hf hl; cases hq : e.th.ctx.clause.flag c.fl with
      | none => exact absurd hq this
      | some _ => rfl
  have hg' : (c.g != 0) = true := by simpa using hg
  refine ⟨fun ho => ?_, fun hno hgn => ?_⟩
  · rw [hi, unit]
    simp only [he, hb, hp, hfl, hg', hm, ho, Bool.false_eq_true, if_false, Bool.and_true, Bool.true_and, Bool.not_false, beq_self_eq_true, if_true]
    rfl
  · rw [hi, unit]
    have h2 : (e.guardSeen c.g.toNat == 2) = false := by rw [beq_eq_false_iff_ne]; exact hno
    have h3 : ((e.guardSeen c.g.toNat == 1) == c.gn) = true := by
      rw [beq_iff_eq, Bool.eq_iff_iff, beq_iff_eq]; exact hgn
    simp only [he, hb, hp, hfl, hg', hm, h2, h3, Bool.false_eq_true, if_false, Bool.and_true, Bool.true_and, Bool.not_false, if_true]
    simp only [Past, Behind, Thread.enter, issued_eq, Ctx.advance]; rfl

/-- A target that can be reached lets the transfer go on (R36, R73). -/
theorem lands_transfer {s : State} {e : Env} {t : DWord} {s' : State} (h : Lands s e t s') (k : State → Outcome) :
   transfer s e t k = k s' := by
  obtain ⟨w, hw, hh⟩ := h.header
  have h8 : (t.extractLsb' 0 3 != 0) = false := by
    have := h.aligned
    rw [bne_eq_false_iff_eq, ← BitVec.toNat_inj]; simp; omega
  have hd : isHeader w = true := by
    unfold isHeader; rw [beq_iff_eq, ← BitVec.toNat_inj]
    have := w.isLt
    simp [Nat.shiftRight_eq_div_pow]; omega
  simp only [transfer, h8, hw, hd, Bool.false_eq_true, if_false, if_true]
  
/-- A unit without registers leaves `Past`. -/
theorem stepTo_eq (s e next) : stepTo s e next = Past s e next := by
   simp only [stepTo, Past, Behind, Thread.enter, issued_eq]; rfl

end Sys2Proof.Machine
end

