-- ==== Sys2Proof/Tests/Slice0.lean ====
section
/-! SUPPORT. Tests of the model's author: words written out from the spec's encodings, ill-formed terms that the
checks refuse, single steps on small states with results worked out from the spec, and for every statement a state
and operands that meet its hypotheses. -/

namespace Sys2Proof.Tests

open Sys2Proof Sys2Proof.Machine

set_option Elab.async false
set_option maxRecDepth 4000

/-- A full instruction's word (R17): OP, D, A, B, C, and the bits below C. -/
def full (op d a b x low : Nat) : DWord :=
  BitVec.ofNat 64 (op * 2 ^ 54 + d * 2 ^ 46 + a * 2 ^ 38 + b * 2 ^ 30 + x * 2 ^ 22 + low)
def c : Ctl := Ctl.zero
def k : Ctl := { c with k := true }
/-- Every word decodes to the instruction beside it, which is well-formed and whose encoding is the word. -/
def Reads64 (l : List (DWord × Instr)) : Bool := l.all fun p =>
  (match decodeWord p.1 none with | .ok (.one i n) => i == p.2 && n == 1 | _ => false) &&
  p.2.fault == none && encode p.2 == [p.1]
/-- R42 to R51: control. -/
theorem test_decode_control : Reads64 [
  (full 0x00 0 0 0 0 0x000, .nop c),
  (full 0x01 0 63 255 254 0x000, .br c 0x003FFFFE),
  (full 0x02 7 9 255 254 0x005, .brc c 5 false 7 9 0xFFFE),
  (full 0x02 6 8 0 3 0x00F, .brc c 7 true 6 8 3),
  (full 0x03 255 255 255 253 0xC0000, .brg { c with g := 3 } 0xFFFFFFFD),
  (full 0x03 0 0 0 2 0xE0000, .brg { c with g := 3, gn := true } 2),
  (full 0x04 0 10 0 0 0x000, .jmp c 10),
  (full 0x05 0 0 1 2 0x000, .call c 0x102),
  (full 0x06 0 12 0 0 0x000, .callr c 12),
  (full 0x07 0 0 0 0 0x000, .ret c),
  (full 0x08 0 0 0 0 0x000, .exit c),
  (full 0x09 14 0 0 0 0x800, .refill k 14),
  (full 0x0A 0 33 0 0 0x000, .repack c 33),
  (full 0x0B 0 0 0 0 0x000, .yld c),
  (full 0x0C 0 0 0 200 0x000, .trap c 200),
  (full 0x0D 0 0 0 0 0x000, .brk c),
  (full 0x0E 0 0 0 0 0x000, .eret c)] = true := by decide +kernel

/-- R42 to R51: meets. -/
theorem test_decode_meets : Reads64 [
  (full 0x10 1 2 3 0 0x000, .shflIdx c 1 2 3),
  (full 0x10 1 2 0 31 0x001, .shflUp c 1 2 31),
  (full 0x10 1 2 0 30 0x002, .shflDown c 1 2 30),
  (full 0x10 1 2 0 16 0x803, .shflXor k 1 2 16),
  (full 0x11 5 6 0 0 0x000, .voteAny c 5 6),
  (full 0x11 5 6 0 0 0x001, .voteAll c 5 6),
  (full 0x11 5 6 0 0 0x002, .voteBallot c 5 6),
  (full 0x12 5 6 0 0 0x000, .reduxAdd c 5 6),
  (full 0x12 5 6 0 0 0x001, .reduxMin c false 5 6),
  (full 0x12 5 6 0 0 0x002, .reduxMin c true 5 6),
  (full 0x12 5 6 0 0 0x003, .reduxMax c false 5 6),
  (full 0x12 5 6 0 0 0x004, .reduxMax c true 5 6),
  (full 0x12 5 6 0 0 0x005, .reduxAnd c 5 6),
  (full 0x12 5 6 0 0 0x006, .reduxOr c 5 6),
  (full 0x12 5 6 0 0 0x007, .reduxFadd c 5 6),
  (full 0x12 5 6 0 0 0x008, .reduxFmin c 5 6),
  (full 0x12 5 6 0 0 0x009, .reduxFmax c 5 6),
  (full 0x13 0 0 0 0 0x000, .meet c)] = true := by decide +kernel

/-- R42 to R51: integer. -/
theorem test_decode_integer : Reads64 [
  (full 0x20 4 10 5 0 0x800, .add k 4 10 (.reg 5)),
  (full 0x20 4 10 0 255 0x081, .addSat c 4 10 (.imm (.c8 0xFF))),
  (full 0x21 4 10 5 0 0x000, .sub c 4 10 (.reg 5)),
  (full 0x21 4 10 5 0 0x001, .subSat c 4 10 (.reg 5)),
  (full 0x22 4 1 2 3 0x000, .addc c 4 1 2 3),
  (full 0x23 4 1 2 0 0x600, .mul { c with ru := 3 } 4 1 (.reg 2)),
  (full 0x24 4 1 2 0 0x000, .mulh c false 4 1 (.reg 2)),
  (full 0x24 4 1 2 0 0x001, .mulh c true 4 1 (.reg 2)),
  (full 0x25 4 1 2 3 0x000, .mad c 4 1 2 3),
  (full 0x25 4 1 2 6 0x001, .madS64 c 4 1 2 6),
  (full 0x26 4 1 2 0 0x000, .min c false 4 1 (.reg 2)),
  (full 0x27 4 1 2 0 0x001, .max c true 4 1 (.reg 2)),
  (full 0x28 4 1 0 0 0x000, .abs c 4 1),
  (full 0x29 4 1 2 0 0x000, .and c 4 1 (.reg 2)),
  (full 0x2A 4 1 2 0 0x000, .or c 4 1 (.reg 2)),
  (full 0x2B 4 1 2 0 0x000, .xor c 4 1 (.reg 2)),
  (full 0x2C 4 1 2 0 0x000, .andn c 4 1 (.reg 2)),
  (full 0x2D 4 1 0 0 0x000, .not c 4 1),
  (full 0x2E 4 1 2 0 0x000, .shl c false 4 1 (.reg 2)),
  (full 0x2F 4 6 3 0 0x001, .shr c true 4 6 (.reg 3)),
  (full 0x30 4 6 0 63 0x081, .sar c true 4 6 (.imm (.c8 63))),
  (full 0x31 4 1 0 31 0x080, .rol c false 4 1 (.imm (.c8 31))),
  (full 0x32 3 6 0 0 0x001, .clz c true 3 6),
  (full 0x33 3 6 0 0 0x000, .popc c false 3 6),
  (full 0x34 4 6 0 0 0x001, .brev c true 4 6),
  (full 0x35 4 1 2 0 0x000, .bfe c false 4 1 (.reg 2)),
  (full 0x35 4 1 2 0 0x001, .bfe c true 4 1 (.reg 2)),
  (full 0x36 4 1 2 3 0x000, .bfi c 4 1 2 3),
  (full 0x37 4 1 2 3 0x000, .prmt c 4 1 2 3),
  (full 0x38 4 1 2 3 0x000, .sel c 4 1 2 3),
  (full 0x39 5 8 0 7 0x08E, .cmp c 6 true 5 8 (.imm (.c8 7))),
  (full 0x3A 4 6 8 0 0x000, .add64 c 4 6 (.reg 8)),
  (full 0x3B 4 6 9 7 0x000, .lea c 4 6 9 7),
  (full 0x3C 4 1 0 0 0x000, .mov c 4 1),
  (full 0x3D 5 0 0 9 0x000, .liB32 c 5 (.c8 9)),
  (full 0x3D 6 0 0 9 0x001, .liB64 c 6 (.c8 9))] = true := by decide +kernel

/-- R42 to R51: fp. -/
theorem test_decode_fp : Reads64 [
  (full 0x50 3 1 2 0 0x006, .fadd c 6 3 1 (.reg 2)),
  (full 0x51 3 1 2 0 0x000, .fsub c 0 3 1 (.reg 2)),
  (full 0x52 3 1 0 56 0x080, .fmul c 0 3 1 (.imm (.c8 0x38))),
  (full 0x53 3 1 2 6 0x010, .ffma c 0x10 3 1 2 6),
  (full 0x54 3 1 2 0 0x000, .fmin c 0 3 1 (.reg 2)),
  (full 0x55 3 1 2 0 0x003, .fmax c 3 3 1 (.reg 2)),
  (full 0x56 3 1 2 0 0x007, .fcmp c 7 3 1 (.reg 2)),
  (full 0x57 3 1 0 0 0x001, .frcp c 1 3 1),
  (full 0x58 3 1 0 0 0x000, .frsq c 0 3 1),
  (full 0x59 3 1 0 0 0x000, .fsqrt c 0 3 1),
  (full 0x5A 3 1 0 0 0x000, .fex2 c 0 3 1),
  (full 0x5B 3 1 0 0 0x002, .flg2 c 2 3 1),
  (full 0x5C 3 1 0 0 0x000, .fcls c 3 1),
  (full 0x5D 3 1 0 0 0x000, .fcvtF32S32 c 3 1),
  (full 0x5D 3 1 0 0 0x001, .fcvtF32B32 c 3 1),
  (full 0x5D 3 1 0 0 0x002, .fcvtS32F32 c 3 1),
  (full 0x5D 3 1 0 0 0x003, .fcvtB32F32 c 3 1),
  (full 0x5D 3 1 0 0 0x5004, .fcvtF32Fs c 5 3 1),
  (full 0x5D 3 1 0 0 0x7005, .fcvtFsF32 c 7 3 1),
  (full 0x5D 3 1 0 0 0x1006, .fcvtFsF32Sat c 1 3 1),
  (full 0x5D 3 1 2 0 0x007, .fcvtBf16x2F32 c 3 1 2),
  (full 0x5D 3 1 2 0 0x008, .fcvtBf16x2F32Sat c 3 1 2),
  (full 0x5D 3 1 0 1 0x009, .fcvtF32Bf16 c 3 1 true),
  (full 0x60 3 1 2 0 0x00C, .fadd2Bf16 c 12 3 1 2),
  (full 0x61 3 1 2 0 0x000, .fmul2Bf16 c 0 3 1 2),
  (full 0x62 3 1 2 4 0x030, .ffma2Bf16 c 0x30 3 1 2 4)] = true := by decide +kernel

/-- R42 to R51: places. -/
theorem test_decode_places : Reads64 [
  (full 0x80 4 0 0 5 0x000, .place c 4 5),
  (full 0x81 31 0 0 10 0x000, .reloc c 31 10),
  (full 0x82 1 2 0 0 0x000, .anch c 1 2),
  (full 0x83 0 0 0 0 0x000, .xacq c),
  (full 0x84 0 0 0 0 0x000, .xrel c),
  (full 0x85 4 9 0 250 0x800, .ixld k 4 9 (.c8 250)),
  (full 0x86 0 9 4 250 0x000, .ixst c 9 4 (.c8 250)),
  (full 0x87 6 24 0 0 0x800, .rds k 6 0x18),
  (full 0x88 16 6 0 0 0x000, .wrs c 0x10 6)] = true := by decide +kernel

/-- R42 to R51: memory. -/
theorem test_decode_memory : Reads64 [
  (full 0x90 10 2 0 4 0x10104, .ld { c with fl := true, h := 2 } 4 10 2 (.c8 4)),
  (full 0x91 12 2 0 0 0x0F2, .ldc c 2 15 12 2 (.c8 0)),
  (full 0x92 0 2 8 0 0x005, .st c 5 2 8 (.c8 0)),
  (full 0x93 12 2 3 0 0x010, .atomAdd c 1 false 12 2 3),
  (full 0x93 12 2 4 0 0x051, .atomMin c false 1 true 12 2 4),
  (full 0x93 12 2 3 0 0x002, .atomMin c true 0 false 12 2 3),
  (full 0x93 12 2 3 0 0x013, .atomMax c false 1 false 12 2 3),
  (full 0x93 12 2 4 0 0x044, .atomMax c true 0 true 12 2 4),
  (full 0x93 12 2 3 0 0x005, .atomAnd c 0 false 12 2 3),
  (full 0x93 12 2 3 0 0x006, .atomOr c 0 false 12 2 3),
  (full 0x93 12 2 3 0 0x017, .atomXor c 1 false 12 2 3),
  (full 0x93 12 2 4 0 0x068, .atomXchg c 2 true 12 2 4),
  (full 0x93 12 2 3 0 0x019, .atomFadd c 1 12 2 3),
  (full 0x94 14 0 2 15 0x810, .cas k 1 false 14 0 2 15),
  (full 0x95 0 0 0 0 0x000, .acq c),
  (full 0x96 0 0 0 0 0x000, .rel c),
  (full 0x97 0 0 0 0 0x000, .fence c),
  (full 0x98 0 2 5 128 0x000, .cclean c 2 5 (.c8 128)),
  (full 0x99 0 2 5 0 0x100, .cinval { c with fl := true } 2 5 (.c8 0)),
  (full 0x9A 0 2 5 1 0x8000, .pref { c with h := 1 } 2 5 (.c8 1))] = true := by decide +kernel

/-- R42 to R51: tiles. -/
theorem test_decode_tiles : Reads64 [
  (full 0xB0 7 4 0 0 0x000, .talloc c false 7 4),
  (full 0xB0 7 4 0 0 0x001, .talloc c true 7 4),
  (full 0xB1 63 0 0 0 0x000, .tfree c 63),
  (full 0xB2 7 4 6 0 0x000, .tmap c 7 4 6),
  (full 0xB3 0 1 6 9 0x000, .tcopy c 0 1 6 9),
  (full 0xB4 5 7 9 0 0x000, .tld c 5 7 9),
  (full 0xB5 7 9 5 0 0x000, .tst c 7 9 5),
  (full 0xB6 7 4 5 0 0x000, .tfill c 7 4 5),
  (full 0xB7 1 2 3 0 0x000, .tadd c 1 2 3),
  (full 0xB8 1 2 3 0 0x000, .tmul c 1 2 3),
  (full 0xB9 1 2 3 0 0x000, .tfma c 1 2 3),
  (full 0xBA 1 2 0 0 0x3001, .tcvt c true 3 1 2),
  (full 0xBB 1 2 0 1 0x000, .tredAdd c true 1 2),
  (full 0xBB 1 2 0 0 0x001, .tredMax c false 1 2),
  (full 0xBB 1 2 0 1 0x002, .tredMin c true 1 2),
  (full 0xBC 1 2 0 0 0x000, .ttr c 1 2)] = true := by decide +kernel

/-- R42 to R51: matrix. -/
theorem test_decode_matrix : Reads64 [
  (full 0xC0 1 2 3 0 0x4000, .mplane c 4 1 2 3),
  (full 0xC1 4 2 3 0 0x000, .mma c 4 2 3),
  (full 0xC2 4 2 3 9 0x000, .mmas c 4 2 3 9),
  (full 0xC3 4 2 3 8 0xC0000, .gmm { c with g := 3 } 4 2 3 8),
  (full 0xC4 5 4 21 14 0x2000, .mdrain c 2 true true 2 5 4 21),
  (full 0xC5 4 0 0 0 0x000, .mzero c 4),
  (full 0xC6 3 6 0 0 0x000, .epild c 3 6)] = true := by decide +kernel

/-- R42 to R51: fetch, sort, distribution and queues. -/
theorem test_decode_fetch : Reads64 [
  (full 0xD0 7 4 6 0 0x2000, .fbind c 2 7 4 6),
  (full 0xD1 5 7 9 0 0x18000, .fget { c with h := 3 } 5 7 9),
  (full 0xD2 1 2 3 8 0x000, .fgett c 1 2 3 8),
  (full 0xD3 3 0 1 24 0x000, .ksort c false 3 0 1 24),
  (full 0xD3 3 0 1 24 0x001, .ksort c true 3 0 1 24),
  (full 0xD4 3 0 1 24 0x000, .kpack c 3 0 1 24),
  (full 0xD5 40 0 0 0 0x000, .wtake c 40),
  (full 0xD6 23 13 40 0 0x800, .wfix k 23 13 40),
  (full 0xD7 7 8 0 0 0x000, .qpush c 7 8),
  (full 0xD8 8 7 0 0 0x000, .qpop c 8 7),
  (full 0xD8 8 0 0 0 0x001, .qpopAny c 8)] = true := by decide +kernel

/-- R42 to R51: barriers, guards and leases. -/
theorem test_decode_barriers : Reads64 [
  (full 0xE0 0 95 0 255 0x000, .bari c 95 (.c8 255)),
  (full 0xE1 5 95 0 0 0x000, .barr c 5 95),
  (full 0xE2 0 95 5 0 0x000, .barw c 95 5),
  (full 0xE3 0 95 0 0 0x000, .bars c 95),
  (full 0xE4 15 1 2 0 0x00B, .gset c 3 true 15 1 2),
  (full 0xE5 15 1 0 0 0x000, .gres c 15 1),
  (full 0xE5 15 0 0 1 0x000, .gresOpen c 15),
  (full 0xE6 22 1 0 0 0x800, .gwait k 22 1),
  (full 0xE7 0 0 12 5 0x000, .fwait c 0xC05),
  (full 0xE8 0 0 8 0 0x000, .lease c 2048)] = true := by decide +kernel

/-- R42 to R51: rows, contexts, mappings and self-tests. -/
theorem test_decode_rows : Reads64 [
  (full 0xF0 2 4 6 8 0x000, .rowmaj c 2 4 6 8),
  (full 0xF1 4 0 2 0 0x000, .rowand c 4 0 2),
  (full 0xF2 4 0 2 0 0x000, .rowor c 4 0 2),
  (full 0xF3 4 0 0 0 0x000, .rownot c 4 0),
  (full 0xF4 4 0 0 0 0x000, .rowcp c 4 0),
  (full 0xF5 0 0 0 0 0x000, .bkfence c),
  (full 0xF8 7 2 5 0 0x000, .ctxsave c 7 2 5),
  (full 0xF8 7 2 5 9 0x001, .ctxsaveTeam c 7 2 5 9),
  (full 0xF9 7 2 0 0 0x100, .ctxload { c with fl := true } 7 2),
  (full 0xF9 7 2 0 9 0x001, .ctxloadTeam c 7 2 9),
  (full 0xFA 0 2 4 0 0x000, .tinvUnmap c 2 4),
  (full 0xFA 0 2 4 1 0x000, .tinvDowngrade c 2 4),
  (full 0xFA 0 0 4 2 0x000, .tinvUnmapAll c 4),
  (full 0xFB 7 2 0 0 0x000, .selftestArray c 7 2),
  (full 0xFB 7 2 0 1 0x800, .selftestBank k 7 2)] = true := by decide +kernel

/-- A slot's 31 bits (R25). -/
def slotBits (op6 i d s v : Nat) : Nat := op6 * 2 ^ 25 + i * 2 ^ 24 + d * 2 ^ 16 + s * 2 ^ 8 + v

/-- Every pair word, slot 0 above slot 1, decodes to the two slots beside it, and they encode to it. -/
def ReadsPair (l : List (Nat × Nat × Instr × Instr)) : Bool := l.all fun p =>
  let w : DWord := BitVec.ofNat 64 (2 ^ 62 + p.1 * 2 ^ 31 + p.2.1)
  (match decodeWord w none with | .ok (.pair i j) => i == p.2.2.1 && j == p.2.2.2 | _ => false) &&
  encodePair p.2.2.1 p.2.2.2 == some w

/-- R25, R28: slots of pair words. -/
theorem test_decode_pair : ReadsPair [
  (slotBits 0x06 1 6 4 2, slotBits 0x05 0 7 4 0, .pairShl 6 (.imm 4 2), .pairXor 7 (.reg 4)),
  (slotBits 0x00 0 0 0 0, slotBits 0x01 1 3 2 0xFF, .pairPnop, .pairAdd 3 (.imm 2 0xFF)),
  (slotBits 0x02 0 1 2 0, slotBits 0x03 1 3 4 0x80, .pairSub 1 (.reg 2), .pairAnd 3 (.imm 4 0x80)),
  (slotBits 0x04 0 1 2 0, slotBits 0x07 1 3 4 31, .pairOr 1 (.reg 2), .pairShr 3 (.imm 4 31)),
  (slotBits 0x08 0 1 2 0, slotBits 0x09 1 3 4 0x80, .pairSar 1 (.reg 2), .pairMinS32 3 (.imm 4 0x80)),
  (slotBits 0x0A 0 1 2 0, slotBits 0x0B 1 3 4 9, .pairMinB32 1 (.reg 2), .pairMaxS32 3 (.imm 4 9)),
  (slotBits 0x0C 0 1 2 0, slotBits 0x0D 1 3 0 9, .pairMaxB32 1 (.reg 2), .pairMov 3 (.imm 0 9)),
  (slotBits 0x10 0 1 2 0, slotBits 0x11 1 3 4 0x38, .pairFadd 1 (.reg 2), .pairFmul 3 (.imm 4 0x38)),
  (slotBits 0x12 0 1 2 0, slotBits 0x13 1 3 4 0x38, .pairFmin 1 (.reg 2), .pairFmax 3 (.imm 4 0x38))] = true := by
  decide +kernel

/-- R29: a header's fields. -/
theorem test_decode_header : (match decodeWord (BitVec.ofNat 64 (2 * 2 ^ 62 + 0x805 * 2 ^ 50 + 1 * 2 ^ 49 + 3 * 2 ^ 45
      + 1 * 2 ^ 44 + 11 * 2 ^ 40 + 63 * 2 ^ 34 + 1 * 2 ^ 33 + 0 * 2 ^ 32 + 1 * 2 ^ 31 + 0x2ABC * 2 ^ 17)) none with
    | .ok (.header h) => h == ⟨0x805, some 3, some 11, 63, true, false, some 0x2ABC⟩ && h.wf
    | _ => false) = true := by decide +kernel

/-- R33: a literal before `li.b64` gives all 62 bits, sign-extended, and one before a shift all of its count. -/
theorem test_decode_literal :
    (match decodeWord 0xFFFFFFFFFFFFFFFE (some 0x0F41800000000001) with
      | .ok (.one i 2) => i == .liB64 c 6 (.lit 0x3FFFFFFFFFFFFFFE) | _ => false) = true ∧
    Imm.signed64 (.lit 0x3FFFFFFFFFFFFFFE) = -2 := by decide +kernel

/-- R17, R37: words that are no instruction, with their reason. -/
theorem test_decode_refused : ([(full 0xFF 0 0 0 0 0, 1), (full 0x0F 0 0 0 0 0, 1), (full 0x3E 0 0 0 0 0, 1),
    (full 0x90 4 2 0 0 7, 2), (full 0x93 4 2 3 0 0x021, 2), (full 0x00 0 0 0 0 1, 3), (full 0x28 4 1 2 0 0, 3),
    (full 0x3A 5 6 8 0 0, 7), (full 0xE0 0 1 0 0 0, 7), (full 0xE5 1 2 0 2 0, 7)] : List (DWord × Nat)).all (fun p =>
      match decodeWord p.1 none with | .error e => e.reason == p.2 | .ok _ => false) = true := by decide +kernel

/-! Small states. -/

/-- The thread that stands inside a clause at a `nop`, its team, and its launch. -/
def th0 : Thread := benchThread 0
def tm0 : Team := benchTeam false
def la0 : Launch := benchLaunch

/-- A state with one thread of core 0, slot 0, and the page table of Bench.lean. -/
def st (th : Thread) (tm : Team := tm0) (la : Launch := la0) (w : Nat := 0) : State :=
  { State.reset with
    threads := [(0, th)], cores := [(0, { Core.reset with teams := [(0, tm)] })], launches := [(0, la)]
    dram := benchMemory [] w }

/-- The environment of that thread. -/
def en (th : Thread) (tm : Team := tm0) (la : Launch := la0) : Env := ⟨0, th, tm, la⟩

/-- Registers given to a thread. -/
def regs (th : Thread) (r : List (Nat × Word)) : Thread := { th with regs := r }

/-- What lets a unit pass, flag 0 beside it, as one test. -/
def gateOk (m : Mode) (c : Ctl) (e : Env) : Bool :=
  !e.th.blocked m && e.th.param.isNone && e.th.ctx.clause.flag c.fl == some 0 && decide (e.th.flag 0 < 63) && c.g == 0

/-- A unit passes the gate, by evaluation. -/
theorem gate {s : State} {m : Mode} {c : Ctl} {e : Env} (h0 : s.env s.cur = some e) (h : gateOk m c e = true) :
    Passes s m c e := by
  simp only [gateOk, Bool.and_eq_true, Bool.not_eq_true', beq_iff_eq, decide_eq_true_eq, Option.isNone_iff_eq_none] at h
  obtain ⟨⟨⟨⟨h1, h2⟩, h3⟩, h4⟩, h5⟩ := h
  exact ⟨h0, h1, h2, fun _ => ⟨0, h3, h4⟩, .inl h5⟩

/-- Register operands can be read, by evaluation. -/
theorem reads {s : State} {e : Env} {rs : List Reg} {s' : State} {e' : Env} (h0 : checkRegs s e rs = .ok s')
    (h1 : s'.env e.t = some e') (h : rs.all (fun r => !e.th.pending.contains r) = true) : Reads s e rs s' e' :=
  ⟨h0, fun r hr hp => by
    have := List.all_eq_true.mp h r hr
    simp [hp] at this, h1⟩

/-- A unit reaches its effect where no operand binds a proxy slot, by evaluation. -/
theorem atOnce {s : State} {m : Mode} {c : Ctl} {e : Env} {rs : List Reg} (h0 : s.env s.cur = some e)
    (h1 : checkRegs s e rs = .ok s) (h : (gateOk m c e && rs.all (fun r => !e.th.pending.contains r)) = true) :
    Ready s m c rs s e := by
  rw [Bool.and_eq_true] at h
  exact ⟨⟨e, gate h0 h.1, reads h1 (env_t h0 ▸ h0) h.2⟩⟩

/-- A transfer reaches its target, by evaluation. -/
theorem lands {s : State} {e : Env} {t : DWord} (h : (match fetchWord s e t with
    | .ok _ w => t.toNat % 8 == 0 && w.toNat / 2 ^ 62 == 2 | _ => false) = true) : ∃ s', Lands s e t s' := by
  split at h
  · rename_i s' w hf
    simp only [Bool.and_eq_true, beq_iff_eq] at h
    exact ⟨s', h.1, w, hf, h.2⟩
  · exact absurd h (by decide)

/-- The same where the state after the fetch has a property. -/
theorem landsWith {s : State} {e : Env} {t : DWord} (p : State → Bool) (h : (match fetchWord s e t with
    | .ok s' w => t.toNat % 8 == 0 && w.toNat / 2 ^ 62 == 2 && p s' | _ => false) = true) : ∃ s', Lands s e t s' ∧ p s' = true := by
  split at h
  · rename_i s' w hf
    simp only [Bool.and_eq_true, beq_iff_eq] at h
    exact ⟨s', ⟨h.1.1, w, hf, h.1.2⟩, h.2⟩
  · exact absurd h (by decide)

/-- Whether a translation succeeds to memory that exists, and what it then gives. -/
def xlOk (x : Xl) : Bool := match x with | .ok p => !p.hole | _ => false
theorem of_xlOk {x : Xl} (h : xlOk x = true) : ∃ p, x = .ok p ∧ p.hole = false := by
  unfold xlOk at h
  split at h
  · exact ⟨_, rfl, by simpa using h⟩
  · exact absurd h (by decide)

/-- Whether a read answers at once. -/
def gotOk {α : Type} (g : Got α) : Bool := match g with | .ok _ _ => true | _ => false
theorem of_gotOk {α : Type} {g : Got α} (h : gotOk g = true) : ∃ s v, g = .ok s v := by
  cases g <;> first | exact ⟨_, _, rfl⟩ | cases h
def nowOk (g : Now) : Bool := match g with | .ok _ _ => true | _ => false
theorem of_nowOk {g : Now} (h : nowOk g = true) : ∃ s v, g = .ok s v := by
  cases g <;> first | exact ⟨_, _, rfl⟩ | cases h
def readOk (g : ReadRes) : Bool := match g with | .ok _ _ => true | _ => false
theorem of_readOk {g : ReadRes} (h : readOk g = true) : ∃ s v, g = .ok s v := by
  cases g <;> first | exact ⟨_, _, rfl⟩ | cases h
/-! Witnesses: states and operands that meet the hypotheses of the statements. -/

/-- IntegerResults, BitFieldResults, FloatResults, FloatClassMask, PackedResults: registers at the lane. -/
theorem witness_computes : Ready (st th0) .queued c [1, 2, 3] (st th0) (en th0) :=
  atOnce rfl rfl (by decide +kernel)

/-- A thread whose block 1 is at a slice under anchor 0, whose backing words lie on a register-arena page. -/
def thFar : Thread :=
  { th0 with ctx := { th0.ctx with pmap := 0x40, anc := [(0, 0x40000000)], aset := 1 } }
def stFar : State := { st thFar with dram := Memory.writeN (benchMemory [] 0) 0x3008 8 0x40000021 }

/-- The same with a register at a far place, so that the unit's commands wait at their places. -/
theorem witness_computes_far : Ready stFar .queued c [1, 8] stFar (en thFar) ∧
    ([1, 8] : List Reg).any (fun r => (thFar.ctx.place r).far) = true :=
  ⟨atOnce rfl rfl (by decide +kernel), by decide +kernel⟩

/-- FloatSpecials: a quiet and a signalling NaN, infinities and zeros of both signs, an exact zero sum. -/
theorem witness_FloatSpecials : isNaN 0x7FC00000 ∧ isSNaN 0x7F800001 ∧ isInf 0x7F800000 ∧ isNeg 0x7F800000 = false ∧
    isInf 0xFF800000 ∧ isNeg 0xFF800000 ∧ isZero 0 ∧ isZero 0x80000000 ∧ isNeg 0x80000000 ∧ isFin 0x3F800000 ∧
    isFin 0xBF800000 ∧ isNeg 0xBF800000 ∧ isZero 0xBF800000 = false ∧ ulps 0x3F800000 + ulps 0xBF800000 = 0 ∧
    isNeg 0x3F800000 ≠ isNeg 0xBF800000 ∧ ulps 0xBF800000 < ulps 0x3F800000 ∧ isNaN 0x3F800000 = false := by decide +kernel

/-- RoundedOnce: the largest finite value, the smallest subnormal and zero; operands whose reciprocal overflows and does not;
exponents of `fex2` at the ends of its cases, 2^1 and the subnormal 2^-130; 1.0, whose logarithm is exact, and 3.0. -/
theorem witness_RoundedOnce : isFin 0x7F7FFFFF ∧ isFin 1 ∧ isFin 0 ∧ isZero 0x3F800000 = false ∧ (ulps 1).natAbs ≤ 2 ^ 21 ∧
    2 ^ 21 < (ulps 0x3F800000).natAbs ∧ 0 < ulps 0x3F800000 ∧ ulps 0x3F800000 = 2 ^ 149 ∧ 0 < ulps 0x40400000 ∧
    ulps 0xC5800800 / 2 ^ 149 < -4096 ∧ ulps 0xC5800000 / 2 ^ 149 = -4096 ∧ ulps 0x43000000 / 2 ^ 149 = 128 ∧
    ulps 0x42FFFFFF / 2 ^ 149 = 127 ∧ (isFin (fex2Op 0x3F800000).1 ∧ 2 ^ 23 < ulps (fex2Op 0x3F800000).1) ∧
    (isFin (fex2Op 0xC3020000).1 ∧ ulps (fex2Op 0xC3020000).1 < 2 ^ 23) := by decide +kernel

/-- ConversionResults: a slot with a format, and one without. -/
theorem witness_ConversionResults :
    (Ready (st th0) .queued c [1, 2] (st th0) (en th0) ∧ slotEF ((en th0).slot 3) ≠ 0) ∧
    ((st th0 tm0 { la0 with record := [] }).env 0 = some (en th0 tm0 { la0 with record := [] }) ∧
      th0.blocked {} = false ∧ slotEF ((en th0 tm0 { la0 with record := [] }).slot 3) = 0) :=
  ⟨⟨atOnce rfl rfl (by decide +kernel), by decide +kernel⟩,
    rfl, by decide +kernel, by decide +kernel⟩

/-- IntegerConversions: one half lies as near to 0 as to 1, and 0 is even; values out of range; a NaN; an infinity. -/
theorem witness_IntegerConversions : isFin 0x3F000000 ∧ 2 * (ulps 0x3F000000 - 0 * 2 ^ 149).natAbs = 2 ^ 149 ∧ (0 : Int) % 2 = 0 ∧
    isFin 0x4F800000 ∧ 2 * (ulps 0x4F800000 - 2 ^ 32 * 2 ^ 149).natAbs ≤ 2 ^ 149 ∧ isNaN 0x7FC00000 ∧ isInf 0xFF800000 := by
  decide +kernel

/-- IntegerConversions of the narrow formats: each has its entry; 1.0 fits FP4 and the largest finite value does not; codes that
are finite, an infinity and neither; -100 and 0.5 in INT4, a trit, and powers of two within and beyond E8M0. -/
theorem witness_IntegerConversions_narrow : ([2, 3, 4, 5, 6, 7, 8].all fun ef => (narrowFormat ef).isSome) = true ∧
    narrowFormat 8 = some (2, 1, 1, 7) ∧ narrowFormat 5 = some (5, 2, 15, 0x7B) ∧
    (let value := narrowUlps 2 1 1
     let limit := value 7 + (value 7 - value 6) / 2
     (ulps 0x3F800000).natAbs < limit ∧ ¬((ulps 0x7F7FFFFF).natAbs < limit ∨ ((8 : Nat) = 4 ∧ (ulps 0x7F7FFFFF).natAbs = limit))) ∧
    (isFin 0x3F800000 ∧ isFin 0x7F7FFFFF ∧ isInf 0x7F800000 ∧ isNaN 0x7F800001 ∧ isSNaN 0x7F800001 ∧ isSNaN 0x7FC00000 = false) ∧
    ((0x7B : Word).toNat % 2 ^ 7 ≤ 0x7B ∧ (0x7C : Word).toNat % 2 ^ 7 = 0x7B + 1 ∧ 0x7B + 1 < (0x7F : Word).toNat % 2 ^ 7) ∧
    (((10, 4) : Nat × Nat) ∈ [(10, 4), (11, 8), (12, 16), (13, 2)] ∧ 2 * (ulps 0xC2C80000 - (-100) * 2 ^ 149).natAbs ≤ 2 ^ 149 ∧
      (-100 : Int) < -2 ^ (4 - 1) ∧ (-1 : Int) ≤ 1 ∧ (3 : Word).toNat % 2 ^ 2 = ((-1 : Int) % 2 ^ 2).toNat) ∧
    ((ulps 1).toNat.log2 < 22 ∧ (ulps 0x7F7FFFFF).toNat.log2 = 276 ∧ 3 * 2 ^ 276 < 2 * (ulps 0x7F7FFFFF).toNat ∧
      (ulps 0x3F800000).toNat.log2 = 149 ∧ ulps 0 ≤ 0 ∧ (255 : Word).toNat % 256 = 255 ∧ (2 : Word).toNat % 4 = 2) := by
  decide +kernel

/-- PairSlotResults: the first slot of a word, and the second. -/
theorem witness_PairSlotResults :
    Ready { st th0 with pair := none } .queued Ctl.zero ([1, 2] ++ (some (1 : Reg)).toList) { st th0 with pair := none } (en th0) ∧
    (∀ d ∈ some (1 : Reg), th0.ctx.place d = .lane) ∧ (st th0).pair = none ∧
    ({ st th0 with pair := some (word 3 0, []) }).pair = some (word 3 0, []) :=
  ⟨atOnce rfl rfl (by decide +kernel), by rintro d ⟨⟩; decide +kernel, rfl, rfl⟩

/-- GuardedUnits: guard g3 Open, and False. -/
def tmOpen : Team := { tm0 with guards := 0x80 }
theorem witness_GuardedUnits : (st th0 tmOpen).env 0 = some (en th0 tmOpen) ∧ th0.param = none ∧ th0.ctx.clause.flag c.fl ≠ none ∧
    (∀ m ∈ [Mode.queued, {}, { settled := true }, { settled := true, lane := false }, Mode.counted], th0.blocked m = false) ∧
    ((en th0 tmOpen).guardSeen 3 = 2 ∧ ({ c with g := 3 } : Ctl).g ≠ 0 ∧ (en th0).guardSeen 3 ≠ 2 ∧
      ((en th0).guardSeen 3 = 1 ↔ ({ c with g := 3 } : Ctl).gn = true)) :=
  ⟨rfl, rfl, by decide +kernel, by decide +kernel, by decide +kernel⟩

/-- A word at 0x4000 and a clause header of one word after it. -/
def stHead (th : Thread := th0) (tm : Team := tm0) (la : Launch := la0) : State := st th tm la (2 ^ 64 * 0x8000000400000000)

/-- Transfers: the target is the header; the comparisons hold and fail; a guard that lets `brg` through, and one that does not. -/
theorem witness_Transfers : (∃ s', Lands stHead (en th0) (th0.ctx.pc + BitVec.ofInt 64 (8 * 1)) s') ∧
    Passes stHead {} c (en th0) ∧ Passes stHead { held := true } c (en th0) ∧ (en th0).guard c.g.toNat ≠ 2 ∧
    Passes stHead .queued c (en th0) ∧ Arrived (en th0) [2, 3, 4, 5] ∧
    Ready stHead {} c [1, 2] stHead (en th0) ∧ Ready stHead {} c [2, 3, 4, 5] stHead (en th0) ∧
    Ready (stHead (regs th0 [(2, 0x4008)])) {} c [2, 3] (stHead (regs th0 [(2, 0x4008)])) (en (regs th0 [(2, 0x4008)])) ∧
    (∃ s', Lands (stHead (regs th0 [(2, 0x4008)])) (en (regs th0 [(2, 0x4008)]))
      (BitVec.ofNat 64 (pairNat (regs th0 [(2, 0x4008)]).read 2)) s') :=
  ⟨lands (by decide +kernel), gate rfl (by decide +kernel), gate rfl (by decide +kernel), by decide +kernel,
    gate rfl (by decide +kernel), .inl (by decide +kernel), atOnce rfl rfl (by decide +kernel),
    atOnce rfl rfl (by decide +kernel),
    atOnce rfl rfl (by decide +kernel), lands (by decide +kernel)⟩

/-- BadTransfers: an odd target; a non-canonical one; a word that is no header; a comparison and a guard that let the
transfer through; the depth limit (8), depth 0, and an entry of the call stack that is no target. -/
theorem witness_BadTransfers :
    (∀ v ∈ ([0x4001, 2 ^ 57, 0x4000, 0x4008] : List Nat), Ready (stHead (regs th0 [(2, natWord v), (3, natWord (v / 2 ^ 32))])) {} c [2, 3]
      (stHead (regs th0 [(2, natWord v), (3, natWord (v / 2 ^ 32))])) (en (regs th0 [(2, natWord v), (3, natWord (v / 2 ^ 32))]))) ∧
    (match fetchWord stHead (en th0) 0x4000 with | .ok _ w => w.toNat / 2 ^ 62 != 2 | _ => false) = true ∧
    (let th : Thread := { th0 with ctx := { th0.ctx with depth := 8 } }
     (∃ s', Lands (stHead th) (en th) 0x4008 s') ∧ th.ctx.depth = la0.depthLimit) ∧
    Passes stHead {} c (en th0) ∧ th0.ctx.depth = 0 ∧
    Passes stHead { held := true } { c with gn := true } (en th0) ∧ ((en th0).guard 0 ≠ 2 ∧ ((en th0).guard 0 = 1 ↔ true = false)) ∧
    Ready stHead {} c [2, 3] stHead (en th0) ∧ holds 0 (th0.read 2) (th0.read 3) = true ∧
    (let th : Thread := { th0 with ctx := { th0.ctx with depth := 1 } }
     let s : State := { stHead th with dram := Memory.writeN (stHead th).dram 0x8000 8 0x4001 }
     Passes s {} c (en th) ∧ 0 < th.ctx.depth ∧ ∃ s1 v, readNow s (en th) 0x8000 8 = .ok s1 v) := by
  refine ⟨?_, by decide +kernel, ⟨lands (by decide +kernel), by decide +kernel⟩, gate rfl (by decide +kernel), rfl,
    gate rfl (by decide +kernel), by decide +kernel, atOnce rfl rfl (by decide +kernel), by decide +kernel,
    gate rfl (by decide +kernel), by decide +kernel, of_nowOk (by decide +kernel)⟩
  intro v hv
  simp only [List.mem_cons, List.not_mem_nil, or_false] at hv
  rcases hv with rfl | rfl | rfl | rfl <;>
    exact atOnce rfl rfl (by decide +kernel)

/-- CallsAndReturns: an entry of the call stack can be written, and read. -/
theorem witness_CallsAndReturns :
    (∃ s1 p, Lands stHead (en th0) (th0.ctx.pc + BitVec.ofInt 64 (8 * 1)) s1 ∧ th0.ctx.depth ≠ la0.depthLimit ∧
      (en th0).xlat s1 0x8000 .w = .ok p ∧ p.hole = false) ∧
    (la0.csb + 8 * (la0.depthLimit * (512 * (en th0).gt + tTid 0) + th0.ctx.depth)) % 2 ^ 57 = 0x8000 ∧
    (let th : Thread := { th0 with ctx := { th0.ctx with depth := 1 } }
     let s : State := { stHead th with dram := Memory.writeN (stHead th).dram 0x8000 8 0x4008 }
     Passes s {} c (en th) ∧ (match readNow s (en th) 0x8000 8 with
       | .ok s1 v => v == 0x4008 && (match fetchWord s1 (en th) 0x4008 with | .ok _ w => w.toNat / 2 ^ 62 == 2 | _ => false)
       | _ => false) = true) := by
  obtain ⟨s1, h, hx⟩ := landsWith (s := stHead) (e := en th0) (t := th0.ctx.pc + BitVec.ofInt 64 (8 * 1))
    (fun s1 => xlOk ((en th0).xlat s1 0x8000 .w)) (by decide +kernel)
  obtain ⟨p, hp, hh⟩ := of_xlOk hx
  exact ⟨⟨s1, p, h, by decide +kernel, hp, hh⟩, by decide +kernel, gate rfl (by decide +kernel), by decide +kernel⟩

/-- A launch with one word of its record changed. -/
def laSet (off : Nat) (v : DWord) (la : Launch := la0) : Launch := { la with record := la.record.set (off / 8) v }

/-- Two threads of a group. -/
def st2 : State := { st th0 with threads := [(0, th0), (1, th0)] }

/-- ThreadUnits: a settled unit of a thread with all blocks near beside a live one; an empty work queue, and one with
an item at 0x9000. -/
def laWork : Launch := laSet 0xA8 1 (laSet 0xA0 0x9000)
def chkOk (x : Chk) : Bool := match x with | .ok _ => true | _ => false
theorem of_chkOk {x : Chk} (h : chkOk x = true) : ∃ s, x = .ok s := by
  cases x <;> first | exact ⟨_, rfl⟩ | cases h
def chkTrap (x : Chk) : Bool := match x with | .trap _ => true | _ => false
theorem of_chkTrap {x : Chk} (h : chkTrap x = true) : ∃ ti, x = .trap ti := by
  cases x <;> first | exact ⟨_, rfl⟩ | cases h
theorem witness_ThreadUnits : Passes st2 { settled := true } c (en th0) ∧ la0.wqn ≤ tm0.wqHead ∧
    spillsWait st2 0 = false ∧ st2.thread? 1 = some th0 ∧ (teamKey 1 = teamKey 0 ∧ tTid 1 < 32 * tm0.ngrp ∧ tm0.halted = false) ∧
    (∀ r : Reg, (th0.ctx.place r).far = false) ∧
    Passes (st th0 tm0 laWork) { settled := true } c (en th0 tm0 laWork) ∧ tm0.wqHead < laWork.wqn ∧
    Reads (st th0 tm0 laWork) (en th0 tm0 laWork) [2, 3] (st th0 tm0 laWork) (en th0 tm0 laWork) ∧
    (∃ s2 v, readNow (st th0 tm0 laWork) (en th0 tm0 laWork)
      ((laWork.wqb + 8 * (laWork.wqn * (en th0 tm0 laWork).gt + tm0.wqHead)) % 2 ^ 57) 8 = .ok s2 v) ∧
    Ready (st th0) .queued c [2] (st th0) (en th0) ∧ Passes (st th0) .queued c (en th0) ∧
    (let th := { th0 with window := [WUnit.start th0] }
     Passes (st th) .queued c (en th) ∧ th.window ≠ []) ∧
    (let th : Thread := { thFar with regs := [(8, 7)] }
     let s := { st th with dram := stFar.dram }
     spillsWait s 0 = false ∧ (∃ s1, spillChecks s (en th) (List.range 32) = .ok s1) ∧
     Passes (st th) { settled := true } c (en th) ∧ ∃ ti, spillChecks (st th) (en th) (List.range 32) = .trap ti) :=
  ⟨gate rfl (by decide +kernel), by decide +kernel, by decide +kernel, rfl, by decide +kernel, by decide +kernel,
    gate rfl (by decide +kernel), by decide +kernel, reads rfl rfl (by decide +kernel), of_nowOk (by decide +kernel),
    atOnce rfl rfl (by decide +kernel), gate rfl (by decide +kernel), ⟨gate rfl (by decide +kernel), by decide +kernel⟩,
    by decide +kernel, of_chkOk (by decide +kernel), gate rfl (by decide +kernel), of_chkTrap (by decide +kernel)⟩

/-- TrapInstructions. -/
theorem witness_TrapInstructions : Passes (st th0) { settled := true } c (en th0) := gate rfl (by decide +kernel)

/-- TrapEntersHandler: TMASK has bit 0x10 and the thread is in no handler. -/
def laMask : Launch := laSet 0xD8 0x10000
theorem witness_TrapEntersHandler : (st th0 tm0 laMask).env 0 = some (en th0 tm0 laMask) ∧ tm0.halted = false ∧
    laMask.tmask.testBit (trapOf 0x10 5).code.toNat = true ∧ th0.inh = false ∧ th0.exited = false ∧ (trapOf 0x10 5).code ≠ 0x12 :=
  ⟨rfl, rfl, by decide +kernel, rfl, rfl, by decide +kernel⟩

/-- TrapEscalates: each of its three grounds. -/
theorem witness_TrapEscalates : (st th0).env 0 = some (en th0) ∧ tm0.halted = false ∧ la0.trec = none ∧
    la0.tmask.testBit (trapOf 0x10 5).code.toNat = false ∧ ({ th0 with inh := true } : Thread).inh = true ∧
    ({ th0 with exited := true } : Thread).exited = true ∧
    (st { th0 with inh := true }).env 0 = some (en { th0 with inh := true }) :=
  ⟨rfl, rfl, rfl, by decide +kernel, rfl, rfl, rfl⟩

/-- HandlerReturns: no handler; EPC odd; at no header; at the header; and at TA. -/
def thIn (epc : DWord) : Thread := { th0 with inh := true, epc := epc, ta := 0x4010 }
theorem witness_HandlerReturns : Passes (st th0) { settled := true } c (en th0) ∧ th0.inh = false ∧
    Passes (st (thIn 0x4001)) { settled := true } c (en (thIn 0x4001)) ∧ (thIn 0x4001).epc.toNat % 8 ≠ 0 ∧
    Passes (stHead (thIn 0x4000)) { settled := true } c (en (thIn 0x4000)) ∧
    (match fetchWord (stHead (thIn 0x4000)) (en (thIn 0x4000)) 0x4000 with | .ok _ w => w.toNat / 2 ^ 62 != 2 | _ => false) = true ∧
    Passes (stHead (thIn 0x4008)) { settled := true } c (en (thIn 0x4008)) ∧
    (∃ s', Lands (stHead (thIn 0x4008)) (en (thIn 0x4008)) 0x4008 s') ∧
    Passes (st (thIn 0x4010)) { settled := true } c (en (thIn 0x4010)) ∧ (thIn 0x4010).epc = (thIn 0x4010).ta ∧
    (st th0).team? 0 = some tm0 ∧ (∀ i ∈ teamTids tm0, ∀ th, (st th0).thread? (threadOf 0 i) = some th → th.pendTrap = none) := by
  refine ⟨gate rfl (by decide +kernel), rfl, gate rfl (by decide +kernel), by decide +kernel, gate rfl (by decide +kernel),
    by decide +kernel, gate rfl (by decide +kernel), lands (by decide +kernel), gate rfl (by decide +kernel), rfl, rfl, ?_⟩
  intro i hi th h
  have := List.all_eq_true.mp (by decide +kernel : (teamTids tm0).all (fun i =>
    ((st th0).thread? (threadOf 0 i)).all (fun th => th.pendTrap.isNone)) = true) i hi
  rw [h] at this
  simpa using this

/-- ClauseHeaders: inside a clause; before one, with the flag of WAIT at 0 and not. -/
def thHead (flags : List (Nat × Nat)) : Thread := { th0 with flags := flags, ctx := { th0.ctx with crem := 0 } }
def waitF0 : Header := ⟨1, some 2, none, 5, false, false, some 1⟩
theorem witness_ClauseHeaders : (st th0).env 0 = some (en th0) ∧ th0.exited = false ∧ th0.wait = .none ∧
    (∀ u ∈ th0.window, u.trap = none) ∧ th0.ctx.crem ≠ 0 ∧
    (st (thHead [(0, 1)])).env 0 = some (en (thHead [(0, 1)])) ∧ (thHead []).ctx.crem = 0 ∧
    (∃ f : Nat, f < 12 ∧ waitF0.wait.getLsbD f = true ∧ findD (thHead [(0, 1)]).flags f 0 ≠ 0) ∧
    (∀ f : Nat, f < 12 → waitF0.wait.getLsbD f = true → findD (thHead []).flags f 0 = 0) :=
  ⟨rfl, rfl, rfl, by decide +kernel, by decide +kernel, rfl, rfl, ⟨0, by decide +kernel⟩, by decide +kernel⟩

/-- Two threads of a group that wait at meets, at two addresses or at one. -/
def stMeet (pc : DWord) : State :=
  let w (p : DWord) : Thread := { th0 with ctx := { th0.ctx with pc := p }, wait := .meet (.voteAny c 3 4) 1 0 }
  { st th0 with threads := [(0, w 0x4000), (1, w pc)] }

/-- MeetArrivals: a unit that arrives; meets that do not match, and threads that do not all wait. -/
theorem witness_MeetArrivals : Ready (st th0) { settled := true } c [4, 3] (st th0) (en th0) ∧
    allMeet (st th0) 0 = false ∧ sameMeet (stMeet 0x4000) 0 = true ∧
    (∃ before t th after, liveThreads (stMeet 0x4008) 0 = before ++ (t, th) :: after ∧ allMeet (stMeet 0x4008) 0 = true ∧
      sameMeet (stMeet 0x4008) 0 = false ∧ (∀ x ∈ before, x.1 ∉ [1]) ∧ t ∈ [1]) :=
  ⟨atOnce rfl rfl (by decide +kernel), by decide +kernel, by decide +kernel,
    [(stMeet 0x4008).threads.headD (0, th0)], 1, _, [], rfl, by decide +kernel, by decide +kernel, by decide +kernel, by decide +kernel⟩

/-- MeetResults: two participants, one lane apart from the highest; and a group that completes. -/
theorem witness_MeetResults : Parties [⟨0, 1, 0⟩, ⟨31, 2, 0⟩] ∧ (⟨31, 2, 0⟩ : Party) ∈ [(⟨0, 1, 0⟩ : Party), ⟨31, 2, 0⟩] ∧
    allMeet (stMeet 0x4000) 0 = true ∧ sameMeet (stMeet 0x4000) 0 = true ∧ (stMeet 0x4000).cur = 0 ∧
    (∀ x ∈ liveThreads (stMeet 0x4000) 0, x.2.window = []) ∧
    (∃ e, (1, e.th) ∈ liveThreads (stMeet 0x4000) 0 ∧ (stMeet 0x4000).env 1 = some e ∧ e.th.wait = .meet (.voteAny c 3 4) 1 0 ∧
      e.th.ctx.place 3 = .lane) :=
  ⟨⟨by decide +kernel, by decide +kernel⟩, by decide +kernel, by decide +kernel, by decide +kernel, rfl, by decide +kernel,
    ⟨1, ((stMeet 0x4000).threads.getD 1 (0, th0)).2, tm0, la0⟩, by decide +kernel, rfl, rfl, by decide +kernel⟩

/-- PlacesAndAnchors: an odd value, an anchor that the place map names, values outside and inside the arena; the checks
of `place` and `reloc` pass, and no other block shares a word. -/
def laArena : Launch := laSet 0x30 0x40000000 (laSet 0x38 1)
theorem witness_PlacesAndAnchors :
    (∀ v ∈ ([1, 0x3FFFFFE0, 0x4000FC20, 0x40000000, 0x4000FC00] : List Nat),
      Ready (st (regs th0 [(2, natWord v)]) tm0 laArena) { settled := true } c [2, 3] (st (regs th0 [(2, natWord v)]) tm0 laArena)
        (en (regs th0 [(2, natWord v)]) tm0 laArena)) ∧
    (∃ b, b < 32 ∧ namesFar thFar.ctx.pmap b 0) ∧ Ready stFar { settled := true } c [2, 3] stFar (en thFar) ∧
    ((en th0 tm0 laArena).arenaBase ≤ 0x4000FC00 ∧ 0x4000FC00 + 1024 ≤ (en th0 tm0 laArena).arenaBase + (en th0 tm0 laArena).arenaSize) ∧
    Passes (st th0) { settled := true } c (en th0) ∧ checkPlace (st th0) (en th0) 1 0 false = .ok (st th0) ∧
    checkPlace (st th0) (en th0) 1 0 true = .ok (st th0) ∧ (∀ tgt pa, sharesWord (st th0) 0 1 tgt pa = false) ∧
    (let s := { st thFar tm0 laArena with dram := stFar.dram }
     checkPlace s (en thFar tm0 laArena) 2 4 false = .ok s) := by
  refine ⟨?_, ⟨1, by decide +kernel, by unfold namesFar; decide +kernel⟩,
    atOnce rfl rfl (by decide +kernel), by decide +kernel,
    gate rfl (by decide +kernel), rfl, rfl, fun _ _ => rfl, rfl⟩
  intro v hv
  simp only [List.mem_cons, List.not_mem_nil, or_false] at hv
  rcases hv with rfl | rfl | rfl | rfl | rfl <;>
    exact atOnce rfl rfl (by decide +kernel)

/-- PlacesAndAnchors: block 31 beyond the lane budget, an extension block without the lock, an anchor that is not set, a page of
another target and one of device memory, a bank core whose slots are taken. -/
def stArena (leaf : Nat) : State :=
  { st thFar tm0 laArena with dram := Memory.writeN (benchMemory [] 0) 0x3008 8 leaf, slots := [(bankCoreOf 0x40000040, 16)] }
def walkIs (s : State) (asp : AddrSpace) (va : Nat) (f : Phys → Bool) : Bool := match walk s asp va with | .page p => f p | _ => false
theorem of_walkIs {s : State} {asp : AddrSpace} {va : Nat} {f : Phys → Bool} (h : walkIs s asp va f = true) :
    ∃ p, walk s asp va = .page p ∧ f p = true := by
  unfold walkIs at h
  split at h
  · rename_i p hp
    exact ⟨p, hp, h⟩
  · cases h
theorem witness_PlacesAndAnchors_traps :
    Passes (st th0) .queued c (en th0) ∧ (31 : BitVec 8).toNat < 32 ∧ (en th0).budget ≤ (31 : BitVec 8).toNat ∧
    ((8 : BitVec 8).toNat < 32 ∧ (8 : BitVec 8).toNat < (en th0).budget ∧ th0.extends = false ∧ codeOfBlock th0.ctx.pmap 8 = 0) ∧
    th0.ctx.anchorSet 0 = false ∧
    (∀ leaf, leaf = 0x40000021 ∨ leaf = 0x2000000040000021 → Passes (stArena leaf) .queued c (en thFar tm0 laArena)) ∧
    (let e := en thFar tm0 laArena
     e.th.ctx.anchorSet 0 = true ∧ e.arenaBase ≤ 0x40000000 ∧ 0x40000000 + 1024 ≤ e.arenaBase + e.arenaSize) ∧
    (∃ p, walk (stArena 0x2000000040000021) laArena.asp (0x40000000 + 32 * 2) = .page p ∧ decide (p.tgt ≠ 0) = true) ∧
    (∃ p, walk (stArena 0x40000021) laArena.asp (0x40000000 + 32 * 2) = .page p ∧ (p.tgt == 0 && tier1 p.pa &&
      !thFar.bound.contains (bankCoreOf p.pa) && decide (16 ≤ findD (stArena 0x40000021).slots (bankCoreOf p.pa) 0)) = true) := by
  refine ⟨gate rfl (by decide +kernel), by decide, by decide +kernel, by decide +kernel, by decide +kernel, ?_, by decide +kernel,
    of_walkIs (by decide +kernel), of_walkIs (by decide +kernel)⟩
  rintro leaf (rfl | rfl) <;> exact gate rfl (by decide +kernel)

/-- ExtensionLock: a free lock, the group's own, another group's. -/
def stLock (g : Option Nat) : State :=
  { st th0 with cores := [(0, { Core.reset with teams := [(0, tm0)], gslots := [(0, 0)], locks := [(0, ⟨g⟩)] })] }
theorem witness_ExtensionLock : Passes (stLock none) { settled := true } c (en th0) ∧
    Passes (stLock (some 0)) { settled := true } c (en th0) ∧ Passes (stLock (some 7)) { settled := true } c (en th0) ∧ th0.xsave = [] ∧ th0.xhold = false ∧
    ((stLock none).core 0).lockHolder (lockOf ((stLock none).core 0) (gKey 0)) = none ∧
    ((stLock (some 0)).core 0).lockHolder (lockOf ((stLock (some 0)).core 0) (gKey 0)) = some (gKey 0) ∧
    ((stLock (some 7)).core 0).lockHolder (lockOf ((stLock (some 7)).core 0) (gKey 0)) = some 7 :=
  ⟨gate rfl (by decide +kernel), gate rfl (by decide +kernel), gate rfl (by decide +kernel), rfl, rfl, by decide +kernel, by decide +kernel, by decide +kernel⟩

/-- ExtensionLock, `xrel`: behind an older unit; a thread that does not hold the lock; one beside another holder of its group; the
last holder, with nobody waiting, with a thread of its group, and with one of the group of the pair in the upper slot. -/
def thLock (w : List WUnit) (h : Bool) (r : Option Nat) : Thread := { th0 with window := w, xhold := h, xreq := r }
def stLock2 (a b : Thread) (t : Nat) : State :=
  { stLock (some 0) with threads := [(0, a), (t, b)], cores := [(0, { Core.reset with
      teams := [(0, tm0)], gslots := [(0, 0), (1, 1)], locks := [(0, ⟨some 0⟩)] })] }
theorem witness_ExtensionLock_release :
    (let th := thLock [WUnit.start th0] false none
     Passes (stLock2 th th0 1) .queued c (en th) ∧ th.window ≠ []) ∧
    (Passes (stLock2 th0 th0 1) .queued c (en th0) ∧ th0.window = [] ∧ th0.xhold = false) ∧
    (let th := thLock [] true none
     let s := stLock2 th th 1
     Passes s .queued c (en th) ∧ th.window = [] ∧ (1 : Nat) ≠ 0 ∧ gKey 1 = gKey 0 ∧ s.thread? 1 = some th ∧ th.xhold = true) ∧
    (∀ b t, (b, t) = (th0, 1) ∨ (b, t) = (thLock [] false (some 5), 1) ∨ (b, t) = (thLock [] false (some 5), 32) →
      let th := thLock [] true none
      let s := stLock2 th b t
      Passes s .queued c (en th) ∧ s.threads.all (fun x => x.1 == 0 || !x.2.xhold) = true ∧
      lockOf (s.core 0) (gKey 0) = 0 ∧ (groupAt (s.core 0) 0 = some 0 ∧ groupAt (s.core 0) 1 = some 1) ∧
      (b = th0 → s.threads.all (fun x => x.2.xreq.isNone) = true) ∧
      (b ≠ th0 → (gKey t = 0 ∨ gKey t = 1) ∧ s.thread? t = some b ∧ b.xreq = some 5 ∧ b.xsave = []))  := by
  refine ⟨⟨gate rfl (by decide +kernel), by decide +kernel⟩, ⟨gate rfl (by decide +kernel), rfl, rfl⟩,
    ⟨gate rfl (by decide +kernel), by decide +kernel⟩, ?_⟩
  rintro b t (h | h | h) <;> cases h <;> exact ⟨gate rfl (by decide +kernel), by decide +kernel⟩

/-- IndexedRegisters: an index at the lane that names a register there; registers that fail each sub-cause, as the
index and as the one named: 16 in an unmapped block, 8 at a far place, 64 an extension name without the lock. -/
def thMix : Thread := { thFar with ctx := { thFar.ctx with pmap := 0xF40 } }
theorem witness_IndexedRegisters : Passes (st th0) .queued c (en th0) ∧ IndexReg (en th0) 5 ∧ IndexReg (en th0) 63 ∧
    Reads (st th0) (en th0) [63, 4] (st th0) (en th0) ∧ Reads (st th0) (en th0) [4] (st th0) (en th0) ∧
    Passes { stFar with threads := [(0, thMix)] } .queued c (en thMix) ∧ IndexReg (en thMix) 5 ∧
    Reads { stFar with threads := [(0, thMix)] } (en thMix) [4] { stFar with threads := [(0, thMix)] } (en thMix) ∧
    (thMix.ctx.place 16 = .unmapped ∧ (thMix.ctx.place 8).far = true ∧ thMix.ctx.place 64 = .lane ∧ thMix.xhold = false ∧
      thMix.xreq = none ∧ [16, 8, 64].all (fun i => (BitVec.ofNat 8 (((thMix.read 5).toNat + (Imm.c8 i).signed32.toNat) % 2 ^ 32)).toNat
        == i.toNat) = true) :=
  ⟨gate rfl (by decide +kernel), ⟨by decide +kernel, .inl (by decide +kernel), by decide +kernel⟩,
    ⟨by decide +kernel, .inl (by decide +kernel), by decide +kernel⟩, reads rfl rfl (by decide +kernel),
    reads rfl rfl (by decide +kernel), gate rfl (by decide +kernel),
    ⟨by decide +kernel, .inl (by decide +kernel), by decide +kernel⟩, reads rfl rfl (by decide +kernel), by decide +kernel⟩

/-- SpecialRegisters: a word and a pair. -/
theorem witness_SpecialRegisters : Ready (st th0) { settled := true } c [6] (st th0) (en th0) ∧
    Ready (st th0) { settled := true } c [6, 7] (st th0) (en th0) ∧ wideSpecial 0x2A = true ∧ wideSpecial 0x10 = false ∧
    (∀ sr : BitVec 8, Ready (st th0) { settled := sr == 0x10 || sr == 0x11 || sr == 0x2A, lane := false } c [6] (st th0) (en th0)) ∧
    Ready (st th0) { settled := true, lane := false } c [6, 7] (st th0) (en th0) :=
  ⟨atOnce rfl rfl (by decide +kernel), atOnce rfl rfl (by decide +kernel), by decide +kernel, by decide +kernel,
    fun sr => atOnce rfl rfl (by revert sr; decide +kernel), atOnce rfl rfl (by decide +kernel)⟩

/-- An access is let through, by evaluation. -/
theorem admits {s : State} {e : Env} {va size : Nat} {n : Need} {req : Phys → Bool} {p : Phys} (hx : e.xlat s va n = .ok p)
    (h : (va % size == 0 && !p.hole && !schedMiss e.la e.tm va size &&
      !heldByJob s (tCore e.t) (n != .r) [.mem e.la.asp.asn.toNat va (va + size)] && !requestsFull s (tCore e.t)) = true) :
    Admits s e va size n req p := by
  simp only [Bool.and_eq_true, Bool.not_eq_true', beq_iff_eq] at h
  obtain ⟨⟨⟨⟨h1, h2⟩, h3⟩, h4⟩, h5⟩ := h
  exact ⟨h1, hx, h2, .inl h3, .inr h4, .inr h5⟩

/-- The page that Bench.lean maps, at 0x9000. -/
def p9 : Phys := ⟨0, 0x9000, 0x3000, 0x1D, 0, 0x40000000⟩

/-- LoadsAndStoresIssue: x2 holds 0x9000, 0x9001, and an address that no entry maps; a schedule miss in trap mode. -/
def th9 (v : Word) : Thread := regs th0 [(2, v), (3, 1)]
def laMiss : Launch :=
  let la := laSet 0x10 (0x201010 + 2 ^ 26)
  { la with timetab := [[BitVec.ofNat 64 (2 ^ 48 + 2 ^ 15), 0x100009000, 16, 0]], dead := [(0, 1)] }
theorem witness_LoadsAndStoresIssue : (∀ sz : BitVec 3, th0.ctx.clause.flag c.fl = some 0 ∧ accessSize sz ≤ 16) ∧
    Ready (st (th9 0x9000)) Mode.counted c (2 :: (2 + 1) :: valueRegs 4 16) (st (th9 0x9000)) (en (th9 0x9000)) ∧
    Ready (st (th9 0x9000)) Mode.counted c (2 :: (2 + 1) :: valueRegs 4 16) (st (th9 0x9000)) (en (th9 0x9000)) ∧
    addressOf (th9 0x9000).read 2 (.c8 0) = 0x100009000 ∧
    (let th := regs th0 [(2, 0x9000)]
     Ready (st th) Mode.counted c (2 :: (2 + 1) :: valueRegs 4 16) (st th) (en th) ∧
     Ready (st th) Mode.counted c (2 :: (2 + 1) :: valueRegs 4 16) (st th) (en th) ∧ addressOf th.read 2 (.c8 0) = 0x9000 ∧
     Admits (st th) (en th) 0x9000 16 .r (fun q => needsRequest (st th) 0 q 16) p9 ∧
     Admits (st th) (en th) 0x9000 16 .w (fun _ => false) p9) ∧
    (let th := regs th0 [(2, 0x9001)]
     Ready (st th) Mode.counted c (2 :: (2 + 1) :: valueRegs 4 4) (st th) (en th) ∧ addressOf th.read 2 (.c8 0) % accessSize 4 ≠ 0) ∧
    (en (th9 0x9000)).xlat (st (th9 0x9000)) 0x100009000 .r = .trap 0x04 ∧
    (let s := { st (th9 0x9000) tm0 laMiss with dram := Memory.writeN (benchMemory [] 0) 0x3020 8 0x1D }
     xlOk ((en (th9 0x9000) tm0 laMiss).xlat s 0x100009000 .r) = true ∧ schedMiss laMiss tm0 0x100009000 4 = true ∧ laMiss.smm = true) := by
  refine ⟨fun sz => ⟨by decide +kernel, by revert sz; decide +kernel⟩, atOnce rfl rfl (by decide +kernel),
    atOnce rfl rfl (by decide +kernel), by decide +kernel,
    ⟨atOnce rfl rfl (by decide +kernel), atOnce rfl rfl (by decide +kernel), by decide +kernel,
      admits (by decide +kernel) (by decide +kernel), admits (by decide +kernel) (by decide +kernel)⟩,
    ⟨atOnce rfl rfl (by decide +kernel), by decide +kernel⟩, by decide +kernel, by decide +kernel⟩

/-- AtomicsAndMaintenanceIssue: 64 bits at 0x9000 on memory of the device and of the host; ranges aligned and not, and empty. -/
def stHost : State := { st (regs th0 [(2, 0x9000)]) with
  dram := Memory.writeN (benchMemory [] 0) 0x3000 8 0x200000000000001D, atc := [⟨0, 0, 0, ⟨5, true, true⟩⟩] }
theorem witness_AtomicsAndMaintenanceIssue :
    (let th := regs th0 [(2, 0x9000), (6, 128)]
     Ready (st th) Mode.counted c (2 :: (2 + 1) :: (valueRegs 6 8 ++ valueRegs 4 8)) (st th) (en th) ∧
     Ready (st th) Mode.counted c (2 :: (2 + 1) :: (valueRegs 6 8 ++ valueRegs 8 8 ++ valueRegs 4 8)) (st th) (en th) ∧
     pairNat th.read 2 < 2 ^ 57 ∧ Admits (st th) (en th) 0x9000 8 .rw (atomBeyond (st th) 0 1) p9 ∧ th.ctx.clause.flag c.fl = some 0 ∧
     Ready (st th) Mode.counted c [2, 3, 6] (st th) (en th) ∧ addressOf th.read 2 (.c8 0) % 128 = 0 ∧ (th.read 6).toNat % 128 = 0) ∧
    (∃ p, Admits stHost (en (regs th0 [(2, 0x9000)])) 0x9000 8 .rw (atomBeyond stHost 0 1) p ∧ p.tgt = 1) := by
  refine ⟨⟨atOnce rfl rfl (by decide +kernel),
    atOnce rfl rfl (by decide +kernel), by decide +kernel,
    admits (by decide +kernel) (by decide +kernel), by decide +kernel,
    atOnce rfl rfl (by decide +kernel), by decide +kernel, by decide +kernel⟩, ?_⟩
  exact ⟨⟨1, 5 * 65536 + 0x9000, 0x3000, 0x200000000000001D, 0, 0x40000000⟩, admits (by decide +kernel) (by decide +kernel), rfl⟩

/-- A line of an L1 with its bytes valid, and the core's words of a page that has its class. -/
def line9 (dirty : BitVec 128) (shared : Bool) : L1Line :=
  ⟨0x1234, BitVec.allOnes 128, dirty, dirty, 0, shared, 0x3000, 0, none, [], false, (0, 0), none, 0, 0, 0, none⟩
def stL1 (dirty : BitVec 128) (shared : Bool) (th : Thread := th0) : State :=
  { st th with
    cores := [(0, { Core.reset with teams := [(0, tm0)], l1 := [(0x9000 / 128, line9 dirty shared)] })]
    pages := [(0x3000, ⟨1, if shared then 2 else 1, 0, 0, 0x40000000⟩)] }

/-- CacheViews: a read and a write that answer at once. -/
theorem witness_CacheViews :
    (∃ s1 v, l1Read (stL1 0 true) 0 ⟨0, some 0, false, none, 2, 0⟩ p9 16 0 = .ok s1 v) ∧ p9.pa % 128 + 16 ≤ 128 ∧
    (classOf (stL1 0 true) p9.pte p9.entry).1 ≠ 0 ∧
    find? ((stL1 0 true).core 0).l1 (p9.pa / 128) = some (line9 0 true) ∧
    (∃ s1 x, l1Write (stL1 0 true) 0 0 p9 16 7 2 0 = .ok s1 x) :=
  ⟨of_readOk (by decide +kernel), by decide +kernel, by decide +kernel, by decide +kernel, of_readOk (by decide +kernel)⟩

/-- Accesses that a thread has outstanding. -/
def acc (kind : AccKind) (p : Phys) : Access := ⟨0, 0, 0x4000, kind, 0x9000, 4, 7, [p], 0, false, 0, true, false, false, none, false, some 0, [], none⟩
def uLoad : WUnit := { WUnit.start th0 with pend := [4], done := false }
def thAcc (kind : AccKind) (p : Phys) : Thread :=
  { th0 with accs := [acc kind p], nextAcc := 1, nextSeq := 1, flags := [(0, 1)], window := [uLoad] }

/-- LoadsAndStoresPerform: a load and a store of device memory and of the host's, the line in the L1 with its bytes valid;
the load's unit in the window. -/
theorem witness_LoadsAndStoresPerform :
    (∀ p ∈ [p9, { p9 with tgt := 1 }], Outstanding (stL1 0 true (thAcc (.load false [4]) p)) 0 (en (thAcc (.load false [4]) p)) (acc (.load false [4]) p) ∧
      Outstanding (stL1 0 true (thAcc .store p)) 0 (en (thAcc .store p)) (acc .store p)) ∧
    (∃ s1 v, l1Read (stL1 0 true (thAcc (.load false [4]) p9)) 0
      ((acc (.load false [4]) p9).reader (stL1 0 true (thAcc (.load false [4]) p9)) (en (thAcc (.load false [4]) p9)) (0x9000 / 128)) p9 4 0 = .ok s1 v) ∧
    (∃ s1 v, l1Write (stL1 0 true (thAcc .store p9)) 0 0 p9 4 7 0 0 = .ok s1 v) ∧
    (p9.pa % 128 + 4 ≤ 128 ∧ find? ((stL1 0 true).core 0).l1 (p9.pa / 128) = some (line9 0 true) ∧
      ∀ i, i < 4 → (line9 0 true).valid.getLsbD (p9.pa % 128 + i) = true) ∧
    ((acc .store p9).commit = true ∧ siteTaken (stL1 0 true (thAcc .store p9)) none 0 0x9000 4 = false ∧
      siteTaken (stL1 0 true (thAcc .store p9)) none 1 0x9000 4 = false) ∧
    ((stL1 0 true (thAcc (.load false [4]) p9)).thread? 0 = some (thAcc (.load false [4]) p9) ∧
      (thAcc (.load false [4]) p9).exited = false ∧ tTid 0 < 32 * tm0.ngrp ∧
      (thAcc (.load false [4]) p9).unit? 0 = some uLoad) ∧
    behindCommand (stL1 0 true (thAcc (.load false [4]) p9)) (en (thAcc (.load false [4]) p9)) (acc (.load false [4]) p9) = false := by
  refine ⟨?_, of_readOk (by decide +kernel), of_readOk (by decide +kernel), by decide +kernel, by decide +kernel,
    ⟨rfl, rfl, by decide +kernel, rfl⟩, by decide +kernel⟩
  intro p hp
  simp only [List.mem_cons, List.not_mem_nil, or_false] at hp
  rcases hp with rfl | rfl <;> exact ⟨⟨rfl, by decide +kernel, by decide +kernel⟩, ⟨rfl, by decide +kernel, by decide +kernel⟩⟩

/-- AtomicsPerform: at the host, at the home slice of a shared page, where its core holds the line and where no core
does, and in the L1 of a page private to the core. -/
def stOpen (a : AccKind) : State := { st (thAcc a p9) with pages := [(0x3000, ⟨1, 2, 0, 0, 0x40000000⟩)] }
def atom (pl : BitVec 2) : AccKind := .atom 0 pl [4]
theorem witness_AtomicsPerform :
    Outstanding (stL1 0 true (thAcc (atom 1) { p9 with tgt := 1 })) 0 (en (thAcc (atom 1) { p9 with tgt := 1 })) (acc (atom 1) { p9 with tgt := 1 }) ∧
    (acc (atom 1) p9).kind.isAtom = true ∧ (acc (atom 1) p9).commit = true ∧
    (∀ s ∈ [stL1 0 true (thAcc (atom 1) p9), stL1 0 false (thAcc (atom 1) p9), stOpen (atom 1)],
      laneFirst s 0 (acc (atom 1) p9) = false ∧ siteTaken s (some 0) 0 0x9000 4 = false) ∧
    (Outstanding (stOpen (atom 1)) 0 (en (thAcc (atom 1) p9)) (acc (atom 1) p9) ∧
      (classOf (stOpen (atom 1)) p9.pte p9.entry).1 = 2 ∧ (∀ x ∈ (stOpen (atom 1)).cores, find? x.2.l1 (p9.pa / 128) = none) ∧
      (stOpen (atom 1)).pubs = [] ∧ (stOpen (atom 1)).registry = [] ∧ (stOpen (atom 1)).revs = [] ∧
      homeWaits (stOpen (atom 1)) (p9.pa / 128) = false) ∧
    (let s := stL1 0 true (thAcc (atom 1) p9)
     (match classify s 0 p9 with
       | .ok s1 _ => match yieldWords s1 0 (0x9000 / 128) (spanMask 0 4) with
         | (some s2, _) => match revokeOwners s2 0 (0x9000 / 128) (wordsOf (spanMask 0 4)) with
           | (some s3, _) => !homeWaits s3 (0x9000 / 128)
           | _ => false
         | _ => false
       | _ => false) = true ∧ (acc (atom 1) p9).kind.site ≠ 0) ∧
    (let s := stL1 0 false (thAcc (atom 0) p9)
     (match classify s 0 p9 with
       | .ok s1 false => match l1Read s1 0 ((acc (atom 0) p9).reader s1 (en (thAcc (atom 0) p9)) (0x9000 / 128)) p9 4 0 with
         | .ok s2 _ => readOk (l1Write s2 0 0 p9 4 9 0 0)
         | _ => false
       | _ => false) = true ∧ (acc (atom 0) p9).kind.site = 0) ∧ (5 : Nat) < 2 ^ 32 ∧ (5 : Nat) < 2 ^ 64 :=
  ⟨⟨rfl, by decide +kernel, by decide +kernel⟩, by decide +kernel, by decide +kernel, by decide +kernel,
    ⟨⟨rfl, by decide +kernel, by decide +kernel⟩, by decide +kernel⟩, by decide +kernel⟩

/-- FencesIssue: nothing outstanding; a load outstanding; a flag that is not 0; a fence that waits for publications. -/
theorem witness_FencesIssue : Passes (st th0) { settled := true } c (en th0) ∧ th0.wait = .none ∧ th0.accs = [] ∧
    (∃ s1, release (st th0) 0 = (s1, [])) ∧ requestsFull (st th0) 0 = false ∧ (∀ f : Nat, f < 12 → (0xFFF : BitVec 12).getLsbD f = true → findD th0.flags f 0 = 0) ∧
    (let th := thAcc (.load false [4]) p9
     Passes (st { th with window := [] }) { settled := true } c (en { th with window := [] }) ∧
       (∃ a ∈ th.accs, a.kind.isLoad = true ∨ a.kind.isAtom = true) ∧ th.wait = .none ∧
       th.accs ≠ [] ∧ (∃ f : Nat, f < 12 ∧ (1 : BitVec 12).getLsbD f = true ∧ findD th.flags f 0 ≠ 0)) ∧
    (let th : Thread := { th0 with wait := .fence true [3] }
     Passes (st th) { settled := true } c (en th) ∧ th.wait = .fence true (3 :: []) ∧ (∀ q ∈ (st th).pubs, q.id ∉ 3 :: [])) ∧
    Passes (st th0) {} c (en th0) ∧ Passes (st th0) .queued c (en th0) :=
  ⟨gate rfl (by decide +kernel), rfl, rfl, ⟨_, rfl⟩, by decide +kernel, by decide +kernel,
    ⟨gate rfl (by decide +kernel), ⟨_, List.mem_singleton.mpr rfl, .inl rfl⟩, rfl, by decide +kernel, ⟨0, by decide +kernel⟩⟩,
    ⟨gate rfl (by decide +kernel), rfl, by decide +kernel⟩, gate rfl (by decide +kernel), gate rfl (by decide +kernel)⟩

/-- FencesIssue, QueueUnits: every request entry in use; a dirty line to publish; a fence that waits for a publication. -/
def pubOf (id : Nat) : Pub := ⟨id, 0, 0x120, 0xF, 7, false, 0, 0, none, 0⟩
def stBusy (th : Thread) (tm : Team := tm0) : State := { st th tm with pubs := (List.range 48).map pubOf }
theorem of_release {s : State} (h : (release s 0).2.isEmpty = false) : ∃ s1 i ids, release s 0 = (s1, i :: ids) := by
  generalize release s 0 = r at h
  obtain ⟨s1, _ | ⟨i, ids⟩⟩ := r
  · cases h
  · exact ⟨s1, i, ids, rfl⟩
theorem witness_FencesIssue_waits :
    (Passes (stBusy th0) {} c (en th0) ∧ Passes (stBusy th0) .queued c (en th0) ∧ requestsFull (stBusy th0) 0 = true ∧ th0.accs = [] ∧
      th0.wait = .none ∧ th0.window = []) ∧
    (Passes (stL1 1 true) { settled := true } c (en th0) ∧ requestsFull (stL1 1 true) 0 = false ∧
      ∃ s1 i ids, release (stL1 1 true) 0 = (s1, i :: ids)) ∧
    (let th : Thread := { th0 with wait := .fence true [3] }
     Passes (stBusy th) { settled := true } c (en th) ∧ th.wait = .fence true (3 :: []) ∧ ∃ q ∈ (stBusy th).pubs, q.id ∈ 3 :: []) :=
  ⟨⟨gate rfl (by decide +kernel), gate rfl (by decide +kernel), by decide +kernel, rfl, rfl, rfl⟩,
    ⟨gate rfl (by decide +kernel), by decide +kernel, of_release (by decide +kernel)⟩,
    gate rfl (by decide +kernel), rfl, by decide +kernel⟩

/-- AcquiresAndReleases: a dirty line of a shared page. -/
theorem witness_AcquiresAndReleases : (∃ t ids, release (stL1 1 true) 0 = (t, ids)) ∧
    (0x9000 / 128, line9 1 true) ∈ ((stL1 1 true).core 0).l1 ∧ (line9 1 true).shared = true ∧ (line9 1 true).dirty.getLsbD 0 = true ∧
    (∃ i, i < 128 ∧ (line9 1 true).valid.getLsbD i = true ∧ (line9 1 true).dirty.getLsbD i = true) :=
  ⟨⟨_, _, rfl⟩, by decide +kernel, rfl, by decide +kernel, 0, by decide +kernel⟩

/-- BarrierUnits: barriers 31, which the team has, and 32, which it has not; a thread with the extension lock, and one with
an older unit in its window. -/
theorem witness_BarrierUnits : Passes (st th0) { settled := true } c (en th0) ∧ tm0.nbar ≤ (32 : BitVec 8).toNat ∧
    (31 : BitVec 8).toNat < tm0.nbar ∧ th0.xhold = false ∧ th0.xreq = none ∧
    Reads (st th0) (en th0) [4] (st th0) (en th0) ∧
    (let th : Thread := { th0 with xhold := true }
     Passes (st th) .queued c (en th) ∧ th.xhold = true) ∧
    (let th := thAcc .store p9
     Passes (st th) .queued c (en th) ∧ th.xhold = false ∧ th.xreq = none ∧ th.window ≠ []) :=
  ⟨gate rfl (by decide +kernel), by decide +kernel, by decide +kernel, rfl, rfl, reads rfl rfl (by decide +kernel),
    ⟨gate rfl (by decide +kernel), rfl⟩, gate rfl (by decide +kernel), rfl, rfl, by decide +kernel⟩

/-- GuardUnits: the highest guard; flags that FPC does not enable, and that it does. -/
theorem witness_GuardUnits : (15 : BitVec 8).toNat < 16 ∧ Ready (st th0) .queued c [2, 3] (st th0) (en th0) ∧
    Ready (st th0) .queued c [2] (st th0) (en th0) ∧ Passes (st th0 tmOpen) .queued c (en th0 tmOpen) ∧
    tmOpen.guard 3 = 2 ∧ tm0.guard 3 ≠ 2 ∧ Reads (st th0) (en th0) [2] (st th0) (en th0) ∧
    (let th : Thread := regs { th0 with ctx := { th0.ctx with fpc := 1 } } [(2, 0x7FC00000)]
     Ready (st th) .queued c [2, 3] (st th) (en th) ∧
       th.ctx.fpc.extractLsb' 0 5 &&& (fcmpOp 2 (th.read 2) (th.read 3)).2 ≠ 0) ∧
    (let u : WUnit := { WUnit.start th0 with act := .guard 3 2 }
     let th : Thread := { th0 with window := [u], nextSeq := 1 }
     Ready (st th) .queued c [2, 3] (st th) (en th) ∧ th.window ≠ [] ∧ th.window = [] ++ [u] ∧ u.trap = none ∧ (en th).guard 3 = 2 ∧
       (∀ x ∈ th.window, ∀ v, x.act ≠ .guard 4 v)) :=
  ⟨by decide +kernel, atOnce rfl rfl (by decide +kernel),
    atOnce rfl rfl (by decide +kernel), gate rfl (by decide +kernel), by decide +kernel,
    by decide +kernel, reads rfl rfl (by decide +kernel),
    ⟨atOnce rfl rfl (by decide +kernel), by decide +kernel⟩, atOnce rfl rfl (by decide +kernel), by decide +kernel, rfl, rfl,
    by decide +kernel, fun x hx v => by simp only [List.mem_singleton] at hx; subst hx; simp⟩

/-- QueueUnits: a queue of two entries that both roles may use, empty, with one entry, and full; a queue that is not there. -/
def tmQ (es : List DWord) : Team := { tm0 with queues := [(1, ⟨0x1E2, es, 0⟩)] }
theorem witness_QueueUnits : (∀ es ∈ ([[], [5], [5, 6]] : List (List DWord)),
      Passes (st th0 (tmQ es)) { settled := true, long := true } c (en th0 (tmQ es)) ∧
      Reads (st th0 (tmQ es)) (en th0 (tmQ es)) [2, 3] (st th0 (tmQ es)) (en th0 (tmQ es)) ∧
      Reads (st th0 (tmQ es)) (en th0 (tmQ es)) [4, 5, 6] (st th0 (tmQ es)) (en th0 (tmQ es))) ∧
    (find? (tmQ [5]).queues 1 = some ⟨0x1E2, [5], 0⟩ ∧ (0x1E2 : DWord).getLsbD 7 = true ∧ (0x1E2 : DWord).getLsbD 8 = true ∧
    (0x1E2 : DWord).getLsbD 5 = true ∧ (0x1E2 : DWord).getLsbD 6 = true ∧ 2 ^ ((0x1E2 : DWord).toNat / 2 % 16) = 2 ∧
    find? (tmQ [5]).queues 0 = none) ∧ (∃ s2, release (st th0 (tmQ [5])) 0 = (s2, [])) ∧
    (requestsFull (st th0 (tmQ [5])) 0 = false ∧ ∀ z ∈ tm0.queues, z.2.desc.getLsbD 6 = false) ∧
    (st th0 (tmQ [5])).team? (teamKey 0) = some (tmQ [5]) ∧
    (tmQ [5]).queues.filter (fun z => z.2.desc.getLsbD (if (en th0 (tmQ [5])).consumer then 6 else 5)) = [] ++ (1, ⟨0x1E2, [5], 0⟩) :: [] := by
  refine ⟨?_, by decide +kernel, ⟨_, rfl⟩, by decide +kernel, rfl, by decide +kernel⟩
  intro es hv
  simp only [List.mem_cons, List.not_mem_nil, or_false] at hv
  rcases hv with rfl | rfl | rfl <;>
    exact ⟨gate rfl (by decide +kernel), reads rfl rfl (by decide +kernel), reads rfl rfl (by decide +kernel)⟩

theorem witness_QueueUnits_waits :
    (Passes (stBusy th0 (tmQ [5])) { settled := true, long := true } c (en th0 (tmQ [5])) ∧ requestsFull (stBusy th0 (tmQ [5])) 0 = true ∧
      Reads (stBusy th0 (tmQ [5])) (en th0 (tmQ [5])) [2, 3] (stBusy th0 (tmQ [5])) (en th0 (tmQ [5]))) ∧
    (∃ s1 i ids, release { stL1 1 true with cores := [(0, { (stL1 1 true).core 0 with teams := [(0, tmQ [5])] })] } 0 = (s1, i :: ids)) ∧
    (let th := { thAcc (.load false [4]) p9 with window := [] }
     Passes (st th (tmQ [5])) { settled := true, long := true } c (en th (tmQ [5])) ∧
     ¬∀ a ∈ th.accs, a.kind.isLoad = false ∧ a.kind.isAtom = false) :=
  ⟨⟨gate rfl (by decide +kernel), by decide +kernel, reads rfl rfl (by decide +kernel)⟩, of_release (by decide +kernel),
    gate rfl (by decide +kernel), by decide +kernel⟩

/-- LeaseUnitAndEvents: an evaluation that is due; a group parked for 100,000 clk; a protected one; a quiet measured one. -/
def stLease (l : Lease) (clk : Nat) : State :=
  { st th0 with clk := clk, cores := [(0, { Core.reset with teams := [(0, tm0)], leases := [(0, l)] })] }
theorem witness_LeaseUnitAndEvents : Passes (st th0) .queued c (en th0) ∧
    Passes (st { th0 with window := [WUnit.start th0] }) .queued c (en { th0 with window := [WUnit.start th0] }) ∧
    ((stLease ⟨8, false, 0, none, none, 0, 0, 0⟩ 0).core (stLease ⟨8, false, 0, none, none, 0, 0, 0⟩ 0).cur).nextEval ≤ 0 ∧
    (let l : Lease := ⟨8, false, 0, some 0, none, 0, 0, 0⟩
     (0, l) ∈ ((stLease l 100000).core 0).leases ∧ l.parked = some 0 ∧ 0 + 100000 ≤ (stLease l 100000).clk ∧
       Sorted [(0, l)] = true ∧ find? [(0, l)] 0 = some l) ∧
    (let l : Lease := ⟨8, true, 65536, none, some 16384, 0, 0, 0⟩
     find? ((stLease l 16384).core 0).leases 0 = some l ∧ l.measured = true ∧ 65536 ≤ l.quiet ∧ l.protect = some 16384 ∧
       16384 ≤ (stLease l 16384).clk ∧ l.protect ≠ none ∧ l.parked = none) :=
  ⟨gate rfl (by decide +kernel), gate rfl (by decide +kernel), by decide +kernel, by decide +kernel, by decide +kernel⟩

/-! Handles and jobs. -/

/-- A descriptor of r rows and q columns of an element format and a layout. -/
def shape (r q ef lay : Nat) : DWord := BitVec.ofNat 64 ((q - 1) + (r - 1) * 2 ^ 16 + ef * 2 ^ 36 + lay * 2 ^ 40)

/-- Three INT32 tiles of level C, an accumulator, and views at 0x9000 and above, of INT32 and INT16. -/
def view (r q ef loc : Nat) : Handle := ⟨shape r q ef 0 ||| BitVec.ofNat 64 (2 ^ 44), 2, BitVec.ofNat 57 loc, 0⟩
def tmH : Team := { tm0 with
  handles := [(0, ⟨shape 4 4 14 0, 0, 1, 0⟩), (1, ⟨shape 4 4 14 0, 0, 1, 1⟩), (2, ⟨shape 4 4 14 0, 0, 1, 2⟩),
    (3, ⟨shape 4 4 14 4, 3, 0, 3⟩), (4, view 1 4 14 0x9000), (5, view 1 4 12 0x9100), (6, view 1 4 14 0x9200),
    (7, view 1 4 12 0x9300), (8, view 1 4 14 0x9400)]
  binds := [(4, 0)] }
def tile (lvl : BitVec 2) : Tile := ⟨lvl, if lvl = 3 then 0 else 1, 0, [], [], false, false⟩
def stH (th : Thread := th0) (jobs : List Job := []) (tm : Team := tmH) (la : Launch := la0) : State :=
  { st th tm la with
    cores := [(0, { Core.reset with
      teams := [(0, tm)], tiles := [(0, tile 0), (1, tile 0), (2, tile 0), (3, tile 3)], nextUid := 4, jobs := jobs, nextJob := jobs.length })] }

/-- HandlesMade: a shape that fits and one that is refused (a row-major one with a pitch); a handle in use and a free
one; requests of levels C and S that can be granted, one for a handle in use, and one that waits longer than 4,096 clk;
a tile that a job names. -/
def thShape (d : DWord) : Thread := regs th0 [(2, d.setWidth 32), (3, (d >>> 32).setWidth 32), (4, 0x9000)]
def req : TallocReq := ⟨0, 9, 0, 1, shape 4 4 14 0, 0⟩
def stReq (r : TallocReq) (clk : Nat) : State :=
  { stH { th0 with wait := .talloc } with
    clk := clk, cores := [(0, { (stH).core 0 with allocs := if r.lvl = 1 then [] else [r] })], allocS := if r.lvl = 1 then [r] else [] }
theorem witness_HandlesMade :
    (∀ d ∈ [shape 4 4 14 0, shape 4 4 14 0 ||| BitVec.ofNat 64 (2 ^ 44)],
      Ready (stH (thShape d)) { settled := true } c [2, 3] (stH (thShape d)) (en (thShape d) tmH) ∧
      Ready (stH (thShape d)) { settled := true } c [4, 5, 2, 3] (stH (thShape d)) (en (thShape d) tmH)) ∧
    (shapeRefused la0 0 (shape 4 4 14 0) = false ∧ shapeRefused la0 0 (shape 4 4 14 0 ||| BitVec.ofNat 64 (2 ^ 44)) = true ∧
    shapeRefused la0 2 (shape 4 4 14 0 ||| BitVec.ofNat 64 (2 ^ 44)) = false ∧ pairNat (thShape 0).read 4 % 16 = 0 ∧
    tmH.handle? 9 = none ∧ tmH.handle? 0 ≠ none ∧ (tmH.handle 0).lvl ≠ 2 ∧ tallocQueue (stH) 0 0 = [] ∧ tallocFits (stH) req = true ∧
    tallocFits (stH) { req with gran := 513 } = false) ∧ Passes (stH) { settled := true } c (en th0 tmH) ∧
    (∀ r ∈ [req, { req with lvl := 1 }, { req with h := 0 }], tallocQueue (stReq r 5) 0 r.lvl = r :: [] ∧
      (stReq r 5).clk < r.at_ + 4096 ∧ r.at_ ≠ (stReq r 5).clk ∧ tallocFits (stReq r 5) r = true) ∧
    (∀ h lvl, (stReq { req with h := h, lvl := lvl } 5).env 0 = some (en { th0 with wait := .talloc } tmH)) ∧
    (let s := stReq req 4096
     s.env 0 = some (en { th0 with wait := .talloc } tmH) ∧ req ∈ s.allocS ++ (s.core (tCore s.cur)).allocs ∧
       (∀ x ∈ s.allocS ++ (s.core (tCore s.cur)).allocs, x.thread = s.cur → x = req) ∧ req.at_ + 4096 ≤ s.clk) := by
  refine ⟨?_, by decide +kernel, gate rfl (by decide +kernel),
    by decide +kernel, fun _ _ => rfl, rfl, by decide +kernel, by decide +kernel, by decide +kernel⟩
  intro d hd
  simp only [List.mem_cons, List.not_mem_nil, or_false] at hd
  rcases hd with rfl | rfl <;>
    exact ⟨atOnce rfl rfl (by decide +kernel),
      atOnce rfl rfl (by decide +kernel)⟩

/-- TileElements: the last element of a tile and one beyond it; the last element of a view; storage that the core holds. -/
theorem witness_TileElements :
    (∀ x ∈ ([0x00030003, 0x00040000, 0x00000003] : List Word), ∀ dst ∈ [[4], ([] : List Reg)],
      Ready (stH (regs th0 [(2, x)])) Mode.counted c [2, 4]
        (stH (regs th0 [(2, x)])) (en (regs th0 [(2, x)]) tmH)) ∧ th0.ctx.clause.flag c.fl = some 0 ∧
    (ElementConditions (en th0 tmH) 0 0x00030003).hold ∧ (ElementConditions (en th0 tmH) 4 0x00000003).hold ∧
    (ElementConditions (en th0 tmH) 0 0x00040000).firstFails 6 0 ∧
    Admits (stH) (en th0 tmH) 0x900C 4 .r (needsRequest (stH) 0 · 4) ⟨0, 0x900C, 0x3000, 0x1D, 0, 0x40000000⟩ ∧
    heldByJob (stH) 0 true [.tile 0 3 3 1 1 none] = false ∧ (find? ((stH).core 0).tiles 0).isSome = true ∧
    behindCommand (stH) (en th0 tmH) (acc (.load false [4]) p9) = false ∧
    (stH).team? 0 = some tmH := by
  refine ⟨?_, by decide +kernel, ?_, ?_, ?_, admits (by decide +kernel) (by decide +kernel), by decide +kernel, by decide +kernel, by decide +kernel, rfl⟩
  · intro x hx d hd
    simp only [List.mem_cons, List.not_mem_nil, or_false] at hx hd
    rcases hx with rfl | rfl | rfl <;> rcases hd with rfl | rfl <;> exact atOnce rfl rfl (by decide +kernel)
  · simp only [Conditions.hold, ElementConditions, Valid, NoAccumulator, RowMajor, List.map, List.forall_mem_append, List.forall_mem_cons,
      List.not_mem_nil, false_imp_iff, implies_true, and_true]
    decide +kernel
  · simp only [Conditions.hold, ElementConditions, Valid, NoAccumulator, RowMajor, List.map, List.forall_mem_append, List.forall_mem_cons,
      List.not_mem_nil, false_imp_iff, implies_true, and_true]
    decide +kernel
  · refine ⟨_, _, _, rfl, .inl (by decide +kernel), ?_⟩
    simp only [Valid, NoAccumulator, RowMajor, List.map, List.forall_mem_append, List.forall_mem_cons, List.not_mem_nil,
      false_imp_iff, implies_true, and_true]
    decide +kernel

/-- What an engine unit needs beside its handles: registers read, a slot with a format, a flag, room in the table. -/
theorem witness_engine (rs : List Reg) (h : checkRegs (stH) (en th0 tmH) rs = .ok (stH)) :
    Ready (stH) engineMode c rs (stH) (en th0 tmH) ∧ slotEF (la0.fs 3) ≠ 0 ∧
    th0.ctx.clause.flag c.fl = some 0 ∧ ((stH).core 0).jobs.length < 64 ∧ la0.smm = false :=
  ⟨⟨⟨_, gate rfl (by decide +kernel), reads h rfl (by rw [List.all_eq_true]; intro r _; rfl)⟩⟩, by decide +kernel⟩

/-- A draft whose regions all lie in tile storage is admitted. -/
theorem admitsTiles {s : State} {e : Env} (d : Draft) (hm : e.la.smm = false)
    (h : (d.reads ++ d.writes).all (fun r => match r with | .mem _ _ _ => false | _ => true) = true) : AdmitsJob s e d := by
  have no (r : Region) (hr : r ∈ d.reads ++ d.writes) (asn lo hi) : r ≠ .mem asn lo hi := by
    rintro rfl; exact absurd (List.all_eq_true.mp h _ hr) (by simp)
  exact ⟨fun asn lo hi hr => absurd rfl (no _ (List.mem_append_left _ hr) asn lo hi),
    fun asn lo hi hr => absurd rfl (no _ (List.mem_append_right _ hr) asn lo hi), .inr hm⟩

/-- CopyAndTileJobs: `tadd` of three tiles is admitted; a handle that is not there fails first. -/
theorem witness_CopyAndTileJobs :
    Ready (stH) engineMode c [] (stH) (en th0 tmH) ∧
    (Valid (en th0 tmH) [0, 1, 2] ++ NoAccumulator (en th0 tmH) [0, 1, 2] ++
      [((tmH.handle 1).differs (tmH.handle 0), 5, 1), ((tmH.handle 2).differs (tmH.handle 0), 5, 2)] ++
      RowMajor (en th0 tmH) [0, 1, 2] ++
      [(¬OneClass [(tmH.handle 0).ef, (tmH.handle 1).ef, (tmH.handle 2).ef], 5, classCulprit tmH [0, 1, 2])]).hold ∧
    AdmitsJob (stH) (en th0 tmH) (elementwiseDraft 0 1 2 false (en th0 tmH)) ∧
    (Valid (en th0 tmH) [0, 1, 9]).firstFails 1 9 := by
  refine ⟨(witness_engine [] rfl).1, ?_, admitsTiles _ (by decide +kernel) (by decide +kernel), ⟨Valid (en th0 tmH) [0, 1], tmH.handle? 9 = none, [], rfl, by decide +kernel, ?_⟩⟩
  · simp only [Conditions.hold, Valid, NoAccumulator, RowMajor, Handle.differs, OneClass, List.map, List.forall_mem_append,
      List.forall_mem_cons, List.not_mem_nil, false_imp_iff, implies_true, and_true]
    decide +kernel
  · simp only [Valid, List.map, List.forall_mem_cons, List.not_mem_nil, false_imp_iff, implies_true, and_true]
    decide +kernel

/-- Handles of products: planes and words of FP32, row-major tiles of FP32, a result in FP32, rows of scales. -/
def tmM : Team := { tm0 with
  handles := [(0, ⟨shape 4 4 1 1, 0, 1, 0⟩), (1, ⟨shape 4 4 1 2, 0, 1, 1⟩), (2, ⟨shape 4 4 1 0, 0, 1, 2⟩), (3, ⟨shape 4 4 1 4, 3, 0, 3⟩),
    (4, ⟨shape 1 4 12 0, 0, 1, 4⟩), (5, ⟨shape 1 4 14 0, 0, 1, 5⟩)] }
def eM : Env := en th0 tmM
def stBadProgram : State := { stH th0 [] tmM with dram := Memory.writeN (benchMemory [] 0) 0x9000 4 0xFFFFFFFF }

/-- MatrixJobs: `mzero` of the accumulator is admitted, and fails on a tile; a product, its scales, a plane conversion and a
drain meet their conditions and are admitted; `gmm` with STOP and without; `epild` at an odd address, at a non-canonical
one, and a program that is none. -/
theorem witness_MatrixJobs :
    (Valid (en th0 tmH) [3] ++ [((tmH.handle 3).lvl ≠ 3, 7, 3)]).hold ∧ (Valid (en th0 tmH) [0] ++ [((tmH.handle 0).lvl ≠ 3, 7, 0)]).firstFails 7 0 ∧
    Ready (stH th0 [] tmM) engineMode c [2, 3] (stH th0 [] tmM) eM ∧ (∀ n ∈ [0, 1, 2, 3, 4, 5], tmM.handle? n ≠ none) ∧
    (∀ i ∈ ([0, 1] : List Nat), let a := tmM.handle i; (a.lvl = 0 ∧ a.lay = BitVec.ofNat 4 (i + 1) ∧ shFSN a.shape = 0) ∧ a.ef = slotEF (la0.fs 0)) ∧
    (slotEF (la0.fs 0) = 1 ∧ slotSF (la0.fs 0) = 0 ∧ (tmM.handle 2).ef = 1 ∧ (tmM.handle 2).lay = 0 ∧ (tmM.handle 3).lvl = 3 ∧ (tmM.handle 3).ef = 1) ∧
    (∀ i ∈ ([0, 1, 2, 3] : List Nat), (tmM.handle i).rows = 4 ∧ (tmM.handle i).cols = 4) ∧
    (∀ i ∈ ([4, 5] : List Nat), let m := tmM.handle i; m.lay = 0 ∧ m.lvl = 0 ∧ m.rows = 1 ∧ m.cols = 4 ∧ m.ef = 3 * i - (i - 4) * 1) ∧
    (∀ d ∈ [mzeroDraft 3 eM, productDraft eM 3 0 1 [] [], mmasDraft 3 0 1 2 eM, mplaneDraft 0 0 2 0 eM, mdrainDraft (stH th0 [] tmM) false false 0 2 3 4 eM],
      AdmitsJob (stH th0 [] tmM) eM d) ∧
    (∃ s2 w0 w1 w2, ∀ k, readWords (stH th0 [] tmM) eM (la0.groupTable + 16 * 0) 3 k = k s2 [w0, w1, w2]) ∧
    (∃ s2 ws, programOk ws = true ∧ ∀ k, readProgram (stH th0 [] tmM) eM 0x9000 32 k = k s2 ws) ∧
    (∃ s2 ws, programOk ws = false ∧ ∀ k, readProgram stBadProgram eM 0x9000 32 k = k s2 ws) ∧
    ((0x9000 : Nat) % 4 = 0 ∧ (0x9001 : Nat) % 4 ≠ 0 ∧ (2 ^ 57 : Nat) % 4 = 0 ∧ (0 : Nat) < 2 ^ 63) := by
  refine ⟨?_, ⟨Valid (en th0 tmH) [0], (tmH.handle 0).lvl ≠ 3, [], rfl, by decide +kernel, ?_⟩, atOnce rfl rfl (by decide +kernel),
    by decide +kernel, by decide +kernel, by decide +kernel, by decide +kernel, by decide +kernel, ?_,
    ⟨_, _, _, _, fun k => rfl⟩, ⟨_, _, by decide +kernel, fun k => rfl⟩, ⟨_, _, by decide +kernel, fun k => rfl⟩, by decide⟩
  · simp only [Conditions.hold, Valid, List.map, List.forall_mem_append, List.forall_mem_cons, List.not_mem_nil, false_imp_iff,
      implies_true, and_true]
    decide +kernel
  · simp only [Valid, List.map, List.forall_mem_cons, List.not_mem_nil, false_imp_iff, implies_true, and_true]
    decide +kernel
  · intro d hd
    refine admitsTiles d (by decide +kernel) ?_
    revert d
    decide +kernel

/-! Jobs in the table. -/

/-- A job of a command, with what its draft captures, in the word's bits [21:17] the guard and its sense. -/
def jobOf (i : Instr) (d : Draft) (state : JobState := .queued) (w : Nat := 0) : Job :=
  { id := 0, thread := 0, ua := 0x4000, cmd := i, word := BitVec.ofNat 64 (w * 2 ^ 17), engine := d.engine, caps := d.caps, hs := d.hs
    flag := some 0, reads := d.reads, writes := d.writes, bank := d.bank, slice := d.slice, state, seq := 0, prog := 0, part := 0
    width := 256, stat := 0, miss := [], hint := 0, gok := false, walks := false }
def addJob (state : JobState) (w : Nat := 0) : Job := jobOf (.tadd c 0 1 2) (elementwiseDraft 0 1 2 false (en th0 tmH)) state w
def tmG : Team := { tmH with guards := 0x84 }

/-- CopyAndTileJobs, MatrixJobs, FetchUnits: a table without a free entry. -/
theorem witness_tableFull : Ready (stH th0 (List.replicate 64 (addJob .queued))) engineMode c []
    (stH th0 (List.replicate 64 (addJob .queued))) (en th0 tmH) ∧ 64 ≤ ((stH th0 (List.replicate 64 (addJob .queued))).core 0).jobs.length :=
  ⟨atOnce rfl rfl (by decide +kernel), by decide +kernel⟩

/-- JobEvents: jobs in each state; one with a guard that is open, and one with a guard of 1 that must be 0; a sequencer that
is due for a test, and one that is not; a job of the matrix engine at a checkpoint. -/
theorem witness_JobEvents :
    (∀ x ∈ [JobState.queued, .stopped, .running, .ran, .done, .suspended 2, .suspended 1],
      ((stH th0 [addJob x]).core 0).job? (addJob x).id = some (addJob x)) ∧
    (∀ w ∈ [6, 3], let j := addJob .queued w
      (stH th0 [j] tmG).env j.thread = some (en th0 tmG) ∧ ((stH th0 [j] tmG).core 0).job? j.id = some j ∧
      atHead ((stH th0 [j] tmG).core 0) j = true ∧ j.guard ≠ 0 ∧ j.gok = false) ∧
    (tmG.guard (addJob .queued 6).guard = 2 ∧ tmG.guard (addJob .queued 3).guard = 1 ∧ (addJob .queued 3).gn = true) ∧
    (∀ a xd hc xp, (addJob .done).cmd ≠ .wfix a xd hc xp) ∧ (stH th0 [addJob .done]).thread? 0 = some th0 ∧
    (addJob .done).flag = some 0 ∧
    (testDue ((stH th0 [addJob .ran]).core 0) = true ∧ testDue ((stH th0 [addJob .queued]).core 0) = false ∧
      ((stH).core 0).fenced ||| (1 : BitVec 4) ≠ 0xF ∧
      (let j := jobOf (.mzero c 3) (mzeroDraft 3 (en th0 tmH)) .ran
       j.engine = .matrix ∧ j.state ≠ .done ∧ find? [(0, 1)] j.id = some 1)) ∧
    ((en th0 tmG).tm.quieting = false ∧ (addJob .queued).seq = 0) ∧
    (let tm := { tmH with quieting := true }
     ∀ x ∈ [JobState.queued, .stopped, .running], let j := addJob x
      (stH th0 [j] tm).env j.thread = some (en th0 tm) ∧ tm.quieting = true ∧
      (∀ y ∈ ((stH th0 [j] tm).core 0).jobs, ∀ c xd hc xp, y.cmd ≠ .wfix c xd hc xp) ∧ ((stH th0 [j] tm).core 0).job? j.id = some j ∧
      (x = .running → resumable (.mma c 3 1 2) = true)) ∧
    (let j := jobOf (.epild c 0 2) ⟨.copy, [], [], [], [], fun _ => none, false, false⟩ .queued
     ((stH th0 [j]).core 0).job? j.id = some j ∧ ∀ y ∈ ((stH th0 [j]).core 0).jobs, ¬j.id < y.id) := by
  refine ⟨by decide +kernel, ?_, by decide +kernel, (fun _ _ _ _ h => Instr.noConfusion h), rfl, rfl, by decide +kernel,
    by decide +kernel, ?_, by decide +kernel⟩
  swap
  · intro tm x hx
    have hw : ∀ y ∈ ((stH th0 [addJob x] { tmH with quieting := true }).core 0).jobs, ∀ c xd hc xp, y.cmd ≠ .wfix c xd hc xp := by
      intro y hy c xd hc xp h
      have : y = addJob x := List.mem_singleton.mp hy
      rw [this] at h
      exact Instr.noConfusion h
    simp only [List.mem_cons, List.not_mem_nil, or_false] at hx
    rcases hx with rfl | rfl | rfl <;> exact ⟨rfl, rfl, hw, by decide +kernel, by decide +kernel⟩
  intro w hw
  simp only [List.mem_cons, List.not_mem_nil, or_false] at hw
  rcases hw with rfl | rfl <;> exact ⟨rfl, by decide +kernel⟩

/-- A job of tile storage starts, by evaluation. -/
theorem starts {j : Job} {th : Thread} (h : (((stH th [j]).core 0).job? j.id == some j && j.state == .queued &&
      atHead ((stH th [j]).core 0) j && j.guard == 0 && !hasEdge ((stH th [j]).core 0) j && !jobWaits (en th tmH) j && j.miss.isEmpty &&
      !j.slice && j.seq == 0 && j.engine != .currant) = true) (he : (stH th [j]).env j.thread = some (en th tmH)) :
    Starts (stH th [j]) 0 j (en th tmH) := by
  simp only [Bool.and_eq_true, Bool.not_eq_true', beq_iff_eq, List.isEmpty_iff, bne_iff_ne] at h
  obtain ⟨⟨⟨⟨⟨⟨⟨⟨⟨h1, h2⟩, h3⟩, h4⟩, h5⟩, h6⟩, h7⟩, h8⟩, h9⟩, h10⟩ := h
  exact ⟨h1, he, .inl h2, h3, .inl h9, rfl, .inl h4, ⟨h5, h6, by simp [h7]⟩, .inl h8, fun h => absurd h h10⟩

/-- A dispatched job of tile storage performs a part, by evaluation. -/
theorem works {tm : Team} {j : Job} {i : Nat} (h : (((stH th0 [j] tm).core 0).job? j.id == some j && tCore j.thread == 0 && j.state == .running &&
      j.nextPart == some i && !j.bank && !j.walks && (j.reads ++ j.writes).all (fun r => match r with | .mem _ _ _ => false | _ => true) && !tm.quieting) = true)
    (he : (stH th0 [j] tm).env j.thread = some (en th0 tm)) : Works (stH th0 [j] tm) 0 j (en th0 tm) i := by
  simp only [Bool.and_eq_true, Bool.not_eq_true', beq_iff_eq] at h
  obtain ⟨⟨⟨⟨⟨⟨⟨h1, h2⟩, h3⟩, h4⟩, h5⟩, h6⟩, h7⟩, h8⟩ := h
  exact ⟨h1, he, h2, h3, h4, h8, ⟨h5, h6⟩, fun a l b hm => absurd (List.all_eq_true.mp h7 _ hm) (by simp),
    .inr ⟨show (0 : Nat) < 256 by decide, show (0 : BitVec 4) ≠ 0xF by decide, show (0 : Nat) < 1024 by decide, Bool.and_eq_false_imp.mpr (fun h => absurd (show (false || (0 : BitVec 4).getLsbD (dieOf 0)) = true from h) (by decide))⟩⟩

/-- JobResults: jobs that start; the first part of `tfill` of a whole tile, `ttr`, `tadd` of INT32 tiles, `mzero` and `mma`. -/
def fillJob : Job := jobOf (.tfill c 0 4 6) ⟨.copy, [0x0003000300000000, 7], [tmH.handle 0], [],
  (tfillDraft 0 4 6 (en th0 tmH)).writes, fun _ => none, false, false⟩ .running
def trJob : Job := jobOf (.ttr c 0 1) (convertDraft 0 1 (en th0 tmH)) .running
def zeroJob : Job := jobOf (.mzero c 3) (mzeroDraft 3 (en th0 tmH)) .running
def mmaJob : Job := jobOf (.mma c 3 1 2) (productDraft (en th0 tmH) 3 1 2 [] []) .running
theorem witness_JobResults :
    (∀ j ∈ [addJob .queued, { zeroJob with state := .queued }], Starts (stH th0 [j]) 0 j (en th0 tmH)) ∧
    (∀ j ∈ [fillJob, trJob, addJob .running, zeroJob, mmaJob], Works (stH th0 [j]) 0 j (en th0 tmH) 0) ∧
    (fillJob.held ((stH th0 [fillJob]).core 0) 0 ∧ (rectOf (fillJob.cap 0)).inside (fillJob.h 0) = true) ∧
    (trJob.held ((stH th0 [trJob]).core 0) 0 ∧ trJob.held ((stH th0 [trJob]).core 0) 1 ∧ (trJob.h 1).ef = (trJob.h 0).ef) ∧
    (∀ i, i < 3 → (addJob .running).held ((stH th0 [addJob .running]).core 0) i ∧ efInt ((addJob .running).h i).ef = true) ∧
    ((find? ((stH th0 [zeroJob]).core 0).tiles (zeroJob.h 0).uid).isSome = true ∧ (zeroJob.h 0).cols ≤ 256) ∧
    (0 < mmaJob.width ∧ (find? ((stH th0 [mmaJob]).core 0).tiles (mmaJob.h 0).uid).isSome = true ∧ (mmaJob.h 0).cols ≤ 256 ∧
      (mmaJob.h 0).ef = 14) := by
  refine ⟨?_, ?_, by unfold Job.held; decide +kernel, by unfold Job.held; decide +kernel, by unfold Job.held; decide +kernel,
    by decide +kernel, by decide +kernel⟩
  · intro j hj
    simp only [List.mem_cons, List.not_mem_nil, or_false] at hj
    rcases hj with rfl | rfl <;> exact starts (by decide +kernel) rfl
  · intro j hj
    simp only [List.mem_cons, List.not_mem_nil, or_false] at hj
    rcases hj with rfl | rfl | rfl | rfl | rfl <;> exact works (by decide +kernel) rfl

/-- JobResults: the first parts of `tcopy` of elements and of blocks, of the jobs on FP32 elements, of `tfma` of INT32, of `mplane`,
and of `mma`, `gmm`, `mmas` and `mdrain` of FP32 accumulators. -/
def mJob (i : Instr) (g : Engine) (caps : List DWord) (hs : List Nat) : Job :=
  jobOf i ⟨g, caps, hs.map tmM.handle, [], [], fun _ => none, false, false⟩ .running
def copyJobs : List Job := [mJob (.tcopy c 2 2 4 6) .copy [0x0003000300000000, 0] [2, 2], mJob (.tcopy c 0 0 4 6) .copy [0x0003000300000000, 0] [0, 0]]
def floatJobs : List Job := [mJob (.tadd c 2 2 2) .tile [] [2, 2, 2], mJob (.tmul c 2 2 2) .tile [] [2, 2, 2],
  mJob (.tfma c 2 2 2) .tile [] [2, 2, 2], mJob (.tcvt c false 0 2 2) .tile [] [2, 2], mJob (.tredAdd c false 2 2) .tile [] [2, 2],
  mJob (.mplane c 0 0 2 2) .tile [] [0, 2, 2]]
def productJobs : List Job := [mJob (.mma c 3 0 1) .matrix [] [3, 0, 1],
  mJob (.gmm c 3 0 1 2) .matrix [0x0000000000000001, 0x0000000400000004, 4] [3, 0, 1], mJob (.mmas c 3 0 1 6) .matrix [] [3, 0, 1, 4, 5]]
def drainJob : Job := mJob (.mdrain c 0 true false 0 2 3 6) .matrix [0] [2, 3]
def fmaJob : Job := jobOf (.tfma c 0 1 2) (elementwiseDraft 0 1 2 true (en th0 tmH)) .running
theorem witness_JobResults_more :
    (∀ j ∈ copyJobs ++ floatJobs ++ productJobs ++ [drainJob], Works (stH th0 [j] tmM) 0 j (en th0 tmM) 0) ∧
    Works (stH th0 [fmaJob]) 0 fmaJob (en th0 tmH) 0 ∧
    (∀ i, i < 3 → fmaJob.held ((stH th0 [fmaJob]).core 0) i ∧ efInt (fmaJob.h i).ef = true) ∧
    (∀ j ∈ copyJobs, ∀ i, i < 2 → j.held ((stH th0 [j] tmM).core 0) i) ∧
    (copyJobs.map (fun j => (j.h 0).lay == 0 && (j.h 1).ef == (j.h 0).ef) = [true, false] ∧
      copyJobs.all (fun j => decide ((rectOf (j.cap 0)).inside (j.h 0))) = true) ∧
    (∀ j ∈ floatJobs, ∀ i, i < 2 → j.held ((stH th0 [j] tmM).core 0) i) ∧
    (∀ j ∈ floatJobs.take 3 ++ floatJobs.drop 5, j.held ((stH th0 [j] tmM).core 0) 2) ∧
    ((floatJobs.take 5).all (fun j => efFloat (j.h 0).ef) = true ∧ 0 < (tmM.handle 2).cols) ∧
    (∀ j ∈ productJobs, 0 < j.width ∧ (find? ((stH th0 [j] tmM).core 0).tiles (j.h 0).uid).isSome = true ∧ (j.h 0).cols ≤ 256) ∧
    (0x0000000000000001 < 2 ^ 63 ∧ (tmM.handle 4).lvl ≠ 2 ∧ (tmM.handle 5).lvl ≠ 2) ∧
    (drainJob.held ((stH th0 [drainJob] tmM).core 0) 0 ∧ colOf 0 + (drainJob.h 1).cols ≤ (drainJob.h 0).cols ∧
      drainJob.parts ≤ drainJob.part + 1 ∧ (find? ((stH th0 [drainJob] tmM).core 0).tiles (drainJob.h 1).uid).isSome = true) := by
  refine ⟨?_, works (by decide +kernel) rfl, by unfold Job.held; decide +kernel, by unfold Job.held; decide +kernel, by decide +kernel,
    by unfold Job.held; decide +kernel, by unfold Job.held; decide +kernel, by decide +kernel, by decide +kernel, by decide +kernel,
    by unfold Job.held; decide +kernel, by decide +kernel⟩
  intro j hj
  simp only [copyJobs, floatJobs, productJobs, List.mem_append, List.mem_cons, List.not_mem_nil, or_false] at hj
  rcases hj with ((((rfl | rfl) | (rfl | rfl | rfl | rfl | rfl | rfl)) | (rfl | rfl | rfl)) | rfl) <;> exact works (by decide +kernel) rfl

/-! Fetch units. -/

/-- The page table of Bench.lean maps the addresses below 2^30 to themselves. -/
def tableThere (s : State) : Bool := homeRead s 0x1000 8 == 0x2003 && homeRead s 0x2000 8 == 0x3003 && homeRead s 0x3000 8 == 0x1D
theorem bench_xlat {s : State} {e : Env} {va : Nat} {n : Need} (h : tableThere s = true) (hr : e.la.asp.root = 0x1000)
    (hv : va < 2 ^ 30) (hn : n = .r ∨ n = .w) : e.xlat s va n = .ok ⟨0, va, 0x3000, 0x1D, pageKey e.la.asp.asn 0, 2 ^ 30⟩ := by
  simp only [tableThere, Bool.and_eq_true, beq_iff_eq] at h
  obtain ⟨⟨h1, h2⟩, h3⟩ := h
  have v0 : vaIndex 0 va = 0 := by simp only [vaIndex]; omega
  have v1 : vaIndex 1 va = 0 := by simp only [vaIndex]; omega
  have v2 : vaIndex 2 va = 0 := by simp only [vaIndex]; omega
  have w : walk s e.la.asp va = .page ⟨0, va, 0x3000, 0x1D, pageKey e.la.asp.asn 0, 2 ^ 30⟩ := by
    have w2 : walkFrom s 3 2 0x3000 va = .page ⟨0, va, 0x3000, 0x1D, 0, 2 ^ 30⟩ := by
      rw [walkFrom, v2, h3]
      simp [leafBad, leafSize]
      omega
    have w1 : walkFrom s 4 1 0x2000 va = .page ⟨0, va, 0x3000, 0x1D, 0, 2 ^ 30⟩ := by
      rw [walkFrom, v1, h2]
      simp [tableBad, w2]
    have w0 : walkFrom s 5 0 0x1000 va = .page ⟨0, va, 0x3000, 0x1D, 0, 2 ^ 30⟩ := by
      rw [walkFrom, v0, h1]
      simp [tableBad, w1]
    rw [walk, hr, w0]
  rw [Env.xlat, Machine.translate, w]
  have a : allows 0x1D n = true := by rcases hn with rfl | rfl <;> decide
  have b : (!allows 0x1D n) = false := by rw [a]; rfl
  show (if (!allows 0x1D n) = true then _ else _) = _
  rw [b]; rfl

/-- The bytes of some regions are reachable, by evaluation. -/
theorem reachable {s : State} {e : Env} {n : Need} {dest : Region → Option Nat} {rs : List Region} (ht : tableThere s = true)
    (hr : e.la.asp.root = 0x1000) (hn : n = .r ∨ n = .w)
    (h : rs.all (fun r => match r with | .mem _ _ hi => decide (hi < 2 ^ 30) | _ => true) = true) : Reachable s e n dest rs := by
  intro asn lo hi hm va h1 h2
  have hi := of_decide_eq_true (List.all_eq_true.mp h _ hm)
  have h3 : va % 2 ^ 57 = va := by omega
  rw [h3]
  refine ⟨_, bench_xlat ht hr (by omega) hn, ?_, fun _ => ⟨rfl, ?_⟩⟩
  · simp only [Phys.hole, physOk, tier1, Bool.and_eq_false_imp, Bool.not_eq_false']
    intro _; simp; omega
  · simp only [tier1, decide_eq_true_eq]; omega

/-- A draft whose regions lie in tile storage and below 2^30 is admitted, by evaluation. -/
theorem admitsBench {s : State} {e : Env} {d : Draft} (h : (tableThere s && e.la.asp.root == 0x1000 && !e.la.smm &&
      (d.reads ++ d.writes).all (fun r => match r with | .mem _ _ hi => decide (hi < 2 ^ 30) | _ => true)) = true) : AdmitsJob s e d := by
  simp only [Bool.and_eq_true, Bool.not_eq_true', beq_iff_eq, List.all_append] at h
  obtain ⟨⟨⟨h1, h2⟩, h3⟩, h4, h5⟩ := h
  exact ⟨reachable h1 h2 (.inl rfl) h4, reachable h1 h2 (.inr rfl) h5, .inr h3⟩

/-- Handles of the fetch unit and of Currant's jobs: a bound view of FP32, and what `fgett` and `kpack` need. -/
def tmF : Team := { tmH with
  handles := tmH.handles ++ [(10, view 1 4 1 0x9600), (11, ⟨shape 4 4 1 0, 0, 1, 4⟩), (12, view 1 4 11 0x9700), (13, view 1 4 14 0x9800)]
  binds := [(10, 0)] }
def thFx (x : Word) (y : Word := 0) : Thread := regs th0 [(2, x), (3, y)]
def stF (th : Thread := th0) : State := stH th [] tmF

/-- FetchUnits, `fbind`: a view of FP32 for slot 0; a handle in use. -/
def dF : DWord := (view 1 4 1 0).shape
def thB : Thread := regs th0 [(2, dF.setWidth 32), (3, (dF >>> 32).setWidth 32), (4, 0x9600)]
theorem witness_FetchUnits_bind : Ready (stF thB) { settled := true } c [4, 5, 2, 3] (stF thB) (en thB tmF) ∧
    slotEF (la0.fs 0) ≠ 0 ∧ (stF thB).env (stF thB).cur = some (en thB tmF) ∧
    (tmF.handle? 9 = none ∧ shapeRefused la0 2 dF = false ∧ pairNat thB.read 4 % 16 = 0 ∧ shLay dF = 0 ∧ shEF dF = slotEF (la0.fs 0) ∧
      slotSF (la0.fs 0) = 0) ∧ tmF.handle? 0 ≠ none :=
  ⟨atOnce rfl rfl (by decide +kernel), by decide +kernel, rfl,
    ⟨by decide +kernel, by decide +kernel, by decide +kernel, by decide +kernel, by decide +kernel, by decide +kernel⟩, by decide +kernel⟩

/-- FetchUnits, `fget`: element (0, 3) of the bound view issues, and returns; element (0, 4) fails. -/
def eF (x : Word) : Env := en (thFx x) tmF
def spF : List (Nat × Nat) :=
  fgetFirst (tmF.handle 10) (la0.fs 0) 3 ++ (fgetRest (stF (thFx 3)) (eF 3) (tmF.handle 10) (la0.fs 0) 3).1
def pF (i : Nat) : Phys := ⟨0, 0x960C + i, 0x3000, 0x1D, 0, 0x40000000⟩
def aF : Access := mkAccess (stF (thFx 3)) (eF 3) (.fget 10 3 4 spF) (spF.headD (0, 0)).1 1 0 [pF 0, pF 1, pF 2, pF 3] c.h c.k (some 0)
def thR : Thread := { thFx 3 with accs := [aF] }
theorem witness_FetchUnits_get : (∀ x ∈ ([3, 4] : List Word), Ready (stF (thFx x)) Mode.counted c [2, 4] (stF (thFx x)) (eF x)) ∧
    ((tmF.handle 10).rows > rowOf 3 ∧ (tmF.handle 10).cols > colOf 3 ∧ (tmF.handle 10).cols ≤ colOf 4 ∧ (eF 3).bound? 10 = some 0) ∧
    (∀ sp ∈ [spF, fgetFirst (tmF.handle 10) (la0.fs 0) 3],
      ∀ k, xlatBytes (stF (thFx 3)) (eF 3) k (spanBytes sp) [] = k [pF 0, pF 1, pF 2, pF 3]) ∧
    (∀ p ∈ spF, schedMiss (eF 3).la (eF 3).tm p.1 p.2 = false) ∧
    spansWait (stF (thFx 3)) (eF 3) (fgetFirst (tmF.handle 10) (la0.fs 0) 3) = false ∧ spansWait (stF (thFx 3)) (eF 3) spF = false ∧
    requestsFull (stF (thFx 3)) 0 = false ∧ ((tmF.handle 10).lay = 0 ∧ slotSF (la0.fs 0) = 0 ∧ (tmF.handle 10).ef = slotEF (la0.fs 0)) ∧
    Outstanding (stF thR) 0 (en thR tmF) aF ∧ behindCommand (stF thR) (en thR tmF) aF = false ∧
    (∃ t1 v, pullRange (stF thR) (en thR tmF) (.damson c.h) (aF.reader (stF thR) (en thR tmF) 0) 0x960C 4 = .ok t1 v) := by
  refine ⟨?_, by decide +kernel, ?_, by decide +kernel, by decide +kernel, by decide +kernel, by decide +kernel, by decide +kernel,
    ⟨rfl, by decide +kernel, by decide +kernel⟩, by decide +kernel, of_gotOk (by decide +kernel)⟩
  swap
  · intro sp hs
    simp only [List.mem_cons, List.not_mem_nil, or_false] at hs
    rcases hs with rfl | rfl <;> exact fun k => rfl
  intro x hx
  simp only [List.mem_cons, List.not_mem_nil, or_false] at hx
  rcases hx with rfl | rfl <;> exact atOnce rfl rfl (by decide +kernel)

/-- FetchUnits, the engine jobs: their conditions hold, and their regions are reachable. -/
theorem witness_FetchUnits_jobs :
    (let e := eF 0
     let d := fgettDraft 11 10 8 2 e
     Ready (stF (thFx 0)) engineMode c [2, 3] (stF (thFx 0)) e ∧ AdmitsJob (stF (thFx 0)) e d ∧
     (e.bound? 10 ≠ none ∧ tmF.handle? 8 ≠ none ∧ (tmF.handle 8).lay = 0 ∧ (tmF.handle 8).ef = 14 ∧ 0 < (tmF.handle 8).elems) ∧
     (tmF.handle? 11 ≠ none ∧ (tmF.handle 11).lvl = 0 ∧ (tmF.handle 11).lay = 0 ∧ 0 < (tmF.handle 11).rows ∧
       (tmF.handle 10).cols ≤ (tmF.handle 11).cols ∧ slotSF (la0.fs 0) = 0 ∧ (tmF.handle 11).ef = slotEF (la0.fs 0))) ∧
    (∀ p ∈ [(4, 5, 6, BitVec.ofNat 32 (7 + 2 ^ 8 * 8)), (4, 6, 8, BitVec.ofNat 32 (12 + 2 ^ 8 * 13))],
      let e := eF p.2.2.2
      let d := currantDraft e (e.th.read 2) p.2.1 [p.1, p.2.2.1]
      Ready (stF (thFx p.2.2.2)) engineMode c [2] (stF (thFx p.2.2.2)) e ∧
      (∀ n ∈ [p.1, p.2.1, p.2.2.1, ksHt p.2.2.2, ksHx p.2.2.2], tmF.handle? n ≠ none ∧ (tmF.handle n).lay = 0 ∧ (tmF.handle n).lvl ≠ 3) ∧
      [p.1, p.2.1, p.2.2.1, ksHt p.2.2.2, ksHx p.2.2.2].Nodup ∧ AdmitsJob (stF (thFx p.2.2.2)) e d) := by
  refine ⟨⟨atOnce rfl rfl (by decide +kernel), admitsBench (by decide +kernel), by decide +kernel⟩, ?_⟩
  intro p hp
  simp only [List.mem_cons, List.not_mem_nil, or_false] at hp
  rcases hp with rfl | rfl <;>
    exact ⟨atOnce rfl rfl (by decide +kernel), by decide +kernel, by decide +kernel,
      admitsBench (by decide +kernel)⟩

/-! Work distribution. -/

/-- WorkDistribution: one tile of two chunks over two teams; a table read, one being read by another thread and by none,
no groups, a failed snapshot; team 0's piece. -/
def tab : List Group := [(4, 4, 64)]
def laW (d : Dist) : Launch := { laSet 0 0x200000100 (laSet 0x90 0x9000 (laSet 0x98 1 (laSet 0xF0 0xA0000))) with dist := d }
def dist0 : Dist := ⟨none, some tab, none, [], [], []⟩
def dist1 : Dist := ⟨none, some tab, none, [(0, 1)], [], []⟩
def distR (r : Option Nat) (f : Option TrapInfo := none) : Dist := ⟨r, none, f, [], [], []⟩
def pieceD : DWord := 0x4000000000000001
def thW : Thread := regs th0 [(2, pieceD.setWidth 32), (3, (pieceD >>> 32).setWidth 32)]
theorem witness_WorkDistribution :
    ((0 : Nat) < 2 ∧ teamLo (totalSteps tab) 2 0 ≤ 0 ∧ 0 < teamLo (totalSteps tab) 2 1 ∧ teamLo (totalSteps tab) 2 1 ≤ 1 ∧
      1 < teamLo (totalSteps tab) 2 2) ∧
    (∀ la ∈ [laW dist0, laW dist1, laW (distR none (some (trapOf 0x0C 0))), laW (distR none), laW (distR (some 5)), la0],
      Ready (st th0 tm0 la) { settled := true, long := true } c [4, 5] (st th0 tm0 la) (en th0 tm0 la)) ∧
    ((laW dist0).ng ≠ 0 ∧ (laW dist0).preempt = none ∧ (laW dist0).dist.table = some tab ∧
      (∃ p, pieceAt tab (laW dist0).nteam 0 (findD dist0.pos 0 (teamLo (totalSteps tab) 2 0)) = some p) ∧
      pieceAt tab (laW dist0).nteam 0 (findD dist1.pos 0 0) = none) ∧ la0.ng = 0 ∧
    ((distR none).busy 0 = false ∧ (5 : Nat) ≠ 0) ∧
    (∃ s3 t, snapshot (acquire (st th0 tm0 (laW (distR none))) 0) (en th0 tm0 (laW (distR none))) 0 1 = .ok s3 t) ∧
    (let s := stH thW [] tmH (laW dist1)
     let e := en thW tmH (laW dist1)
     Ready s engineMode c [2, 3, 4] s e ∧ (tmH.handle? 3 ≠ none ∧ (tmH.handle 3).lvl = 3) ∧
     ∃ q, issuedPiece (laW dist1) 0 pieceD = some q ∧ pieceArrived s e q = false ∧
       AdmitsJob s e ⟨.matrix, [pieceD], [tmH.handle 3], [.tile 3 0 0 4 4 none, .mem 0 0xA1000 0xE1000],
         [.tile 3 0 0 4 4 none, .mem 0 0xA1000 0xE1000], fun _ => none, false, false⟩) := by
  refine ⟨by decide +kernel, ?_, ⟨by decide +kernel, rfl, rfl, ⟨_, rfl⟩, by decide +kernel⟩, by decide +kernel, by decide +kernel,
    ⟨_, _, rfl⟩, atOnce rfl rfl (by decide +kernel), by decide +kernel, _, rfl, by decide +kernel, admitsBench (by decide +kernel)⟩
  intro la hla
  simp only [List.mem_cons, List.not_mem_nil, or_false] at hla
  rcases hla with rfl | rfl | rfl | rfl | rfl | rfl <;> exact atOnce rfl rfl (by decide +kernel)

/-- JobResults, `wfix`: the part of team 0, the other part not there, there with another shape, and there with the same. -/
def fixJob : Job := jobOf (.wfix c 4 3 2) ⟨.matrix, [pieceD], [tmH.handle 3], [.tile 3 0 0 4 4 none, .mem 0 0xA1000 0xE1000],
  [.tile 3 0 0 4 4 none, .mem 0 0xA1000 0xE1000], fun _ => none, false, false⟩ .running
def distF (arrived : List (Nat × Nat × Nat)) (d : DWord) : Dist := ⟨none, some tab, none, [(0, 1)], arrived, [(2, d)]⟩
def pieces : List (Nat × Piece) := tilePieces tab 2 ((issuedPiece (laW dist1) 0 pieceD).getD ⟨0, ⟨0, 0, 0, 0, 0⟩, 0, 0⟩).tile
def onPages (x : Pages) : Bool := match x with | .ok => true | _ => false
theorem of_onPages {x : Pages} (h : onPages x = true) : x = .ok := by
  cases x <;> first | rfl | cases h
theorem witness_JobResults_wfix :
    (∀ d ∈ [distF [] 0, distF [(0, 1, 1)] 0, distF [(0, 1, 1)] (shape 4 4 14 0)], let la := laW d
      let s := stH th0 [fixJob] tmH la
      (s.core 0).job? fixJob.id = some fixJob ∧ s.env fixJob.thread = some (en th0 tmH la) ∧ fixJob.caps.length ≤ 1 ∧
      fixJob.pages s (en th0 tmH la) = .ok ∧ (s.core 0).fenced ≠ 0xF ∧ (s.core 0).chunks < 1024 ∧
      (issuedPiece la 0 (fixJob.cap 0)).isSome = true) ∧
    (pieces.length = 2 ∧ (pieces.filter (fun q => q.2.lo != 0)).length = 1 ∧
      pieces.all (fun q => q.2.lo == 0 || ((0, 1, 1) : Nat × Nat × Nat) == (0, q.2.lo, q.1) && fixSlot tab 2 q.1 q.2 == 2) = true) ∧
    partWaits (stH th0 [fixJob] tmH (laW (distF [] 0))) (en th0 tmH (laW (distF [] 0))) (slotAddr (laW (distF [] 0)) 0) (fixJob.h 0) = false ∧
    ¬(shRows 0 = (fixJob.h 0).rows ∧ shCols 0 = (fixJob.h 0).cols ∧ shEF 0 = (fixJob.h 0).ef) ∧
    (shRows (shape 4 4 14 0) = (fixJob.h 0).rows ∧ shCols (shape 4 4 14 0) = (fixJob.h 0).cols ∧ shEF (shape 4 4 14 0) = (fixJob.h 0).ef) ∧
    (let la := laW (distF [(0, 1, 1)] (shape 4 4 14 0))
     let s := stH th0 [fixJob] tmH la
     ∃ s1 rows, partsRows s (en th0 tmH la) fixJob 4 4 [slotAddr la 2] = .ok s1 rows) := by
  refine ⟨?_, by decide +kernel, by decide +kernel, by decide +kernel, by decide +kernel, of_gotOk (by decide +kernel)⟩
  intro d hd
  simp only [List.mem_cons, List.not_mem_nil, or_false] at hd
  rcases hd with rfl | rfl | rfl <;> exact ⟨by decide +kernel, rfl, by decide +kernel, of_onPages (by decide +kernel), by decide +kernel⟩

/-! Row operations, context switches and save areas. -/

/-- Something that is there, by evaluation. -/
theorem of_isSome {α : Type} {o : Option α} (h : o.isSome = true) : ∃ x, o = some x := Option.isSome_iff_exists.mp h

/-- RowOperations, the units: four rows of one subarray; a destination that is not aligned, one outside the table, one of
host memory, and an operand of another subarray. -/
def thRow (d a : Word) (hi : Word := 0) : Thread := regs th0 [(2, d), (3, hi), (4, a), (6, 0x1008000), (8, 0x1808000)]
def dRow (va : Nat) : Phys := ⟨0, va, 0x3000, 0x1D, 0, 2 ^ 30⟩
theorem witness_RowOperations_issue :
    (∀ p ∈ ([(0x8000, 0x808000, 0), (0x8001, 0x808000, 0), (0x8000, 0x8400, 0), (0x8000, 0x808000, 0x2000000)] : List (Word × Word × Word)),
      let th := thRow p.1 p.2.1 p.2.2
      Ready (st th) Mode.counted c (([2, 4, 6, 8] : List Reg).flatMap (fun r => [r, r + 1])) (st th) (en th)) ∧
    (∀ p ∈ ([(2, .w, 0x8000), (4, .r, 0x808000), (6, .r, 0x1008000), (8, .r, 0x1808000)] : List (Reg × Need × Nat)),
      let e := en (thRow 0x8000 0x808000)
      pairNat e.th.read p.1 = p.2.2 ∧ p.2.2 % 1024 = 0 ∧ p.2.2 < 2 ^ 57 ∧ e.xlat (st e.th) p.2.2 p.2.1 = .ok (dRow p.2.2) ∧
      tier1 (dRow p.2.2).pa = true ∧ p.2.2 / 2 ^ 32 % 2 ^ 7 = 0 ∧ p.2.2 / 2 ^ 10 % 2 ^ 13 = 32) ∧
    (0x8400 / 2 ^ 10 % 2 ^ 13 ≠ 32 ∧ pairNat (thRow 0x8001 0).read 2 % 1024 ≠ 0 ∧ 2 ^ 57 ≤ pairNat (thRow 0x8000 0 0x2000000).read 2) ∧
    (∃ q, (en (thRow 0x8000 0)).xlat stHost 0x8000 .w = .ok q ∧ q.tgt ≠ 0) := by
  refine ⟨?_, ?_, ⟨by decide, by decide +kernel, by decide +kernel⟩,
    ⟨⟨1, 5 * 65536 + 0x8000, 0x3000, 0x200000000000001D, 0, 0x40000000⟩, by decide +kernel, by decide⟩⟩
  · intro p hp
    simp only [List.mem_cons, List.not_mem_nil, or_false] at hp
    rcases hp with rfl | rfl | rfl | rfl <;> exact atOnce rfl rfl (by decide +kernel)
  · intro p hp
    simp only [List.mem_cons, List.not_mem_nil, or_false] at hp
    rcases hp with rfl | rfl | rfl | rfl <;>
      exact ⟨by decide +kernel, by decide, by decide, by decide +kernel, by decide +kernel, by decide, by decide⟩

/-- RowOperations, the bank: a request of each operation that has arrived and waits for its bank, one that has yet to arrive,
alone and behind one of a lower LANE, one that has started, and a job at the bank. -/
def aRow (op : BitVec 3) (n : Nat) (started : Bool) (arrived : Option Nat := some 0) : Access :=
  ⟨0, 0, 0x4000, .rowop op ([0x808000, 0x1008000, 0x1808000].take n), 0x8000, 1024, 7,
    dRow 0x8000 :: [dRow 0x808000, dRow 0x1008000, dRow 0x1808000].take n, 0, false, 0, true, false, false, arrived, started, some 0, [], none⟩
def thRq (a : Access) : Thread := { th0 with accs := [a], nextAcc := 1, nextSeq := 1, flags := [(0, 1)] }
def thRow1 : Thread := thRq (aRow 1 2 false none)
def bankJob : Job := { jobOf (.tcopy c 4 6 2 4) (tcopyDraft 4 6 2 4 (en th0 tmH)) .running with bank := true }
theorem witness_RowOperations_bank :
    (∀ p ∈ ([(0, 3), (1, 2), (2, 2), (3, 1), (4, 1)] : List (BitVec 3 × Nat)), let a := aRow p.1 p.2 false
      (st (thRq a)).env 0 = some (en (thRq a)) ∧ (thRq a).acc? a.id = some a ∧ a.commit = true ∧ a.moved = false ∧
      (thRq a).inOrder a = true ∧ (a.phys.drop 1).length = p.2 ∧ a.arrived = some 0 ∧
      queuedBefore (st (thRq a)) 0 (bankCoreOf (dRow 0x8000).pa) = false) ∧
    find? (st th0).tickets 513 = none ∧ (st th0).badBanks = [] ∧
    ((aRow 1 2 false none).arrived = none ∧ rowLaneFirst (st thRow1) 0 (aRow 1 2 false none) = false ∧
      rowLaneFirst { st thRow1 with threads := [(0, thRow1), (1, thRow1)] } 1 (aRow 1 2 false none) = true ∧
      thRow1.inOrder (aRow 1 2 false none) = true) ∧
    ((st (thRq (aRow 1 2 true))).env 0 = some (en (thRq (aRow 1 2 true))) ∧ (aRow 1 2 true).started = true ∧
      (thRq (aRow 1 2 true)).acc? 0 = some (aRow 1 2 true) ∧ (1 : BitVec 4) ≠ 4) ∧
    Passes (st th0) { settled := true, long := true } c (en th0) ∧
    (let s := st (thRq { aRow 1 2 false with kind := .cclean }); s.env 0 = some (en (thRq { aRow 1 2 false with kind := .cclean })) ∧
      Passes s { settled := true, long := true } c (en (thRq { aRow 1 2 false with kind := .cclean }))) ∧
    (let s := stH th0 [bankJob]
     s.env 0 = some (en th0 tmH) ∧ (s.core (tCore 0)).jobs.find? (fun x => x.id == bankJob.id && x.thread == 0 && x.bank) = some bankJob ∧
       bankJob.state = .running ∧ bankJob.nextPart = some 0 ∧
       bankJob.target 0 0 = .mem 0 0x9000 0x9004 :: [] ∧ (en th0 tmH).xlat s 0x9000 .w = .ok p9) ∧
    (∃ row, ((bankJob.target 0 0).flatMap (·.dramRows))[(Config.freeWord 0).toNat % ((bankJob.target 0 0).flatMap (·.dramRows)).length]? = some row) := by
  refine ⟨?_, by decide +kernel, rfl, by decide +kernel, ⟨rfl, by decide +kernel⟩, gate rfl (by decide +kernel),
    ⟨rfl, gate rfl (by decide +kernel)⟩, ⟨rfl, by decide +kernel, rfl, by decide +kernel, by decide +kernel, by decide +kernel⟩, ?_⟩
  swap
  · rw [show (bankJob.target 0 0).flatMap (·.dramRows) = [36] by decide +kernel]
    exact ⟨36, by simp [Nat.mod_one]⟩
  intro p hp
  simp only [List.mem_cons, List.not_mem_nil, or_false] at hp
  rcases hp with rfl | rfl | rfl | rfl | rfl <;> exact ⟨rfl, by decide +kernel⟩

/-- A thread of a team of the service core 256, and one of a handler. -/
def tFw : Nat := 256 * 2048
def stFw (th : Thread) (other : Team := { tm0 with halted := true, saving := true }) : State :=
  { State.reset with
    threads := [(0, th0), (tFw, th)], cores := [(0, { Core.reset with teams := [(0, other)] }), (256, { Core.reset with teams := [(0, benchTeam true)] })]
    launches := [(0, la0)], dram := benchMemory [] 0, cur := tFw, config := { State.reset.config with cores := [0], dies := 0xF } }
def enFw (th : Thread) : Env := ⟨tFw, th, benchTeam true, la0⟩
def thCtx (r : List (Nat × Word)) : Thread := { regs th0 r with inh := true }
def tmHalt : Team := { tm0 with halted := true }
/-- Such a team whose own words no longer execute. -/
def tmStill : Team := { tmHalt with quieting := true }
/-- Registers of the units: x4 the area, x6 the room, x8 the destination, x10 the result. -/
def rCtx (area room core : Word) : List (Nat × Word) := [(4, area), (6, room), (8, core)]
def areaOk (a : Area) : Bool := match a with | .ok _ => true | _ => false
theorem of_areaOk {a : Area} (h : areaOk a = true) : ∃ ps, a = .ok ps := by
  cases a <;> first | exact ⟨_, rfl⟩ | cases h

/-- A state whose page is one of the host's, with its translation. -/
def stArea (th : Thread) (tm : Team) : State := { st th tm with
  dram := Memory.writeN (benchMemory [] 0) 0x3000 8 0x200000000000001D, atc := [⟨0, 0, 0, ⟨5, true, true⟩⟩] }

/-- FirmwareAndContextUnits, `ctxsave` and `ctxsave.team`: privileged and not; an area that is not aligned; room that is too
little, and enough with its pages there; a team that still executes, and one that does not; publications to wait for, and
none left; a slot without a team. -/
theorem witness_FirmwareAndContextUnits_save :
    (Passes (st th0) { settled := true, long := true } c (en th0) ∧ th0.inh = false ∧ tm0.firmware = false) ∧
    (∀ r ∈ [rCtx 0x9004 0 0, rCtx 0x9000 0 0, rCtx 0x9000 0x100000 0], let th := thCtx r
      Passes (st th tmHalt) { settled := true, long := true } c (en th tmHalt) ∧
      Reads (st th tmHalt) (en th tmHalt) [4, 5, 6, 10] (st th tmHalt) (en th tmHalt)) ∧
    (let th := thCtx (rCtx 0x1000 0x100000 0)
     let s := stArea th tmHalt
     Passes s { settled := true, long := true } c (en th tmHalt) ∧ Reads s (en th tmHalt) [4, 5, 6, 10] s (en th tmHalt) ∧
     areaOk (areaPages s (en th tmHalt) .w 0x1000 ((viewOf s 0 tmHalt la0 (some 0)).size / 4096)) = true ∧ tmHalt.quieting = false) ∧
    (let s := stArea (thCtx (rCtx 0x1000 0x100000 0)) tmStill
     let e := en (thCtx (rCtx 0x1000 0x100000 0)) tmStill
     let v := viewOf s 0 tmStill la0 (some (tTid 0))
     Passes s { settled := true, long := true } c e ∧ Reads s e [4, 5, 6, 10] s e ∧ 0 < v.size ∧ v.size ≤ 0x100000 ∧ heldWfix s 0 tmStill = [] ∧
     teamQuiet s 0 tmStill = true ∧ chkOk (backChecks s e ((teamTids tmStill).map (threadOf 0))) = true ∧ teamSpills s 0 tmStill = false ∧
     e.th.wait = .none ∧ (release s 0).2 = [] ∧
     (match areaPages s e .w 0x1000 (v.size / 4096) with
       | .ok ps => !saveWaits s 0 ps && (let s3 := keepStatus ((teamTids tmStill).foldl (fun s i => spillAll s (threadOf 0 i)) (release s 0).1) 0 tmStill
           (((writeArea s3 (viewOf s3 0 ((s3.team? 0).getD tmStill) la0 (some 0)) ps).quiet 0 false).env 0).isSome)
       | _ => false) = true) ∧
    (let th : Thread := { thCtx (rCtx 0x1000 0x100000 0) with wait := .fence false [3] }
     let s := stArea th tmStill
     Passes s { settled := true, long := true } c (en th tmStill) ∧ Reads s (en th tmStill) [4, 5, 6, 10] s (en th tmStill) ∧
     (∀ p ∈ s.pubs, p.id ∉ [3])) ∧
    (let th := thCtx (rCtx 0x1000 0x100000 0)
     let s := { stArea th tmStill with cores := [(0, { Core.reset with teams := [(0, tmStill)], l1 := [(0x120, line9 1 true)] })] }
     Passes s { settled := true, long := true } c (en th tmStill) ∧ Reads s (en th tmStill) [4, 5, 6, 10] s (en th tmStill) ∧
     teamQuiet s 0 tmStill = true ∧ (∃ s2 i ids, release s 0 = (s2, i :: ids)) ∧
     (match areaPages s (en th tmStill) .w 0x1000 ((viewOf s 0 tmStill la0 (some 0)).size / 4096) with
       | .ok ps => !saveWaits s 0 ps | _ => false) = true) ∧
    (∀ r ∈ [rCtx 0x9000 0 1, rCtx 0x9000 0 0, rCtx 0x9000 0x100000 0], let th := regs th0 r
      Passes (stFw th) { settled := true, long := true } c (enFw th) ∧
      Reads (stFw th) (enFw th) [4, 5, 6, 8, 10] (stFw th) (enFw th)) ∧
    (stFw th0).team? 4 = none ∧ (stFw th0).team? 0 = some { tm0 with halted := true, saving := true } ∧
    find? (stFw th0).launches tm0.lid = some la0 := by
  refine ⟨⟨gate rfl (by decide +kernel), rfl, rfl⟩, ?_, ⟨gate rfl (by decide +kernel), reads rfl rfl (by decide +kernel), by decide +kernel⟩,
    ⟨gate rfl (by decide +kernel), reads rfl rfl (by decide +kernel), by decide +kernel⟩,
    ⟨gate rfl (by decide +kernel), reads rfl rfl (by decide +kernel), by decide +kernel⟩,
    ⟨gate rfl (by decide +kernel), reads rfl rfl (by decide +kernel), by decide +kernel, ⟨_, _, _, rfl⟩, by decide +kernel⟩,
    ?_, by decide +kernel, by decide +kernel, rfl⟩
  · intro r hr
    simp only [List.mem_cons, List.not_mem_nil, or_false] at hr
    rcases hr with rfl | rfl | rfl <;> exact ⟨gate rfl (by decide +kernel), reads rfl rfl (by decide +kernel)⟩
  · intro r hr
    simp only [List.mem_cons, List.not_mem_nil, or_false] at hr
    rcases hr with rfl | rfl | rfl <;> exact ⟨gate rfl (by decide +kernel), reads rfl rfl (by decide +kernel)⟩
/-- The same state with its page one of the host's, and a save area at 0x1000 of a team of the launch. -/
def hostPage (s : State) (area : List (Nat × Nat)) : State := { s with
  dram := Memory.writeN (benchMemory [] 0) 0x3000 8 0x200000000000001D
  atc := [⟨0, 0, 0, ⟨5, true, true⟩⟩, ⟨dieOf 256, 0, 0, ⟨5, true, true⟩⟩]
  hostMem := area.foldl (fun m w => Memory.writeN m (5 * 65536 + 0x1000 + w.1) 8 w.2) [] }
def areaW (ident : Nat) (tids : Nat) : List (Nat × Nat) :=
  [(0, 0x144584354), (0x10, 0x9000), (0x18, tids), (0x20, 0x1000), (0x28, 0x9000), (0x30, 0x9000), (0x38, 0x9000), (0x40, 0x9000),
    (0x48, 0x9000), (0x50, 0x9000), (0x58, 0x9000), (0x60, ident)]

/-- FirmwareAndContextUnits, `ctxsave.team` of a halted team with room enough, which still executes its own words, does not, and
whose private lines are being written back. -/
def tmSaved (b : Bool) : Team := { tm0 with halted := true, saving := true, quieting := b }
theorem witness_FirmwareAndContextUnits_saveTeam : ∀ w, w = Wait.none ∨ w = .flush 0 → ∀ b,
    let th : Thread := { regs th0 (rCtx 0x1000 0x100000 0) with wait := w }
    let tm := tmSaved b
    let s := hostPage (stFw th tm) []
    let v := viewOf s 0 tm la0 none
    Passes s { settled := true, long := true } c (enFw th) ∧ Reads s (enFw th) [4, 5, 6, 8, 10] s (enFw th) ∧ s.team? 0 = some tm ∧
    (v.size ≤ 0x100000 ∧
    heldWfix s 0 tm = [] ∧ teamQuiet s 0 tm = true ∧ chkOk (backChecks s (enFw th) ((teamTids tm).map (threadOf 0))) = true ∧
    teamSpills s 0 tm = false ∧ (release s 0).2 = [] ∧
    (match areaPages s (enFw th) .w 0x1000 (v.size / 4096) with
      | .ok ps => !saveWaits s 0 ps &&
          (let s3 := flushPrivate (keepStatus ((teamTids tm).foldl (fun s i => spillAll s (threadOf 0 i)) (s.waitFor tFw .none)) 0 tm) 0
           let tm3 := (s3.team? 0).getD tm
           ((freeSaved (writeArea s3 (viewOf s3 0 tm3 la0 none) ps) 0 tm3).env tFw).isSome)
      | _ => false) = true) := by
  intro w hw b
  rcases hw with rfl | rfl <;> cases b <;> exact ⟨gate rfl (by decide +kernel), reads rfl rfl (by decide +kernel), rfl, by decide +kernel⟩

/-- What `ctxload` finds in an area: 0 it can go on, else the status. -/
def loadStatus (s : State) (e : Env) (own : Option Nat) (f : AreaWords → Nat → Launch → Bool) : Nat :=
  match areaPages s e .r 0x1000 1 with
  | .ok ps =>
    if !headerOk (areaWords s (tCore e.t) ps) then 2
    else match areaPages s e .r 0x1000 (areaSize (areaWords s (tCore e.t) ps) / 4096) with
    | .ok all => match checkArea s (areaWords s (tCore e.t) all) own with
      | .ok lid la => if f (areaWords s (tCore e.t) all) lid la then 0 else 9
      | .status n => n
    | _ => 9
  | _ => 9

/-- The team of that area stands on core 0, whichever start cluster the core chooses. -/
def thL : Thread := regs th0 (rCtx 0x1000 0 0)
def sL : State := hostPage (stFw thL) (areaW 0 32)
def psL : List Phys := (List.range 9).map (fun i => ⟨1, 5 * 65536 + 0x1000 + 4096 * i, 0x3000, 0x200000000000001D, 0, 2 ^ 30⟩)
theorem load_env : ((loadTeam sL (areaWords sL 256 psL) 0 0 la0).env tFw).isSome = true := by
  unfold loadTeam
  have h : fittingClusters (sL.core 0) la0.ngrp = [0, 1, 2, 3] := by decide +kernel
  simp only [h]
  have hm := Nat.mod_lt (Config.freeWord sL.free).toNat (show 0 < ([0, 1, 2, 3] : List Nat).length by decide)
  generalize (Config.freeWord sL.free).toNat % ([0, 1, 2, 3] : List Nat).length = m at hm ⊢
  match m, hm with
  | 0, _ | 1, _ | 2, _ | 3, _ => decide +kernel

/-- FirmwareAndContextUnits, `ctxload` and `ctxload.team`: an area without a header, of another launch, with too few threads,
and one that is restored; a core without room. -/
theorem witness_FirmwareAndContextUnits_load :
    (∀ a ∈ [[], areaW 7 32, areaW 0 0, areaW 0 32],
      (let th := thCtx (rCtx 0x1000 0 0)
       let s := hostPage (st th tmHalt) a
       Passes s { settled := true, long := true } c (en th tmHalt) ∧ Reads s (en th tmHalt) [4, 5, 10] s (en th tmHalt)) ∧
      ∀ core ∈ ([0, 1] : List Word),
        let th := regs th0 (rCtx 0x1000 0 core)
        let s := hostPage (stFw th) a
        Passes s { settled := true, long := true } c (enFw th) ∧ Reads s (enFw th) [4, 5, 8, 10] s (enFw th)) ∧
    (let th := thCtx (rCtx 0x1000 0 0)
     let at_ (a : List (Nat × Nat)) := loadStatus (hostPage (st th tmHalt) a) (en th tmHalt) (some 0)
     at_ [] (fun _ _ _ => true) = 2 ∧ at_ (areaW 7 32) (fun _ _ _ => true) = 3 ∧ at_ (areaW 0 0) (fun _ _ _ => true) = 2 ∧
     at_ (areaW 0 32) (fun a _ _ => ownRoom ((hostPage (st th tmHalt) []).core 0) tmHalt (areaHandles a) && teamQuiet (st th tmHalt) 0 tmHalt
       && !jobsFull ((hostPage (st th tmHalt) []).core 0) (fun j => teamKey j.thread != 0) (jobRecords a).length) = 0 ∧
     chkOk (backChecks (hostPage (st th tmHalt) (areaW 0 32)) (en th tmHalt) ((teamTids tmHalt).map (threadOf 0))) = true ∧
     teamSpills (hostPage (st th tmHalt) (areaW 0 32)) 0 tmHalt = false) ∧
    loadStatus sL (enFw thL) none (fun a _ la => !loadRoom sL 1 la (areaHandles a)) = 0 ∧
    loadStatus sL (enFw thL) none (fun a _ la => loadRoom sL 0 la (areaHandles a) && decide ((sL.core 0).jobs.length + (jobRecords a).length ≤ 64)) = 0 ∧
    areaPages sL (enFw thL) .r 0x1000 9 = .ok psL ∧ ∃ e4, (loadTeam sL (areaWords sL 256 psL) 0 0 la0).env tFw = some e4 := by
  refine ⟨?_, by decide +kernel, by decide +kernel, by decide +kernel, rfl, of_isSome load_env⟩
  intro a ha
  simp only [List.mem_cons, List.not_mem_nil, or_false] at ha
  rcases ha with rfl | rfl | rfl | rfl <;>
    (refine ⟨⟨gate rfl (by decide +kernel), reads rfl rfl (by decide +kernel)⟩, fun core hc => ?_⟩
     simp only [List.mem_cons, List.not_mem_nil, or_false] at hc
     rcases hc with rfl | rfl <;> exact ⟨gate rfl (by decide +kernel), reads rfl rfl (by decide +kernel)⟩)

/-- FirmwareAndContextUnits, `tinv` and `selftest`: a range that drains and one that does not; a bank in use. -/
def rTinv : List (Nat × Word) := [(4, 0), (6, 1)]
theorem witness_FirmwareAndContextUnits_units :
    (let th := regs th0 rTinv
     Passes (stFw th) { settled := true } c (enFw th) ∧ Reads (stFw th) (enFw th) [4, 5, 6, 7] (stFw th) (enFw th) ∧
     Reads (stFw th) (enFw th) [6, 7] (stFw th) (enFw th) ∧ Reads (stFw th) (enFw th) [4, 10] (stFw th) (enFw th) ∧
     (∀ r ∈ [VRange.mk 0 0 65536, VRange.mk 0 0 (2 ^ 57)], draining (stFw th) r = false ∧
       ∀ keep, ∃ e4, (dropRange (stFw th) r keep).env tFw = some e4) ∧
     (∀ b, b < 16 → find? (stFw th).tickets (4 % 2 ^ 9 * 16 + b) = none)) ∧
    Passes (st th0) { settled := true } c (en th0) ∧
    draining { stFw th0 with
      threads := [(0, thAcc .store (dRow 0x9000)), (tFw, th0)]
      pages := [(0x3000, ⟨1, 1, 0, 0, 0x40000000⟩)] } ⟨0, 0, 65536⟩ = true ∧
    find? { stFw th0 with tickets := [(64, 0)] : State }.tickets (4 % 2 ^ 9 * 16 + 0) ≠ none := by
  refine ⟨⟨gate rfl (by decide +kernel), reads rfl rfl (by decide +kernel), reads rfl rfl (by decide +kernel), reads rfl rfl (by decide +kernel),
    ?_, by decide +kernel⟩, gate rfl (by decide +kernel), by decide +kernel, by decide +kernel⟩
  intro r hr
  simp only [List.mem_cons, List.not_mem_nil, or_false] at hr
  rcases hr with rfl | rfl <;> exact ⟨by decide +kernel, fun keep => by cases keep <;> exact of_isSome (by decide +kernel)⟩

/-- SaveAreas: the words of a thread's record, read as an area. -/
theorem witness_SaveAreas : (0 : Nat) % 8 = 0 ∧
    (∀ off, off < 1024 → off % 8 = 0 → (fun n => threadWord th0 true true th0.ctx.pc th0.ctx.crem n : AreaWords) (0 + off) =
      threadWord th0 true true th0.ctx.pc th0.ctx.crem off) ∧
    (∀ k, k < 4 → if th0.ctx.aset.getLsbD k then (th0.ctx.anchor k).toNat % 32 = 0 ∧ (th0.ctx.anchor k).toNat < 2 ^ 57
      else th0.ctx.anchor k = 0) ∧ th0.wait ≠ .lock ∧ th0.xhold = false ∧ th0.param = none ∧ th0.pendTrap = none ∧
    th0.ctx.depth < 2 ^ 32 ∧ th0.ctx.crem < 64 ∧ th0.skid < 32 ∧ (∀ b tok, th0.barWait = some (b, tok) → b < 128) ∧
    ({ th0 with kept := .barrier 5 1, inh := true } : Thread).barWait = some (5, 1) ∧
    th0.ctx.place (3 : Reg) = .lane :=
  ⟨rfl, fun off _ _ => by simp only [Nat.zero_add], by decide +kernel, by decide +kernel, rfl, rfl, rfl, by decide +kernel, by decide +kernel,
    by decide +kernel, fun _ _ h => by simp [th0, benchThread, Thread.barWait] at h, rfl, by decide +kernel⟩

/-! Copies and homes. -/

/-- CoherenceEvents: publications that their home has not written and has written, with room in the registry, with an entry to
recall, and with every entry recalled; a revocation of a word that is under way. -/
def pub0 (acted : Bool) : Pub := ⟨0, 0, 0x120, 0xF, 7, acted, 0, 0, none, 0⟩
def stPub (acted : Bool) (registry : List RegEntry := []) : State := { stL1 0xF true with pubs := [pub0 acted], nextPub := 1, registry := registry }
theorem witness_CoherenceEvents_publications :
    (∀ b r, pub? (stPub b r) (stPub b r).cur = some (pub0 b)) ∧ ((pub0 false).acted = false ∧ (pub0 true).acted = true ∧ (pub0 true).acks = 0) ∧
    (∀ b r, writeWaits (stPub b r) (pub0 b).line = false ∧
      (bytesTaken (stPub b r) (pub0 b).line (pub0 b).mask = false ∧ (pub0 b).queued (stPub b r) = false) ∧
      ∀ q ∈ (stPub b r).pubs, q.core = (pub0 b).core → q.line = (pub0 b).line → (pub0 b).id ≤ q.id) ∧
    registryRoom (stPub false [⟨0x120, 1, 1⟩]) 0 0x120 = .room ∧
    registryRoom (stPub false (List.replicate 4096 ⟨0x120, 1, 1⟩)) 0 0x120 = .recall ⟨0x120, 1, 1⟩ ∧
    registryRoom { stPub false (List.replicate 4096 ⟨0x120, 1, 1⟩) with revs := [⟨0, 1, 0x120, 1, true, none⟩] } 0 0x120 = .full ∧
    find? ((stPub true).core 0).l1 (pub0 true).line = some (line9 0xF true) ∧ (line9 0xF true).shared = true ∧
    (pub0 true).revoking (stPub true) = false ∧ (pub0 true).revoking { stPub true with revs := [⟨0, 1, 0x120, 1, false, none⟩] } = true := by
  have hb : ∀ (b : Bool) r, bytesTaken (stPub b r) 0x120 0xF = false ∧ (pub0 b).queued (stPub b r) = false := fun b r => by
    cases b <;> exact ⟨by unfold bytesTaken siteTaken; simp [stPub, stL1, st, th0, benchThread],
      by unfold Pub.queued; simp [stPub, stL1, st, th0, benchThread]⟩
  refine ⟨fun b r => rfl, by decide +kernel, fun b r => ⟨by rfl, hb b r, fun q hq _ _ => ?_⟩, by decide +kernel, ?_, ?_, by decide +kernel⟩
  · simp only [stPub, List.mem_singleton] at hq; rw [hq]
  all_goals
    simp only [registryRoom, RegEntry.recalled, stPub, List.length_replicate, List.any_replicate, List.filter_replicate, BEq.rfl, if_true,
      List.find?_replicate]
    decide +kernel

/-- CoherenceEvents: revocations and recalls, deadlines, a page to reclassify, and accesses from outside. -/
def stRev (b : Bool) : State := { stL1 0xF true with revs := [⟨0, 0, 0x120, 1, b, none⟩] }
theorem witness_CoherenceEvents_others :
    (∀ b, rev? (stRev b) (stRev b).cur = some ⟨0, 0, 0x120, 1, b, none⟩ ∧ (∀ p ∈ (stRev b).pubs, p.core = 0 → p.line ≠ 0x120) ∧
      writeWaits (stRev b) 0x120 = false ∧ bytesTaken (stRev b) 0x120 (bytesOfMask 1) = false) ∧
    (let s := { stL1 0xF true with clk := 4096 }
     find? (s.core 0).l1 0x120 = some (line9 0xF true) ∧ (line9 0xF true).shared = true ∧ unsent s 0 0x120 (line9 0xF true) ≠ 0 ∧
     (line9 0xF true).loose ≠ 0 ∧ (line9 0xF true).dirtyAt + 4096 ≤ s.clk ∧ (line9 0xF true).cleanAt + 4096 ≤ s.clk) ∧
    (let s := { stL1 0xF false with reclass := [0x3000], cur := 0x3000 }
     s.cur ∈ s.reclass ∧ (∃ x, find? s.pages s.cur = some x ∧ grpInFlight s x.own.toNat s.cur = false ∧
       ∀ e ∈ (s.core x.own.toNat).l1, e.2.pte = s.cur → e.2.dirty = 0 ∨ writeWaits s e.1 = false) ∧
     (classOf s s.cur (BitVec.ofNat 64 (homeRead s s.cur 8))).1 = 1) ∧
    (physOk 0x9000 = true ∧ physOk (2 ^ 40 - 1) = false ∧
     (∀ b, (classOf (stL1 0 b) 0x3000 (BitVec.ofNat 64 (homeRead (stL1 0 b) 0x3000 8))).1 = if b then 2 else 1) ∧
     (classOf (st th0) 0x3000 (BitVec.ofNat 64 (homeRead (st th0) 0x3000 8))).1 = 0 ∧
     homeWaits (stL1 0 true) (0x9000 / 128) = false ∧ siteTaken (stL1 0 true) none 0 0x9000 4 = false ∧
     (revokeOwners (stL1 0 true) 512 (0x9000 / 128) (wordsOf (spanMask 0 4))).1.isSome = true) := by
  refine ⟨fun b => ⟨rfl, fun p hp => by simp [stRev, stL1, st, State.reset] at hp, by rfl,
      by cases b <;> decide +kernel⟩,
    ⟨by decide +kernel, rfl, by decide +kernel⟩, ⟨by decide, ⟨⟨1, 1, 0, 0, 0x40000000⟩, by decide +kernel⟩, by decide +kernel⟩, by decide +kernel⟩

/-- CoherenceEvents: maintenance of a range whose line the core holds, dirty and clean, and of which nothing is cached. -/
def aMaint (k : AccKind) : Access := { acc k p9 with size := 128, data := 0 }
def thMaint (k : AccKind) : Thread := { th0 with accs := [aMaint k], nextAcc := 1, nextSeq := 1, flags := [(0, 1)] }
def spansOk (x : Spans) : Bool := match x with | .ok l => l == [(0x9000, 0x9000, 128)] | _ => false
theorem of_spansOk {x : Spans} (h : spansOk x = true) : x = .ok [(0x9000, 0x9000, 128)] := by
  cases x with
  | ok l => rw [show l = _ from eq_of_beq h]
  | moving => cases h
  | tell va => cases h
theorem nextOf {s : State} {a : Access} {ln : Nat} (h : cachedLines s = [ln]) (ha : a.data = 0)
    (hl : 0x9000 ≤ 128 * ln ∧ 128 * ln < 0x9000 + 128) : nextLine s a [(0x9000, 0x9000, 128)] = some ln := by
  simp [nextLine, h, ha, hl.1, hl.2]
theorem nextOf_none {s : State} {a : Access} (h : cachedLines s = []) : nextLine s a [(0x9000, 0x9000, 128)] = none := by
  simp [nextLine, h]
theorem witness_CoherenceEvents_maintenance :
    (∀ k ∈ [AccKind.cinval, .cclean, .pref], ∀ s ∈ [st (thMaint k), stL1 0xF true (thMaint k), stL1 0 true (thMaint k)],
      (let e := en (thMaint k)
       s.env 0 = some e ∧ (e.th.acc? (aMaint k).id = some (aMaint k) ∧ e.th.inOrder (aMaint k) = true) ∧
        (aMaint k).spans s e false 128 = .ok [(0x9000, 0x9000, 128)] ∧ (aMaint k).spans s e true 8192 = .ok [(0x9000, 0x9000, 128)]) ∧
      (aMaint k).commit = true ∧ (aMaint k).walks = false ∧ s.pubs = [] ∧ lineBusy s 0x120 = false ∧
      (∀ ln ∈ linesOf 0x9000 (0x9000 + 128), ticketHeld s (128 * ln) = false)) ∧
    (nextLine (st (thMaint .cinval)) (aMaint .cinval) [(0x9000, 0x9000, 128)] = none ∧
      nextLine (stL1 0 true (thMaint .cclean)) (aMaint .cclean) [(0x9000, 0x9000, 128)] = some 0x120 ∧
      nextLine (stL1 0xF true (thMaint .cclean)) (aMaint .cclean) [(0x9000, 0x9000, 128)] = some 0x120 ∧
      siteTaken (stL1 0 true (thMaint .cinval)) none 0 (128 * 0x120) 128 = false ∧
      unsentShared (stL1 0xF true) 0x120 = true ∧ dirtyShared (stL1 0 true) 0x120 = false) := by
  refine ⟨fun k hk s hs => ?_, nextOf_none (by decide +kernel), nextOf (by decide +kernel) rfl (by decide),
    nextOf (by decide +kernel) rfl (by decide), by decide +kernel⟩
  simp only [List.mem_cons, List.not_mem_nil, or_false] at hk hs
  rcases hk with rfl | rfl | rfl <;> rcases hs with rfl | rfl | rfl <;>
    exact ⟨⟨rfl, by decide +kernel, of_spansOk (by decide +kernel), of_spansOk (by decide +kernel)⟩, by decide +kernel⟩

/-- CoherenceEvents: errors of a publication that a `rel`, a `fence` or no unit waits for, of a recall, of a private line, and
of a store beyond the module. -/
theorem witness_CoherenceEvents_errors :
    (pub? (stPub false) 0 = some (pub0 false) ∧ pubWaiters (stPub false) 0 = [] ∧
      pubWaiters { stPub false with threads := [(0, { th0 with window := [{ WUnit.start th0 with act := .rel (some [0]) }] })] } 0 = [(0, some 0, true)] ∧
      pubWaiters { stPub false with threads := [(0, { th0 with wait := .fence true [0] })] } 0 = [(0, none, true)]) ∧
    (rev? (stRev true) 0 = some ⟨0, 0, 0x120, 1, true, none⟩ ∧ find? ((stRev true).core 0).l1 0x120 = some (line9 0xF true) ∧
      (line9 0xF true).dirty &&& bytesOfMask 1 ≠ 0) ∧
    (flusher (stL1 0xF false) 0 = none ∧ flusher (stL1 0xF false { th0 with wait := .flush 0 }) 0 = some 0 ∧
      (tmStill.quieting = true ∧ (thCtx []).inh = true ∧ (st (thCtx []) tmStill).env 0 = some (en (thCtx []) tmStill))) ∧
    (find? ((stL1 0xF false).core 0).l1 0x120 = some (line9 0xF false) ∧ (line9 0xF false).shared = false ∧ (line9 0xF false).dirty ≠ 0) ∧
    (let p : Phys := { p9 with tgt := 1 }
     let s := st (thAcc .store p)
     s.env 0 = some (en (thAcc .store p)) ∧ (thAcc .store p).acc? 0 = some (acc .store p) ∧ (acc .store p).commit = true ∧
       (acc .store p).held (en (thAcc .store p)) = false ∧ p.tgt ≠ 0) ∧
    (st th0).thread? 0 = some th0 ∧ th0.window = [] ∧ (thAcc .store p9).window = [uLoad] :=
  ⟨by decide +kernel, by decide +kernel, ⟨by decide +kernel, by decide +kernel, rfl, rfl, rfl⟩, by decide +kernel, ⟨rfl, by decide +kernel⟩, rfl, rfl, rfl⟩

/-! Translation. -/

/-- TranslationEvents: a read of the device's own of a page whose walk waits, of one that moves, and of a malformed entry that firmware
has been told of and has not. -/
theorem witness_TranslationEvents_device :
    ((0, 0) : Nat × Nat) ∈ ({ st th0 with devWalks := [(0, 0)] } : State).devWalks ∧ ((0, 0) : Nat × Nat) ∉ (st th0).devWalks ∧
    (let s (leaf : Nat) : State := { st th0 with dram := Memory.writeN (benchMemory [] 0) 0x3000 8 leaf }
     la0.asp.asn.toNat = 0 ∧ translate (s 0x200000000000000) 0 la0.asp 0x9000 .r = .moving ∧ translate (s 0x1F) 0 la0.asp 0x9000 .r = .trap 0x04 ∧
     (s 0x1F).untold la0.asp 0x9000 = true ∧ translate (s 0) 0 la0.asp 0x9000 .r = .trap 0x04 ∧ (s 0).untold la0.asp 0x9000 = false) ∧
    (0 = (⟨0, 0, 65536⟩ : VRange).asn.toNat ∧ (⟨0, 0, 65536⟩ : VRange).meets (65536 * 0) 65536 = true) := by decide +kernel

/-- TranslationEvents: a walk that waits, and one that is taken up, of a page that is there and of one that moves. -/
def stWalk (n : Nat) (leaf : Nat) : State :=
  { st { th0 with wait := .walk 0x9000 } with walks := [(0, n)], dram := Memory.writeN (benchMemory [] 0) 0x3000 8 leaf }
def atsR (pri : Option Nat) (asks : Bool := false) : AtsReq := ⟨0, 0, 5, false, pri, asks, false⟩
def stAts (pri : Option Nat) : State :=
  { st { th0 with wait := .ats 5 0x9000 } with ats := [atsR pri], clk := 9400000, atc := [⟨0, 0, 6, ⟨5, true, true⟩⟩] }
def aHost : Access := acc .store { p9 with tgt := 1, pa := 5 * 65536 + 0x9000 }
theorem witness_TranslationEvents_requests :
    (∀ p ∈ ([(0, 0x1D), (1, 0x1D), (1, 0x200000000000000)] : List (Nat × Nat)),
      (stWalk p.1 p.2).env (stWalk p.1 p.2).cur = some (en { th0 with wait := .walk 0x9000 }) ∧
      find? (stWalk p.1 p.2).walks (stWalk p.1 p.2).cur = some p.1) ∧
    walk (stWalk 1 0x1D) la0.asp 0x9000 ≠ .moving ∧ walk (stWalk 1 0x200000000000000) la0.asp 0x9000 = .moving ∧
    (∀ x ∈ [none, some 0], (stAts x).ats.find? (fun r' => r'.die == (atsR x).die && r'.pasid == (atsR x).pasid && r'.page == (atsR x).page) =
      some (atsR x)) ∧ ((atsR none).pri = none ∧ (atsR none).asks = false ∧ (atsR none true).asks = true) ∧
    ((stAts none).invs = [] ∧ (let v : Inval := ⟨0, 6, 1, [(0, 0)], false⟩; ([v] : List Inval) = [] ++ v :: [] ∧ v.done = false) ∧
      (∃ a, a ∈ (thAcc .store p9).accs ∧ a.id = 0) ∧ ¬∃ a, a ∈ th0.accs ∧ a.id = 0) ∧
    (∃ r ∈ (stAts (some 0)).ats, r.pasid = 0 ∧ r.page = 5 ∧ r.pri ≠ none) ∧
    (∃ x, x ∈ (stAts (some 0)).ats ∧ x.pri = some 0 ∧ 0 + min (stAts (some 0)).policy.pri 9400000 ≤ (stAts (some 0)).clk) ∧
    (stAts (some 9400000)).clk < 9400000 + min (stAts (some 0)).policy.pri 9400000 ∧
    (let s := stAts (some 0)
     s.ats = [atsR (some 0)] ∧ (atsR (some 0)).dev = false ∧
     atsWaiters s 0 0 5 = [(en { th0 with wait := .ats 5 0x9000 }, 0x9000)] ∧ (∀ x ∈ s.cores, x.2.jobs = []) ∧
     (∀ x ∈ s.threads, ∀ a ∈ x.2.accs, a.moved = false)) ∧
    (let th := { th0 with accs := [aHost] }
     let s := { st th with atc := [⟨0, 0, 0, ⟨5, true, true⟩⟩] }
     s.env 0 = some (en th) ∧ la0.asp.pasid = 0 ∧ aHost ∈ th.accs ∧ (∃ p ∈ aHost.phys, p.tgt = 1 ∧ p.pa / 65536 = 5)) := by
  refine ⟨?_, by decide +kernel, by decide +kernel, by decide +kernel, by decide,
    ⟨rfl, ⟨rfl, rfl⟩, ⟨_, List.mem_singleton.mpr rfl, rfl⟩, fun h => by simp [th0, benchThread] at h⟩, by decide +kernel, by decide +kernel,
    by decide +kernel, ⟨rfl, rfl, rfl, by decide +kernel⟩, rfl, rfl, by decide +kernel⟩
  intro p hp
  simp only [List.mem_cons, List.not_mem_nil, or_false] at hp
  rcases hp with rfl | rfl | rfl <;> exact ⟨rfl, rfl⟩

/-- TranslationEvents: a request refused as moved whose page is there, moves, waits for the host, or is not there; an atomic that
the host's home does not take, and a row outside tier 1. -/
def aMoved (k : AccKind := .store) : Access := { acc k p9 with moved := true, size := if k.isRow then 1024 else 4 }
def thMoved (k : AccKind := .store) : Thread := { th0 with accs := [aMoved k] }
def pHost : Phys := ⟨1, 5 * 65536 + 0x9000, 0x3000, 0x200000000000001D, 0, 0x40000000⟩
theorem witness_TranslationEvents_moved :
    (let s := st (thMoved)
     let e := en (thMoved)
     s.env 0 = some e ∧ (e.th.acc? (aMoved).id = some (aMoved) ∧ e.th.trapped (aMoved).seq = false ∧ (aMoved).moved = true ∧
       (aMoved).walks = false) ∧
     List.Forall₂ (fun x p => e.xlat s x.1 x.2 = .ok p) (aMoved).needs [p9] ∧ p9.hole = false ∧ (aMoved).kind.isRow = false ∧ p9.tgt ≠ 1) ∧
    (∀ k ∈ [.atom 1 0 [4], .rowop 4 []],
      let e := en (thMoved k)
      ({ stHost with threads := [(0, thMoved k)] } : State).env 0 = some e ∧
      (e.th.acc? (aMoved k).id = some (aMoved k) ∧ e.th.trapped 0 = false ∧ (k.hostAtom = false ∨ k.isRow = true)) ∧
      (aMoved k).needs.map (·.1) = 0x9000 :: [] ∧
      List.Forall₂ (fun x p => e.xlat ({ stHost with threads := [(0, thMoved k)] } : State) x.1 x.2 = .ok p) (aMoved k).needs [pHost] ∧
      pHost.tgt = 1 ∧ pHost.hole = false) ∧
    ((aMoved).needs = [] ++ (0x9000, .w) :: [] ∧
      (∀ m ∈ [[], Memory.writeN (benchMemory [] 0) 0x3000 8 0x200000000000000, stHost.dram],
        ({ st (thMoved) with dram := m } : State).env 0 = some (en (thMoved))) ∧
      (en (thMoved)).xlat { st (thMoved) with dram := [] } 0x9000 .w = .trap 0x04 ∧
      (en (thMoved)).xlat { st (thMoved) with dram := Memory.writeN (benchMemory [] 0) 0x3000 8 0x200000000000000 } 0x9000 .w = .moving ∧
      (en (thMoved)).xlat { st (thMoved) with dram := stHost.dram } 0x9000 .w = .ats 0) := by
  refine ⟨⟨rfl, by decide +kernel, .cons (by decide +kernel) .nil, by decide +kernel⟩, fun k hk => ?_, rfl, fun m hm => ?_,
    by decide +kernel, by decide +kernel, by decide +kernel⟩
  · simp only [List.mem_cons, List.not_mem_nil, or_false] at hk
    rcases hk with rfl | rfl <;> exact ⟨rfl, by decide +kernel, by decide +kernel, .cons (by decide +kernel) .nil, by decide +kernel⟩
  · simp only [List.mem_cons, List.not_mem_nil, or_false] at hm
    rcases hm with rfl | rfl | rfl <;> rfl

/-- TranslationEvents: a late access of the other module, not yet committed, and committed with and without a `rel` at the
window's head, or under a `fence`; a page that is lost. -/
def aLate (k : AccKind) (b : Bool) : Access := { acc k { p9 with tgt := 2 } with commit := b, sent := some 0 }
def thLate (k : AccKind) (b : Bool) (w : List WUnit) (f : Wait := .none) : Thread := { th0 with accs := [aLate k b], window := w, wait := f }
theorem witness_TranslationEvents_late :
    (∀ x ∈ [(thLate (.load false [4]) false [], AccKind.load false [4], false), (thLate .store true [], .store, true),
        (thLate .store true [{ WUnit.start th0 with seq := 1, act := .rel none }], .store, true), (thLate .store true [uLoad], .store, true),
        (thLate .store true [] (.fence true [3]), .store, true)],
      ({ st x.1 with clk := 1880000 } : State).env 0 = some (en x.1) ∧
      (x.1.acc? 0 = some (aLate x.2.1 x.2.2) ∧ (aLate x.2.1 x.2.2).held (en x.1) = false ∧ (x.2.2 = true ∨ x.2.1.isLoad = true))) ∧
    ((aLate .store true).sent = some 0 ∧ 0 + max 9400 (min (st th0).policy.remote 1880000) ≤ 1880000 ∧ (∃ p ∈ (aLate .store true).phys, p.tgt = 2)) ∧
    ((thLate .store true [] (.fence true [3])).wait = .fence true [3] ∧ ∀ ids, th0.wait ≠ .fence true ids) ∧
    (let s := st th0
     Sorted s.l2 = true ∧ walkFrom s 5 0 0x1000 0x9000 = .page ⟨0, 0x9000, 0x3000, 0x1D, 0, 0x40000000⟩ ∧
     (∀ a ∈ spacesOf s 0x1000, draining s ⟨a.asn, 0, 0 + 0x40000000⟩ = false) ∧
     ∀ k ∈ s.cores, ∀ l ∈ k.2.l1, l.1 = 0x3000 / 128 → l.2.dirty = 0) := by
  refine ⟨fun x hx => ?_, by decide +kernel, ⟨rfl, fun ids h => by simp [th0, benchThread] at h⟩, by decide +kernel⟩
  simp only [List.mem_cons, List.not_mem_nil, or_false] at hx
  rcases hx with rfl | rfl | rfl | rfl | rfl <;> exact ⟨rfl, by decide +kernel⟩

/-! Launches. -/

/-- The lines of L2: the page table of Bench.lean, a record at 0x10000 of one team of one group that R243 accepts, with `nd`
devices, and its device list at 0x11000. -/
def lineRec (n : Nat) : L2Line := ⟨BitVec.ofNat 1024 n, true, 0, 0, [], 0⟩
def word (o v : Nat) : Nat := v * 2 ^ (8 * o)
def stRec (nd : Nat) : State := { st th0 with
  dram := []
  l2 := [(0x20, lineRec 0x2003), (0x40, lineRec 0x3003), (0x60, lineRec 0x1D),
    (0x200, lineRec (0x100000101 + word 8 0x4000 + word 0x10 0x201010 + word 0x18 0x8000 + word 0x20 8 + word 0x48 (2 ^ 64 - 1) + word 0x70 (2 ^ 64 - 1))),
    (0x201, lineRec (word 0x60 0x11000 + word 0x68 (5 * 2 ^ 32 + nd))), (0x220, lineRec (word 0x20 1))] }
def aspL : AddrSpace := ⟨0, 0x1000, 0⟩
def subOk (x : Submitted) (f : Launch → Bool) : Bool := match x with | .ok l => f l | _ => false
def subRefused (x : Submitted) : Bool := match x with | .refused _ _ => true | _ => false
def subRefusedAs (x : Submitted) (f : Launch → Bool) (c o : Nat) : Bool := match x with | .refused l r => f l && r == ⟨c, o⟩ | _ => false
theorem of_subOk {x : Submitted} {f : Launch → Bool} (h : subOk x f = true) : ∃ l, x = .ok l ∧ f l = true := by
  cases x <;> first | exact ⟨_, rfl, h⟩ | cases h
theorem of_subRefused {x : Submitted} (h : subRefused x = true) : ∃ l r, x = .refused l r := by
  cases x <;> first | exact ⟨_, _, rfl⟩ | cases h

/-- LaunchEvents: a second team fits on core 1; a launch without teams that ends, and one whose teams are saved; records that
are accepted and refused. -/
def la2 : Launch := laSet 0 0x200000100
def stEnds (l : Launch) : State :=
  { State.reset with launches := [(0, l)], queues := [(0, QueuePair.reset aspL)], dram := benchMemory [] 0 }
/-- The room for a team of a launch on core 1: no launch of a better rank waits, one does; its parameters. -/
def stRoom (l : Launch) (others : List (Nat × Launch) := []) : State :=
  { st th0 tm0 l with
    config := { State.reset.config with cores := [0, 1], dies := 0xF }
    policy := { State.reset.policy with prio := [(0, 1)] }
    launches := (0, l) :: others }
def roomy (s : State) (l : Launch) : Bool :=
  l.started && !l.preempted && l.preempt.isNone && decide (l.nextTeam < l.nteam) && coreServes s 1 l && roomFor s 1 0 l
    && (find? (s.core 1).teams 0).isNone && s.tickets.isEmpty && s.threads.all (fun x => x.2.accs.isEmpty)
def laPar (va : DWord) : Launch := laSet 0x28 va (laSet 0x20 0x10008 la2)
theorem witness_LaunchEvents_resident :
    (roomy (stRoom la2) la2 = true ∧ otherFirst (stRoom la2) 1 la2 = false ∧ devValues (stRoom la2) (dieOf 1) la2.asp 4 la2.param la2.npre = .ok []) ∧
    (let l := laPar 0x40000000
     roomy (stRoom l) l = true ∧ otherFirst (stRoom l) 1 l = false ∧ devValues (stRoom l) (dieOf 1) l.asp 4 l.param l.npre = .bad 4 0x40000000) ∧
    (let l := { la2 with qp := some 0 }
     let s := stRoom l [(1, la2)]
     roomy s l = true ∧ otherFirst s 1 l = true ∧ otherFirst s 1 la2 = false) :=
  ⟨⟨by decide +kernel, by decide +kernel, rfl⟩, ⟨by decide +kernel, by decide +kernel, rfl⟩, by decide +kernel, by decide +kernel, by decide +kernel⟩

/-- A launch without teams that ends, and one whose teams are saved; records that are accepted and refused, and one that lists no
such device. -/
theorem witness_LaunchEvents_teams :
    (∀ p ∈ [none, some 0], let l := { la0 with qp := some 0, preempt := p }
      find? (stEnds l).launches (stEnds l).cur = some l ∧ l.started = true ∧ l.preempted = false ∧ hasTeam (stEnds l) (stEnds l).cur = false ∧
      l.nteam ≤ l.nextTeam ∧ l.saved = [] ∧ find? (stEnds l).queues 0 = some (QueuePair.reset aspL)) ∧
    (∀ n : Nat, n = 0 ∨ n = 9 → let s := { stRec 2 with config := { State.reset.config with moduleNo := n } }
     ∃ l, submitRecord s 5 none 0 aspL 0x10000 = .ok l ∧
      decide (l.devs.findIdx? (fun d => bits (d.getD 0 0) 0 16 == s.config.moduleNo) = if n = 0 then some 0 else none) = true) ∧
    (∃ l r, submitRecord (stRec 2) 5 none 0 aspL 0x10004 = .refused l r) ∧
    (∃ l, submitRecord (stRec 1) (BitVec.ofNat 64 (2 ^ 63 + 3)) none 0 aspL 0x10000 = .ok l ∧
      (decide (l.nd ≤ 1) && decide (l.ttn = 0)) = true) := by
  refine ⟨fun p hp => ?_, fun n hn => ?_, of_subRefused (by decide +kernel), of_subOk (by decide +kernel)⟩
  · simp only [List.mem_cons, List.not_mem_nil, or_false] at hp
    rcases hp with rfl | rfl <;> exact ⟨rfl, rfl, rfl, by decide +kernel, by decide +kernel, rfl, rfl⟩
  · rcases hn with rfl | rfl <;> exact of_subOk (by decide +kernel)

/-- LaunchEvents: a launch over two devices that waits for reports and for its start; a pre-emption and its deadline; an
escalated team, saved and resident. -/
def laN (l : Launch) : Launch := { l with record := l.record.set 29 (5 * 2 ^ 32 + 2), gen := 5 }
theorem witness_LaunchEvents_control :
    (let l := laN { la0 with repEnd := some 0, started := false }
     find? (stEnds l).launches 0 = some l ∧ l.repEnd = some 0 ∧ 1 < l.nd ∧ 1 ∉ l.ready ∧ l.ready.length + 1 ≠ l.nd ∧ (stEnds l).cur = 0 ∧
     0 ≤ (stEnds l).clk) ∧
    (let l := laN { la0 with repEnd := some 0, started := false, ready := [0] }
     find? (stEnds l).launches 0 = some l ∧ 1 < l.nd ∧ 1 ∉ l.ready ∧ l.ready.length + 1 = l.nd) ∧
    (let l := laN { la0 with started := false, ready := [0, 1], qp := some 0 }
     find? (stEnds l).launches 0 = some l ∧ l.started = false ∧ 1 < l.nd ∧ l.repEnd = none ∧ l.ready.length = l.nd ∧ l.didx = 0 ∧
     readEntries (stEnds l) l.asp l.ttb l.ttn = .ok [] ∧ find? (stEnds l).queues 0 = some (QueuePair.reset aspL) ∧ (6 : Word) ≠ l.gen) ∧
    (find? (st th0).launches 0 = some la0 ∧ la0.started = true ∧ la0.preempted = false ∧ la0.preempt = none ∧
      ∀ k ∈ (st th0).cores, ∀ j ∈ k.2.jobs, ∀ n, j.state ≠ .suspended n) ∧
    (let l := { la0 with preempt := some 0 }
     let s := { st th0 tm0 l with clk := 94000000 }
     find? s.launches s.cur = some l ∧ 0 + min (findD s.policy.deadline l.dclass 94000000) 94000000 ≤ s.clk ∧ s.team? 0 = some tm0 ∧
     tm0.lid = s.cur ∧ l.trec = none) ∧
    (∀ p ∈ [none, some 0], let l := { la0 with saved := [(0, true)], preempt := p }
      find? (st th0 tm0 l).launches (st th0 tm0 l).cur = some l ∧ find? l.saved 0 = some true) ∧
    (let s := st th0 { tm0 with escal := true }
     (teamsOf s s.cur).find? (fun k => (s.team? k).any (fun x => x.index == 0 && x.escal)) = some 0 ∧
     s.team? 0 = some { tm0 with escal := true } ∧ find? s.launches s.cur = some la0) := by
  refine ⟨⟨rfl, rfl, by decide +kernel, by decide +kernel, by decide +kernel, rfl, by decide⟩,
    ⟨rfl, by decide +kernel, by decide +kernel, by decide +kernel⟩,
    ⟨rfl, rfl, by decide +kernel, rfl, by decide +kernel, rfl, rfl, rfl, by decide +kernel⟩,
    ⟨rfl, rfl, rfl, rfl, fun k hk j hj => by simp [st, Core.reset] at hk; subst hk; cases hj⟩,
    ⟨rfl, by decide +kernel, rfl, rfl, rfl⟩, ?_, by decide +kernel, rfl, rfl⟩
  intro p hp
  simp only [List.mem_cons, List.not_mem_nil, or_false] at hp
  rcases hp with rfl | rfl <;> exact ⟨rfl, rfl⟩

/-- LaunchEvents: Medlar's actions on a range of 64 KiB: started, and waiting for one that fired before and one that has not started
or has work under way; an action whose work is done, or whose walk waits; a page that is moving, and an entry to tell; a line that is free for an action and one whose bank a row operation holds; a page of tier 2, a frame for it, and a store that still uses it. -/
def act (a : Nat) : List DWord := [0x10001, 0x10000, 0x10000, BitVec.ofNat 64 a]
def laAct (a : Nat) (acts : List MedAct) : Launch := { la0 with timetab := [act a], acts := acts }
def stAct (a : Nat) (acts : List MedAct) (leaf : Nat := 0x1D) (pins : List Nat := []) : State :=
  { st th0 tm0 (laAct a acts) with dram := Memory.writeN (benchMemory [] 0) 0x3000 8 leaf, l2 := [(0x200, ⟨7, true, 0, 0, pins, 0⟩)] }
def ma (id : Nat) (b : Bool) (worked : Bool := false) : MedAct := ⟨id, 0, 0, false, b, worked, false⟩
def maNext : MedAct := { ma 1 false with fired := 1 }
def linesAt (s : State) (a : Nat) : List Nat := match entryPages s (laAct a []) (act a) with
  | .ok ps => actionLines s ps (ttBase (act a)) (ttBase (act a) + ttLen (act a))
  | _ => []
def pagesOk (x : PageList) : Bool := match x with | .ok _ => true | _ => false
theorem of_pagesOk {x : PageList} (h : pagesOk x = true) : ∃ ps, x = .ok ps := by
  cases x <;> first | exact ⟨_, rfl⟩ | cases h
theorem witness_LaunchEvents_order :
    (∀ b, let l := laAct 1 [ma 0 b, maNext]
     find? (stAct 1 l.acts).launches 0 = some l ∧ (l.act? 0 = some (ma 0 b) ∧ l.acts.filter (fun x => x.id == 0) = [ma 0 b] ∧
     l.act? 1 = some maNext ∧ l.acts.filter (fun x => x.id == 1) = [maNext] ∧ actionWaits (stAct 1 l.acts) 0 l (ma 0 b) = false ∧
     actionWaits (stAct 1 l.acts) 0 l maNext = true)) ∧
    (∀ b, let l := laAct 1 [ma 0 true b]
     find? (stAct 1 l.acts).launches 0 = some l ∧ l.act? 0 = some (ma 0 true b) ∧ l.acts.filter (fun x => x.id == 0) = [ma 0 true b]) ∧
    (let l := laAct 1 [{ ma 0 true with walks := true }]
     l.act? 0 = some { ma 0 true with walks := true } ∧ l.acts.filter (fun x => x.id == 0) = [{ ma 0 true with walks := true }]) ∧
    entryPages (stAct 1 [ma 0 false] (2 ^ 57)) (laAct 1 [ma 0 false]) (act 1) = .moving ∧
    entryPages (stAct 1 [ma 0 false] 0x1F) (laAct 1 [ma 0 false]) (act 1) = .tell 0x10000 := by
  refine ⟨fun b => ?_, fun b => by cases b <;> exact ⟨rfl, rfl, rfl⟩, ⟨rfl, rfl⟩, by decide +kernel, by decide +kernel⟩
  cases b <;> exact ⟨rfl, by decide +kernel⟩
def pinned (s : State) (a : Nat) : Bool :=
  (linesAt s a).all (fun ln => !ticketHeld s (128 * ln)) && (linesAt s a).head? == some 0x200 && !(linesAt s a).tail.contains 0x200
theorem witness_LaunchEvents_lines :
    (∀ a, a = 1 ∨ a = 2 ∨ a = 3 → let s := stAct a [ma 0 false]
      ttAct ((laAct a [ma 0 false]).timetab.getD 0 []) = a ∧ (∃ ps, entryPages s (laAct a [ma 0 false]) (act a) = .ok ps) ∧ pinned s a = true ∧
      ticketHeld { s with tickets := [(bankOf 0x10000, 1)] } (128 * 0x200) = true) ∧
    (∀ pins, pins = [] ∨ pins = [5] → let s := stAct 1 [ma 0 false] 0x1D pins
      Sorted s.l2 = true ∧ ∃ x, find? s.l2 0x200 = some x ∧ x.dirty = true ∧ x.pinned = pins) ∧
    (let s := stAct 1 [ma 0 false]
     pinnedLines s ((Config.homeSlice 0x200).val / 64) + 32 * usedS s ((Config.homeSlice 0x200).val / 64) < 131072 ∧
     ((l2Peers s 0x200).filter (fun y => !y.2.pinned.isEmpty)).length + sWays s 0x200 < 4) := by
  refine ⟨fun a ha => ?_, fun pins hp => ?_, ?_⟩
  · rcases ha with rfl | rfl | rfl <;> exact ⟨by decide +kernel, of_pagesOk (by decide +kernel), by decide +kernel, by decide +kernel⟩
  · rcases hp with rfl | rfl <;> exact ⟨by decide +kernel, _, rfl, rfl, rfl⟩
  · have hu : ∀ d, usedS (stAct 1 [ma 0 false]) d = 0 := fun d => by
      by_cases hd : (dieOf 0 == d) = true <;> simp [usedS, stAct, st, Core.reset, tm0, benchTeam]
    have hp : ∀ d, pinnedLines (stAct 1 [ma 0 false]) d = 0 := fun d => by simp [pinnedLines, stAct]
    have hq : ((l2Peers (stAct 1 [ma 0 false]) 0x200).filter (fun y => !y.2.pinned.isEmpty)).length = 0 := by simp [l2Peers, stAct]
    have h1 := (Config.l2Set 0x200).isLt
    simp only [hp, hq, sWays, hu]
    omega
/-- A state whose page table has one entry in each table: the page at 0 lies at 2^40. -/
def stMove : State := { stAct 0 [ma 0 false] with
  l2 := [], dram := [(0x1000, 3), (0x1001, 0x20), (0x2000, 3), (0x2001, 0x30), (0x3000, 0x1D), (0x3005, 1)] }
theorem stMove_zero (a : Nat) (h : a / 128 ∉ [32, 64, 96]) : homeRead stMove a 8 = 0 := by
  have hz : Memory.readN stMove.dram (128 * (a / 128)) 128 = Memory.readN [] (128 * (a / 128)) 128 :=
    Memory.readN_congr _ _ fun b h1 h2 => by
      simp only [List.mem_cons, List.not_mem_nil, or_false, not_or] at h
      have hb : b ≠ 0x1000 ∧ b ≠ 0x1001 ∧ b ≠ 0x2000 ∧ b ≠ 0x2001 ∧ b ≠ 0x3000 ∧ b ≠ 0x3005 := by omega
      obtain ⟨h1, h2, h3, h4, h5, h6⟩ := hb
      simp [Memory.read, findD, find?, stMove, h1, h2, h3, h4, h5, h6]
  have h0 : ∀ n b, Memory.readN [] b n = 0 := by
    intro n; induction n with
    | zero => intro b; rfl
    | succ n ih => intro b; simp [Memory.readN, ih, Memory.read, findD, find?]
  simp only [homeRead, homeLine, lineOf, dramLine, hz, h0, show stMove.l2 = [] from rfl]
  simp [find?, lineNum]
theorem mappedFrom_first (s : State) (fuel level table e : Nat) (hl : level ≠ 4) (h0 : homeRead s table 8 = e)
    (hz : ∀ i, 0 < i → i < 512 → homeRead s (table + 8 * i) 8 = 0) (hv : (BitVec.ofNat 64 e).getLsbD 0 = true) :
    (∀ next, (BitVec.ofNat 64 e).getLsbD 1 = true → tableBad level (BitVec.ofNat 64 e) = false →
      (BitVec.ofNat 64 e).toNat / 256 % 2 ^ 49 * 256 = next →
      mappedFrom s (fuel + 1) level table = mappedFrom s fuel (level + 1) next) ∧
    ((BitVec.ofNat 64 e).getLsbD 1 = false → (leafBad level (BitVec.ofNat 64 e) || (BitVec.ofNat 64 e).extractLsb' 61 2 != 0) = false →
      mappedFrom s (fuel + 1) level table = [((BitVec.ofNat 64 e).toNat / 2 ^ 16 % 2 ^ 41 * 2 ^ 16, leafSize level)]) := by
  have short : ∀ (f : Nat → List (Nat × Nat)) n, (∀ i, 0 < i → i < n + 1 → f i = []) → (List.range (n + 1)).flatMap f = f 0 := by
    intro f n; induction n with
    | zero => intro _; simp
    | succ n ih => intro h; rw [List.range_succ, List.flatMap_append, ih fun i a b => h i a (by omega)]; simp [h (n + 1)]
  rw [mappedFrom, if_neg hl, short _ 511]
  · simp only [Nat.mul_zero, Nat.add_zero, h0, hv]
    exact ⟨fun next a b c => by subst c; simp [a, b], fun a b => by simp only [a, b]; rfl⟩
  · intro i a b; simp [hz i a b]
theorem stMove_first (table : Nat) (h : table ∈ [0x1000, 0x2000, 0x3000]) (i : Nat) (h0 : 0 < i) (hi : i < 512) :
    homeRead stMove (table + 8 * i) 8 = 0 := by
  by_cases hc : i < 16
  · have : ∀ t ∈ [0x1000, 0x2000, 0x3000], ∀ i, i < 16 → 0 < i → homeRead stMove (t + 8 * i) 8 = 0 := by decide +kernel
    exact this _ h _ hc h0
  · refine stMove_zero _ ?_
    simp only [List.mem_cons, List.not_mem_nil, or_false] at h ⊢
    omega
theorem stMove_frames : framesInUse stMove = [(2 ^ 40, 2 ^ 30)] := by
  have hr : ((stMove.launches.map (·.2.asp) ++ stMove.queues.map (·.2.asp)).map (·.root)).dedup = [0x1000] := by decide +kernel
  have h1 : mappedFrom stMove 5 0 0x1000 = mappedFrom stMove 4 1 0x2000 :=
    (mappedFrom_first _ _ _ _ 0x2003 (by decide) (by decide +kernel) (stMove_first _ (by decide)) (by decide)).1 _ (by decide)
      (by decide +kernel) (by decide)
  have h2 : mappedFrom stMove 4 1 0x2000 = mappedFrom stMove 3 2 0x3000 :=
    (mappedFrom_first _ _ _ _ 0x3003 (by decide) (by decide +kernel) (stMove_first _ (by decide)) (by decide)).1 _ (by decide)
      (by decide +kernel) (by decide)
  have h3 : mappedFrom stMove 3 2 0x3000 = [(2 ^ 40, 2 ^ 30)] :=
    (mappedFrom_first _ _ _ _ (2 ^ 40 + 0x1D) (by decide) (by decide +kernel) (stMove_first _ (by decide)) (by decide)).2 (by decide)
      (by decide +kernel)
  rw [framesInUse, hr, List.flatMap_singleton, h1, h2, h3]
theorem witness_LaunchEvents_moves :
    let p : Phys := ⟨0, 2 ^ 40 + 0x10000, 0x3000, 0x1000000001D, 0, 2 ^ 30⟩
    let s := stMove
    let busy := { s with threads := [(0, { th0 with accs := [{ acc .store { p with pa := 2 ^ 40 + 0x9000 } with commit := true }] })] }
    (ttAct (act 0) = 0 ∧ entryPages s (laAct 0 [ma 0 false]) (act 0) = .ok [p] ∧ movers [p] true = [p] ∧
    framesOk s [p] [2 ^ 30] true = true ∧ framesOk s [p] [] true = false ∧ framesOk s [p] [0] true = false ∧
    frameBusy s p.frame p.size = false ∧ frameBusy s (2 ^ 30) p.size = false ∧
    frameBusy { s with tickets := [(0, 1)] } (2 ^ 30) p.size = true ∧ draining s (p.range la0.asp.asn) = false ∧
    draining busy (p.range la0.asp.asn) = true) ∧ s.MemOk ∧ s.l2 = [] ∧ ∀ k ∈ s.cores, k.2.l1 = [] := by
  have hf : framesOk stMove [⟨0, 2 ^ 40 + 0x10000, 0x3000, 0x1000000001D, 0, 2 ^ 30⟩] [2 ^ 30] true = true := by
    simp only [framesOk, stMove_frames]; decide +kernel
  refine ⟨⟨?_, ?_, ?_, hf, ?_, ?_, ?_, ?_, ?_, ?_, ?_⟩, ⟨?_, ?_, ?_⟩, rfl, ?_⟩ <;> decide +kernel

/-! The host port. -/

/-- A granted queue pair with rings of 8 entries; the host's entry 1 at 0x1040. -/
def qp0 (en : Bool := true) (tail : DWord := 1) : QueuePair :=
  { QueuePair.reset aspL with sqbase := 0x1000, sqlog := 3, cqbase := 0x2000, cqlog := 3, en := en, sqtail := tail }
def entry1 (l k r : Nat) : Memory := [(0, 1), (8, l), (16, k), (24, r)].foldl (fun m w => Memory.writeN m (0x1040 + w.1) 8 w.2) []
def stQ (p : QueuePair) (m : Memory := []) (la : List (Nat × Launch) := []) : State :=
  { stRec 1 with up := true, queues := [(0, p)], hostMem := m, launches := la }
theorem witness_HostEvents_registers :
    (∀ b, (stQ (qp0 b)).up = true ∧ find? (stQ (qp0 b)).queues 0 = some (qp0 b) ∧ (qp0 b).en = b ∧ (stQ (qp0 b)).cur = 0 ∧
      (3 ≤ (qp0 b).sqlog.toNat ∧ (qp0 b).sqlog.toNat ≤ 12 ∧ 3 ≤ (qp0 b).cqlog.toNat ∧ (qp0 b).cqlog.toNat ≤ 12)) ∧
    (let p := { qp0 false with cqlog := 2 }; find? (stQ p).queues 0 = some p ∧ ¬3 ≤ p.cqlog.toNat) ∧
    State.reset.up = false ∧ find? (stQ (qp0)).queues 1 = none ∧ (1 : Nat) < 64 ∧ (1 : DWord).getLsbD 0 = true :=
  ⟨fun b => by cases b <;> exact ⟨rfl, rfl, rfl, rfl, by decide +kernel⟩, ⟨rfl, by decide +kernel⟩, rfl, rfl, by decide, by decide⟩

/-- HostEvents: no entry to take, one beyond the ring, a bad one; a resumption without and with its launch; a submission that is
refused, accepted, and accepted for two devices. -/
def goodEntry (s : State) (p : QueuePair) : Bool :=
  let n := p.lastcons + 1
  let w (i : Nat) : Nat := Memory.readN s.hostMem (p.sqbase.toNat + 64 * (n.toNat % 2 ^ p.sqlog.toNat) + 8 * i) 8
  w 0 == n.toNat && w 1 < 2 ^ 57 && w 2 < 2 && w 3 < 2 ^ 57 && w 4 == 0 && w 5 == 0 && w 6 == 0 && w 7 == 0
def laPre : Launch := { la0 with preempted := true, prec := 0x5000 }
theorem witness_HostEvents_consume :
    ((stQ qp0).cur = 0 ∧ (qp0).en = true ∧ (qp0).stop = false ∧ (qp0).err = false ∧ (qp0).lastcons.toNat < (qp0).sqtail.toNat ∧
      (qp0).sqtail.toNat ≤ (qp0).lastcons.toNat + 2 ^ (qp0).sqlog.toNat) ∧
    ¬(qp0 true 0).lastcons.toNat < (qp0 true 0).sqtail.toNat ∧ ¬(qp0 true 9).sqtail.toNat ≤ (qp0 true 9).lastcons.toNat + 2 ^ (qp0 true 9).sqlog.toNat ∧
    goodEntry (stQ qp0) qp0 = false ∧
    (∀ k ∈ [0, 1], goodEntry (stQ qp0 (entry1 0x10000 k 0x5000)) qp0 = true ∧ Memory.readN (entry1 0x10000 k 0x5000) 0x1050 8 = k ∧
      Memory.readN (entry1 0x10000 k 0x5000) 0x1048 8 = 0x10000) ∧
    (stQ qp0 [] [(0, laPre)]).launches.find? (fun e => e.2.preempted && e.2.prec == 0x5000 && e.2.asp == aspL) = some (0, laPre) ∧
    (∀ e ∈ (stQ qp0 [] [(0, la0)]).launches, e.2.preempted = true → e.2.prec = 0x5000 → e.2.asp ≠ aspL) ∧
    (BitVec.ofNat 64 (2 ^ 57 * (stQ qp0).cur + ((qp0).lastcons + 1).toNat % 2 ^ 57) = 1) := by
  refine ⟨by decide +kernel, by decide +kernel, by decide +kernel, by decide +kernel, ?_, by decide +kernel, ?_, by decide +kernel⟩
  · intro k hk
    simp only [List.mem_cons, List.not_mem_nil, or_false] at hk
    rcases hk with rfl | rfl <;> exact ⟨by decide +kernel, by decide +kernel, by decide +kernel⟩
  · intro e he h
    simp only [stQ, List.mem_singleton] at he
    subst he; exact absurd h (by decide)

/-- What the record of such an entry gives: refused out of alignment or for its GEN, and accepted for one device and for two. -/
def stGen (nd : Nat) (g : Word) : State := { stQ qp0 with l2 := (stRec nd).l2, genMax := g }
def mine (l : Launch) : Bool := l.qp == some 0 && l.sseq == 1 && l.ttskip == 0
theorem of_devOk {α : Type} {x : Dev α} (h : (match x with | .ok _ => true | _ => false) = true) : ∃ v, x = .ok v := by
  cases x <;> first | exact ⟨_, rfl⟩ | cases h
theorem of_devBad {α : Type} {x : Dev α} (h : (match x with | .bad _ _ => true | _ => false) = true) : ∃ c a, x = .bad c a := by
  cases x <;> first | exact ⟨_, _, rfl⟩ | cases h
theorem of_devWait {α : Type} {x : Dev α} (h : (match x with | .wait _ => true | _ => false) = true) : ∃ s, x = .wait s := by
  cases x <;> first | exact ⟨_, rfl⟩ | cases h
theorem witness_HostEvents_record :
    subRefusedAs (submitRecord (stGen 1 0) 1 (some 0) 1 aspL 0x10004) mine 10 0 = true ∧
    subRefusedAs (submitRecord (stGen 2 9) 1 (some 0) 1 aspL 0x10000) mine 9 0xE8 = true ∧
    (∃ l, submitRecord (stGen 1 0) 1 (some 0) 1 aspL 0x10000 = .ok l ∧ (mine l && decide (l.nd ≤ 1) && decide (l.ttn = 0)) = true) ∧
    (∃ l, submitRecord (stGen 2 0) 1 (some 0) 1 aspL 0x10000 = .ok l ∧ (mine l && decide (1 < l.nd)) = true) ∧
    (∃ ws, devWords (stGen 1 0) aspL 0x5000 1 = .ok ws) ∧ (∃ c a, devWords (stGen 1 0) aspL (2 ^ 41) 1 = .bad c a) ∧
    (∃ s', devWords { stGen 1 0 with devWalks := [(aspL.asn.toNat, 0)] } aspL 0x5000 1 = .wait s') :=
  ⟨by decide +kernel, by decide +kernel, of_subOk (by decide +kernel), of_subOk (by decide +kernel), of_devOk (by decide +kernel),
    of_devBad (by decide +kernel), of_devWait (by decide +kernel)⟩

/-- HostEvents: a completion record that waits for room in its ring, and one that is written. -/
theorem witness_HostEvents_completion : ∀ h ∈ ([0, 1] : List DWord), let p := { qp0 with cqhead := h, lastdone := 8, held := [List.replicate 16 0] }
    find? (stQ p).queues (stQ p).cur = some p ∧ p.held = List.replicate 16 0 :: [] ∧ (List.replicate 16 (0 : DWord)).length = 16 ∧
    (p.cqhead.toNat + 2 ^ p.cqlog.toNat < (p.lastdone + 1).toNat ↔ h = 0) := by
  intro h hh
  simp only [List.mem_cons, List.not_mem_nil, or_false] at hh
  rcases hh with rfl | rfl <;> exact ⟨rfl, rfl, rfl, by decide +kernel⟩

def wordsAre (x : Dev (List DWord)) (ws : List DWord) : Bool := match x with | .ok vs => vs == ws | _ => false
theorem of_wordsAre {x : Dev (List DWord)} {ws : List DWord} (h : wordsAre x ws = true) : x = .ok ws := by
  cases x <;> first | exact congrArg _ (eq_of_beq h) | cases h

/-- HostEvents: a record for each code of R243 that the record itself can break, and one that breaks none. -/
def recOk : List DWord :=
  [0x100000101, 0x4000, 0x201010, 0x8000, 8, 0, 0, 0, 0, 0xFFFFFFFFFFFFFFFF, 0, 0, 0, 0, 0xFFFFFFFFFFFFFFFF] ++ List.replicate 14 0 ++
    [1] ++ List.replicate 9 0
def recs : List (List DWord) :=
  [recOk.set 1 0xF000000000004000, recOk.set 4 0, recOk.set 1 0x4004, recOk.set 2 0x201011, recOk.set 9 0, recOk.set 31 1, recOk]
def stWords (ws : List DWord) : State :=
  let line (i : Nat) : L2Line := lineRec (((ws.drop (16 * i)).take 16).foldr (fun w n => w.toNat + 2 ^ 64 * n) 0)
  { stRec 1 with l2 := (stRec 1).l2.take 3 ++ [(0x200, line 0), (0x201, line 1), (0x202, line 2)] }
def breaks (l : Launch) : List Bool :=
  [ bits (l.word 0) 0 8 != 1 || (List.range 39).any (fun k => l.word (8 * k) &&& ~~~recordMask (8 * k) != 0)
  , l.ngrp == 0 || 16 < l.ngrp || l.ngrp < l.nprod || l.nteam == 0 || 96 < l.nbar || l.depthLimit == 0 || 16 < l.npre ||
      2048 < l.lease0 || 1024 < l.ng || 8 < l.nstg || l.nd == 0 || 64 < l.nd
  , l.entry.toNat % 8 != 0 || l.csb % 8 != 0 || l.gtb % 16 != 0 || l.wqb % 8 != 0 || l.stb % 8 != 0 || l.tvec.toNat % 8 != 0 ||
      (l.ng != 0 && l.fxb % 4096 != 0)
  , 16 < l.budget false || 16 < l.budget true
  , [false, true].any (fun r => (l.planBad r).isSome)
  , (List.range 8).any (fun k => slotRefused (l.fs k)) ]
theorem witness_HostEvents_codes : ∀ p ∈ recs.zipIdx, devWords (stWords p.1) aspL 0x10000 39 = .ok p.1 ∧
    (∀ i, i < p.2 → (breaks (Launch.ofRecord 1 none 0 aspL p.1)).getD i false = false) ∧
    (p.2 < 6 → (breaks (Launch.ofRecord 1 none 0 aspL p.1)).getD p.2 false = true) ∧
    (p.2 = 6 → devWords (stWords p.1) aspL (Launch.ofRecord 1 none 0 aspL p.1).stb (Launch.ofRecord 1 none 0 aspL p.1).nstg = .ok []) := by
  have hr : recs.zipIdx = [(recOk.set 1 0xF000000000004000, 0), (recOk.set 4 0, 1), (recOk.set 1 0x4004, 2), (recOk.set 2 0x201011, 3),
    (recOk.set 9 0, 4), (recOk.set 31 1, 5), (recOk, 6)] := rfl
  intro p hp
  rw [hr] at hp
  simp only [List.mem_cons, List.not_mem_nil, or_false] at hp
  rcases hp with rfl | rfl | rfl | rfl | rfl | rfl | rfl <;>
    exact ⟨of_wordsAre (by decide +kernel), by decide +kernel, by decide +kernel, fun h => by first | exact absurd h (by decide) | rfl⟩
theorem witness_HostEvents_stages : ∀ d : DWord, d = 0 ∨ d = 0xA2 →
    let ws := (recOk.set 22 0x10140).set 23 1
    devWords (stWords (ws ++ [0, d])) aspL 0x10000 39 = .ok ws ∧ devWords (stWords (ws ++ [0, d])) aspL 0x10140 1 = .ok [d] ∧
    (breaks (Launch.ofRecord 1 none 0 aspL ws)).contains true = false ∧ (bits d 1 4 = 0 ↔ d = 0) ∧ (stageRefused d = false ↔ d ≠ 0) := by
  intro d hd
  rcases hd with rfl | rfl <;>
    exact ⟨of_wordsAre (by decide +kernel), of_wordsAre (by decide +kernel), by decide +kernel, by decide +kernel, by decide +kernel⟩

/-! The window, devices, selection and encodings. -/

/-- WindowEvents: units with a send, with a latched command, clear and blocked by an older unit; one whose bank fails; the
oldest unit with each act at commit; a trap at it; a pending trap of a handler; a starved thread. -/
def wu (seq : Nat) : WUnit := { WUnit.start th0 with seq := seq }
def out0 (trap : Option TrapInfo := none) : AluOut := ⟨[(4, 7)], 0, trap, .none⟩
def thWin (w : List WUnit) : Thread := { th0 with window := w, nextSeq := w.length }
def far1 : Place := .slice 0
def ctxFar : Ctx := { th0.ctx with pmap := 0x40, anc := [(0, 0x40000000)], aset := 1 }
def ctxBank : Ctx := { th0.ctx with pmap := 0x80, anc := [(0, 0x40000000)], aset := 1 }
theorem witness_WindowEvents_places :
    (let u := { wu 0 with before := ctxFar, sends := [8] }
     (st (thWin [u])).thread? 0 = some (thWin [u]) ∧ (thWin [u]).unit? 0 = some u ∧ u.trap = none ∧ (8 : Reg) ∈ u.sends ∧
     ∀ v ∈ (thWin [u]).window, ¬v.seq < u.seq) ∧
    (let v := { wu 0 with before := ctxFar, sends := [8] }
     let u := { wu 1 with before := ctxFar, sends := [8], cmd := some (out0) }
     (thWin [v, u]).unit? 1 = some u ∧ v ∈ (thWin [v, u]).window ∧ v.seq < u.seq ∧ v.trap = none ∧ (8 : Reg) ∈ v.sends ∧ u.sends ≠ []) ∧
    (∀ x ∈ [none, some (trapOf 0x10 5)], let u := { wu 0 with cmd := some (out0 x), pend := [4], done := false }
      (thWin [u]).unit? 0 = some u ∧ u.cmd = some (out0 x) ∧ (out0 x).trap = x ∧ u.sends = [] ∧ lastWrite (out0 x).writes 4 = some 7) ∧
    (let u := { wu 0 with before := ctxBank, cmd := some (out0), pend := [8], done := false }
     let s := { stFar with threads := [(0, { thWin [u] with ctx := ctxBank })] }
     s.thread? 0 = some { thWin [u] with ctx := ctxBank } ∧ u.before.place 8 = .bank 0 ∧
     (bankOfUnit s (en { thWin [u] with ctx := ctxBank }) u).isSome = true) ∧
    (let u := { wu 1 with sends := [4], cmd := some (out0) }
     let th := { thWin [wu 0, u] with xreq := some 0 }
     th.unit? 1 = some u ∧ siteOf stFar (en th) u.before 4 = laneSite ∧ homeOf stFar (en th) u = laneSite ∧ th.xreq ≠ none ∧
     ∃ v ∈ th.window, v.seq < u.seq) := by
  refine ⟨⟨rfl, by decide +kernel, rfl, by decide +kernel, by decide +kernel⟩,
    ⟨by decide +kernel, by decide +kernel, by decide, rfl, by decide +kernel, by decide +kernel⟩, ?_, ⟨rfl, by decide +kernel, by decide +kernel⟩, by decide +kernel⟩
  intro x hx
  simp only [List.mem_cons, List.not_mem_nil, or_false] at hx
  rcases hx with rfl | rfl <;> exact ⟨by decide +kernel, rfl, rfl, rfl, by decide +kernel⟩
theorem witness_WindowEvents_commit :
    (∀ a ∈ [CommitAct.none, .access 0, .rel none, .rel (some [3])], ∀ b, let u := { wu 0 with act := a, done := b }
      (st (thWin [u])).thread? (st (thWin [u])).cur = some (thWin [u]) ∧ (thWin [u]).window = u :: [] ∧ u.trap = none ∧
      (∀ x ∈ (thWin [u]).accs, u.seq ≤ x.seq) ∧ (∀ p ∈ (st (thWin [u])).pubs, p.id ∉ [3])) ∧
    (let th := { thWin [{ wu 1 with act := .rel none }] with accs := [acc .store p9] }
     ∃ x ∈ th.accs, x.seq < ({ wu 1 with act := .rel none } : WUnit).seq) ∧
    (∃ s1 ids, release (st (thWin [wu 0])) (tCore 0) = (s1, ids)) ∧
    (let u := { wu 0 with trap := some (trapOf 0x10 5), undo := [(4, 9)] }
     (thWin [u, wu 1]).window = u :: [wu 1] ∧ u.trap = some (trapOf 0x10 5) ∧ (∀ v ∈ [wu 1], u.seq ≤ v.seq) ∧ lastWrite u.undo 4 = some 9) ∧
    (let th := { th0 with pendTrap := some (trapOf 0x10 5) }
     let tm := { tm0 with halted := true, trapTid := some 0 }
     (st th tm).env (st th tm).cur = some (en th tm) ∧ th.window = [] ∧ tm.trapTid = some (tTid 0) ∧ th.inh = false ∧ tm.escal = false) ∧
    (let th := { th0 with age := 4096, yieldEnd := some 0 }
     (st th).thread? (st th).cur = some th ∧ 4096 ≤ th.age ∧ th.starved = none ∧ th.yieldEnd = some 0 ∧ 0 ≤ (st th).clk) := by
  refine ⟨fun a _ b => ⟨rfl, rfl, rfl, fun x hx => by simp [thWin, th0, benchThread] at hx, fun p hp => by simp [st, State.reset] at hp⟩,
    by decide +kernel, ⟨_, _, rfl⟩, ⟨rfl, rfl, by decide +kernel, by decide +kernel⟩, ⟨rfl, rfl, by decide +kernel, rfl, rfl⟩,
    rfl, by decide, rfl, rfl, by decide⟩

/-- WindowEvents: a send of a unit that has yet to issue, at a free place and behind an older command there; an exit that can leave, and
one whose far values cannot be written; a load that is not done; acts of units at their commit; a unit that asks. -/
def thAsk : Thread := { th0 with ctx := ctxFar, arriving := some [8] }
theorem witness_WindowEvents_asks :
    (thAsk.unit? thAsk.nextSeq = none ∧ thAsk.arriving = some [8] ∧ (8 : Reg) ∈ [(8 : Reg)] ∧ ∀ v ∈ thAsk.window, ¬v.seq < 0) ∧
    (let v := { wu 0 with before := ctxFar, sends := [8] }
     let th := { thAsk with window := [v], nextSeq := 1 }
     th.unit? th.nextSeq = none ∧ v ∈ th.window ∧ v.seq < 1 ∧ v.trap = none ∧
     (siteOf stFar (en th) v.before 8).same (siteOf stFar (en th) th.ctx 8) = true) ∧
    (Ready stFar {} c ([2, 8] ++ []) stFar (en thFar) ∧ (en thFar).th.farOf [2, 8] ≠ [] ∧ thFar.arriving = none) := by
  exact ⟨by decide +kernel, by decide +kernel, atOnce rfl rfl (by decide +kernel), by decide +kernel, rfl⟩
theorem witness_WindowEvents_acts :
    (let u := { wu 0 with act := .exit }
     (thWin [u]).window = u :: [] ∧ u.trap = none ∧ (st (thWin [u])).env 0 = some (en (thWin [u])) ∧
     (∃ x, spillChecks (st (thWin [u])) (en (thWin [u])) (List.range 32) = .ok x) ∧ spillsWait (st (thWin [u])) 0 = false) ∧
    (let u := { wu 0 with act := .exit }
     let th := { thWin [u] with ctx := ctxFar, regs := [(8, 7)] }
     (st th).env 0 = some (en th) ∧ ∃ ti, spillChecks (st th) (en th) (List.range 32) = .trap ti) ∧
    (∀ a ∈ [CommitAct.guard 3 2, .status 1 1, .bari 2 5, .lease 8, .unlock, .slots], (∀ o, a ≠ .rel o) ∧ (∀ id, a ≠ .access id) ∧ a ≠ .exit ∧
      (thWin [{ wu 0 with act := a, done := false }]).window = [{ wu 0 with act := a, done := false }]) ∧
    (st th0).team? (teamKey 0) = some tm0 ∧
    (let u := { wu 0 with trap := some (trapOf 0x10 5), undo := [(4, 9)] }
     (((st (thWin [u])).core 0).jobs.filter (fun j => j.thread == 0 && j.seq != 0 && decide (u.seq ≤ j.seq))) = [] ∧
     (st (thWin [u])).thread? 0 = some (thWin [u])) := by
  refine ⟨⟨rfl, rfl, rfl, of_chkOk (by decide +kernel), by decide +kernel⟩, ⟨rfl, of_chkTrap (by decide +kernel)⟩, ?_, rfl, rfl, rfl⟩
  intro a ha
  simp only [List.mem_cons, List.not_mem_nil, or_false] at ha
  rcases ha with rfl | rfl | rfl | rfl | rfl | rfl <;> exact ⟨by simp, by simp, by simp, rfl⟩

/-- DeviceEvents: a device that is down, in recovery, up; configurations signed and not, with a deadline and a core of a die
that is not enabled; windows of the limiter; a port and a die. -/
def conf0 (b : Bool) : ConfigRecord :=
  { State.reset.config with signed := b, dies := 1, cores := [0, 64], queues := [(3, aspL)], policy := { State.reset.config.policy with deadline := [(1, 100)] } }
theorem witness_DeviceEvents : (State.reset.up = false ∧ State.reset.recovery = false) ∧ ({ State.reset with recovery := true } : State).recovery = true ∧
    ({ State.reset with up := true } : State).up = true ∧ (∀ b, (conf0 b).signed = b) ∧ find? (conf0 true).policy.deadline 1 = some 100 ∧
    (0 ∈ (conf0 true).cores ∧ (conf0 true).dies.getLsbD (0 / 64) = true) ∧ (conf0 true).dies.getLsbD (64 / 64) = false ∧
    (State.reset.clk < State.reset.powerAt + 9400 ∧ ({ State.reset with clk := 9400 } : State).powerAt + 9400 ≤ 9400) ∧
    (3 : Nat) < 4 ∧ ({ State.reset with cur := 23 } : State).cur < 24 ∧ find? (stQ qp0).queues 0 = some qp0 :=
  ⟨⟨rfl, rfl⟩, rfl, rfl, fun _ => rfl, rfl, by decide +kernel, by decide +kernel, by decide +kernel, by decide, by decide, rfl⟩

/-- StepRunsDecoded: a thread whose turn it is, at a word of an instruction, at two words, a header, a pair, words that are none, and
an instruction where none may stand; and agendas. -/
def stTurn (w : Nat) (crem : Nat := 2) : State := { st { th0 with ctx := { th0.ctx with crem := crem } } tm0 la0 w with issueQ := [0] }
def enTurn (crem : Nat := 2) : Env := en { th0 with ctx := { th0.ctx with crem := crem } }
def fetchIs (s : State) (e : Env) (w : DWord) : Bool := match fetchWord s e e.th.ctx.pc with
  | .ok s1 v => v == w && (match fetchWord s1 e (e.th.ctx.pc + 8) with | .ok _ _ => true | _ => false)
  | _ => false
theorem of_fetchIs {s : State} {e : Env} {w : DWord} (h : fetchIs s e w = true) :
    ∃ s1 s2 w2, fetchWord s e e.th.ctx.pc = .ok s1 w ∧ fetchWord s1 e (e.th.ctx.pc + 8) = .ok s2 w2 := by
  unfold fetchIs at h
  split at h
  · rename_i s1 v hf
    simp only [Bool.and_eq_true, beq_iff_eq] at h
    obtain ⟨hv, h2⟩ := h
    split at h2
    · rename_i s2 w2 hg
      exact ⟨s1, s2, w2, by rw [hf, hv], hg⟩
    · exact absurd h2 (by decide)
  · exact absurd h (by decide)
theorem witness_StepRunsDecoded_fetch : ∀ w ∈ ([0x0801028140000800, 0xC000000012345678, 0x8004001480020000, 0x468302010A070400,
    0x0000000000000001, 0x8000000000000000] : List DWord), ∀ n ∈ [0, 2],
    let s0 : State := { stTurn w.toNat n with issueQ := [], cur := 0, stalled := false, pair := none }
    (stTurn w.toNat n).issueQ = 0 :: [] ∧ s0.env 0 = some (enTurn n) ∧ (enTurn n).th.exited = false ∧
    (∀ u ∈ (enTurn n).th.window, u.trap = none) ∧ (enTurn n).th.wait = .none ∧ (enTurn n).th.window.length < 8 ∧
    (enTurn n).th.pendTrap = none ∧ (enTurn n).th.param = none ∧ (enTurn n).th.stale = false ∧ (enTurn n).th.awaited = false ∧ ∃ s1 s2 w2, fetchWord s0 (enTurn n) (enTurn n).th.ctx.pc = .ok s1 w ∧
      fetchWord s1 (enTurn n) ((enTurn n).th.ctx.pc + 8) = .ok s2 w2 := by
  intro w hw n hn
  simp only [List.mem_cons, List.not_mem_nil, or_false] at hw hn
  refine ⟨rfl, rfl, rfl, fun u hu => by simp [enTurn, en, th0, benchThread] at hu, rfl, by revert n; simp [enTurn, en, th0, benchThread], rfl, rfl, rfl, rfl, of_fetchIs ?_⟩
  rcases hw with rfl | rfl | rfl | rfl | rfl | rfl <;> rcases hn with rfl | rfl <;> decide +kernel
theorem wf {i : Instr} (h : i.fault = none) : WellFormed i := h
theorem witness_StepRunsDecoded_words :
    (let i : Instr := .add k 4 10 (.reg 5)
     WellFormed i ∧ encode i = [0x0801028140000800] ∧ (∀ h, i ≠ .clauseHeader h) ∧ structureOk (enTurn 2).th.ctx i 1 = true ∧
     (enTurn 2).th.ctx.crem ≠ 0 ∧ (enTurn 0).th.ctx.crem = 0) ∧
    (let i : Instr := .liB32 k 5 (.lit 0x12345678)
     WellFormed i ∧ encode i = [0xC000000012345678, 0x0F41400000000800] ∧ 2 ≤ (enTurn 2).th.ctx.crem ∧ structureOk (enTurn 2).th.ctx i 2 = true) ∧
    (let h : Header := ⟨1, none, none, 5, false, false, some 1⟩; h.wf = true ∧ (0x8004001480020000 : DWord) = h.pack) ∧
    (let i : Instr := .pairShl 6 (.imm 4 2)
     let j : Instr := .pairXor 7 (.reg 4)
     WellFormed i ∧ WellFormed j ∧ pairDestsOk i j = true ∧ encodePair i j = some 0x468302010A070400) ∧
    (∃ x, decodeWord 0x0000000000000001 none = .error x ∧ x.reason < 6) ∧ decodeHeader 0x8000000000000000 = none ∧
    (∃ ms, ({ State.reset with agenda := [.ev 3 .portDown, .tick] } : State).agenda = .ev 3 .portDown :: ms) ∧
    (∃ ms, ({ State.reset with agenda := [.due 3 .portDown] } : State).agenda = .due 3 .portDown :: ms) ∧ State.reset.issueQ = [] := by
  refine ⟨⟨wf (by decide +kernel), by decide +kernel, (fun _ h => Instr.noConfusion h), by decide +kernel, by decide +kernel, rfl⟩,
    ⟨wf (by decide +kernel), by decide +kernel, by decide +kernel, by decide +kernel⟩, ⟨by decide +kernel, by decide +kernel⟩,
    ⟨wf (by decide +kernel), wf (by decide +kernel), by decide +kernel, by decide +kernel⟩, ⟨⟨3, _⟩, rfl, by decide⟩, by decide +kernel, ⟨_, rfl⟩, ⟨_, rfl⟩, rfl⟩

/-- StepRunsDecoded: a thread in the clause whose header stands before its PC, which it has to read again; a lease unit that has
something due, and one that has not. -/
def thStale : Thread := { th0 with ctx := { th0.ctx with pc := 0x4008 }, stale := true }
def stStale : State := { st thStale tm0 la0 (0x0801028140000800 * 2 ^ 64 + 0x8004001480020000) with issueQ := [0] }
theorem of_clauseAt {x : ClauseSearch} (h : (match x with | .found _ _ => true | _ => false) = true) : ∃ c n, x = .found c n := by
  cases x <;> first | exact ⟨_, _, rfl⟩ | cases h
theorem witness_StepRunsDecoded_stale :
    (let s0 : State := { stStale with issueQ := [], cur := 0, stalled := false, pair := none }
     stStale.issueQ = 0 :: [] ∧ s0.env 0 = some (en thStale) ∧ thStale.stale = true ∧ (∃ cl left, clauseAt s0 (en thStale) 0x4008 = .found cl left) ∧
     (match clauseAt s0 (en thStale) 0x4008 with
      | .found cl left =>
        let e := en (thStale.atClause cl left)
        (match fetchWord (s0.setThread 0 e.th) e 0x4008 with | .ok _ w => w == 0x0801028140000800 && e.th.ctx.crem != 0 | _ => false)
      | _ => false) = true) ∧
    leaseDue (stLease ⟨8, false, 0, none, none, 0, 0, 0⟩ 0) ((stLease ⟨8, false, 0, none, none, 0, 0, 0⟩ 0).core 0) = true ∧
    (∀ k ∈ (stL1 1 true).cores, leaseDue (stL1 1 true) k.2 = false) :=
  ⟨⟨rfl, rfl, rfl, of_clauseAt (by decide +kernel), by decide +kernel⟩, by decide +kernel, by decide +kernel⟩

/-- IssueSets: a thread that comes up past a header, one that may not issue, one inside a clause, and one whose oldest unit commits. -/
theorem witness_IssueSets_comeUp :
    (∀ n ∈ [0, 2], (stTurn 0 n).env 0 = some (enTurn n) ∧ (stTurn 0 n).stalled = false ∧ (stTurn 0 n).pair = none ∧
      (enTurn n).th.stale = false ∧ (enTurn n).th.window = [] ∧ (enTurn n).mayIssue (stTurn 0 n).clk = true ∧ (enTurn n).th.ctx.crem = n) ∧
    (st th0 tmHalt).env 0 = some (en th0 tmHalt) ∧ (en th0 tmHalt).mayIssue 0 = false ∧
    (∃ y, commitHead (st (thWin [wu 0])) 0 = some y ∧ (commitHead y 0).isNone = true) := by
  refine ⟨?_, rfl, by decide +kernel, ?_⟩
  · intro n hn
    simp only [List.mem_cons, List.not_mem_nil, or_false] at hn
    rcases hn with rfl | rfl <;> exact ⟨rfl, by decide +kernel⟩
  · have h : (match commitHead (st (thWin [wu 0])) 0 with | some y => (commitHead y 0).isNone | none => false) = true := by decide +kernel
    split at h
    · exact ⟨_, ‹_›, h⟩
    · cases h

/-- StepRunsDecoded: events that come about by themselves, one that can and one that cannot; the end of a clk, where a line is overdue
and where none is, and an access to another module that is on its way. -/
def stTick (clk : Nat) (a : Access) : State := { stL1 1 true { th0 with accs := [a] } with clk := clk, agenda := [.tick] }
theorem witness_StepRunsDecoded_tick :
    (∃ t, exec .portDown { State.reset with cur := 3 } = .next t) ∧ (∃ f, exec .launchEnd { State.reset with cur := 3 } = .fault f) ∧
    (∀ n, n = 0 ∨ n = 4096 → let s0 : State := { stTick n (acc .store p9) with agenda := [] }
      (stTick n (acc .store p9)).issueQ = [] ∧ (lineOverdue s0 = true ↔ n = 4096)) ∧
    (let a := { aLate (.load false [4]) false with sent := none }
     let s0 : State := { stTick 0 a with agenda := [] }
     s0.env 0 = some (en { th0 with accs := [a] }) ∧ a.sent = none ∧ a.onWay (en { th0 with accs := [a] }) = true) := by
  refine ⟨⟨_, rfl⟩, ⟨_, rfl⟩, fun n hn => ?_, rfl, rfl, by decide +kernel⟩
  rcases hn with rfl | rfl <;> exact ⟨rfl, by decide +kernel⟩

/-- IssueSets: a cluster with a ready thread, and one with a starved thread; its turn. -/
def stIssue (th : Thread) : State := { st th tm0 la0 0x0801028140000800 with agenda := [.issue 0 0] }
theorem witness_IssueSets : (∀ a, let th := { th0 with starved := a }
      let s := stIssue th
      s.issueQ = [] ∧ s.agenda = .issue 0 0 :: [] ∧ ((0, 0) : Nat × Nat) ∉ s.issued ∧ Sorted s.threads = true) ∧
    (let s0 : State := { stIssue th0 with stalled := false, pair := none, agenda := [] }
     withheld s0 0 = false ∧ 0 ∈ clusterThreads s0 0 0 ∧ Machine.ready s0 0 = true ∧ (candOf s0 0).isSome = true) ∧
    (let s := { stIssue th0 with issued := [(0, 2)] }; ∃ x ∈ s.issued, 0 < x.2) ∧
    (let s := { stIssue th0 with dram := benchMemory [] (full 0x83 0 0 0 0 0).toNat }
     (match step s with
      | .next t => t.issueSet == [0] && (match t.env 0 with
        | some e => (match nextUnit { t with issueQ := [], issueSet := s.issueSet, issued := s.issued } e with
          | .run _ (.one (.xacq _) _) => true | _ => false)
        | none => false)
      | _ => false) = true) ∧
    (let s := stIssue { th0 with exited := true }
     (match step s with | .next t => t.issueSet == [] | _ => false) = true ∧ 0 ∈ clusterThreads { s with agenda := [] } 0 0) := by
  exact ⟨fun a => ⟨rfl, rfl, by simp [stIssue, st, State.reset], rfl⟩, ⟨rfl, by decide +kernel, by decide +kernel, by decide +kernel⟩,
    by decide +kernel, by decide +kernel, by decide +kernel, by decide +kernel⟩

/-- RoundTrip: an instruction, a header, a pair, and a word that decodes to one instruction. -/
theorem witness_RoundTrip : WellFormed (.add k 4 10 (.reg 5)) ∧ (Instr.add k 4 10 (.reg 5)).toFields ≠ none ∧
    Header.wf ⟨1, none, none, 5, false, false, some 1⟩ = true ∧
    (WellFormed (.pairShl 6 (.imm 4 2)) ∧ WellFormed (.pairXor 7 (.reg 4)) ∧ pairDestsOk (.pairShl 6 (.imm 4 2)) (.pairXor 7 (.reg 4)) = true ∧
      encodePair (.pairShl 6 (.imm 4 2)) (.pairXor 7 (.reg 4)) = some 0x468302010A070400) ∧
    decodeWord 0x0801028140000800 none = .ok (.one (.add k 4 10 (.reg 5)) 1) ∧
    decodeWord 0xC000000012345678 (some 0x0F41400000000800) = .ok (.one (.liB32 k 5 (.lit 0x12345678)) 2) := by
  exact ⟨wf (by decide +kernel), by decide +kernel, by decide +kernel, ⟨wf (by decide +kernel), wf (by decide +kernel), by decide +kernel,
    by decide +kernel⟩, by decide +kernel, by decide +kernel⟩

/-- MemoryCanonicalKept: the state after reset steps, its memories in canonical form. -/
theorem witness_MemoryCanonicalKept : State.reset.MemOk ∧ ∃ t, step State.reset = .next t := by
  refine ⟨⟨rfl, rfl, rfl⟩, ?_⟩
  exact ⟨_, rfl⟩
/-! Refusals of WellFormed: one term for each check (R18, R29, R33, R34, R37, R137). -/

theorem test_wellFormed_refuses :
    (Instr.ld c 7 4 2 (.c8 0)).fault = some 2 ∧ (Instr.exit { c with g := 1 }).fault = some 3 ∧ (Instr.exit { c with k := true }).fault = some 3 ∧
    (Instr.pairShl 6 (.imm 4 32)).fault = some 4 ∧ (Instr.add64 c 5 10 (.reg 6)).fault = some 7 ∧
    (Instr.shl c false 4 10 (.imm (.c8 32))).fault = some 7 := by decide +kernel
theorem test_header_refuses : Header.wf ⟨1, none, none, 0, false, false, none⟩ = false ∧ Header.wf ⟨0, some 12, none, 5, false, false, none⟩ = false ∧
    Header.wf ⟨0, some 3, some 3, 5, false, false, none⟩ = false := by decide +kernel

/-! One step of an instruction on a small state, with results worked out by hand from the rules. -/

/-- The state after an instruction of the thread whose registers are given. -/
def after (i : Instr) (r : List (Nat × Word)) (la : Launch := la0) : State :=
  match exec i (st (regs th0 r) tm0 la) with | .next t => t | _ => State.reset
/-- A register then, and the cause and TINFO of the trap that escalated. -/
def reg (t : State) (n : Reg) : Option Word := (t.thread? 0).map (fun th => th.read n)
def trapped (t : State) : Option (Nat × Nat) := (find? t.launches 0).bind (fun l => l.trec.map (fun r => (r.1, r.2.2.2.1)))

/-- R137, R140. -/
theorem test_integer : reg (after (.add c 4 5 (.reg 6)) [(5, 0xFFFFFFFF), (6, 2)]) 4 = some 1 ∧
    reg (after (.add c 4 5 (.imm (.c8 0xFF))) [(5, 3)]) 4 = some 2 ∧
    reg (after (.addSat c 4 5 (.reg 6)) [(5, 0x7FFFFFFF), (6, 1)]) 4 = some 0x7FFFFFFF ∧
    reg (after (.sub c 4 5 (.reg 6)) [(5, 1), (6, 2)]) 4 = some 0xFFFFFFFF ∧
    reg (after (.subSat c 4 5 (.reg 6)) [(5, 0x80000000), (6, 1)]) 4 = some 0x80000000 ∧
    reg (after (.addc c 4 6 8 10) [(6, 0xFFFFFFFF), (10, 3)]) 5 = some 1 := by decide +kernel
theorem test_products : reg (after (.mul c 4 5 (.reg 6)) [(5, 0x10000), (6, 0x10001)]) 4 = some 0x10000 ∧
    reg (after (.mulh c false 4 5 (.reg 6)) [(5, 0xFFFFFFFF), (6, 2)]) 4 = some 0xFFFFFFFF ∧
    reg (after (.mulh c true 4 5 (.reg 6)) [(5, 0xFFFFFFFF), (6, 2)]) 4 = some 1 ∧
    reg (after (.mad c 4 5 6 7) [(5, 3), (6, 5), (7, 0xFFFFFFFF)]) 4 = some 14 ∧
    reg (after (.madS64 c 4 6 7 8) [(6, 0xFFFFFFFF), (7, 1)]) 5 = some 0xFFFFFFFF := by decide +kernel
theorem test_orders : reg (after (.min c false 4 5 (.reg 6)) [(5, 0x80000000), (6, 1)]) 4 = some 0x80000000 ∧
    reg (after (.max c true 4 5 (.reg 6)) [(5, 0x80000000), (6, 1)]) 4 = some 0x80000000 ∧
    reg (after (.abs c 4 5) [(5, 0x80000000)]) 4 = some 0x80000000 ∧ reg (after (.abs c 4 5) [(5, 0xFFFFFFFE)]) 4 = some 2 ∧
    reg (after (.cmp c 2 false 4 5 (.reg 6)) [(5, 0xFFFFFFFF), (6, 0)]) 4 = some 1 ∧ reg (after (.sel c 4 5 6 7) [(5, 8), (6, 9)]) 4 = some 9 := by
  decide +kernel
theorem test_logic : reg (after (.and c 4 5 (.imm (.c8 0xF0))) [(5, 0xFFFFFFFF)]) 4 = some 0xF0 ∧ reg (after (.andn c 4 5 (.reg 6)) [(5, 0xF), (6, 5)]) 4 = some 0xA ∧
    reg (after (.xor c 4 4 (.reg 4)) [(4, 7)]) 4 = some 0 ∧ reg (after (.not c 4 5) []) 4 = some 0xFFFFFFFF := by decide +kernel
theorem test_shifts : reg (after (.shl c false 4 5 (.reg 6)) [(5, 3), (6, 33)]) 4 = some 6 ∧
    reg (after (.sar c true 4 6 (.imm (.c8 32))) [(7, 0x80000001)]) 4 = some 0x80000001 ∧
    reg (after (.sar c true 4 6 (.imm (.c8 32))) [(7, 0x80000001)]) 5 = some 0xFFFFFFFF ∧
    reg (after (.shr c false 4 5 (.imm (.c8 31))) [(5, 0x80000000)]) 4 = some 1 ∧
    reg (after (.rol c false 4 5 (.imm (.c8 4))) [(5, 0xF0000001)]) 4 = some 0x1F ∧ reg (after (.clz c false 4 5) []) 4 = some 32 ∧
    reg (after (.popc c true 4 6) [(6, 3), (7, 1)]) 4 = some 3 ∧ reg (after (.brev c false 4 5) [(5, 1)]) 4 = some 0x80000000 := by decide +kernel

/-- R141. -/
theorem test_fields : reg (after (.bfe c false 4 5 (.reg 6)) [(5, 0xF0), (6, 0x404)]) 4 = some 0xFFFFFFFF ∧
    reg (after (.bfe c true 4 5 (.reg 6)) [(5, 0xF0), (6, 0x404)]) 4 = some 0xF ∧
    reg (after (.bfi c 4 5 6 7) [(5, 0xFF), (6, 0x81C), (7, 1)]) 4 = some 0xF0000001 ∧
    reg (after (.prmt c 4 5 6 7) [(5, 0x44332211), (6, 0x88776655), (7, 0xF740)]) 4 = some 0xFF885511 := by decide +kernel

/-- R143 to R149: sums, an exact tie, infinities of opposite signs, signed zeros, and the functions at exact points. -/
theorem test_float : reg (after (.fadd c 0 4 5 (.reg 6)) [(5, 0x3F800000), (6, 0x40000000)]) 4 = some 0x40400000 ∧
    reg (after (.fadd c 0 4 5 (.reg 6)) [(5, 0x3F800000), (6, 0x33800000)]) 4 = some 0x3F800000 ∧
    reg (after (.fsub c 0 4 5 (.reg 6)) [(5, 0x7F800000), (6, 0x7F800000)]) 4 = some 0x7FC00000 ∧
    reg (after (.fmul c 0 4 5 (.reg 6)) [(5, 0x3F800001), (6, 0x3F800001)]) 4 = some 0x3F800002 ∧
    reg (after (.ffma c 0 4 5 6 7) [(5, 0x40000000), (6, 0x40400000), (7, 0x3F800000)]) 4 = some 0x40E00000 ∧
    reg (after (.fmin c 0 4 5 (.reg 6)) [(6, 0x80000000)]) 4 = some 0x80000000 ∧
    reg (after (.fmax c 0 4 5 (.reg 6)) [(5, 0x7FC00000), (6, 0xBF800000)]) 4 = some 0xBF800000 := by decide +kernel
theorem test_functions : reg (after (.frcp c 0 4 5) [(5, 0x40000000)]) 4 = some 0x3F000000 ∧ reg (after (.fsqrt c 0 4 5) [(5, 0x40800000)]) 4 = some 0x40000000 ∧
    reg (after (.frsq c 0 4 5) [(5, 0x40800000)]) 4 = some 0x3F000000 ∧ reg (after (.flg2 c 0 4 5) [(5, 0x41000000)]) 4 = some 0x40400000 ∧
    reg (after (.fcls c 4 5) [(5, 0x7F800001)]) 4 = some 0x100 ∧ reg (after (.fcls c 4 5) [(5, 0x80000001)]) 4 = some 4 := by decide +kernel
theorem test_exponential : reg (after (.fex2 c 0 4 5) [(5, 0x40400000)]) 4 = some 0x41000000 := by decide +kernel

/-- R150, R151. -/
theorem test_conversions : reg (after (.fcvtS32F32 c 4 5) [(5, 0x40200000)]) 4 = some 2 ∧ reg (after (.fcvtS32F32 c 4 5) [(5, 0xFF800000)]) 4 = some 0x80000000 ∧
    reg (after (.fcvtB32F32 c 4 5) [(5, 0xBF800000)]) 4 = some 0 ∧ reg (after (.fcvtF32S32 c 4 5) [(5, 0xFFFFFFFF)]) 4 = some 0xBF800000 ∧
    reg (after (.fcvtF32B32 c 4 5) [(5, 0xFFFFFFFF)]) 4 = some 0x4F800000 ∧ reg (after (.fcvtF32Bf16 c 4 5 true) [(5, 0x3F800000)]) 4 = some 0x3F800000 := by
  decide +kernel

/-- R140: values from immediates, pairs and addresses. -/
theorem test_moves : reg (after (.liB32 c 4 (.c8 0x80)) []) 4 = some 0xFFFFFF80 ∧ reg (after (.liB64 c 4 (.c8 0xFE)) []) 5 = some 0xFFFFFFFF ∧
    reg (after (.add64 c 4 6 (.reg 8)) [(6, 0xFFFFFFFF), (8, 1)]) 5 = some 1 ∧ reg (after (.lea c 4 6 8 3) [(6, 16), (8, 0xFFFFFFFF)]) 4 = some 8 ∧
    reg (after (.mov c 4 5) [(5, 6)]) 4 = some 6 := by decide +kernel

/-- R70, R71, R73, R119, R36: control flow from 0x4000 to a header word at 0x4008, and to a word that is none. -/
def pcAfter (i : Instr) (r : List (Nat × Word)) (w : Nat := 2 ^ 64 * 0x8000000400000000) : Option DWord :=
  match exec i (st (regs th0 r) tm0 la0 w) with | .next t => (t.thread? 0).map (·.ctx.pc) | _ => none
theorem test_control : pcAfter (.br c 1) [] = some 0x4008 ∧ pcAfter (.brc c 0 false 4 5 1) [] = some 0x4008 ∧
    pcAfter (.jmp c 4) [(4, 0x4008)] = some 0x4008 ∧ pcAfter (.nop c) [] = some 0x4008 ∧
    trapped (after (.br c 1) []) = some (2, 0x4008) ∧ trapped (after (.trap c 5) []) = some (0x10, 5) ∧
    trapped (after (.tinvUnmapAll c 4) []) = some (0x90001, 0) := by decide +kernel

/-- R293, R299: a load and a store of 4 bytes at 0x9000 are outstanding; a misaligned one traps. -/
theorem test_memory : ((after (.ld c 4 4 2 (.c8 0)) [(2, 0x9000)]).thread? 0).map (fun th => th.accs.map (fun a => (a.va, a.size, a.commit))) = some [(0x9000, 4, false)] ∧
    ((after (.st c 4 2 4 (.c8 4)) [(2, 0x9000), (4, 7)]).thread? 0).map (fun th => th.accs.map (fun a => (a.va, a.data))) = some [(0x9004, 7)] ∧
    trapped (after (.ld c 4 4 2 (.c8 1)) [(2, 0x9000)]) = some (3, 0x9001) := by decide +kernel
theorem test_store_performs : (match exec (.storePerform 0 0) (stL1 0 true (thAcc .store p9)) with
    | .next t => (t.viewByte 0 0x9000, t.viewByte 0 0x9004, (t.thread? 0).map (fun th => (th.accs.length, th.flag 0))) == (7, 0, some (0, 0))
    | _ => false) = true := by decide +kernel

/-- R57, R104. -/
theorem test_special : reg (after (.rds c 4 0x00) []) 4 ≠ none ∧ reg (after (.rds c 4 0x1C) []) 4 ≠ none := by decide +kernel

/-- log 14: the first step after reset runs the instruction that stands there; R33: one with a literal. -/
def first (nbits w : Nat) (n : Reg) : Option Word := match step (State.reset.withFetchWord nbits w) with | .next t => reg t n | _ => none
theorem test_first_step : first 64 (full 0x3D 5 0 0 0x7F 0).toNat 5 = some 0x7F ∧ first 128 (0xC000000012345678 + 2 ^ 64 * 0x0F41400000000800) 5 = some 0x12345678 := by
  decide +kernel

end Sys2Proof.Tests
end

section
/-! Every step keeps every memory in canonical form (R9, logs 4 and 5).

There is one lemma `f_memOk` for each function `f` of the model that gives a state, in the order of the model's
files: from a state whose memories are canonical, `f` gives such a state. A function that puts others together is
settled by naming their lemmas, as one term where it has no branches, else by `grind` over its branches. The cases
are written out where a memory is written, where a function calls itself, and where a branch turns on the result of
another function. -/

namespace Sys2Proof.Machine

/-! What a result of each kind carries is in canonical form. -/

/-- The next state of an outcome, if it has one, has canonical memories. -/
def Outcome.MemOk : Outcome → Prop
  | .next s => s.MemOk
  | .fault _ | .refused _ => True

def ClassRes.MemOk : ClassRes → Prop
  | .ok s _ | .wait s => s.MemOk

def ReadRes.MemOk : ReadRes → Prop
  | .ok s _ | .wait s => s.MemOk

def Chk.MemOk : Chk → Prop
  | .ok s | .wait s => s.MemOk
  | .trap _ => True

def Now.MemOk : Now → Prop
  | .ok s _ | .stall s | .wait s => s.MemOk
  | .trap _ => True

def Accept.MemOk : Accept → Prop
  | .wait s => s.MemOk
  | .ok | .trap _ | .hole => True

def Got.MemOk {α : Type} : Got α → Prop
  | .ok s _ | .wait s => s.MemOk
  | .fault _ _ => True

def Table.MemOk : Table → Prop
  | .ok s _ | .stall s | .wait s => s.MemOk
  | .trap _ => True

def Ran.MemOk : Ran → Prop
  | .ok s _ | .wait s => s.MemOk
  | .lost _ | .decode _ | .mismatch => True

def RowChk.MemOk : RowChk → Prop
  | .wait s => s.MemOk
  | .ok _ | .trap _ => True

def Pages.MemOk : Pages → Prop
  | .wait s => s.MemOk
  | .ok | .lost _ | .moving => True

def Fetch.MemOk : Fetch → Prop
  | .ok s _ | .wait s => s.MemOk
  | .trap _ | .hole => True

def Dev.MemOk {α : Type} : Dev α → Prop
  | .wait s => s.MemOk
  | .ok _ | .bad _ _ => True

def Submitted.MemOk : Submitted → Prop
  | .wait s => s.MemOk
  | .ok _ | .refused _ _ => True

def Area.MemOk : Area → Prop
  | .wait s => s.MemOk
  | .ok _ | .trap _ | .hole => True

def Next.MemOk : Next → Prop
  | .run s _ | .wait s => s.MemOk
  | .trap _ | .hole => True

def Refreshed.MemOk : Refreshed → Prop
  | .ok s _ => s.MemOk
  | .stop n => n.MemOk

theorem foldl_memOk {s : State} {α : Type} {f : State → α → State} {xs : List α}
    (hf : ∀ s x, s.MemOk → (f s x).MemOk) (hs : s.MemOk) :
    (xs.foldl f s).MemOk := by
  induction xs generalizing s with grind [List.foldl]

section Memories

variable {s : State} {m : Memory}

theorem State.MemOk.dram (hs : s.MemOk) : Memory.wf s.dram = true := by
  obtain ⟨hd, _, _⟩ := hs; exact hd

theorem State.MemOk.hostMem (hs : s.MemOk) : Memory.wf s.hostMem = true := by
  obtain ⟨_, hh, _⟩ := hs; exact hh

theorem State.MemOk.remote (hs : s.MemOk) : Memory.wf s.remote = true := by
  obtain ⟨_, _, hr⟩ := hs; exact hr

theorem State.MemOk.withDram (hs : s.MemOk) (hm : m.wf = true) : State.MemOk { s with dram :=
  m } :=
  ⟨hm, hs.hostMem, hs.remote⟩

theorem State.MemOk.withHostMem (hs : s.MemOk) (hm : m.wf = true) : State.MemOk { s with hostMem :=
  m } :=
  ⟨hs.dram, hm, hs.remote⟩

theorem State.MemOk.withRemote (hs : s.MemOk) (hm : m.wf = true) : State.MemOk { s with remote :=
  m } :=
  ⟨hs.dram, hs.hostMem, hm⟩

end Memories

theorem freeBytes_wf {m : Memory} {a free n} (hm : m.wf = true) : (freeBytes m a free n).wf = true := by
  induction n generalizing m a free with
  | zero => exact hm
  | succ n ih => exact ih (Memory.wf_write hm _ _)

theorem copyMem_wf {m : Memory} {src dst n} (hm : m.wf = true) : (copyMem m src dst n).wf = true := by
  have key (cs : List Host.Cell) (k : Memory) (hk : k.wf = true) :
      Memory.wf (cs.foldl (fun k c => Memory.write k (c.1 - src + dst) c.2) k) = true := by
    induction cs generalizing k with
    | nil => exact hk
    | cons c cs ih => exact ih _ (Memory.wf_write hk _ _)
  exact key _ _ (Memory.wf_filter hm _)

theorem putHost_wf {m : Memory} {a ws} (hm : m.wf = true) : (putHost m a ws).wf = true := by
  induction ws generalizing m a with
  | nil => exact hm
  | cons w ws ih => exact ih (Memory.wf_writeN hm _ _ _)

section

variable {s : State}

/-! ### Machine/Mem.lean -/

theorem dramPut_memOk {ln d} (hs : s.MemOk) : (dramPut s ln d).MemOk :=
  hs.withDram (Memory.wf_writeN hs.dram _ _ _)

theorem l2Evict_memOk {ln} (hs : s.MemOk) : (l2Evict s ln).MemOk := by
  grind [l2Evict, dramPut_memOk, State.MemOk]

theorem l2Room_memOk {ln ways n} (hs : s.MemOk) : (l2Room ln ways n s).MemOk := by
  induction n generalizing s with
  | zero => exact hs
  | succ n ih => grind [l2Room, l2Evict_memOk]

theorem yieldWays_memOk {die} (hs : s.MemOk) : (yieldWays s die).MemOk := by
  grind [yieldWays, l2Room_memOk, foldl_memOk]

theorem l2Install_memOk {ln l} (hs : s.MemOk) : (l2Install s ln l).MemOk := by
  grind [l2Install, l2Room_memOk, dramPut_memOk, State.MemOk]

theorem l2Fill_memOk {ln rank rc} (hs : s.MemOk) : (l2Fill s ln rank rc).MemOk := by
  grind [l2Fill, l2Install_memOk, State.MemOk]

theorem homeMergeAs_memOk {rank ln d mask} (hs : s.MemOk) : (homeMergeAs s rank ln d mask).MemOk := by
  grind [homeMergeAs, l2Install_memOk, State.MemOk]

theorem homeMerge_memOk {ln d mask} (hs : s.MemOk) : (homeMerge s ln d mask).MemOk := homeMergeAs_memOk hs

theorem homeWrite_memOk {pa n v} (hs : s.MemOk) : (homeWrite s pa n v).MemOk := homeMerge_memOk hs

theorem setClass_memOk {p cls own} (hs : s.MemOk) : (setClass s p cls own).MemOk := by
  grind [setClass, homeWrite_memOk, State.MemOk]

theorem classify_memOk {core p} (hs : s.MemOk) : (classify s core p).MemOk := by
  grind [classify, setClass_memOk, ClassRes.MemOk, State.MemOk]

theorem State.setCore_memOk {c k} (hs : s.MemOk) : (State.setCore s c k).MemOk := hs

theorem publish_memOk {core ln l} (hs : s.MemOk) : (publish s core ln l).MemOk := by
  grind [publish, State.MemOk]

theorem writeBack_memOk {ln l} (hs : s.MemOk) : (writeBack s ln l).MemOk := by
  grind [writeBack, homeMergeAs_memOk]

theorem l1Evict_memOk {core ln tag} (hs : s.MemOk) : (l1Evict s core ln tag).MemOk := by
  grind [l1Evict, publish_memOk, writeBack_memOk, State.setCore_memOk]

theorem l1Room_memOk {core ln} (hs : s.MemOk) : ∀ x ∈ l1Room s core ln, x.MemOk := by
  intro x hx
  simp only [l1Room] at hx
  split at hx
  · cases hx; exact hs
  · split at hx
    · cases hx; exact hs
    · obtain ⟨v, _, rfl⟩ := Option.map_eq_some_iff.mp hx
      exact l1Evict_memOk hs

theorem tagHit_memOk {core g ln} (hs : s.MemOk) : (tagHit s core g ln).MemOk := by
  grind [tagHit, State.setCore_memOk]

theorem countRead_memOk {core ln rd} (hs : s.MemOk) : (countRead s core ln rd).MemOk := by
  grind [countRead, State.setCore_memOk]

theorem fcDrop_memOk {core ln} (hs : s.MemOk) : (fcDrop s core ln).MemOk := by
  grind [fcDrop, State.setCore_memOk]

theorem l1Read_memOk {core rd p n h} (hs : s.MemOk) : (l1Read s core rd p n h).MemOk := by
  have hc := classify_memOk (core := core) (p := p) hs
  unfold l1Read
  dsimp only
  split
  · split
    · exact hs
    · split
      · exact countRead_memOk (State.setCore_memOk hs)
      · split
        · grind [ClassRes.MemOk, ReadRes.MemOk]
        · grind [ClassRes.MemOk, ReadRes.MemOk, countRead_memOk, State.setCore_memOk, tagHit_memOk, fcDrop_memOk,
            l2Fill_memOk]
  · split
    · grind [ClassRes.MemOk, ReadRes.MemOk]
    · split
      · grind [ClassRes.MemOk, ReadRes.MemOk]
      · grind [ClassRes.MemOk, ReadRes.MemOk, l1Room_memOk, countRead_memOk, State.setCore_memOk, tagHit_memOk,
          fcDrop_memOk, l2Fill_memOk]

theorem l1Write_memOk {core g p n v h by_} (hs : s.MemOk) : (l1Write s core g p n v h by_).MemOk := by
  have hc := classify_memOk (core := core) (p := p) hs
  unfold l1Write
  dsimp only
  split
  · exact fcDrop_memOk (State.setCore_memOk hs)
  · split
    · grind [ClassRes.MemOk, ReadRes.MemOk]
    · grind [ClassRes.MemOk, ReadRes.MemOk, l1Room_memOk, tagHit_memOk, fcDrop_memOk, State.setCore_memOk]

theorem acquire_memOk {core} (hs : s.MemOk) : (acquire s core).MemOk := hs

theorem release_memOk {core} (hs : s.MemOk) : (release s core).1.MemOk := by
  grind [release, publish_memOk, foldl_memOk]

theorem revokeAt_memOk {core ln w} (hs : s.MemOk) : (revokeAt s core ln w).MemOk := by
  grind [revokeAt, State.setCore_memOk]

theorem dropCopies_memOk {ln} (hs : s.MemOk) : (dropCopies s ln).MemOk := hs

theorem flushCoreLine_memOk {core ln} (hs : s.MemOk) : (flushCoreLine s core ln).MemOk := by
  grind [flushCoreLine, homeMerge_memOk, State.setCore_memOk]

theorem l2Clean_memOk {ln} (hs : s.MemOk) : (l2Clean s ln).MemOk := by
  grind [l2Clean, dramPut_memOk, State.MemOk]

theorem l2Drop_memOk {ln} (hs : s.MemOk) : (l2Drop s ln).MemOk := hs

/-! ### Machine/Xlat.lean -/

theorem State.tell_memOk {asp va} (hs : s.MemOk) : (State.tell s asp va).MemOk := by
  grind [State.tell, State.MemOk]

theorem physWrite_memOk {p n v} (hs : s.MemOk) : (physWrite s p n v).MemOk := by
  unfold physWrite
  split
  · exact homeWrite_memOk hs
  · split
    · exact hs.withHostMem (Memory.wf_writeN hs.hostMem _ _ _)
    · exact hs.withRemote (Memory.wf_writeN hs.remote _ _ _)

/-! ### Machine/Launches.lean -/

theorem State.setThread_memOk {t th} (hs : s.MemOk) : (State.setThread s t th).MemOk := hs

theorem State.modThread_memOk {t f} (hs : s.MemOk) : (State.modThread s t f).MemOk := hs

theorem State.setTeam_memOk {k tm} (hs : s.MemOk) : (State.setTeam s k tm).MemOk := hs

theorem State.modTeam_memOk {k f} (hs : s.MemOk) : (State.modTeam s k f).MemOk := by
  grind [State.modTeam, State.setTeam_memOk]

theorem State.modLaunch_memOk {lid f} (hs : s.MemOk) : (State.modLaunch s lid f).MemOk := hs

/-! ### Machine/Ops.lean -/

theorem State.stall_memOk (hs : s.MemOk) : Outcome.MemOk (State.stall s) := hs

theorem State.dropTalloc_memOk {t} (hs : s.MemOk) : (State.dropTalloc s t).MemOk := by
  grind [State.dropTalloc, State.setCore_memOk, State.MemOk]

theorem freeJob_memOk {core j} (hs : s.MemOk) : (freeJob s core j).MemOk := hs

theorem dropJob_memOk {core j} (hs : s.MemOk) : (dropJob s core j).MemOk := hs

theorem State.rollbackTo_memOk {t seq} (hs : s.MemOk) : (State.rollbackTo s t seq).MemOk :=
  State.modThread_memOk (foldl_memOk (fun _ _ => dropJob_memOk) hs)

theorem withdrawWfix_memOk {j} (hs : s.MemOk) : (withdrawWfix s j).MemOk := by
  grind [withdrawWfix, dropJob_memOk, State.rollbackTo_memOk]

theorem dropHeldFix_memOk {t} (hs : s.MemOk) : (dropHeldFix s t).MemOk := by
  grind [dropHeldFix, withdrawWfix_memOk, foldl_memOk]

theorem rollWait_memOk {t} (hs : s.MemOk) : (rollWait s t).MemOk := by
  grind [rollWait, State.modThread_memOk, State.rollbackTo_memOk]

theorem haltThread_memOk {t} (hs : s.MemOk) : (haltThread s t).MemOk := by
  grind [haltThread, State.dropTalloc_memOk, dropHeldFix_memOk, State.modThread_memOk, rollWait_memOk]

theorem haltTeam_memOk {t} (hs : s.MemOk) : (haltTeam s t).MemOk := by
  grind [haltTeam, State.setTeam_memOk, haltThread_memOk, foldl_memOk]

theorem displace_memOk {t} (hs : s.MemOk) : (displace s t).MemOk := by
  grind [displace, State.modLaunch_memOk, State.modThread_memOk, State.modTeam_memOk]

theorem haltFor_memOk {t} (hs : s.MemOk) : (haltFor s t).MemOk := by
  grind [haltFor, haltTeam_memOk, displace_memOk]

theorem deliverTrap_memOk {t ti} (hs : s.MemOk) : (deliverTrap s t ti).MemOk := by
  grind [deliverTrap, State.setTeam_memOk, State.setThread_memOk, State.modLaunch_memOk]

theorem deliverLate_memOk {t ti} (hs : s.MemOk) : (deliverLate s t ti).MemOk := by
  grind [deliverLate, deliverTrap_memOk, State.modTeam_memOk]

theorem takeTrap_memOk {t ti} (hs : s.MemOk) : (takeTrap s t ti).MemOk := by
  grind [takeTrap, haltFor_memOk, State.modThread_memOk, deliverLate_memOk]

theorem raiseTrap_memOk {t ti} (hs : s.MemOk) : (raiseTrap s t ti).MemOk := by
  grind [raiseTrap, State.tell_memOk, takeTrap_memOk, State.modThread_memOk, haltFor_memOk]

theorem trapUnit_memOk {t seq ti} (hs : s.MemOk) : (trapUnit s t seq ti).MemOk := by
  grind [trapUnit, State.modThread_memOk, haltFor_memOk]

theorem rollbackTrap_memOk {t} (hs : s.MemOk) : ∀ x ∈ rollbackTrap s t, x.MemOk := by
  grind [rollbackTrap, takeTrap_memOk, State.rollbackTo_memOk]

theorem attributedTrap_memOk {t ti} (hs : s.MemOk) : (attributedTrap s t ti).MemOk := by
  grind [attributedTrap, State.modThread_memOk, haltThread_memOk, haltFor_memOk, deliverLate_memOk,
    State.setThread_memOk]

theorem State.takePending_memOk {t} (hs : s.MemOk) : (State.takePending s t).MemOk := hs

theorem deliverPending_memOk {t} (hs : s.MemOk) : ∀ x ∈ deliverPending s t, x.MemOk := by
  grind [deliverPending, deliverTrap_memOk, State.takePending_memOk]

theorem releaseTeam_memOk {k} (hs : s.MemOk) : (releaseTeam s k).MemOk := by
  grind [releaseTeam, State.setTeam_memOk, State.modThread_memOk, foldl_memOk]

theorem resumeTeam_memOk {k} (hs : s.MemOk) : (resumeTeam s k).MemOk := by
  grind [resumeTeam, releaseTeam_memOk, State.setTeam_memOk, deliverTrap_memOk, State.takePending_memOk]

theorem paramTrap_memOk {k} (hs : s.MemOk) : (paramTrap s k).MemOk := by
  grind [paramTrap, State.modThread_memOk, resumeTeam_memOk, foldl_memOk]

theorem unit_memOk {m c n k} (hs : s.MemOk) (hk : ∀ e, Outcome.MemOk (k e)) : Outcome.MemOk (unit s m c n k) := by
  grind [unit, State.stall_memOk, paramTrap_memOk, raiseTrap_memOk, State.setThread_memOk, Outcome.MemOk]

theorem Chk.andThen_memOk {c : Chk} {k : State → Chk} (hc : c.MemOk) (hk : ∀ s, s.MemOk → (k s).MemOk) :
    (c.andThen k).MemOk := by
  cases c with
  | ok s => exact hk s hc
  | trap ti => trivial
  | wait s => exact hc

theorem State.waitFor_memOk {t w} (hs : s.MemOk) : (State.waitFor s t w).MemOk := hs

theorem State.waitWalk_memOk {t va} (hs : s.MemOk) : (State.waitWalk s t va).MemOk := hs

theorem State.request_memOk {die pasid page write} (hs : s.MemOk) :
    (State.request s die pasid page write).MemOk := by
  grind [State.request, State.MemOk]

theorem State.waitAts_memOk {e page va write} (hs : s.MemOk) : (State.waitAts s e page va write).MemOk :=
  State.waitFor_memOk (State.request_memOk hs)

theorem xlatChk_memOk {e va n k} (hs : s.MemOk) (hk : ∀ a, (k a).MemOk) : (xlatChk s e va n k).MemOk := by
  grind [xlatChk, State.waitWalk_memOk, State.waitAts_memOk, Chk.MemOk]

theorem bindSlot_memOk {e b bc} (hs : s.MemOk) : (bindSlot s e b bc).MemOk := by
  grind [bindSlot, State.setThread_memOk, Chk.MemOk, State.MemOk]

theorem fetchBlock_memOk {e b p} (hs : s.MemOk) : (fetchBlock s e b p).MemOk := by
  grind [fetchBlock, State.modThread_memOk]

theorem shareReg_memOk {e r p} (hs : s.MemOk) : (shareReg s e r p).MemOk := by
  grind [shareReg, State.modThread_memOk, State.MemOk]

theorem checkReg_memOk {e r} (hs : s.MemOk) : (checkReg s e r).MemOk := by
  grind [checkReg, xlatChk_memOk, shareReg_memOk, fetchBlock_memOk, bindSlot_memOk, Chk.MemOk]

theorem checkRegs_memOk {e rs} (hs : s.MemOk) : (checkRegs s e rs).MemOk := by
  induction rs generalizing s with
  | nil => exact hs
  | cons r rs ih => grind [checkRegs, checkReg_memOk, Chk.MemOk]

theorem operands_memOk {e rs k} (hs : s.MemOk) (hk : ∀ s e, s.MemOk → Outcome.MemOk (k s e)) :
    Outcome.MemOk (operands s e rs k) := by
  grind [operands, checkRegs_memOk, raiseTrap_memOk, State.stall_memOk, Chk.MemOk, Outcome.MemOk]

theorem gather_memOk {e srcs dsts k} (hs : s.MemOk) (hk : ∀ s e, s.MemOk → Outcome.MemOk (k s e)) :
    Outcome.MemOk (gather s e srcs dsts k) := by
  grind [gather, operands_memOk, State.setThread_memOk, Outcome.MemOk]

theorem computeIssue_memOk {e kbit n srcs dsts o} (hs : s.MemOk) :
    (computeIssue s e kbit n srcs dsts o).MemOk := by
  unfold computeIssue
  dsimp only
  split
  · exact State.setThread_memOk hs
  · split
    · exact raiseTrap_memOk hs
    · exact State.setThread_memOk hs

theorem compute_memOk {c n srcs dsts f} (hs : s.MemOk) : Outcome.MemOk (compute s c n srcs dsts f) :=
  unit_memOk hs fun _ => operands_memOk hs fun _ _ => computeIssue_memOk

theorem settle_memOk {e c n ws} (hs : s.MemOk) : (settle s e c n ws).MemOk := by
  grind [settle, State.setThread_memOk]

theorem settleAct_memOk {e n act fps now} (hs : s.MemOk) (hnow : ∀ s, s.MemOk → (now s).MemOk) :
    (settleAct s e n act fps now).MemOk := by
  grind [settleAct, State.setThread_memOk]

/-! ### Machine/Teams.lean -/

theorem grantLock_memOk {core n g} (hs : s.MemOk) : (grantLock s core n g).MemOk :=
  foldl_memOk (fun _ _ => State.setThread_memOk) (State.setCore_memOk hs)

theorem offerLock_memOk {core n} (hs : s.MemOk) : (offerLock s core n).MemOk := by
  grind [offerLock, grantLock_memOk]

theorem releaseLock_memOk {t} (hs : s.MemOk) : (releaseLock s t).MemOk := by
  grind [releaseLock, State.setThread_memOk, offerLock_memOk, State.setCore_memOk]

theorem spillBlock_memOk {e b} (hs : s.MemOk) : (spillBlock s e b).MemOk := by
  unfold spillBlock
  dsimp only
  split
  · split
    · split
      · exact hs.withDram (Memory.wf_writeN hs.dram _ _ _)
      · exact physWrite_memOk hs
    · exact hs
  · exact hs

theorem spillCheck_memOk {e b} (hs : s.MemOk) : (spillCheck s e b).MemOk := by
  grind [spillCheck, xlatChk_memOk, Chk.MemOk]

theorem spillChecks_memOk {e bs} (hs : s.MemOk) : (spillChecks s e bs).MemOk := by
  induction bs with
  | nil => exact hs
  | cons b bs ih => grind [spillChecks, spillCheck_memOk]

theorem spillAll_memOk {t} (hs : s.MemOk) : (spillAll s t).MemOk := by
  grind [spillAll, spillBlock_memOk, foldl_memOk]

theorem freeSlots_memOk {t keep} (hs : s.MemOk) : (freeSlots s t keep).MemOk := by
  grind [freeSlots, State.setThread_memOk, State.MemOk]

theorem freeHandle_memOk {core h} (hs : s.MemOk) : (freeHandle s core h).MemOk := by
  grind [freeHandle, State.setCore_memOk]

theorem dropTeam_memOk {k} (hs : s.MemOk) : (dropTeam s k).MemOk := by
  grind [dropTeam, freeSlots_memOk, releaseLock_memOk, State.setThread_memOk, State.setCore_memOk,
    State.modLaunch_memOk, freeHandle_memOk, foldl_memOk, State.MemOk]

theorem foldTeam_memOk {tm} (hs : s.MemOk) : (foldTeam s tm).MemOk := hs

theorem endTeam_memOk {k} (hs : s.MemOk) : (endTeam s k).MemOk := by
  grind [endTeam, dropTeam_memOk, foldTeam_memOk, release_memOk, State.waitFor_memOk]

theorem tryEndTeam_memOk {k} (hs : s.MemOk) : (tryEndTeam s k).MemOk := by
  grind [tryEndTeam, endTeam_memOk]

theorem lastExit_memOk {t} (hs : s.MemOk) : (lastExit s t).MemOk := by
  grind [lastExit, tryEndTeam_memOk, State.modThread_memOk, State.setCore_memOk, takeTrap_memOk, foldl_memOk]

theorem meetCheck_memOk {g arrived} (hs : s.MemOk) : (meetCheck s g arrived).MemOk := by
  grind [meetCheck, raiseTrap_memOk, State.waitFor_memOk]

theorem exitThread_memOk {t} (hs : s.MemOk) : (exitThread s t).MemOk := by
  grind [exitThread, spillAll_memOk, freeSlots_memOk, releaseLock_memOk, State.modThread_memOk,
    State.setCore_memOk, lastExit_memOk, meetCheck_memOk]

theorem resolve_memOk {t g v} (hs : s.MemOk) : (resolve s t g v).MemOk := State.modTeam_memOk hs

theorem setBarrier_memOk {t b count} (hs : s.MemOk) : (setBarrier s t b count).MemOk := State.modTeam_memOk hs

theorem setLease_memOk {t n} (hs : s.MemOk) : (setLease s t n).MemOk := hs

theorem trimSlots_memOk {t} (hs : s.MemOk) : (trimSlots s t).MemOk := by
  grind [trimSlots, freeSlots_memOk]

theorem commitAct_memOk {t act} (hs : s.MemOk) : (commitAct s t act).MemOk := by
  cases act with
  | none | rel | access => exact hs
  | status => exact State.modTeam_memOk hs
  | guard => exact resolve_memOk hs
  | bari => exact setBarrier_memOk hs
  | lease => exact setLease_memOk hs
  | unlock => exact releaseLock_memOk hs
  | slots => exact trimSlots_memOk hs
  | exit => exact exitThread_memOk hs

theorem commitUnit_memOk {t th u w} (hs : s.MemOk) : (commitUnit s t th u w).MemOk := by
  grind [commitUnit, State.setThread_memOk, commitAct_memOk]

theorem commitExit_memOk {t th u w} (hs : s.MemOk) : ∀ x ∈ commitExit s t th u w, x.MemOk := by
  grind [commitExit, trapUnit_memOk, spillChecks_memOk, commitUnit_memOk, Chk.MemOk]

theorem commitHead_memOk {t} (hs : s.MemOk) : ∀ x ∈ commitHead s t, x.MemOk := by
  grind [commitHead, release_memOk, commitUnit_memOk, commitExit_memOk, State.setThread_memOk]

theorem commitAll_memOk {t n} (hs : s.MemOk) : (commitAll s t n).MemOk := by
  induction n generalizing s with
  | zero => exact hs
  | succ n ih => grind [commitAll, commitHead_memOk]

/-! ### Machine/Operands.lean -/

theorem unary_memOk {c xd xa f} (hs : s.MemOk) : Outcome.MemOk (unary s c xd xa f) := compute_memOk hs

theorem binary_memOk {c xd xa v imm f} (hs : s.MemOk) : Outcome.MemOk (binary s c xd xa v imm f) :=
  compute_memOk hs

theorem ternary_memOk {c xd xa xb xc f} (hs : s.MemOk) : Outcome.MemOk (ternary s c xd xa xb xc f) :=
  compute_memOk hs

theorem unaryWide_memOk {c xd xa f} (hs : s.MemOk) : Outcome.MemOk (unaryWide s c xd xa f) := compute_memOk hs

theorem unary64_memOk {c xd xa f} (hs : s.MemOk) : Outcome.MemOk (unary64 s c xd xa f) := compute_memOk hs

theorem shift64_memOk {c xd xa v f} (hs : s.MemOk) : Outcome.MemOk (shift64 s c xd xa v f) := compute_memOk hs

theorem withSlot_memOk {fs k} (hs : s.MemOk) (hk : ∀ a, Outcome.MemOk (k a)) :
    Outcome.MemOk (withSlot s fs k) := by
  grind [withSlot, State.stall_memOk, paramTrap_memOk, raiseTrap_memOk, Outcome.MemOk]

/-! ### Machine/Access.lean -/

theorem accessCheck_memOk {e va size n req k} (hs : s.MemOk) (hk : ∀ a, Outcome.MemOk (k a)) :
    Outcome.MemOk (accessCheck s e va size n req k) := by
  grind [accessCheck, raiseTrap_memOk, xlatChk_memOk, State.stall_memOk, Chk.MemOk, Outcome.MemOk]

theorem issueAccess_memOk {e n srcs a loads next} (hs : s.MemOk) : (issueAccess s e n srcs a loads next).MemOk :=
  hs

theorem readNow_memOk {e va n} (hs : s.MemOk) : (readNow s e va n).MemOk := by
  grind [readNow, State.waitWalk_memOk, State.waitAts_memOk, l1Read_memOk, Now.MemOk, ReadRes.MemOk]

theorem withRelease_memOk {e precise k} (hs : s.MemOk) (hk : ∀ s, s.MemOk → Outcome.MemOk (k s)) :
    Outcome.MemOk (withRelease s e precise k) := by
  grind [withRelease, State.stall_memOk, State.waitFor_memOk, release_memOk, Outcome.MemOk]

/-! ### Machine/Handles.lean -/

theorem acceptPages_memOk {e n bankOf hi fuel va} (hs : s.MemOk) :
    (acceptPages s e n bankOf hi fuel va).MemOk := by
  induction fuel generalizing va with
  | zero => trivial
  | succ fuel ih => grind [acceptPages, xlatChk_memOk, Chk.MemOk, Accept.MemOk]

theorem acceptRegions_memOk {e n dest rs} (hs : s.MemOk) : (acceptRegions s e n dest rs).MemOk := by
  induction rs with
  | nil => trivial
  | cons r rs ih => cases r <;> grind [acceptRegions, acceptPages_memOk, Accept.MemOk]

theorem submit_memOk {e c i d more} (hs : s.MemOk) (hmore : ∀ s, s.MemOk → (more s).MemOk) :
    Outcome.MemOk (submit s e c i d more) := by
  grind [submit, raiseTrap_memOk, acceptRegions_memOk, settle_memOk, State.setCore_memOk, Accept.MemOk,
    Outcome.MemOk]

theorem withEntry_memOk {e k} (hs : s.MemOk) (hk : Outcome.MemOk k) : Outcome.MemOk (withEntry s e k) := by
  grind [withEntry, State.stall_memOk]

theorem engineUnit_memOk {c i rs conds draft more} (hs : s.MemOk) (hmore : ∀ e s, s.MemOk → (more e s).MemOk) :
    Outcome.MemOk (engineUnit s c i rs conds draft more) := by
  grind [engineUnit, unit_memOk, withEntry_memOk, gather_memOk, raiseTrap_memOk, submit_memOk, Outcome.MemOk]

/-! ### Machine/Tiles.lean -/

theorem grantTile_memOk {r} (hs : s.MemOk) : (grantTile s r).MemOk := by
  grind [grantTile, State.setCore_memOk, yieldWays_memOk, State.modTeam_memOk]

theorem execTalloc_memOk {c lvlS hd xv} (hs : s.MemOk) : Outcome.MemOk (execTalloc c lvlS hd xv s) := by
  grind [execTalloc, unit_memOk, gather_memOk, raiseTrap_memOk, grantTile_memOk, settle_memOk,
    State.modThread_memOk, State.setCore_memOk, Outcome.MemOk, State.MemOk]

theorem execTfree_memOk {c hd} (hs : s.MemOk) : Outcome.MemOk (execTfree c hd s) := by
  grind [execTfree, unit_memOk, raiseTrap_memOk, State.modTeam_memOk, settle_memOk, freeHandle_memOk,
    Outcome.MemOk]

theorem makeView_memOk {e hd base d bind} (hs : s.MemOk) : (makeView s e hd base d bind).MemOk :=
  State.modTeam_memOk hs

theorem execTmap_memOk {c hd xa xv} (hs : s.MemOk) : Outcome.MemOk (execTmap c hd xa xv s) := by
  grind [execTmap, unit_memOk, gather_memOk, raiseTrap_memOk, makeView_memOk, settle_memOk, Outcome.MemOk]

theorem execTld_memOk {c xd ha xc} (hs : s.MemOk) : Outcome.MemOk (execTld c xd ha xc s) := by
  grind [execTld, unit_memOk, operands_memOk, raiseTrap_memOk, accessCheck_memOk, issueAccess_memOk,
    State.stall_memOk, Outcome.MemOk]

theorem execTst_memOk {c ha xc xb} (hs : s.MemOk) : Outcome.MemOk (execTst c ha xc xb s) := by
  grind [execTst, unit_memOk, operands_memOk, raiseTrap_memOk, accessCheck_memOk, issueAccess_memOk,
    State.stall_memOk, Outcome.MemOk]

theorem elementwise_memOk {c i hd ha hb acc} (hs : s.MemOk) : Outcome.MemOk (elementwise s c i hd ha hb acc) :=
  engineUnit_memOk hs fun _ _ hs => hs

theorem convertJob_memOk {c i hd ha conds} (hs : s.MemOk) : Outcome.MemOk (convertJob s c i hd ha conds) :=
  engineUnit_memOk hs fun _ _ hs => hs

theorem reduceJob_memOk {c i axis hd ha} (hs : s.MemOk) : Outcome.MemOk (reduceJob s c i axis hd ha) :=
  convertJob_memOk hs

/-! ### Machine/Matrix.lean -/

theorem readWords_memOk {e va n k} (hs : s.MemOk) (hk : ∀ s ws, s.MemOk → Outcome.MemOk (k s ws)) :
    Outcome.MemOk (readWords s e va n k) := by
  induction n generalizing s va k with
  | zero => exact hk s [] hs
  | succ n ih => grind [readWords, readNow_memOk, raiseTrap_memOk, State.stall_memOk, Now.MemOk, Outcome.MemOk]

theorem execGmm_memOk {c hc ha hb xp} (hs : s.MemOk) : Outcome.MemOk (execGmm c hc ha hb xp s) := by
  grind [execGmm, unit_memOk, withEntry_memOk, gather_memOk, raiseTrap_memOk, submit_memOk, readWords_memOk,
    Outcome.MemOk]

theorem readProgram_memOk {e va n k} (hs : s.MemOk) (hk : ∀ s ws, s.MemOk → Outcome.MemOk (k s ws)) :
    Outcome.MemOk (readProgram s e va n k) := by
  induction n generalizing s va k with
  | zero => exact hk s [] hs
  | succ n ih => grind [readProgram, readNow_memOk, raiseTrap_memOk, State.stall_memOk, Now.MemOk, Outcome.MemOk]

theorem execEpild_memOk {c n xa} (hs : s.MemOk) : Outcome.MemOk (execEpild c n xa s) := by
  grind [execEpild, unit_memOk, withEntry_memOk, gather_memOk, raiseTrap_memOk, readProgram_memOk, submit_memOk,
    State.setCore_memOk, Outcome.MemOk]

/-! ### Machine/Engines.lean -/

theorem Got.andThen_memOk {α β : Type} {g : Got α} {k : State → α → Got β} (hg : g.MemOk)
    (hk : ∀ s a, s.MemOk → (k s a).MemOk) :
    (g.andThen k).MemOk := by
  cases g with
  | ok s a => exact hk s a hg
  | wait s => exact hg
  | fault c va => trivial

theorem fcRead_memOk {core rd p n h} (hs : s.MemOk) : (fcRead s core rd p n h).MemOk := by
  grind [fcRead, State.setCore_memOk, countRead_memOk, classify_memOk, l2Fill_memOk, ClassRes.MemOk,
    ReadRes.MemOk]

theorem chunkRead_memOk {core path rd p n} (hs : s.MemOk) : (chunkRead s core path rd p n).MemOk := by
  unfold chunkRead
  split
  · exact hs
  · split
    · exact hs
    · grind [l1Read_memOk, l2Fill_memOk, fcRead_memOk, ReadRes.MemOk]

theorem pull_memOk {e path rd fuel va n} (hs : s.MemOk) : (pull s e path rd fuel va n).MemOk := by
  induction fuel generalizing s va n with
  | zero => exact hs
  | succ fuel ih => grind [pull, chunkRead_memOk, State.request_memOk, Got.andThen_memOk, ReadRes.MemOk, Got.MemOk]

theorem pullRange_memOk {e path rd va n} (hs : s.MemOk) : (pullRange s e path rd va n).MemOk := pull_memOk hs

theorem viewRows_memOk {e path rd g c0 cols n r} (hs : s.MemOk) : (viewRows s e path rd g c0 cols n r).MemOk := by
  induction n generalizing s r with
  | zero => exact hs
  | succ n ih => exact Got.andThen_memOk (pullRange_memOk hs) fun _ _ hs => Got.andThen_memOk (ih hs) fun _ _ hs => hs

theorem pullRect_memOk {e path rd g r} (hs : s.MemOk) : (pullRect s e path rd g r).MemOk := by
  grind [pullRect, Got.andThen_memOk, viewRows_memOk, Got.MemOk]

theorem putView_memOk {e base bit w v} (hs : s.MemOk) : (putView s e base bit w v).MemOk := by
  refine foldl_memOk (fun s i hs => ?_) hs
  split
  · exact hs.withDram (Memory.wf_write hs.dram _ _)
  · exact hs

theorem putCode_memOk {e g r c v} (hs : s.MemOk) : (putCode s e g r c v).MemOk := by
  grind [putCode, putView_memOk, State.setCore_memOk]

theorem putCodes_memOk {e g ws} (hs : s.MemOk) : (putCodes s e g ws).MemOk :=
  foldl_memOk (fun _ _ => putCode_memOk) hs

/-! ### Machine/FetchUnit.lean -/

theorem execFbind_memOk {c fs hd xa xv} (hs : s.MemOk) : Outcome.MemOk (execFbind c fs hd xa xv s) := by
  grind [execFbind, withSlot_memOk, unit_memOk, gather_memOk, raiseTrap_memOk, makeView_memOk, settle_memOk,
    Outcome.MemOk]

theorem xlatBytes_memOk {e k vas ps} (hs : s.MemOk) (hk : ∀ ps, Outcome.MemOk (k ps)) :
    Outcome.MemOk (xlatBytes s e k vas ps) := by
  induction vas generalizing ps with
  | nil => exact hk _
  | cons va vas ih => grind [xlatBytes, xlatChk_memOk, raiseTrap_memOk, State.stall_memOk, Chk.MemOk, Outcome.MemOk]

theorem execFget_memOk {c xd hf xc} (hs : s.MemOk) : Outcome.MemOk (execFget c xd hf xc s) := by
  refine unit_memOk hs fun e => operands_memOk hs fun s e hs => ?_
  dsimp only
  split
  · exact raiseTrap_memOk hs
  · refine xlatBytes_memOk hs fun _ => ?_
    split
    · exact State.stall_memOk hs
    · refine xlatBytes_memOk hs fun _ => ?_
      split
      · exact raiseTrap_memOk hs
      · split
        · exact State.stall_memOk hs
        · exact issueAccess_memOk hs

/-! ### Machine/Distributor.lean -/

theorem tableWords_memOk {e va n} (hs : s.MemOk) : (tableWords s e va n).MemOk := by
  induction n generalizing s va with
  | zero => exact hs
  | succ n ih => grind [tableWords, readNow_memOk, Now.MemOk]

theorem snapshot_memOk {e g n} (hs : s.MemOk) : (snapshot s e g n).MemOk := by
  induction n generalizing s g with
  | zero => exact hs
  | succ n ih => grind [snapshot, tableWords_memOk, Now.MemOk, Table.MemOk]

theorem State.modDist_memOk {lid f} (hs : s.MemOk) : (State.modDist s lid f).MemOk := hs

theorem takePiece_memOk {e c xd table} (hs : s.MemOk) : (takePiece s e c xd table).MemOk := by
  grind [takePiece, settle_memOk, State.modDist_memOk]

theorem execWtake_memOk {c xd} (hs : s.MemOk) : Outcome.MemOk (execWtake c xd s) := by
  grind [execWtake, unit_memOk, operands_memOk, raiseTrap_memOk, settle_memOk, takePiece_memOk,
    State.stall_memOk, snapshot_memOk, acquire_memOk, State.modDist_memOk, Table.MemOk, Outcome.MemOk]

theorem execWfix_memOk {c xd hc xp} (hs : s.MemOk) : Outcome.MemOk (execWfix c xd hc xp s) := by
  grind [execWfix, unit_memOk, withEntry_memOk, gather_memOk, raiseTrap_memOk, submit_memOk,
    State.modThread_memOk, Outcome.MemOk]

/-! ### Machine/Perform.lean -/

theorem Got.ran_memOk {α : Type} {g : Got α} {k : State → α → Ran} (hg : g.MemOk)
    (hk : ∀ s a, s.MemOk → (k s a).MemOk) :
    (g.ran k).MemOk := by
  cases g with
  | ok s a => exact hk s a hg
  | wait s => exact hg
  | fault c va => trivial

theorem Job.codes_memOk {j e i r} (hs : s.MemOk) : (Job.codes j s e i r).MemOk := pullRect_memOk hs

theorem Job.row_memOk {j e i r} (hs : s.MemOk) : (Job.row j s e i r).MemOk := Job.codes_memOk hs

theorem setStatus_memOk {team fs b} (hs : s.MemOk) : (setStatus s team fs b).MemOk := by
  grind [setStatus, State.modTeam_memOk]

theorem copyRows_memOk {e j i n} (hs : s.MemOk) : (copyRows s e j i n).MemOk :=
  Got.ran_memOk (Job.codes_memOk hs) fun _ _ => putCodes_memOk

theorem workCopy_memOk {e j i} (hs : s.MemOk) : (workCopy s e j i).MemOk := by
  grind [workCopy, copyRows_memOk, Got.ran_memOk, pullRect_memOk, putCodes_memOk, Ran.MemOk]

theorem workFill_memOk {e j i} (hs : s.MemOk) : (workFill s e j i).MemOk := putCodes_memOk hs

theorem workElementwise_memOk {e j r acc fl int} (hs : s.MemOk) : (workElementwise s e j r acc fl int).MemOk := by
  grind [workElementwise, Got.ran_memOk, Job.row_memOk, putCodes_memOk, Got.MemOk, Ran.MemOk]

theorem workConvert_memOk {e j r sat} (hs : s.MemOk) : (workConvert s e j r sat).MemOk :=
  Got.ran_memOk (Job.row_memOk hs) fun _ _ => putCodes_memOk

theorem workReduce_memOk {e j r axis fl int} (hs : s.MemOk) : (workReduce s e j r axis fl int).MemOk := by
  grind [workReduce, Got.ran_memOk, Job.codes_memOk, Job.row_memOk, putCodes_memOk, Ran.MemOk]

theorem workTranspose_memOk {e j r} (hs : s.MemOk) : (workTranspose s e j r).MemOk :=
  Got.ran_memOk (Job.codes_memOk hs) fun _ _ => putCodes_memOk

theorem workPlane_memOk {e j n fs} (hs : s.MemOk) : (workPlane s e j n fs).MemOk := by
  grind [workPlane, Got.ran_memOk, Job.codes_memOk, putCodes_memOk, Got.MemOk, Ran.MemOk]

theorem setCells_memOk {e uid ws asat} (hs : s.MemOk) : (setCells s e uid ws asat).MemOk := hs

theorem productPart_memOk {e j i ma mb} (hs : s.MemOk) : (productPart s e j i ma mb).MemOk := hs

theorem workMma_memOk {e j i} (hs : s.MemOk) : (workMma s e j i).MemOk := hs

theorem workMmas_memOk {e j i} (hs : s.MemOk) : (workMmas s e j i).MemOk :=
  Got.ran_memOk (Job.codes_memOk hs) fun _ _ hs => Got.ran_memOk (Job.codes_memOk hs) fun _ _ hs =>
    productPart_memOk hs

theorem zeroRows_memOk {e j h} (hs : s.MemOk) : (zeroRows s e j h).MemOk := hs

theorem workMzero_memOk {e j} (hs : s.MemOk) : (workMzero s e j).MemOk := hs

theorem epWord_memOk {e j x w i regs} (hs : s.MemOk) : (epWord s e j x w i regs).MemOk := by
  grind [epWord, putCodes_memOk, Got.andThen_memOk, Job.codes_memOk, Got.MemOk]

theorem epRun_memOk {e j x ws i regs} (hs : s.MemOk) : (epRun e j x ws i s regs).MemOk := by
  induction ws generalizing s i regs with
  | nil => exact hs
  | cons w ws ih =>
    unfold epRun
    split
    · exact hs
    · exact Got.andThen_memOk (epWord_memOk hs) fun _ _ hs => ih hs

theorem workDrain_memOk {e j i fs en prg} (hs : s.MemOk) : (workDrain s e j i fs en prg).MemOk := by
  grind [workDrain, putCodes_memOk, Got.ran_memOk, epRun_memOk, Ran.MemOk]

theorem pullProgram_memOk {e j va n} (hs : s.MemOk) : (pullProgram s e j va n).MemOk := by
  induction n generalizing s va with
  | zero => exact hs
  | succ n ih =>
    refine Got.andThen_memOk (pullRange_memOk hs) fun s v hs => ?_
    split
    · exact hs
    · exact Got.andThen_memOk (ih hs) fun _ _ hs => hs

theorem workEpild_memOk {e j n} (hs : s.MemOk) : (workEpild s e j n).MemOk := by
  grind [workEpild, State.setCore_memOk, Got.ran_memOk, pullProgram_memOk, Ran.MemOk]

theorem partRows_memOk {e j addr cols n} (hs : s.MemOk) : (partRows s e j addr cols n).MemOk := by
  induction n with
  | zero => exact hs
  | succ n ih => exact Got.andThen_memOk ih fun _ _ hs => Got.andThen_memOk (pullRange_memOk hs) fun _ _ hs => hs

theorem partsRows_memOk {e j cols rows as} (hs : s.MemOk) : (partsRows s e j cols rows as).MemOk := by
  induction as generalizing s with
  | nil => exact hs
  | cons a as ih =>
      exact Got.andThen_memOk (partRows_memOk hs) fun _ _ hs => Got.andThen_memOk (ih hs) fun _ _ hs => hs

theorem putPart_memOk {e addr h t} (hs : s.MemOk) : (putPart s e addr h t).MemOk := by
  grind [putPart, physWrite_memOk, foldl_memOk]

theorem workWfix_memOk {e j} (hs : s.MemOk) : (workWfix s e j).MemOk := by
  grind [workWfix, State.setCore_memOk, State.modDist_memOk, putPart_memOk, Got.ran_memOk, partsRows_memOk,
    setCells_memOk, Ran.MemOk]

theorem readRow_memOk {e path rd h slot r} (hs : s.MemOk) : (readRow s e path rd h slot r).MemOk := by
  grind [readRow, Got.andThen_memOk, pullRange_memOk, Got.MemOk]

theorem workGather_memOk {e j i} (hs : s.MemOk) : (workGather s e j i).MemOk := by
  grind [workGather, Got.ran_memOk, Job.codes_memOk, putCodes_memOk, readRow_memOk, Ran.MemOk]

theorem putElem_memOk {e h i v} (hs : s.MemOk) : (putElem s e h i v).MemOk := putCode_memOk hs

theorem putElems_memOk {e h ws} (hs : s.MemOk) : (putElems s e h ws).MemOk :=
  foldl_memOk (fun _ _ => putElem_memOk) hs

theorem putStatus_memOk {e t stop a next} (hs : s.MemOk) : (putStatus s e t stop a next).MemOk := putElems_memOk hs

theorem workSort_memOk {e j o32} (hs : s.MemOk) : (workSort s e j o32).MemOk :=
  Got.ran_memOk (Job.codes_memOk hs) fun _ _ hs => putStatus_memOk (putElems_memOk (putElems_memOk
    (putElems_memOk hs)))

theorem putBit_memOk {e h i b} (hs : s.MemOk) : (putBit s e h i b).MemOk := by
  grind [putBit, putView_memOk, State.setCore_memOk]

theorem workPack_memOk {e j} (hs : s.MemOk) : (workPack s e j).MemOk := by
  grind [workPack, Got.ran_memOk, Job.codes_memOk, putElems_memOk, putBit_memOk, putStatus_memOk, foldl_memOk,
    Ran.MemOk]

theorem Ran.freed_memOk {r : Ran} {e j} (hr : r.MemOk) : (r.freed e j).MemOk := by
  cases r with
  | ok s st =>
    refine foldl_memOk (fun s v hs => ?_) hr
    split
    · exact hs.withDram (Memory.wf_write hs.dram _ _)
    · exact hs
  | wait s => exact hr
  | lost | decode | mismatch => trivial

theorem work_memOk {e j i} (hs : s.MemOk) : (work s e j i).MemOk := by
  grind [work, workCopy_memOk, workFill_memOk, workElementwise_memOk, workConvert_memOk, workReduce_memOk,
    workTranspose_memOk, workPlane_memOk, workMma_memOk, workMmas_memOk, workMzero_memOk, workDrain_memOk,
    workEpild_memOk, workWfix_memOk, workGather_memOk, Ran.freed_memOk, workSort_memOk, workPack_memOk,
    Ran.MemOk]

theorem finishWork_memOk {e j} (hs : s.MemOk) : (finishWork s e j).MemOk := by
  grind [finishWork, setStatus_memOk, zeroRows_memOk]

/-! ### Machine/Rows.lean -/

theorem checkRow_memOk {e a dst} (hs : s.MemOk) : (checkRow s e a dst).MemOk := by
  grind [checkRow, State.waitWalk_memOk, State.waitAts_memOk, RowChk.MemOk]

theorem checkRows_memOk {e dst as ps k} (hs : s.MemOk) (hk : ∀ ps, Outcome.MemOk (k ps)) :
    Outcome.MemOk (checkRows s e dst as ps k) := by
  induction as generalizing ps with
  | nil => exact hk _
  | cons a as ih => grind [checkRows, checkRow_memOk, raiseTrap_memOk, RowChk.MemOk, Outcome.MemOk]

theorem rowIssue_memOk {c op xd srcs} (hs : s.MemOk) : Outcome.MemOk (rowIssue s c op xd srcs) := by
  grind [rowIssue, unit_memOk, operands_memOk, checkRow_memOk, raiseTrap_memOk, checkRows_memOk,
    issueAccess_memOk, RowChk.MemOk, Outcome.MemOk]

theorem execBkfence_memOk {c} (hs : s.MemOk) : Outcome.MemOk (execBkfence c s) := by
  grind [execBkfence, unit_memOk, State.stall_memOk, settle_memOk, Outcome.MemOk]

theorem withAccess_memOk {t acc k} (hk : ∀ e a, Outcome.MemOk (k e a)) : Outcome.MemOk (withAccess s t acc k) := by
  grind [withAccess, Outcome.MemOk]

theorem abandon_memOk {t a ti} (hs : s.MemOk) : (abandon s t a ti).MemOk :=
  attributedTrap_memOk (State.modThread_memOk hs)

theorem execRowOperationStart_memOk {t acc} (hs : s.MemOk) : Outcome.MemOk (execRowOperationStart t acc s) := by
  grind [execRowOperationStart, withAccess_memOk, State.stall_memOk, State.setThread_memOk, abandon_memOk,
    Outcome.MemOk, State.MemOk]

theorem execRowOperationComplete_memOk {t acc} (hs : s.MemOk) :
    Outcome.MemOk (execRowOperationComplete t acc s) := by
  refine withAccess_memOk fun e a => ?_
  split
  · split
    · exact hs
    · exact State.setThread_memOk (hs.withDram (Memory.wf_writeN hs.dram _ _ _))
  · trivial

theorem logError_memOk {kind pa core} (hs : s.MemOk) : (logError s kind pa core).MemOk := hs

theorem partError_memOk {e j i} (hs : s.MemOk) : Outcome.MemOk (partError s e j i) := by
  unfold partError
  dsimp only
  split
  · exact hs
  · refine attributedTrap_memOk ?_
    split
    · exact hs.withDram (freeBytes_wf hs.dram)
    · exact hs

theorem execBankComputeError_memOk {t acc kind} (hs : s.MemOk) :
    Outcome.MemOk (execBankComputeError t acc kind s) := by
  unfold execBankComputeError
  split
  · grind [partError_memOk, State.stall_memOk, Outcome.MemOk]
  · refine withAccess_memOk fun e a => ?_
    split
    · split
      · exact hs
      · exact abandon_memOk (hs.withDram (freeBytes_wf hs.dram))
    · trivial

/-! ### Machine/Work.lean -/

theorem dropReq_memOk {r} (hs : s.MemOk) : (dropReq s r).MemOk := State.dropTalloc_memOk hs

theorem execTallocGrant_memOk {core lvl} (hs : s.MemOk) : Outcome.MemOk (execTallocGrant core lvl s) := by
  grind [execTallocGrant, State.stall_memOk, raiseTrap_memOk, State.waitFor_memOk, dropReq_memOk,
    grantTile_memOk, settle_memOk, Outcome.MemOk]

theorem execTallocTimeout_memOk (hs : s.MemOk) : Outcome.MemOk (execTallocTimeout s) := by
  grind [execTallocTimeout, State.stall_memOk, raiseTrap_memOk, State.waitFor_memOk, dropReq_memOk,
    Outcome.MemOk]

theorem State.modJob_memOk {core id f} (hs : s.MemOk) : (State.modJob s core id f).MemOk := hs

theorem discardJob_memOk {core j} (hs : s.MemOk) : (discardJob s core j).MemOk := by
  grind [discardJob, dropJob_memOk, State.modThread_memOk, tryEndTeam_memOk]

theorem pagesNow_memOk {e n hi fuel va} (hs : s.MemOk) : (pagesNow s e n hi fuel va).MemOk := by
  induction fuel generalizing va with
  | zero => trivial
  | succ fuel ih => grind [pagesNow, State.request_memOk, Pages.MemOk]

theorem regionPages_memOk {e n rs} (hs : s.MemOk) : (regionPages s e n rs).MemOk := by
  induction rs with
  | nil => trivial
  | cons r rs ih => cases r <;> grind [regionPages, pagesNow_memOk]

theorem Job.pages_memOk {j : Job} {e} (hs : s.MemOk) : (j.pages s e).MemOk := by
  grind [Job.pages, regionPages_memOk]

theorem flushSpan_memOk {e hi fuel va} (hs : s.MemOk) : (flushSpan s e hi fuel va).MemOk := by
  induction fuel generalizing s va with
  | zero => exact hs
  | succ fuel ih => grind [flushSpan, homeMerge_memOk, State.setCore_memOk]

theorem flushReads_memOk {e j} (hs : s.MemOk) : (flushReads s e j).MemOk := by
  grind [flushReads, flushSpan_memOk, foldl_memOk]

theorem suspendJob_memOk {core j kind} (hs : s.MemOk) : (suspendJob s core j kind).MemOk := by
  grind [suspendJob, State.modJob_memOk, attributedTrap_memOk]

theorem completeJob_memOk {core e j} (hs : s.MemOk) : (completeJob s core e j).MemOk :=
  State.modJob_memOk (finishWork_memOk hs)

theorem partDone_memOk {core e j st} (hs : s.MemOk) : (partDone s core e j st).MemOk := by
  grind [partDone, State.modJob_memOk, State.setCore_memOk, completeJob_memOk]

theorem runPart_memOk {core e j} (hs : s.MemOk) : Outcome.MemOk (runPart s core e j) := by
  grind [runPart, completeJob_memOk, suspendJob_memOk, State.stall_memOk, Job.pages_memOk, State.tell_memOk,
    State.modJob_memOk, work_memOk, partDone_memOk, attributedTrap_memOk, trapUnit_memOk, freeJob_memOk,
    Ran.MemOk, Pages.MemOk, Outcome.MemOk, State.MemOk]

theorem dispatchJob_memOk {core e j} (hs : s.MemOk) : (dispatchJob s core e j).MemOk :=
  State.setCore_memOk (flushReads_memOk hs)

theorem execJobDispatch_memOk {core job} (hs : s.MemOk) : Outcome.MemOk (execJobDispatch core job s) := by
  grind [execJobDispatch, State.stall_memOk, runPart_memOk, discardJob_memOk, State.modJob_memOk,
    dispatchJob_memOk, Outcome.MemOk]

theorem execJobRetire_memOk {core job} (hs : s.MemOk) : Outcome.MemOk (execJobRetire core job s) := by
  grind [execJobRetire, State.stall_memOk, freeJob_memOk, State.modThread_memOk, tryEndTeam_memOk,
    Outcome.MemOk]

theorem execArraySelfTest_memOk {core failed} (hs : s.MemOk) :
    Outcome.MemOk (execArraySelfTest core failed s) := by
  grind [execArraySelfTest, State.stall_memOk, State.setCore_memOk, Outcome.MemOk]

theorem execEngineFault_memOk {core job kind} (hs : s.MemOk) :
    Outcome.MemOk (execEngineFault core job kind s) := by
  grind [execEngineFault, suspendJob_memOk, State.stall_memOk, Outcome.MemOk]

theorem execEngineFaultResume_memOk {core job resolved} (hs : s.MemOk) :
    Outcome.MemOk (execEngineFaultResume core job resolved s) := by
  grind [execEngineFaultResume, State.modJob_memOk, attributedTrap_memOk, State.stall_memOk, Outcome.MemOk]

/-! ### Machine/Performing.lean -/

theorem faultAccess_memOk {e a code tinfo} (hs : s.MemOk) : (faultAccess s e a code tinfo).MemOk := by
  grind [faultAccess, State.tell_memOk, attributedTrap_memOk, State.modThread_memOk, trapUnit_memOk]

theorem finishLoad_memOk {t a ws act} (hs : s.MemOk) : (finishLoad s t a ws act).MemOk :=
  tryEndTeam_memOk (State.modThread_memOk hs)

theorem readSpans_memOk {e a ps} (hs : s.MemOk) : (readSpans s e a ps).MemOk := by
  induction ps generalizing s with
  | nil => exact hs
  | cons p ps ih =>
      exact Got.andThen_memOk (pullRange_memOk hs) fun _ _ hs => Got.andThen_memOk (ih hs) fun _ _ hs => hs

theorem Got.fget_memOk {α : Type} {g : Got α} {e a} {k : State → α → Outcome} (hs : s.MemOk) (hg : g.MemOk)
    (hk : ∀ s a, s.MemOk → Outcome.MemOk (k s a)) :
    Outcome.MemOk (g.fget e a k s) := by
  cases g with
  | ok s a => exact hk s a hg
  | wait s => exact hg
  | fault c va => exact faultAccess_memOk hs

theorem fgetElem_memOk {e a h fs x n reg} (hs : s.MemOk) : Outcome.MemOk (fgetElem s e a h fs x n reg) := by
  grind [fgetElem, Got.fget_memOk, readSpans_memOk, trapUnit_memOk, finishLoad_memOk, Outcome.MemOk]

theorem fgetReturn_memOk {e a hf x reg} (hs : s.MemOk) : Outcome.MemOk (fgetReturn s e a hf x reg) := by
  grind [fgetReturn, Got.fget_memOk, pullRange_memOk, trapUnit_memOk, finishLoad_memOk, fgetElem_memOk,
    Outcome.MemOk]

theorem execLoadReturn_memOk {t acc} (hs : s.MemOk) : Outcome.MemOk (execLoadReturn t acc s) := by
  refine withAccess_memOk fun e a => ?_
  have hr : ∀ p, (l1Read s (tCore t) (a.reader s e (lineOf p.pa)) p a.size a.hint).MemOk := fun _ => l1Read_memOk hs
  grind [finishLoad_memOk, State.stall_memOk, fgetReturn_memOk, trapUnit_memOk, ReadRes.MemOk, Outcome.MemOk]

theorem finishStore_memOk {t a} (hs : s.MemOk) : (finishStore s t a).MemOk :=
  tryEndTeam_memOk (State.modThread_memOk hs)

theorem storeBytes_memOk {t p size v h} (hs : s.MemOk) : (storeBytes s t p size v h).MemOk := by
  grind [storeBytes, physWrite_memOk, l1Write_memOk, ReadRes.MemOk]

theorem performStore_memOk {t a p} (hs : s.MemOk) : (performStore s t a p).MemOk := by
  grind [performStore, storeBytes_memOk, finishStore_memOk, ReadRes.MemOk]

theorem storeToo_memOk {x} (hs : s.MemOk) : (storeToo s x).MemOk := by
  have hc : (commitAll s x.1 8).MemOk := commitAll_memOk hs
  unfold storeToo
  dsimp only
  split
  · exact hc
  · split
    · exact hc
    · split
      · exact hc
      · grind [performStore_memOk, ReadRes.MemOk]

theorem execStorePerform_memOk {t acc} (hs : s.MemOk) : Outcome.MemOk (execStorePerform t acc s) := by
  refine withAccess_memOk fun e a => ?_
  have hp : ∀ p, (performStore s t a p).MemOk := fun _ => performStore_memOk hs
  have hf : ∀ r : State, r.MemOk → ((storeSet s t a).foldl storeToo r).MemOk :=
    fun _ => foldl_memOk fun _ _ => storeToo_memOk
  grind [State.stall_memOk, finishStore_memOk, State.setCore_memOk, ReadRes.MemOk, Outcome.MemOk]

theorem finishAtom_memOk {t a old} (hs : s.MemOk) : (finishAtom s t a old).MemOk :=
  tryEndTeam_memOk (State.modThread_memOk hs)

theorem beginSet_memOk {t a} (hs : s.MemOk) : (beginSet s t a).MemOk :=
  foldl_memOk (fun _ _ => State.modThread_memOk) hs

theorem yieldWords_memOk {core ln m} (hs : s.MemOk) :
    (∀ x ∈ (yieldWords s core ln m).1, x.MemOk) ∧ (yieldWords s core ln m).2.MemOk := by
  grind [yieldWords, fcDrop_memOk, State.setCore_memOk, publish_memOk, homeMerge_memOk]

theorem revokeOwners_memOk {core ln w} (hs : s.MemOk) :
    (∀ x ∈ (revokeOwners s core ln w).1, x.MemOk) ∧ (revokeOwners s core ln w).2.MemOk := by
  grind [revokeOwners, State.MemOk]

theorem atomHome_memOk {t a p} (hs : s.MemOk) : Outcome.MemOk (atomHome s t a p) := by
  unfold atomHome
  dsimp only
  obtain ⟨hy, hw⟩ := yieldWords_memOk (core := tCore t) (ln := lineOf p.pa) (m := spanMask (p.pa % 128) a.size) hs
  split
  next r h => rw [h] at hw; exact hw
  next r _ h =>
    obtain ⟨hr, hw⟩ := revokeOwners_memOk (core := tCore t) (ln := lineOf p.pa)
      (w := wordsOf (spanMask (p.pa % 128) a.size)) (hy r (by rw [h]; rfl))
    split
    next r h => rw [h] at hw; exact hw
    next r _ h =>
      have hr : r.MemOk := hr r (by rw [h]; rfl)
      grind [homeWrite_memOk, finishAtom_memOk, beginSet_memOk, Outcome.MemOk]

theorem atomL1_memOk {e a p} (hs : s.MemOk) : Outcome.MemOk (atomL1 s e a p) := by
  grind [atomL1, l1Read_memOk, finishAtom_memOk, beginSet_memOk, l1Write_memOk, ReadRes.MemOk, Outcome.MemOk]

theorem execAtomicPerform_memOk {t acc} (hs : s.MemOk) : Outcome.MemOk (execAtomicPerform t acc s) := by
  grind [execAtomicPerform, withAccess_memOk, State.stall_memOk, physWrite_memOk, finishAtom_memOk,
    beginSet_memOk, classify_memOk, atomL1_memOk, atomHome_memOk, ClassRes.MemOk, Outcome.MemOk]

theorem execMovedRefusal_memOk {t acc} (hs : s.MemOk) : Outcome.MemOk (execMovedRefusal t acc s) := by
  grind [execMovedRefusal, withAccess_memOk, State.stall_memOk, faultAccess_memOk, State.setThread_memOk,
    State.request_memOk, Outcome.MemOk]

theorem refusedStore_memOk {e a} (hs : s.MemOk) : (refusedStore s e a).MemOk := by
  grind [refusedStore, State.modThread_memOk, trapUnit_memOk, attributedTrap_memOk, raiseTrap_memOk,
    State.waitFor_memOk]

theorem execRemoteAccessTimeout_memOk {t acc} (hs : s.MemOk) :
    Outcome.MemOk (execRemoteAccessTimeout t acc s) := by
  grind [execRemoteAccessTimeout, withAccess_memOk, State.stall_memOk, trapUnit_memOk, refusedStore_memOk,
    Outcome.MemOk]

/-! ### Machine/Coherence.lean -/

theorem modPub_memOk {id f} (hs : s.MemOk) : (modPub s id f).MemOk := hs

theorem execPublicationRequest_memOk (hs : s.MemOk) : Outcome.MemOk (execPublicationRequest s) := by
  grind [execPublicationRequest, State.stall_memOk, modPub_memOk, homeMergeAs_memOk, Outcome.MemOk, State.MemOk]

theorem endTeams_memOk {core} (hs : s.MemOk) : (endTeams s core).MemOk :=
  foldl_memOk (fun _ _ => tryEndTeam_memOk) hs

theorem execPublicationReply_memOk (hs : s.MemOk) : Outcome.MemOk (execPublicationReply s) := by
  grind [execPublicationReply, State.stall_memOk, endTeams_memOk, fcDrop_memOk, State.setCore_memOk,
    Outcome.MemOk, State.MemOk]

theorem acknowledge_memOk {r} (hs : s.MemOk) : (acknowledge s r).MemOk := by
  grind [acknowledge, modPub_memOk, State.MemOk]

theorem execRevocation_memOk (hs : s.MemOk) : Outcome.MemOk (execRevocation s) := by
  grind [execRevocation, State.stall_memOk, acknowledge_memOk, revokeAt_memOk, Outcome.MemOk]

theorem execRegistryRecall_memOk (hs : s.MemOk) : Outcome.MemOk (execRegistryRecall s) := by
  grind [execRegistryRecall, State.stall_memOk, acknowledge_memOk, homeMergeAs_memOk, State.setCore_memOk,
    Outcome.MemOk]

theorem execPublishDeadline_memOk {core line} (hs : s.MemOk) :
    Outcome.MemOk (execPublishDeadline core line s) := by
  grind [execPublishDeadline, State.stall_memOk, publish_memOk, Outcome.MemOk]

theorem execCleanDropDeadline_memOk {core line} (hs : s.MemOk) :
    Outcome.MemOk (execCleanDropDeadline core line s) := by
  grind [execCleanDropDeadline, State.stall_memOk, State.setCore_memOk, Outcome.MemOk]

theorem giveUp_memOk {core ls} (hs : s.MemOk) : (giveUp s core ls).MemOk :=
  State.setCore_memOk (foldl_memOk (fun _ _ => writeBack_memOk) hs)

theorem reclassify_memOk {pte c} (hs : s.MemOk) : ∀ x ∈ reclassify s pte c, x.MemOk := by
  grind [reclassify, giveUp_memOk, setClass_memOk, State.MemOk]

theorem execReclassification_memOk (hs : s.MemOk) : Outcome.MemOk (execReclassification s) := by
  grind [execReclassification, reclassify_memOk, State.stall_memOk, Outcome.MemOk, State.MemOk]

theorem execRemoteOrHostAccessArrival_memOk {at_ pa write size} (hs : s.MemOk) :
    Outcome.MemOk (execRemoteOrHostAccessArrival at_ pa write size s) := by
  grind [execRemoteOrHostAccessArrival, State.stall_memOk, setClass_memOk, revokeOwners_memOk, homeWrite_memOk,
    Outcome.MemOk, State.MemOk]

theorem cleanCopies_memOk {ln} (hs : s.MemOk) : (cleanCopies s ln).MemOk := by
  grind [cleanCopies, publish_memOk, flushCoreLine_memOk, foldl_memOk]

theorem Access.passed_memOk {t a n} (hs : s.MemOk) : (Access.passed t a n s).MemOk := hs

theorem cleanLine_memOk {ln k} (hs : s.MemOk) (hk : ∀ s, s.MemOk → Outcome.MemOk (k s)) :
    Outcome.MemOk (cleanLine s ln k) := by
  grind [cleanLine, State.stall_memOk, cleanCopies_memOk, l2Clean_memOk, Outcome.MemOk]

theorem execMaintenanceCompletion_memOk {t acc} (hs : s.MemOk) :
    Outcome.MemOk (execMaintenanceCompletion t acc s) := by
  grind [execMaintenanceCompletion, withAccess_memOk, State.stall_memOk, State.setThread_memOk,
    State.tell_memOk, finishStore_memOk, Access.passed_memOk, cleanLine_memOk, l2Drop_memOk, dropCopies_memOk,
    Outcome.MemOk]

theorem execPrefCompletion_memOk {t acc} (hs : s.MemOk) : Outcome.MemOk (execPrefCompletion t acc s) := by
  grind [execPrefCompletion, withAccess_memOk, State.stall_memOk, State.setThread_memOk, State.tell_memOk,
    l2Fill_memOk, finishStore_memOk, Access.passed_memOk, foldl_memOk, Outcome.MemOk]

theorem blameNext_memOk {t addr} (hs : s.MemOk) : (blameNext s t addr).MemOk := by
  grind [blameNext, attributedTrap_memOk]

theorem waiterFault_memOk {addr w} (hs : s.MemOk) : (waiterFault addr s w).MemOk := by
  have hw : ∀ t, (s.waitFor t .none).MemOk := fun _ => State.waitFor_memOk hs
  unfold waiterFault
  split
  · exact trapUnit_memOk hs
  · exact raiseTrap_memOk (hw _)
  · split
    · dsimp only
      split
      · exact deliverTrap_memOk (State.modTeam_memOk (hw _))
      · exact attributedTrap_memOk (hw _)
    · exact hs

theorem blameStorer_memOk {by_ addr} (hs : s.MemOk) : (blameStorer s by_ addr).MemOk := by
  cases by_ with
  | some t => exact blameNext_memOk hs
  | none => exact hs

theorem pubFault_memOk {p addr} (hs : s.MemOk) : (pubFault s p addr).MemOk := by
  grind [pubFault, blameStorer_memOk, waiterFault_memOk, foldl_memOk, State.MemOk]

theorem execWritebackError_memOk {what addr} (hs : s.MemOk) : Outcome.MemOk (execWritebackError what addr s) := by
  match what with
  | .publication id => grind [execWritebackError, State.stall_memOk, pubFault_memOk, Outcome.MemOk]
  | .recall id =>
      grind [execWritebackError, State.stall_memOk, State.setCore_memOk, blameStorer_memOk, acknowledge_memOk,
          Outcome.MemOk]
  | .line core ln =>
      grind [execWritebackError, State.stall_memOk, State.setCore_memOk, blameStorer_memOk, waiterFault_memOk,
          Outcome.MemOk]
  | .store t acc =>
    refine withAccess_memOk fun e a => ?_
    grind [State.stall_memOk, refusedStore_memOk, Outcome.MemOk]

/-! ### Machine/Fetch.lean -/

theorem icRead_memOk {core pa} (hs : s.MemOk) : (icRead s core pa).1.MemOk := by
  grind [icRead, State.setCore_memOk, l2Fill_memOk]

theorem fetchWord_memOk {e a} (hs : s.MemOk) : (fetchWord s e a).MemOk := by
  grind [fetchWord, State.waitWalk_memOk, State.waitAts_memOk, icRead_memOk, Fetch.MemOk, State.MemOk]

theorem transfer_memOk {e target k} (hs : s.MemOk) (hk : ∀ s, s.MemOk → Outcome.MemOk (k s)) :
    Outcome.MemOk (transfer s e target k) := by
  grind [transfer, raiseTrap_memOk, fetchWord_memOk, Fetch.MemOk, Outcome.MemOk]

/-! ### Machine/Control.lean -/

theorem stepTo_memOk {e next} (hs : s.MemOk) : (stepTo s e next).MemOk := hs

theorem execBrc_memOk {c cc w64 xd xa off} (hs : s.MemOk) : Outcome.MemOk (execBrc c cc w64 xd xa off s) := by
  grind [execBrc, unit_memOk, gather_memOk, transfer_memOk, stepTo_memOk, Outcome.MemOk]

theorem execBrg_memOk {c off} (hs : s.MemOk) : Outcome.MemOk (execBrg c off s) := by
  grind [execBrg, unit_memOk, State.stall_memOk, transfer_memOk, stepTo_memOk, Outcome.MemOk]

theorem callTo_memOk {e t} (hs : s.MemOk) : Outcome.MemOk (callTo s e t) := by
  grind [callTo, transfer_memOk, raiseTrap_memOk, xlatChk_memOk, issueAccess_memOk, State.stall_memOk,
    Chk.MemOk, Outcome.MemOk]

theorem execRet_memOk {c} (hs : s.MemOk) : Outcome.MemOk (execRet c s) := by
  grind [execRet, unit_memOk, raiseTrap_memOk, readNow_memOk, State.stall_memOk, transfer_memOk, stepTo_memOk,
    Now.MemOk, Outcome.MemOk]

theorem exitNow_memOk {e} (hs : s.MemOk) : Outcome.MemOk (exitNow s e) := by
  grind [exitNow, State.setThread_memOk, spillChecks_memOk, raiseTrap_memOk, State.stall_memOk,
    exitThread_memOk, Chk.MemOk, Outcome.MemOk]

theorem execRefill_memOk {c xd} (hs : s.MemOk) : Outcome.MemOk (execRefill c xd s) := by
  grind [execRefill, unit_memOk, exitNow_memOk, operands_memOk, readNow_memOk, raiseTrap_memOk,
    State.stall_memOk, State.setThread_memOk, State.modTeam_memOk, Now.MemOk, Outcome.MemOk]

theorem trapNow_memOk {c ti} (hs : s.MemOk) : Outcome.MemOk (trapNow s c ti) :=
  unit_memOk hs fun _ => takeTrap_memOk (State.setThread_memOk hs)

theorem eretTo_memOk {e} (hs : s.MemOk) : (eretTo s e).MemOk := resumeTeam_memOk (State.setThread_memOk hs)

theorem execEret_memOk {c} (hs : s.MemOk) : Outcome.MemOk (execEret c s) := by
  grind [execEret, unit_memOk, raiseTrap_memOk, eretTo_memOk, transfer_memOk, Outcome.MemOk]

/-! ### Machine/Translation.lean -/

theorem flushCore_memOk {ptes keep core} (hs : s.MemOk) : (flushCore ptes keep s core).MemOk :=
  State.setCore_memOk (foldl_memOk (fun _ _ => writeBack_memOk) hs)

theorem dropRange_memOk {r keep} (hs : s.MemOk) : (dropRange s r keep).MemOk :=
  foldl_memOk (fun _ _ => State.setThread_memOk) (foldl_memOk (fun _ _ => flushCore_memOk) hs)

theorem firmwareUnit_memOk {c n k} (hs : s.MemOk) (hk : ∀ e, Outcome.MemOk (k e)) :
    Outcome.MemOk (firmwareUnit s c n k) := by
  grind [firmwareUnit, unit_memOk, raiseTrap_memOk, Outcome.MemOk]

theorem tinvOver_memOk {e c r keep} (hs : s.MemOk) : Outcome.MemOk (tinvOver s e c r keep) := by
  grind [tinvOver, State.stall_memOk, dropRange_memOk, settle_memOk, Outcome.MemOk]

theorem execPageWalk_memOk (hs : s.MemOk) : Outcome.MemOk (execPageWalk s) := by
  grind [execPageWalk, State.stall_memOk, State.waitFor_memOk, Outcome.MemOk, State.MemOk]

theorem priFill_memOk (hs : s.MemOk) : (priFill s).MemOk := hs

theorem execTranslationRequestCompletion_memOk {die pasid page result} (hs : s.MemOk) :
    Outcome.MemOk (execTranslationRequestCompletion die pasid page result s) := by
  grind [execTranslationRequestCompletion, State.stall_memOk, State.waitFor_memOk, priFill_memOk, foldl_memOk,
    Outcome.MemOk, State.MemOk]

theorem execInvalidateRequest_memOk {pasid page count} (hs : s.MemOk) :
    Outcome.MemOk (execInvalidateRequest pasid page count s) := by
  grind [execInvalidateRequest, State.stall_memOk, Outcome.MemOk, State.MemOk]

theorem suspendWaiting_memOk {core pasid page} (hs : s.MemOk) : (suspendWaiting s core pasid page).MemOk := by
  grind [suspendWaiting, suspendJob_memOk, foldl_memOk]

theorem failWaiter_memOk {code w} (hs : s.MemOk) : (failWaiter code s w).MemOk := by
  grind [failWaiter, State.modDist_memOk, raiseTrap_memOk, State.waitFor_memOk]

theorem failPage_memOk {die pasid page} (hs : s.MemOk) : (failPage s die pasid page).MemOk := by
  grind [failPage, suspendWaiting_memOk, failWaiter_memOk, priFill_memOk, faultAccess_memOk, foldl_memOk,
    State.MemOk]

theorem execPrgResponse_memOk {pasid page success} (hs : s.MemOk) :
    Outcome.MemOk (execPrgResponse pasid page success s) := by
  grind [execPrgResponse, priFill_memOk, failPage_memOk, foldl_memOk, Outcome.MemOk, State.MemOk]

theorem execPriTimeout_memOk {pasid page} (hs : s.MemOk) : Outcome.MemOk (execPriTimeout pasid page s) := by
  grind [execPriTimeout, State.stall_memOk, failPage_memOk, foldl_memOk, Outcome.MemOk]

/-! ### Machine/Threads.lean -/

theorem reachEntry_memOk {lid k m i e} (hs : s.MemOk) : (reachEntry lid k m s i e).MemOk := by
  grind [reachEntry, State.modLaunch_memOk, State.modTeam_memOk]

theorem reachMarker_memOk {e m} (hs : s.MemOk) : (reachMarker s e m).MemOk :=
  foldl_memOk (fun _ _ => reachEntry_memOk) hs

theorem execClauseHeader_memOk {h} (hs : s.MemOk) : Outcome.MemOk (execClauseHeader h s) := by
  grind [execClauseHeader, State.stall_memOk, raiseTrap_memOk, acquire_memOk, State.modThread_memOk,
    reachMarker_memOk, Outcome.MemOk]

theorem withCommand_memOk {t seq k} (hk : ∀ e a, Outcome.MemOk (k e a)) :
    Outcome.MemOk (withCommand s t seq k) := by
  grind [withCommand, Outcome.MemOk]

theorem execOperandSend_memOk {t seq r} (hs : s.MemOk) : Outcome.MemOk (execOperandSend t seq r s) := by
  grind [execOperandSend, State.stall_memOk, State.setThread_memOk, Outcome.MemOk]

theorem execExecuteCommand_memOk {t seq err} (hs : s.MemOk) : Outcome.MemOk (execExecuteCommand t seq err s) := by
  grind [execExecuteCommand, withCommand_memOk, State.stall_memOk, trapUnit_memOk, logError_memOk,
    State.setThread_memOk, Outcome.MemOk]

theorem execUnitCommit_memOk (hs : s.MemOk) : Outcome.MemOk (execUnitCommit s) := by
  grind [execUnitCommit, commitHead_memOk, State.stall_memOk, Outcome.MemOk]

theorem execTrapRollback_memOk (hs : s.MemOk) : Outcome.MemOk (execTrapRollback s) := by
  unfold execTrapRollback
  grind [rollbackTrap_memOk, deliverPending_memOk, State.stall_memOk, Outcome.MemOk]

theorem execStarvation_memOk (hs : s.MemOk) : Outcome.MemOk (execStarvation s) := by
  grind [execStarvation, State.stall_memOk, State.setThread_memOk, Outcome.MemOk]

theorem execYieldExclusionEnd_memOk (hs : s.MemOk) : Outcome.MemOk (execYieldExclusionEnd s) := by
  grind [execYieldExclusionEnd, State.stall_memOk, State.setThread_memOk, Outcome.MemOk]

/-! ### Machine/Leases.lean -/

theorem evaluateCore_memOk {core} (hs : s.MemOk) : (evaluateCore s core).MemOk := hs

theorem execLeaseEvaluation_memOk (hs : s.MemOk) : Outcome.MemOk (execLeaseEvaluation s) := by
  grind [execLeaseEvaluation, State.stall_memOk, evaluateCore_memOk, Outcome.MemOk]

theorem modLease_memOk {g f} (hs : s.MemOk) : (modLease s g f).MemOk := hs

theorem execLeaseQuietDecay_memOk (hs : s.MemOk) : Outcome.MemOk (execLeaseQuietDecay s) := by
  grind [execLeaseQuietDecay, State.stall_memOk, modLease_memOk, Outcome.MemOk]

theorem execParkedTimeExpiry_memOk (hs : s.MemOk) : Outcome.MemOk (execParkedTimeExpiry s) := by
  grind [execParkedTimeExpiry, evaluateCore_memOk, State.stall_memOk, Outcome.MemOk]

theorem execProtectionEnd_memOk (hs : s.MemOk) : Outcome.MemOk (execProtectionEnd s) := by
  grind [execProtectionEnd, State.stall_memOk, modLease_memOk, Outcome.MemOk]

theorem migrate_memOk {asn p new} (hs : s.MemOk) : (migrate asn s p new).MemOk := by
  have h1 : ((((dropRange s (p.range asn) false).l2.map (·.1)).filter (inFrame p.frame p.size)).foldl l2Clean
      (dropRange s (p.range asn) false)).MemOk :=
    foldl_memOk (fun _ _ => l2Clean_memOk) (dropRange_memOk hs)
  exact homeWrite_memOk (h1.withDram (copyMem_wf h1.dram))

theorem pinLine_memOk {lid rc ln} (hs : s.MemOk) : (pinLine lid rc s ln).MemOk := by
  grind [pinLine, l2Fill_memOk, State.MemOk]

theorem evictLine_memOk {ln} (hs : s.MemOk) : (evictLine s ln).MemOk := l2Clean_memOk hs

theorem actionWork_memOk {lid la e ps frames} (hs : s.MemOk) : ∀ x ∈ actionWork s lid la e ps frames, x.MemOk := by
  grind [actionWork, migrate_memOk, pinLine_memOk, evictLine_memOk, l2Clean_memOk, foldl_memOk]

theorem execMedlarActionStart_memOk {lid act frames} (hs : s.MemOk) :
    Outcome.MemOk (execMedlarActionStart lid act frames s) := by
  have hm : ∀ f r, State.MemOk r → (State.modLaunch r lid f).MemOk := fun _ _ => State.modLaunch_memOk
  unfold execMedlarActionStart
  split
  · trivial
  · split
    · trivial
    · dsimp only
      split
      · exact State.stall_memOk hs
      · split
        · exact hm _ _ hs
        · exact hm _ _ (State.tell_memOk hs)
        · split
          · split
            · exact State.stall_memOk hs
            · exact hm _ _ hs
          · next h => exact hm _ _ (actionWork_memOk hs _ h)

theorem execMedlarActionComplete_memOk {lid act} (hs : s.MemOk) :
    Outcome.MemOk (execMedlarActionComplete lid act s) := by
  grind [execMedlarActionComplete, State.stall_memOk, State.modLaunch_memOk, Outcome.MemOk]

/-! ### Machine/Records.lean -/

theorem devRequest_memOk {die pasid page} (hs : s.MemOk) : (devRequest s die pasid page).MemOk :=
  State.request_memOk hs

theorem devUnit_memOk {die asp va n} (hs : s.MemOk) : (devUnit s die asp va n).MemOk := by
  grind [devUnit, State.tell_memOk, devRequest_memOk, Dev.MemOk, State.MemOk]

theorem devBytes_memOk {die asp va n} (hs : s.MemOk) : (devBytes s die asp va n).MemOk := by
  induction n generalizing va with
  | zero => trivial
  | succ n ih => grind [devBytes, devUnit_memOk, Dev.MemOk]

theorem devValue_memOk {die asp va n} (hs : s.MemOk) : (devValue s die asp va n).MemOk := by
  grind [devValue, devUnit_memOk, devBytes_memOk]

theorem devValues_memOk {die asp n va k} (hs : s.MemOk) : (devValues s die asp n va k).MemOk := by
  induction k generalizing va with
  | zero => trivial
  | succ k ih => grind [devValues, devValue_memOk, Dev.MemOk]

theorem devWords_memOk {asp va n} (hs : s.MemOk) : (devWords s asp va n).MemOk := by
  grind [devWords, devValues_memOk, Dev.MemOk]

theorem submitRead_memOk {l va n r k} (hs : s.MemOk) (hk : ∀ a, (k a).MemOk) :
    (submitRead s l va n r k).MemOk := by
  grind [submitRead, devWords_memOk, Submitted.MemOk, Dev.MemOk]

theorem checkDevices_memOk {l} (hs : s.MemOk) : (checkDevices s l).MemOk := by
  grind [checkDevices, submitRead_memOk, Submitted.MemOk]

theorem checkTables_memOk {l} (hs : s.MemOk) : (checkTables s l).MemOk := by
  grind [checkTables, submitRead_memOk, checkDevices_memOk, Submitted.MemOk]

theorem submitRecord_memOk {ident qp sseq asp lrec} (hs : s.MemOk) :
    (submitRecord s ident qp sseq asp lrec).MemOk := by
  grind [submitRecord, submitRead_memOk, checkTables_memOk, Submitted.MemOk]

theorem readEntries_memOk {asp va n} (hs : s.MemOk) : (readEntries s asp va n).MemOk := by
  induction n generalizing va with
  | zero => trivial
  | succ n ih => grind [readEntries, devWords_memOk, Dev.MemOk]

theorem startLaunch_memOk {l} (hs : s.MemOk) : (startLaunch s l).MemOk := by
  grind [startLaunch, readEntries_memOk, Dev.MemOk]

/-! ### Machine/Residency.lean -/

theorem withLaunch_memOk {lid k} (hk : ∀ a, Outcome.MemOk (k a)) : Outcome.MemOk (withLaunch s lid k) := by
  grind [withLaunch, Outcome.MemOk]

theorem zeroBacking_memOk {t} (hs : s.MemOk) : (zeroBacking s t).MemOk := by
  grind [zeroBacking, spillBlock_memOk, foldl_memOk]

theorem installTeam_memOk {core slot c0 tm l ths} (hs : s.MemOk) : (installTeam s core slot c0 tm l ths).MemOk :=
  foldl_memOk (fun _ _ => State.setThread_memOk) (yieldWays_memOk (State.setCore_memOk hs))

theorem makeResident_memOk {lid core slot c0 l ws param} (hs : s.MemOk) :
    Outcome.MemOk (makeResident s lid core slot c0 l ws param) := by
  grind [makeResident, acquire_memOk, installTeam_memOk, State.modLaunch_memOk, zeroBacking_memOk,
    State.stall_memOk, foldl_memOk, Outcome.MemOk]

theorem execTeamResident_memOk {lid core c0} (hs : s.MemOk) : Outcome.MemOk (execTeamResident lid core c0 s) := by
  grind [execTeamResident, withLaunch_memOk, State.stall_memOk, devValues_memOk, makeResident_memOk, Dev.MemOk,
    Outcome.MemOk]

theorem report_memOk {l status r} (hs : s.MemOk) : (report s l status r).MemOk := by
  grind [report, State.MemOk]

theorem unpinOf_memOk {lid} (hs : s.MemOk) : (unpinOf s lid).MemOk := hs

theorem execLaunchEnd_memOk (hs : s.MemOk) : Outcome.MemOk (execLaunchEnd s) := by
  grind [execLaunchEnd, withLaunch_memOk, State.stall_memOk, unpinOf_memOk, report_memOk, State.modLaunch_memOk,
    Outcome.MemOk, State.MemOk]

theorem send_memOk {kind lid v} (hs : s.MemOk) : (send s kind lid v).MemOk := hs

theorem sendAbort_memOk {lid l} (hs : s.MemOk) : (sendAbort s lid l).MemOk := hs

theorem dropCode_memOk (hs : s.MemOk) : (dropCode s).MemOk := hs

theorem execRecordReplication_memOk {lid lrec asp} (hs : s.MemOk) :
    Outcome.MemOk (execRecordReplication lid lrec asp s) := by
  grind [execRecordReplication, submitRecord_memOk, send_memOk, dropCode_memOk, Submitted.MemOk, Outcome.MemOk,
    State.MemOk]

theorem execReadyReport_memOk {lid didx ready} (hs : s.MemOk) :
    Outcome.MemOk (execReadyReport lid didx ready s) := by
  grind [execReadyReport, withLaunch_memOk, sendAbort_memOk, State.modLaunch_memOk, send_memOk, Outcome.MemOk]

theorem execStartGen_memOk {lid gen} (hs : s.MemOk) : Outcome.MemOk (execStartGen lid gen s) := by
  grind [execStartGen, withLaunch_memOk, startLaunch_memOk, dropCode_memOk, Dev.MemOk, Outcome.MemOk,
    State.MemOk]

theorem execAbortGen_memOk {lid gen} (hs : s.MemOk) : Outcome.MemOk (execAbortGen lid gen s) := by
  grind [execAbortGen, withLaunch_memOk, report_memOk, send_memOk, Outcome.MemOk, State.MemOk]

theorem execReadyDeadlineExpiry_memOk (hs : s.MemOk) : Outcome.MemOk (execReadyDeadlineExpiry s) := by
  grind [execReadyDeadlineExpiry, withLaunch_memOk, State.stall_memOk, sendAbort_memOk, Outcome.MemOk]

theorem acceptLaunch_memOk {l k} (hs : s.MemOk) (hk : ∀ s, s.MemOk → Outcome.MemOk (k s)) :
    Outcome.MemOk (acceptLaunch s l k) := by
  grind [acceptLaunch, dropCode_memOk, send_memOk, startLaunch_memOk, State.stall_memOk, Dev.MemOk,
    Outcome.MemOk, State.MemOk]

theorem execFirmwareLaunchStart_memOk {num lrec asp} (hs : s.MemOk) :
    Outcome.MemOk (execFirmwareLaunchStart num lrec asp s) := by
  grind [execFirmwareLaunchStart, submitRecord_memOk, acceptLaunch_memOk, Submitted.MemOk, Outcome.MemOk,
    State.MemOk]

theorem trapSuspended_memOk {lid} (hs : s.MemOk) : (trapSuspended s lid).MemOk := by
  grind [trapSuspended, attributedTrap_memOk, foldl_memOk]

theorem execPreemptionRequest_memOk {lid prec} (hs : s.MemOk) :
    Outcome.MemOk (execPreemptionRequest lid prec s) := by
  grind [execPreemptionRequest, withLaunch_memOk, State.stall_memOk, trapSuspended_memOk, State.modLaunch_memOk,
    Outcome.MemOk]

theorem killTeam_memOk {k} (hs : s.MemOk) : (killTeam s k).MemOk := by
  grind [killTeam, State.modLaunch_memOk, dropTeam_memOk, foldTeam_memOk, State.MemOk]

theorem execPreemptionDeadline_memOk (hs : s.MemOk) : Outcome.MemOk (execPreemptionDeadline s) := by
  grind [execPreemptionDeadline, withLaunch_memOk, State.stall_memOk, killTeam_memOk, foldl_memOk,
    Outcome.MemOk]

theorem execEscalatedTeamEnd_memOk {team saved} (hs : s.MemOk) :
    Outcome.MemOk (execEscalatedTeamEnd team saved s) := by
  grind [execEscalatedTeamEnd, withLaunch_memOk, State.stall_memOk, State.modLaunch_memOk, dropTeam_memOk,
    foldTeam_memOk, Outcome.MemOk]

/-! ### Machine/HostPort.lean -/

theorem hostWrite_memOk {q f} (hs : s.MemOk) : Outcome.MemOk (hostWrite s q f) := by
  grind [hostWrite, Outcome.MemOk, State.MemOk]

theorem withPair_memOk {q k} (hk : ∀ a, Outcome.MemOk (k a)) : Outcome.MemOk (withPair s q k) := by
  grind [withPair, Outcome.MemOk]

theorem execQueuePairGrant_memOk {q asp} (hs : s.MemOk) : Outcome.MemOk (execQueuePairGrant q asp s) := by
  grind [execQueuePairGrant, State.stall_memOk, Outcome.MemOk, State.MemOk]

theorem consumed_memOk {q sseq} (hs : s.MemOk) : (consumed s q sseq).MemOk := hs

theorem resumeEntry_memOk {q p sseq prec l} (hs : s.MemOk) : Outcome.MemOk (resumeEntry s q p sseq prec l) := by
  grind [resumeEntry, consumed_memOk, devWords_memOk, report_memOk, Dev.MemOk, Outcome.MemOk, State.MemOk]

theorem consumeEntry_memOk {q p sseq ws} (hs : s.MemOk) : Outcome.MemOk (consumeEntry s q p sseq ws) := by
  grind [consumeEntry, submitRecord_memOk, resumeEntry_memOk, consumed_memOk, report_memOk, acceptLaunch_memOk,
    Submitted.MemOk, Outcome.MemOk]

theorem execSubmissionConsume_memOk (hs : s.MemOk) : Outcome.MemOk (execSubmissionConsume s) := by
  grind [execSubmissionConsume, withPair_memOk, State.stall_memOk, consumeEntry_memOk, Outcome.MemOk,
    State.MemOk]

theorem execCompletionRecordWrite_memOk (hs : s.MemOk) : Outcome.MemOk (execCompletionRecordWrite s) := by
  refine withPair_memOk fun p => ?_
  dsimp only
  split
  · exact hs
  · split
    · exact hs
    · exact hs.withHostMem (Memory.wf_writeN (putHost_wf hs.hostMem) _ _ _)

/-! ### Machine/Device.lean -/

theorem bringUpTests_memOk {conf} (hs : s.MemOk) : (bringUpTests conf s).MemOk := by
  grind [bringUpTests, State.setCore_memOk, foldl_memOk, State.MemOk]

theorem execPowerOn_memOk {signed boot} (hs : s.MemOk) : Outcome.MemOk (execPowerOn signed boot s) := by
  grind [execPowerOn, State.stall_memOk, bringUpTests_memOk, Outcome.MemOk, State.MemOk]

theorem execRecoveryFirmwareLoad_memOk {signed digest} (hs : s.MemOk) :
    Outcome.MemOk (execRecoveryFirmwareLoad signed digest s) := by
  grind [execRecoveryFirmwareLoad, State.stall_memOk, Outcome.MemOk, State.MemOk]

theorem execAttestationReport_memOk {nonce} (hs : s.MemOk) : Outcome.MemOk (execAttestationReport nonce s) := by
  grind [execAttestationReport, State.stall_memOk, Outcome.MemOk, State.MemOk]

theorem execPowerWindow_memOk {watts} (hs : s.MemOk) : Outcome.MemOk (execPowerWindow watts s) := by
  grind [execPowerWindow, State.stall_memOk, Outcome.MemOk, State.MemOk]

theorem execTemperatureLimit_memOk {die hot} (hs : s.MemOk) : Outcome.MemOk (execTemperatureLimit die hot s) := by
  grind [execTemperatureLimit, Outcome.MemOk, State.MemOk]

theorem execDataLoss_memOk {root va} (hs : s.MemOk) : Outcome.MemOk (execDataLoss root va s) := by
  grind [execDataLoss, State.stall_memOk, homeWrite_memOk, dropRange_memOk, foldl_memOk, Outcome.MemOk,
    State.MemOk]

theorem execPortDown_memOk (hs : s.MemOk) : Outcome.MemOk (execPortDown s) := by
  grind [execPortDown, Outcome.MemOk, State.MemOk]

/-! ### Machine/Fp.lean -/

theorem fbinary_memOk {c md xd xa v f} (hs : s.MemOk) : Outcome.MemOk (fbinary s c md xd xa v f) := binary_memOk hs

theorem funary_memOk {c md xd xa f} (hs : s.MemOk) : Outcome.MemOk (funary s c md xd xa f) := unary_memOk hs

/-! ### Machine/Integer.lean -/

theorem execShl_memOk {c w64 xd xa v} (hs : s.MemOk) : Outcome.MemOk (execShl c w64 xd xa v s) := by
  grind [execShl, shift64_memOk, binary_memOk]

theorem execShr_memOk {c w64 xd xa v} (hs : s.MemOk) : Outcome.MemOk (execShr c w64 xd xa v s) := by
  grind [execShr, shift64_memOk, binary_memOk]

theorem execSar_memOk {c w64 xd xa v} (hs : s.MemOk) : Outcome.MemOk (execSar c w64 xd xa v s) := by
  grind [execSar, shift64_memOk, binary_memOk]

theorem execRol_memOk {c w64 xd xa v} (hs : s.MemOk) : Outcome.MemOk (execRol c w64 xd xa v s) := by
  grind [execRol, shift64_memOk, binary_memOk]

theorem execClz_memOk {c w64 xd xa} (hs : s.MemOk) : Outcome.MemOk (execClz c w64 xd xa s) := by
  grind [execClz, unaryWide_memOk, unary_memOk]

theorem execPopc_memOk {c w64 xd xa} (hs : s.MemOk) : Outcome.MemOk (execPopc c w64 xd xa s) := by
  grind [execPopc, unaryWide_memOk, unary_memOk]

theorem execBrev_memOk {c w64 xd xa} (hs : s.MemOk) : Outcome.MemOk (execBrev c w64 xd xa s) := by
  grind [execBrev, unary64_memOk, unary_memOk]

theorem execCmp_memOk {c cc w64 xd xa v} (hs : s.MemOk) : Outcome.MemOk (execCmp c cc w64 xd xa v s) := by
  grind [execCmp, compute_memOk, binary_memOk]

/-! ### Machine/Memory.lean -/

theorem atomIssue_memOk {c pl w64 xd xa srcs hostOk kind data} (hs : s.MemOk) :
    Outcome.MemOk (atomIssue s c pl w64 xd xa srcs hostOk kind data) := by
  grind [atomIssue, unit_memOk, operands_memOk, raiseTrap_memOk, accessCheck_memOk, issueAccess_memOk,
    Outcome.MemOk]

theorem atomOp_memOk {c op pl w64 xd xa xb} (hs : s.MemOk) : Outcome.MemOk (atomOp s c op pl w64 xd xa xb) := by
  grind [atomOp, atomIssue_memOk]

theorem execCas_memOk {c pl w64 xd xa xb xc} (hs : s.MemOk) : Outcome.MemOk (execCas c pl w64 xd xa xb xc s) := by
  grind [execCas, atomIssue_memOk]

theorem execAcq_memOk {c} (hs : s.MemOk) : Outcome.MemOk (execAcq c s) := by
  grind [execAcq, unit_memOk, State.stall_memOk, settle_memOk, acquire_memOk, Outcome.MemOk]

theorem execRel_memOk {c} (hs : s.MemOk) : Outcome.MemOk (execRel c s) := by
  grind [execRel, unit_memOk, State.stall_memOk, State.setThread_memOk, Outcome.MemOk]

theorem rangeIssue_memOk {c kind align cap xa xb off} (hs : s.MemOk) :
    Outcome.MemOk (rangeIssue s c kind align cap xa xb off) := by
  grind [rangeIssue, unit_memOk, operands_memOk, raiseTrap_memOk, State.setThread_memOk, State.stall_memOk,
    issueAccess_memOk, Outcome.MemOk]

/-! ### Machine/Pairs.lean -/

theorem finishPair_memOk {e srcs dsts o0 o1} (hs : s.MemOk) : (finishPair s e srcs dsts o0 o1).MemOk :=
  computeIssue_memOk hs

theorem slot_memOk {srcs dst f} (hs : s.MemOk) : Outcome.MemOk (slot s srcs dst f) := by
  refine unit_memOk hs fun e => ?_
  split
  · exact raiseTrap_memOk hs
  · have hc := checkRegs_memOk (s := { s with pair := none }) (e := e) (rs := srcs ++ dst.toList) hs
    dsimp only
    split
    · split
      · exact hs
      · exact finishPair_memOk hs
    · next h => rw [h] at hc; exact hc
    · next s' h =>
      rw [h] at hc
      split
      · exact hs
      · split
        · trivial
        · split
          · exact hc
          · exact finishPair_memOk hc

theorem slotOp_memOk {op d o} (hs : s.MemOk) : Outcome.MemOk (slotOp op d o s) := slot_memOk hs

/-! ### Machine/Places.lean -/

theorem checkPlace_memOk {e b pl reloc} (hs : s.MemOk) : (checkPlace s e b pl reloc).MemOk := by
  grind [checkPlace, bindSlot_memOk, xlatChk_memOk, Chk.MemOk]

theorem placeBlock_memOk {e b pl vs} (hs : s.MemOk) : (placeBlock s e b pl vs).MemOk := by
  grind [placeBlock, spillBlock_memOk, State.setThread_memOk, freeSlots_memOk]

theorem execPlace_memOk {c b pl} (hs : s.MemOk) : Outcome.MemOk (execPlace c b pl s) := by
  grind [execPlace, unit_memOk, Chk.andThen_memOk, checkPlace_memOk, spillCheck_memOk, raiseTrap_memOk,
    State.stall_memOk, placeBlock_memOk, Chk.MemOk, Outcome.MemOk]

theorem checkReloc_memOk {e b pl} (hs : s.MemOk) : (checkReloc s e b pl).MemOk := by
  grind [checkReloc, checkPlace_memOk, checkRegs_memOk, Chk.MemOk]

theorem execReloc_memOk {c b pl} (hs : s.MemOk) : Outcome.MemOk (execReloc c b pl s) := by
  grind [execReloc, unit_memOk, checkReloc_memOk, raiseTrap_memOk, State.stall_memOk, placeBlock_memOk,
    Chk.MemOk, Outcome.MemOk]

theorem settleCtx_memOk {e th next} (hs : s.MemOk) : (settleCtx s e th next).MemOk := by
  grind [settleCtx, State.setThread_memOk]

theorem execAnch_memOk {c an xa} (hs : s.MemOk) : Outcome.MemOk (execAnch c an xa s) := by
  grind [execAnch, unit_memOk, gather_memOk, raiseTrap_memOk, settleCtx_memOk, Outcome.MemOk]

theorem execXacq_memOk {c} (hs : s.MemOk) : Outcome.MemOk (execXacq c s) := by
  grind [execXacq, unit_memOk, grantLock_memOk, State.setThread_memOk, Outcome.MemOk]

theorem indexReady_memOk {e xa k} (hs : s.MemOk) (hk : Outcome.MemOk k) : Outcome.MemOk (indexReady s e xa k) := by
  grind [indexReady, raiseTrap_memOk, State.stall_memOk, Outcome.MemOk]

theorem execIxld_memOk {c xd xa imm} (hs : s.MemOk) : Outcome.MemOk (execIxld c xd xa imm s) := by
  grind [execIxld, unit_memOk, indexReady_memOk, raiseTrap_memOk, operands_memOk, computeIssue_memOk,
    Outcome.MemOk]

theorem execIxst_memOk {c xa xb imm} (hs : s.MemOk) : Outcome.MemOk (execIxst c xa xb imm s) := by
  grind [execIxst, unit_memOk, indexReady_memOk, operands_memOk, raiseTrap_memOk, State.stall_memOk,
    computeIssue_memOk, Outcome.MemOk]

/-! ### Machine/Sync.lean -/

theorem meetAt_memOk {c i dst xa xb} (hs : s.MemOk) : Outcome.MemOk (meetAt s c i dst xa xb) :=
  unit_memOk hs fun _ => gather_memOk hs fun _ _ hs => meetCheck_memOk (State.modThread_memOk hs)

theorem meetDeliver_memOk {ps t} (hs : s.MemOk) : (meetDeliver ps s t).MemOk := by
  grind [meetDeliver, computeIssue_memOk, State.setThread_memOk]

theorem execMeetComplete_memOk (hs : s.MemOk) : Outcome.MemOk (execMeetComplete s) := by
  grind [execMeetComplete, meetDeliver_memOk, State.stall_memOk, foldl_memOk, Outcome.MemOk]

theorem withBarrier_memOk {e b k} (hs : s.MemOk) (hk : Outcome.MemOk k) : Outcome.MemOk (withBarrier s e b k) := by
  grind [withBarrier, raiseTrap_memOk, Outcome.MemOk]

theorem noLock_memOk {e b k} (hs : s.MemOk) (hk : Outcome.MemOk k) : Outcome.MemOk (noLock s e b k) := by
  grind [noLock, raiseTrap_memOk, Outcome.MemOk]

theorem wakeBarrier_memOk {k b phase} (hs : s.MemOk) : (wakeBarrier s k b phase).MemOk := by
  grind [wakeBarrier, State.modThread_memOk, foldl_memOk]

theorem arrive_memOk {k b} (hs : s.MemOk) : (arrive s k b).1.MemOk := by
  grind [arrive, State.setTeam_memOk, wakeBarrier_memOk]

theorem waitBarrier_memOk {t b token} (hs : s.MemOk) : (waitBarrier s t b token).MemOk := by
  grind [waitBarrier, State.waitFor_memOk]

theorem whenSettled_memOk {e k} (hs : s.MemOk) (hk : Outcome.MemOk k) : Outcome.MemOk (whenSettled s e k) := by
  grind [whenSettled, State.stall_memOk]

theorem settleGuard_memOk {e gd v fps} (hs : s.MemOk) : (settleGuard s e gd v fps).MemOk :=
  settleAct_memOk hs fun _ => resolve_memOk

theorem execGset_memOk {c cc fp gd xa xb} (hs : s.MemOk) : Outcome.MemOk (execGset c cc fp gd xa xb s) := by
  grind [execGset, unit_memOk, gather_memOk, raiseTrap_memOk, settleGuard_memOk, Outcome.MemOk]

theorem execGwait_memOk {c xd ga} (hs : s.MemOk) : Outcome.MemOk (execGwait c xd ga s) := by
  grind [execGwait, unit_memOk, State.stall_memOk, operands_memOk, settle_memOk, computeIssue_memOk,
    Outcome.MemOk]

theorem execFwait_memOk {c mask} (hs : s.MemOk) : Outcome.MemOk (execFwait c mask s) := by
  grind [execFwait, unit_memOk, State.stall_memOk, settle_memOk, acquire_memOk, Outcome.MemOk]

theorem withQueue_memOk {e q push k} (hs : s.MemOk) (hk : ∀ a, Outcome.MemOk (k a)) :
    Outcome.MemOk (withQueue s e q push k) := by
  grind [withQueue, raiseTrap_memOk, Outcome.MemOk]

theorem execQpush_memOk {c q xa} (hs : s.MemOk) : Outcome.MemOk (execQpush c q xa s) := by
  grind [execQpush, unit_memOk, withQueue_memOk, gather_memOk, State.stall_memOk, withRelease_memOk,
    State.modTeam_memOk, settle_memOk, Outcome.MemOk]

theorem popQueue_memOk {t q} (hs : s.MemOk) : (popQueue s t q).MemOk := State.modTeam_memOk hs

theorem execQpop_memOk {c xd q} (hs : s.MemOk) : Outcome.MemOk (execQpop c xd q s) := by
  grind [execQpop, unit_memOk, withQueue_memOk, operands_memOk, State.stall_memOk, popQueue_memOk, settle_memOk,
    acquire_memOk, Outcome.MemOk]

theorem execQpopAny_memOk {c xd} (hs : s.MemOk) : Outcome.MemOk (execQpopAny c xd s) := by
  grind [execQpopAny, unit_memOk, raiseTrap_memOk, operands_memOk, State.stall_memOk, popQueue_memOk,
    settle_memOk, acquire_memOk, Outcome.MemOk]

/-! ### Machine/Saving.lean -/

theorem areaPages_memOk {e need va n} (hs : s.MemOk) : (areaPages s e need va n).MemOk := by
  induction n generalizing va with
  | zero => trivial
  | succ n ih => grind [areaPages, State.waitWalk_memOk, State.waitAts_memOk, Area.MemOk, State.MemOk]

theorem putLine_memOk {p v} (hs : s.MemOk) : (putLine s p v).MemOk := by
  grind [putLine, physWrite_memOk, dropCopies_memOk, homeWrite_memOk, State.MemOk]

theorem writeArea_memOk {v ps} (hs : s.MemOk) : (writeArea s v ps).MemOk :=
  foldl_memOk (fun _ _ hs => foldl_memOk (fun _ _ => putLine_memOk) hs) hs

theorem stopHandler_memOk {key tm} (hs : s.MemOk) : (stopHandler s key tm).MemOk := by
  grind [stopHandler, State.setTeam_memOk, haltThread_memOk]

theorem haltAll_memOk {key} (hs : s.MemOk) : (haltAll s key).MemOk := by
  grind [haltAll, State.setTeam_memOk, haltThread_memOk, foldl_memOk]

theorem backChecks_memOk {e ts} (hs : s.MemOk) : (backChecks s e ts).MemOk := by
  induction ts with
  | nil => exact hs
  | cons t ts ih => grind [backChecks, spillChecks_memOk]

theorem State.quiet_memOk {key b} (hs : s.MemOk) : (State.quiet s key b).MemOk := State.modTeam_memOk hs

theorem flushPrivate_memOk {core} (hs : s.MemOk) : (flushPrivate s core).MemOk :=
  foldl_memOk (fun _ _ => flushCoreLine_memOk) hs

theorem settleContext_memOk {e c ws} (hs : s.MemOk) : (settleContext s e c ws).MemOk := settle_memOk hs

theorem freeSaved_memOk {key tm} (hs : s.MemOk) : (freeSaved s key tm).MemOk :=
  dropTeam_memOk (foldTeam_memOk (State.modLaunch_memOk hs))

theorem keepStatus_memOk {key tm} (hs : s.MemOk) : (keepStatus s key tm).MemOk := hs

theorem finishSave_memOk {e c xd key tm la team ps} (hs : s.MemOk) :
    Outcome.MemOk (finishSave s e c xd key tm la team ps) := by
  grind [finishSave, keepStatus_memOk, spillAll_memOk, flushPrivate_memOk, writeArea_memOk, freeSaved_memOk,
    State.quiet_memOk, settleContext_memOk, foldl_memOk, Outcome.MemOk]

theorem saveRelease_memOk {e core team k} (hs : s.MemOk) (hk : ∀ s, s.MemOk → Outcome.MemOk (k s)) :
    Outcome.MemOk (saveRelease s e core team k) := by
  grind [saveRelease, State.waitFor_memOk, State.stall_memOk, release_memOk, Outcome.MemOk]

theorem saveTeam_memOk {e c xd area len key tm team} (hs : s.MemOk) :
    Outcome.MemOk (saveTeam s e c xd area len key tm team) := by
  unfold saveTeam
  split
  · exact haltAll_memOk hs
  · split
    · exact stopHandler_memOk hs
    · split
      · trivial
      · dsimp only
        generalize viewOf s key tm _ _ = v
        split
        · exact settleContext_memOk hs
        · have ha := areaPages_memOk (e := e) (need := .w) (va := area) (n := v.size / 4096) hs
          split
          · exact raiseTrap_memOk (State.quiet_memOk hs)
          · grind [Area.MemOk, Outcome.MemOk]
          · trivial
          · split
            · exact State.quiet_memOk hs
            · split
              · exact withdrawWfix_memOk hs
              · split
                · exact State.stall_memOk hs
                · have hb := backChecks_memOk (e := e) (ts := (teamTids tm).map (threadOf key)) hs
                  split
                  · exact raiseTrap_memOk (State.quiet_memOk hs)
                  · grind [Chk.MemOk, Outcome.MemOk]
                  · split
                    · exact State.stall_memOk hs
                    · exact saveRelease_memOk hs fun _ => finishSave_memOk

theorem contextUnit_memOk {c team k} (hs : s.MemOk) (hk : ∀ e, Outcome.MemOk (k e)) :
    Outcome.MemOk (contextUnit s c team k) := by
  grind [contextUnit, unit_memOk, raiseTrap_memOk, Outcome.MemOk]

theorem withArea_memOk {e a k} (hs : s.MemOk) (hk : ∀ a, Outcome.MemOk (k a)) :
    Outcome.MemOk (withArea s e a k) := by
  grind [withArea, raiseTrap_memOk, Outcome.MemOk]

theorem execCtxsaveTeam_memOk {c xd xa xb xc} (hs : s.MemOk) :
    Outcome.MemOk (execCtxsaveTeam c xd xa xb xc s) := by
  grind [execCtxsaveTeam, contextUnit_memOk, gather_memOk, withArea_memOk, settleContext_memOk, saveTeam_memOk,
    Outcome.MemOk]

/-! ### Machine/Restoring.lean -/

theorem loadFar_memOk {t} (hs : s.MemOk) : (loadFar s t).MemOk := by
  grind [loadFar, fetchBlock_memOk, State.setThread_memOk, foldl_memOk]

theorem loadClauses_memOk {t} (hs : s.MemOk) : (loadClauses s t).MemOk := hs

theorem loadHandle_memOk {a saved key h} (hs : s.MemOk) : (loadHandle a saved key s h).MemOk := by
  grind [loadHandle, State.modTeam_memOk, State.setCore_memOk]

theorem loadStores_memOk {a key} (hs : s.MemOk) : (loadStores a key s).MemOk := hs

theorem enterJob_memOk {key j} (hs : s.MemOk) : (enterJob s key j).MemOk := hs

theorem loadJob_memOk {a key o} (hs : s.MemOk) : (loadJob a key s o).MemOk := by
  grind [loadJob, enterJob_memOk]

theorem loadFlags_memOk {t} (hs : s.MemOk) : (loadFlags s t).MemOk := hs

theorem loadSlots_memOk {t} (hs : s.MemOk) : (loadSlots s t).MemOk := by
  grind [loadSlots, freeSlots_memOk]

theorem loadGroup_memOk {g} (hs : s.MemOk) : (loadGroup s g).MemOk := by
  grind [loadGroup, State.setCore_memOk]

theorem finishRestore_memOk {a key} (hs : s.MemOk) : (finishRestore s a key).MemOk := by
  unfold finishRestore
  split
  · exact hs
  · dsimp only
    split
    on_goal 1 => refine State.modTeam_memOk ?_
    on_goal 2 => refine tryEndTeam_memOk (resumeTeam_memOk ?_)
    all_goals exact
      foldl_memOk (fun _ _ => offerLock_memOk) <| foldl_memOk (fun _ _ => loadGroup_memOk) <|
      foldl_memOk (fun _ _ => loadFlags_memOk) <| foldl_memOk (fun _ _ => loadJob_memOk) <| loadStores_memOk <|
      yieldWays_memOk <| foldl_memOk (fun _ _ => loadHandle_memOk) <| foldl_memOk (fun _ _ => loadClauses_memOk) <|
      foldl_memOk (fun _ _ => loadSlots_memOk) <| foldl_memOk (fun _ _ => loadFar_memOk) hs

theorem withLoaded_memOk {e c xd area own k} (hs : s.MemOk) (hk : ∀ a lid la, Outcome.MemOk (k a lid la)) :
    Outcome.MemOk (withLoaded s e c xd area own k) := by
  grind [withLoaded, settleContext_memOk, areaPages_memOk, raiseTrap_memOk, Area.MemOk, Outcome.MemOk]

theorem dropEmptyLock_memOk {core g} (hs : s.MemOk) : (dropEmptyLock core s g).MemOk := by
  grind [dropEmptyLock, State.setCore_memOk]

theorem loadOwn_memOk {a key tm lid la} (hs : s.MemOk) : (loadOwn s a key tm lid la).MemOk :=
  finishRestore_memOk (foldl_memOk (fun _ _ => dropEmptyLock_memOk) (foldl_memOk (fun _ _ hs =>
    State.setThread_memOk hs) (State.setTeam_memOk (foldl_memOk (fun _ _ => freeHandle_memOk)
    (State.setCore_memOk (foldl_memOk (fun _ _ => spillAll_memOk) hs))))))

theorem execCtxload_memOk {c xd xa} (hs : s.MemOk) : Outcome.MemOk (execCtxload c xd xa s) := by
  grind [execCtxload, contextUnit_memOk, gather_memOk, withArea_memOk, withLoaded_memOk, settleContext_memOk,
    State.stall_memOk, backChecks_memOk, raiseTrap_memOk, loadOwn_memOk, Chk.MemOk, Outcome.MemOk]

theorem loadTeam_memOk {a core lid la} (hs : s.MemOk) : (loadTeam s a core lid la).MemOk :=
  finishRestore_memOk (State.modLaunch_memOk (installTeam_memOk (acquire_memOk hs)))

theorem execCtxloadTeam_memOk {c xd xa xc} (hs : s.MemOk) : Outcome.MemOk (execCtxloadTeam c xd xa xc s) := by
  grind [execCtxloadTeam, contextUnit_memOk, gather_memOk, withArea_memOk, withLoaded_memOk,
    settleContext_memOk, State.stall_memOk, loadTeam_memOk, Outcome.MemOk]

theorem execSelftestArray_memOk {c xd xa} (hs : s.MemOk) : Outcome.MemOk (execSelftestArray c xd xa s) := by
  grind [execSelftestArray, firmwareUnit_memOk, gather_memOk, State.setCore_memOk, settle_memOk, Outcome.MemOk,
    State.MemOk]

theorem execSelftestBank_memOk {c xd xa} (hs : s.MemOk) : Outcome.MemOk (execSelftestBank c xd xa s) := by
  grind [execSelftestBank, firmwareUnit_memOk, gather_memOk, State.stall_memOk, settle_memOk, Outcome.MemOk,
    State.MemOk]

/-! ### Machine/Dispatch.lean -/

theorem exec_memOk {i} (hs : s.MemOk) : Outcome.MemOk (exec i s) := by
  unfold exec
  cases i with
  | tcopy | tfill | mma | mmas | mzero | fgett | ksort | kpack => exact engineUnit_memOk hs fun _ _ hs => hs
  | tadd | tmul | tfma => exact elementwise_memOk hs
  | tcvt => exact withSlot_memOk hs fun _ => convertJob_memOk hs
  | tredAdd | tredMax | tredMin => exact reduceJob_memOk hs
  | ttr => exact convertJob_memOk hs
  | mplane | mdrain => exact withSlot_memOk hs fun _ => engineUnit_memOk hs fun _ _ hs => hs
  | rowmaj | rowand | rowor | rownot | rowcp => exact rowIssue_memOk hs
  | nop => exact unit_memOk hs fun _ => stepTo_memOk hs
  | br => exact unit_memOk hs fun _ => transfer_memOk hs fun _ => stepTo_memOk
  | jmp =>
    exact unit_memOk hs fun _ => gather_memOk hs fun _ _ hs => transfer_memOk hs fun _ => stepTo_memOk
  | call => exact unit_memOk hs fun _ => callTo_memOk hs
  | callr => exact unit_memOk hs fun _ => gather_memOk hs fun _ _ => callTo_memOk
  | exit => exact unit_memOk hs fun _ => exitNow_memOk hs
  | repack => exact unit_memOk hs fun _ => gather_memOk hs fun _ _ => stepTo_memOk
  | yld => exact unit_memOk hs fun _ => State.modThread_memOk (stepTo_memOk hs)
  | trap | brk => exact trapNow_memOk hs
  | tinvUnmap | tinvDowngrade | tinvUnmapAll =>
    exact firmwareUnit_memOk hs fun _ => gather_memOk hs fun _ _ => tinvOver_memOk
  | queueEnable | queueStop | errClear | sqtailWrite | cqheadWrite | registerWrite => exact hostWrite_memOk hs
  | deviceReset | flitError => exact hs
  | fadd | fsub | fmul | fmin | fmax => exact fbinary_memOk hs
  | ffma | mad | bfi | prmt | sel => exact ternary_memOk hs
  | fcmp | add | addSat | sub | subSat | mul | mulh | min | max | and | or | xor | andn | bfe =>
    exact binary_memOk hs
  | frcp | frsq | fsqrt | fex2 | flg2 => exact funary_memOk hs
  | fcls | fcvtF32S32 | fcvtF32B32 | fcvtS32F32 | fcvtB32F32 | fcvtF32Bf16 | abs | not | mov =>
    exact unary_memOk hs
  | fcvtF32Fs => exact withSlot_memOk hs fun _ => compute_memOk hs
  | fcvtFsF32 | fcvtFsF32Sat => exact withSlot_memOk hs fun _ => unary_memOk hs
  | fcvtBf16x2F32 | fcvtBf16x2F32Sat | fadd2Bf16 | fmul2Bf16 | ffma2Bf16 | addc | madS64 | add64 | lea | liB32 |
    liB64 => exact compute_memOk hs
  | ld | ldc | st =>
    exact unit_memOk hs fun _ => operands_memOk hs fun _ _ hs =>
      accessCheck_memOk hs fun _ => issueAccess_memOk hs
  | atomAdd | atomMin | atomMax | atomAnd | atomOr | atomXor | atomXchg | atomFadd => exact atomOp_memOk hs
  | fence => exact unit_memOk hs fun _ => withRelease_memOk hs fun _ hs => settle_memOk (acquire_memOk hs)
  | cclean | cinval | pref => exact rangeIssue_memOk hs
  | pairPnop => exact slot_memOk hs
  | pairAdd | pairSub | pairAnd | pairOr | pairXor | pairShl | pairShr | pairSar | pairMinS32 | pairMinB32 |
    pairMaxS32 | pairMaxB32 | pairMov | pairFadd | pairFmul | pairFmin | pairFmax => exact slotOp_memOk hs
  | xrel => exact unit_memOk hs fun _ => settleAct_memOk hs fun _ => releaseLock_memOk
  | rds => exact unit_memOk hs fun _ => operands_memOk hs fun _ _ => computeIssue_memOk
  | wrs => exact unit_memOk hs fun _ => gather_memOk hs fun _ _ => settleCtx_memOk
  | shflIdx | shflUp | shflDown | shflXor | voteAny | voteAll | voteBallot | reduxAdd | reduxMin | reduxMax |
    reduxAnd | reduxOr | reduxFadd | reduxFmin | reduxFmax | meet => exact meetAt_memOk hs
  | bari =>
    exact unit_memOk hs fun _ => withBarrier_memOk hs (settleAct_memOk hs (fun _ => setBarrier_memOk))
  | barr =>
    exact unit_memOk hs fun _ => withBarrier_memOk hs (whenSettled_memOk hs (operands_memOk hs (fun _ _ hs =>
      settle_memOk (arrive_memOk hs))))
  | barw =>
    exact unit_memOk hs fun _ => withBarrier_memOk hs (noLock_memOk hs (whenSettled_memOk hs (gather_memOk hs
      (fun _ _ hs => waitBarrier_memOk (settle_memOk hs)))))
  | bars =>
    exact unit_memOk hs fun _ => withBarrier_memOk hs (noLock_memOk hs (whenSettled_memOk hs (waitBarrier_memOk
      (arrive_memOk (settle_memOk hs)))))
  | gres => exact unit_memOk hs fun _ => gather_memOk hs fun _ _ => settleGuard_memOk
  | gresOpen => exact unit_memOk hs fun _ => settleGuard_memOk hs
  | lease => exact unit_memOk hs fun _ => settleAct_memOk hs fun _ => setLease_memOk
  | ctxsave =>
    exact contextUnit_memOk hs fun _ => gather_memOk hs fun _ _ hs =>
      withArea_memOk hs fun _ => saveTeam_memOk hs
  | talloc => exact execTalloc_memOk hs
  | tfree => exact execTfree_memOk hs
  | tmap => exact execTmap_memOk hs
  | tld => exact execTld_memOk hs
  | tst => exact execTst_memOk hs
  | gmm => exact execGmm_memOk hs
  | epild => exact execEpild_memOk hs
  | fbind => exact execFbind_memOk hs
  | fget => exact execFget_memOk hs
  | wtake => exact execWtake_memOk hs
  | wfix => exact execWfix_memOk hs
  | bkfence => exact execBkfence_memOk hs
  | rowOperationStart => exact execRowOperationStart_memOk hs
  | rowOperationComplete => exact execRowOperationComplete_memOk hs
  | bankComputeError => exact execBankComputeError_memOk hs
  | tallocGrant => exact execTallocGrant_memOk hs
  | tallocTimeout => exact execTallocTimeout_memOk hs
  | jobDispatch => exact execJobDispatch_memOk hs
  | jobRetire => exact execJobRetire_memOk hs
  | arraySelfTest => exact execArraySelfTest_memOk hs
  | engineFault => exact execEngineFault_memOk hs
  | engineFaultResume => exact execEngineFaultResume_memOk hs
  | loadReturn => exact execLoadReturn_memOk hs
  | storePerform => exact execStorePerform_memOk hs
  | atomicPerform => exact execAtomicPerform_memOk hs
  | movedRefusal => exact execMovedRefusal_memOk hs
  | remoteAccessTimeout => exact execRemoteAccessTimeout_memOk hs
  | publicationRequest => exact execPublicationRequest_memOk hs
  | publicationReply => exact execPublicationReply_memOk hs
  | revocation => exact execRevocation_memOk hs
  | registryRecall => exact execRegistryRecall_memOk hs
  | publishDeadline => exact execPublishDeadline_memOk hs
  | cleanDropDeadline => exact execCleanDropDeadline_memOk hs
  | reclassification => exact execReclassification_memOk hs
  | remoteOrHostAccessArrival => exact execRemoteOrHostAccessArrival_memOk hs
  | maintenanceCompletion => exact execMaintenanceCompletion_memOk hs
  | prefCompletion => exact execPrefCompletion_memOk hs
  | writebackError => exact execWritebackError_memOk hs
  | brc => exact execBrc_memOk hs
  | brg => exact execBrg_memOk hs
  | ret => exact execRet_memOk hs
  | refill => exact execRefill_memOk hs
  | eret => exact execEret_memOk hs
  | pageWalk => exact execPageWalk_memOk hs
  | translationRequestCompletion => exact execTranslationRequestCompletion_memOk hs
  | invalidateRequest => exact execInvalidateRequest_memOk hs
  | prgResponse => exact execPrgResponse_memOk hs
  | priTimeout => exact execPriTimeout_memOk hs
  | clauseHeader => exact execClauseHeader_memOk hs
  | operandSend => exact execOperandSend_memOk hs
  | executeCommand => exact execExecuteCommand_memOk hs
  | unitCommit => exact execUnitCommit_memOk hs
  | trapRollback => exact execTrapRollback_memOk hs
  | starvation => exact execStarvation_memOk hs
  | yieldExclusionEnd => exact execYieldExclusionEnd_memOk hs
  | leaseEvaluation => exact execLeaseEvaluation_memOk hs
  | leaseQuietDecay => exact execLeaseQuietDecay_memOk hs
  | parkedTimeExpiry => exact execParkedTimeExpiry_memOk hs
  | protectionEnd => exact execProtectionEnd_memOk hs
  | medlarActionStart => exact execMedlarActionStart_memOk hs
  | medlarActionComplete => exact execMedlarActionComplete_memOk hs
  | teamResident => exact execTeamResident_memOk hs
  | launchEnd => exact execLaunchEnd_memOk hs
  | recordReplication => exact execRecordReplication_memOk hs
  | readyReport => exact execReadyReport_memOk hs
  | startGen => exact execStartGen_memOk hs
  | abortGen => exact execAbortGen_memOk hs
  | readyDeadlineExpiry => exact execReadyDeadlineExpiry_memOk hs
  | firmwareLaunchStart => exact execFirmwareLaunchStart_memOk hs
  | preemptionRequest => exact execPreemptionRequest_memOk hs
  | preemptionDeadline => exact execPreemptionDeadline_memOk hs
  | escalatedTeamEnd => exact execEscalatedTeamEnd_memOk hs
  | queuePairGrant => exact execQueuePairGrant_memOk hs
  | submissionConsume => exact execSubmissionConsume_memOk hs
  | completionRecordWrite => exact execCompletionRecordWrite_memOk hs
  | powerOn => exact execPowerOn_memOk hs
  | recoveryFirmwareLoad => exact execRecoveryFirmwareLoad_memOk hs
  | attestationReport => exact execAttestationReport_memOk hs
  | powerWindow => exact execPowerWindow_memOk hs
  | temperatureLimit => exact execTemperatureLimit_memOk hs
  | dataLoss => exact execDataLoss_memOk hs
  | portDown => exact execPortDown_memOk hs
  | shl => exact execShl_memOk hs
  | shr => exact execShr_memOk hs
  | sar => exact execSar_memOk hs
  | rol => exact execRol_memOk hs
  | clz => exact execClz_memOk hs
  | popc => exact execPopc_memOk hs
  | brev => exact execBrev_memOk hs
  | cmp => exact execCmp_memOk hs
  | cas => exact execCas_memOk hs
  | acq => exact execAcq_memOk hs
  | rel => exact execRel_memOk hs
  | place => exact execPlace_memOk hs
  | reloc => exact execReloc_memOk hs
  | anch => exact execAnch_memOk hs
  | xacq => exact execXacq_memOk hs
  | ixld => exact execIxld_memOk hs
  | ixst => exact execIxst_memOk hs
  | meetComplete => exact execMeetComplete_memOk hs
  | gset => exact execGset_memOk hs
  | gwait => exact execGwait_memOk hs
  | fwait => exact execFwait_memOk hs
  | qpush => exact execQpush_memOk hs
  | qpop => exact execQpop_memOk hs
  | qpopAny => exact execQpopAny_memOk hs
  | ctxsaveTeam => exact execCtxsaveTeam_memOk hs
  | ctxload => exact execCtxload_memOk hs
  | ctxloadTeam => exact execCtxloadTeam_memOk hs
  | selftestArray => exact execSelftestArray_memOk hs
  | selftestBank => exact execSelftestBank_memOk hs

/-! ### Machine/Front.lean -/

theorem Next.ofRead_memOk {r} (hs : s.MemOk) : (Next.ofRead s r).MemOk := by
  cases r with
  | ok d => exact hs
  | error ti => trivial

theorem refreshed_memOk {e} (hs : s.MemOk) : (refreshed s e).MemOk := by
  unfold refreshed
  dsimp only
  split
  · exact hs
  · split
    · exact State.setThread_memOk hs
    · exact State.setThread_memOk hs
    · grind [fetchWord_memOk, Fetch.MemOk, Refreshed.MemOk, Next.MemOk]

theorem nextUnit_memOk {e} (hs : s.MemOk) : (nextUnit s e).MemOk := by
  grind [nextUnit, refreshed_memOk, fetchWord_memOk, Next.ofRead_memOk, Fetch.MemOk, Refreshed.MemOk,
    Next.MemOk]

theorem runDecoded_memOk {d} (hs : s.MemOk) : Outcome.MemOk (runDecoded d s) := by
  unfold runDecoded
  split
  · exact exec_memOk hs
  · exact exec_memOk hs
  · grind [Outcome.MemOk, exec_memOk]

theorem trapNext_memOk {e ti} (hs : s.MemOk) : Outcome.MemOk (trapNext s e ti) := by
  grind [trapNext, State.stall_memOk, paramTrap_memOk, raiseTrap_memOk, Outcome.MemOk]

theorem runThread_memOk {t} (hs : s.MemOk) : Outcome.MemOk (runThread s t) := by
  unfold runThread
  dsimp only
  split
  · trivial
  · split
    · exact State.stall_memOk hs
    · next e _ _ =>
      have hn := nextUnit_memOk (s := { s with cur := t }) (e := e) hs
      split
      · exact trapNext_memOk hs
      all_goals grind [runDecoded_memOk, Next.MemOk, Outcome.MemOk]

theorem State.fresh_memOk (hs : s.MemOk) : (State.fresh s).MemOk := hs

theorem noteGuard_memOk {t} (hs : s.MemOk) : (noteGuard s t).MemOk := by
  grind [noteGuard, State.setThread_memOk]

theorem frontEnd_memOk {t} (hs : s.MemOk) : Outcome.MemOk (frontEnd s t) := by
  grind [frontEnd, refreshed_memOk, runThread_memOk, Refreshed.MemOk, Outcome.MemOk]

theorem comeUp_memOk {t} (hs : s.MemOk) : (comeUp s t).MemOk := by
  grind [comeUp, commitAll_memOk, frontEnd_memOk, State.fresh_memOk, Outcome.MemOk]

theorem formSet_memOk {core cluster} (hs : s.MemOk) : (formSet s core cluster).MemOk := by
  grind [formSet, comeUp_memOk, State.modThread_memOk, noteGuard_memOk, foldl_memOk, State.MemOk]

theorem startSkid_memOk {t} (hs : s.MemOk) : (startSkid s t).MemOk := by
  grind [startSkid, State.setThread_memOk, State.MemOk]

theorem tick_memOk (hs : s.MemOk) : (tick s).MemOk := by
  grind [tick, State.MemOk]

theorem runEvent_memOk {subject i} (hs : s.MemOk) : Outcome.MemOk (runEvent s subject i) := exec_memOk hs

theorem runDue_memOk {subject i} (hs : s.MemOk) : (runDue s subject i).MemOk := by
  grind [runDue, runEvent_memOk, Outcome.MemOk]

theorem runMove_memOk {m} (hs : s.MemOk) : Outcome.MemOk (runMove s m) := by
  cases m with
  | ev => exact runEvent_memOk hs
  | due => exact runDue_memOk hs
  | front => exact frontEnd_memOk hs
  | issue => exact formSet_memOk hs
  | skid => exact startSkid_memOk hs
  | tick => exact tick_memOk hs

/-! ### Machine/Step.lean -/

theorem step_memOk (hs : s.MemOk) : Outcome.MemOk (step s) := by
  unfold step
  split
  · exact runThread_memOk hs
  · split
    · exact runMove_memOk hs
    · exact hs

/-- Settles O59: the claim is `step_memOk`, read at a step that gives a state. -/
theorem memoryCanonicalKept : Obligations.MemoryCanonicalKept := by
  unfold Obligations.MemoryCanonicalKept
  intro s t hs h
  have ht : Outcome.MemOk (step s) := step_memOk hs
  rw [h] at ht
  exact ht

end

end Sys2Proof.Machine
end

section
/-! Special registers: what `rds` and `wrs` do (R104, R115, R126) and what the registers hold (R57, R104, R105). -/

namespace Sys2Proof.Machine

theorem srWide64_eq (sr : BitVec 8) : srWide64 sr.toNat = wideSpecial sr := by
  revert sr; decide

theorem srSettled_eq (sr : BitVec 8) : srSettled sr.toNat = (sr == 0x10 || sr == 0x11 || sr == 0x2A) := by
  revert sr; decide

theorem loWord_eq (v : DWord) : loWord v = v.setWidth 32 := by
  ext i
  simp [loWord]

theorem read64_eq (th : Thread) (r : Reg) : th.read64 r = BitVec.ofNat 64 (pairNat th.read r) :=
  readPair_eq th.read r

theorem put_put {α : Type} (m : List (Nat × α)) (k : Nat) (v w : α) : put (put m k v) k w = put m k w := by
  induction m with
  | nil => simp [put]
  | cons a m ih => grind [put]

theorem setThread_setThread (s : State) (t : Nat) (a b : Thread) :
    (s.setThread t a).setThread t b = s.setThread t b := by
  simp [State.setThread, put_put]

theorem issued_of_idle {th : Thread} (h : th.window = []) (clk : Nat) (u : WUnit) (next : Ctx) :
    th.issued clk next = { th.issued clk next with window := th.beside u } := by
  simp [Thread.issued, Thread.beside, h]

theorem enter_of_busy {th : Thread} (h : th.window ≠ []) (clk : Nat) (u : WUnit) (next : Ctx) :
    th.enter clk u next = { th.issued clk next with window := th.beside u } := by
  simp [Thread.enter, Thread.beside, h]

/-- At once or behind older units (R112), the thread goes on alike. -/
theorem settleCtx_eq (s : State) {e : Env} {th : Thread} (hw : th.window = e.th.window) (next : Ctx) :
    settleCtx s e th next =
      s.setThread e.t { th.issued s.clk next with window := e.th.beside (WUnit.start e.th) } := by
  have hb : e.th.beside (WUnit.start e.th) = th.beside (WUnit.start e.th) := by simp only [Thread.beside, hw]
  rw [hb]
  by_cases h : th.window = []
  · simp only [settleCtx, ← hw, h, List.isEmpty_nil, if_true, ← issued_of_idle h]
  · simp only [settleCtx, ← hw, h, List.isEmpty_iff, if_false, ← enter_of_busy h]

theorem gather_of_ready {s s1 : State} {m : Mode} {c : Ctl} {srcs : List Reg} {e : Env} (h : Ready s m c srcs s1 e)
    (ha : Arrived e srcs) (n : Nat) (k : State → Env → Outcome) :
    (unit s m c n fun e => gather s e srcs [] k) = k s1 e := by
  simp only [gather, List.append_nil]
  rw [unit_of_ready h]
  rcases ha with ha | ha <;> simp [ha]

theorem execRds_of_ready {s s1 : State} {c : Ctl} {sr : BitVec 8} {x : Reg} {e : Env}
    (h : Ready s { settled := sr == 0x11, lane := false } c (if wideSpecial sr then [x, x + 1] else [x]) s1 e) :
    execRds c x sr s = .next (computeIssue s1 e c.k 1 [] (if wideSpecial sr then [x, x + 1] else [x])
      (if wideSpecial sr then Machine.pair x (specialReg s1 e sr.toNat)
       else word x ((specialReg s1 e sr.toNat).setWidth 32))) := by
  unfold execRds
  simp only [srWide64_eq]
  refine (unit_of_ready h _ _).trans ?_
  cases wideSpecial sr with
  | true => simp only [if_true, ← out64_eq, out64]
  | false => simp only [Bool.false_eq_true, if_false, word, loWord_eq]

/-- A special register written (R104, R126), each case by its number. -/
theorem setSpecial_eq (th : Thread) (sr : BitVec 8) (v : DWord) : setSpecial th sr.toNat v =
    if sr = 0x10 then { th with ctx := { th.ctx with fpc := v.setWidth 32 &&& 0x31F } }
    else if sr = 0x11 then { th with fps := v.setWidth 32 &&& 0x1F }
    else if sr = 0x2A then { th with epc := v }
    else th := by
  have key : ∀ n : BitVec 8, sr = n ↔ sr.toNat = n.toNat := fun n => BitVec.toNat_inj.symm
  simp only [key]
  unfold setSpecial
  split <;> simp_all [loWord_eq, fpcWritable, fpsWritable]

theorem execWrs_of_ready {s s1 : State} {c : Ctl} {sr : BitVec 8} {x : Reg} {e : Env}
    (h : Ready s { settled := sr == 0x10 || sr == 0x11 || sr == 0x2A, lane := false } c
      (if wideSpecial sr then [x, x + 1] else [x]) s1 e)
    (ha : Arrived e (if wideSpecial sr then [x, x + 1] else [x])) :
    let th := setSpecial e.th sr.toNat
      (if wideSpecial sr then BitVec.ofNat 64 (pairNat e.th.read x) else (e.th.read x).setWidth 64)
    execWrs c sr x s = .next (settleCtx s1 e th (th.ctx.advance 1)) := by
  unfold execWrs
  simp only [srWide64_eq, srSettled_eq, ← read64_eq]
  exact gather_of_ready h ha _ _

theorem setSpecial_window (th : Thread) (sr : Nat) (v : DWord) : (setSpecial th sr v).window = th.window := by
  unfold setSpecial
  split <;> rfl

/-- What is written stays written as the thread goes on (R126). -/
theorem setSpecial_past (th : Thread) (sr : BitVec 8) (v : DWord) (clk : Nat) (w : List WUnit) :
    let new := setSpecial th sr.toNat v
    { new.issued clk (new.ctx.advance 1) with window := w } =
      setSpecial { th.issued clk (th.ctx.advance 1) with window := w } sr.toNat v := by
  simp only [setSpecial_eq]
  split
  · rfl
  · split
    · rfl
    · split <;> rfl

theorem gone_eq (s : State) (e : Env) (ctx : Ctx) : Gone s e ctx =
    s.setThread e.t { e.th.issued s.clk ctx with window := e.th.beside (WUnit.start e.th) } := by
  simp only [Gone, issued_eq]

theorem rds_of_ready {s s1 : State} {c : Ctl} {sr : BitVec 8} {x : Reg} {e : Env}
    (h : Ready s { settled := sr == 0x11, lane := false } c (if wideSpecial sr then [x, x + 1] else [x]) s1 e) :
    ∃ t, exec (.rds c x sr) s = .next t ∧
      (if wideSpecial sr then Computed s1 t e c.k 1 [] [x, x + 1] (Machine.pair x (specialReg s1 e sr.toNat))
       else Computed s1 t e c.k 1 [] [x] (word x ((specialReg s1 e sr.toNat).setWidth 32))) := by
  refine ⟨_, (exec_rds c x sr s).trans (execRds_of_ready h), ?_⟩
  split <;> exact computeIssue_computed _ _ _ _ _ _ _

theorem wrs_of_ready {s s1 : State} {c : Ctl} {sr : BitVec 8} {x : Reg} {e : Env}
    (h : Ready s { settled := sr == 0x10 || sr == 0x11 || sr == 0x2A, lane := false } c
      (if wideSpecial sr then [x, x + 1] else [x]) s1 e)
    (ha : Arrived e (if wideSpecial sr then [x, x + 1] else [x])) :
    ∃ th, (Gone s1 e (e.th.ctx.past 1)).thread? e.t = some th ∧
      exec (.wrs c sr x) s = .next ((Gone s1 e (e.th.ctx.past 1)).setThread e.t (setSpecial th sr.toNat
        (if wideSpecial sr then BitVec.ofNat 64 (pairNat e.th.read x) else (e.th.read x).setWidth 64))) := by
  refine ⟨_, by rw [gone_eq, thread?_setThread_self], ?_⟩
  rw [exec_wrs, execWrs_of_ready h ha, gone_eq, setThread_setThread, settleCtx_eq _ (setSpecial_window _ _ _),
    setSpecial_past]
  rfl

section Values

variable (s : State) (e : Env)

theorem bits_lt (w : DWord) (lo n : Nat) : bits w lo n < 2 ^ n := (w.extractLsb' lo n).isLt

theorem specialReg_tid : (specialReg s e 0x00).toNat = e.t % 512 := by
  simp [specialReg, tTid]; omega

theorem specialReg_lane : (specialReg s e 0x01).toNat = e.t % 32 := by
  simp [specialReg, tLane]; omega

theorem specialReg_grp : (specialReg s e 0x02).toNat = e.t % 512 / 32 := by
  simp [specialReg, tGrp]; omega

/-- The core and the die that a thread runs on (R57, R104; log 28). -/
theorem specialReg_core :
    (e.t / 2048 < 256 → (specialReg s e 0x06).toNat = e.t / 2048 ∧ (specialReg s e 0x07).toNat = e.t / 2048 / 64) ∧
    (256 ≤ e.t / 2048 → e.t / 2048 < 260 → (specialReg s e 0x07).toNat = e.t / 2048 - 256) := by
  have ht : tCore e.t = e.t / 2048 := rfl
  refine ⟨fun h => ?_, fun h1 h2 => ?_⟩
  · simp [specialReg, ht, dieOf, h]; omega
  · have h : ¬e.t / 2048 < 256 := by omega
    simp [specialReg, ht, dieOf, h]; omega

/-- The numbers of the launch and of its place in the grid (R57, R104). -/
theorem specialReg_launch :
    (specialReg s e 0x03).toNat = e.tm.index % 2 ^ 64 ∧ (specialReg s e 0x04).toNat = e.la.nteam ∧
    (specialReg s e 0x05).toNat = (if (specialReg s e 0x02).toNat < e.la.nprod then 0 else 1) ∧
    (specialReg s e 0x08).toNat = s.config.moduleNo % 2 ^ 64 ∧ (specialReg s e 0x09).toNat = e.la.gen.toNat ∧
    (specialReg s e 0x0B).toNat = e.la.didx % 2 ^ 64 ∧ (specialReg s e 0x0C).toNat = e.la.nd := by
  have hteam : e.la.nteam < 2 ^ 32 := bits_lt _ _ _
  have hnd : e.la.nd < 2 ^ 7 := bits_lt _ _ _
  have hgen := e.la.gen.isLt
  simp only [specialReg_grp]
  simp [specialReg, Env.consumer, tGrp]
  refine ⟨by omega, ?_, by omega, by omega⟩
  by_cases h : e.la.nprod ≤ e.t % 512 / 32
  · simp [h, Nat.not_lt.mpr h]
  · simp [h, Nat.lt_of_not_le h]

/-- The context, its places, the lease and what a trap left (R104, R105). -/
theorem specialReg_context :
    (specialReg s e 0x0A).toNat = e.th.ctx.depth % 2 ^ 64 ∧ (specialReg s e 0x10).toNat = e.th.ctx.fpc.toNat ∧
    (specialReg s e 0x11).toNat = e.th.fps.toNat ∧
    (specialReg s e 0x20).toNat =
      (match find? (s.core (e.t / 2048)).leases (e.t / 32) with | some l => l.lines % 2 ^ 64 | none => 0) ∧
    (specialReg s e 0x28).toNat = e.th.tcause.toNat ∧ specialReg s e 0x29 = e.th.tinfo ∧
    specialReg s e 0x2A = e.th.epc := by
  have hfpc := e.th.ctx.fpc.isLt
  have hfps := e.th.fps.isLt
  have hcause := e.th.tcause.isLt
  refine ⟨by simp [specialReg], by simp [specialReg]; omega, by simp [specialReg]; omega, ?_,
    by simp [specialReg]; omega, rfl, rfl⟩
  cases h : find? (s.core (e.t / 2048)).leases (e.t / 32) <;> simp [specialReg, tCore, gKey, h]

theorem specialReg_pmap {j : Nat} (h : j < 4) :
    (specialReg s e (0x18 + j)).toNat = e.th.ctx.pmap.toNat / 2 ^ (32 * j) % 2 ^ 32 := by
  have hj : 24 ≤ 24 + j ∧ 24 + j ≤ 27 := by omega
  simp [specialReg, hj, Nat.shiftRight_eq_div_pow]
  omega

theorem specialReg_anchor {j : Nat} (h : j < 4) : specialReg s e (0x1C + j) = e.th.ctx.anchor j := by
  have hj : ¬28 + j ≤ 27 ∧ 28 + j ≤ 31 := by omega
  simp [specialReg, hj]

end Values

/-- Settles O26: `rds` and `wrs` by `rds_of_ready` and `wrs_of_ready`, the values by the `specialReg` lemmas. -/
theorem specialRegisters : Obligations.SpecialRegisters := by
  unfold Obligations.SpecialRegisters
  refine ⟨fun s s1 c sr x e => ⟨rds_of_ready, fun h ha => ?_⟩, fun s e => ?_⟩
  · obtain ⟨th, hth, hx⟩ := wrs_of_ready h ha
    exact ⟨th, hth, by rw [hx, setSpecial_eq]⟩
  · have h00 := specialReg_tid s e
    have h01 := specialReg_lane s e
    have h02 := specialReg_grp s e
    obtain ⟨hcore, hdie⟩ := specialReg_core s e
    obtain ⟨h03, h04, h05, h08, h09, h0B, h0C⟩ := specialReg_launch s e
    obtain ⟨h0A, h10, h11, h20, h28, h29, h2A⟩ := specialReg_context s e
    dsimp only
    exact ⟨by omega, by omega, by omega, h00, h03, h04, h05, hcore, hdie, h08, h09, h0A, h0B, h0C, h10, h11,
      fun _ => specialReg_pmap s e, fun _ => specialReg_anchor s e, h20, h28, h29, h2A⟩

end Sys2Proof.Machine
end

section
/-! Bring-up, recovery, attestation, the limiter, the ports and the device reset (R11, R222, R258, R364 to R372). -/

namespace Sys2Proof.Machine

/-! Bring-up. -/

theorem clkOfNs_bounds (ns : Nat) : 940 * ns ≤ 1000 * clkOfNs ns ∧ 1000 * clkOfNs ns < 940 * ns + 1000 := by
  unfold clkOfNs
  omega

theorem find?_map {α β : Type} (m : List (Nat × α)) (f : α → β) (k : Nat) :
    find? (m.map fun x => (x.1, f x.2)) k = (find? m k).map f := by
  induction m with
  | nil => rfl
  | cons x m ih => grind [find?]

theorem find?_foldl_put {α β : Type} (xs : List (Nat × α)) (p : Nat → Prop) [DecidablePred p] (f : α → β)
    (m : List (Nat × β)) (k : Nat) :
    (find? (xs.foldl (fun m x => if p x.1 then put m x.1 (f x.2) else m) m) k).isSome = true ↔
      (find? m k).isSome = true ∨ p k ∧ ∃ a, (k, a) ∈ xs := by
  induction xs generalizing m with
  | nil => simp
  | cons x xs ih =>
    obtain ⟨q, a⟩ := x
    rw [List.foldl_cons, ih]
    by_cases hq : p q
    · by_cases hk : k = q
      · subst hk
        simp [hq]
      · simp [hq, find?_put, hk]
    · have : ∀ b, p k → (k, b) ≠ (q, a) := by rintro b hk ⟨⟩; exact hq hk
      simp only [if_neg hq, List.mem_cons]
      grind

/-- The cores `cs` whose arrays a self-test has found to have failed bands (R222, R372). -/
def fenceCores (g : State → Nat → BitVec 4) (cs : List Nat) (s : State) : State :=
  cs.foldl (fun s c => s.setCore c { s.core c with fenced := g s c }) s

section

variable (g : State → Nat → BitVec 4) (cs : List Nat) (s : State) (c : Nat)

theorem fenceCores_eq : fenceCores g cs s = { s with cores := (fenceCores g cs s).cores } := by
  induction cs generalizing s with
  | nil => rfl
  | cons d cs ih => exact ih (s.setCore d { s.core d with fenced := g s d })

theorem fenceCores_core :
    (fenceCores g cs s).core c = { s.core c with fenced := ((fenceCores g cs s).core c).fenced } := by
  induction cs generalizing s with
  | nil => rfl
  | cons d cs ih =>
    refine (ih (s.setCore d { s.core d with fenced := g s d })).trans ?_
    by_cases h : c = d
    · subst h
      rw [core_setCore_self]
      rfl
    · rw [core_setCore_ne _ _ h]
      rfl

theorem fenceCores_core_ne (h : c ∉ cs) : (fenceCores g cs s).core c = s.core c := by
  induction cs generalizing s with
  | nil => rfl
  | cons d cs ih =>
    rw [List.mem_cons, not_or] at h
    obtain ⟨hd, hcs⟩ := h
    exact (ih (s.setCore d { s.core d with fenced := g s d }) hcs).trans (core_setCore_ne _ _ hd)

end

/-- The cores under test at bring-up (R356, R372). -/
def testedCores (conf : ConfigRecord) : List Nat := (List.range 256).filter (enabledCore conf)

theorem not_mem_testedCores {conf : ConfigRecord} {c : Nat}
    (h : c ∉ conf.cores ∨ conf.dies.getLsbD (c / 64) = false) :
    c ∉ testedCores conf := by
  simp only [testedCores, enabledCore, dieOf, List.mem_filter, List.mem_range, not_and]
  intro hc
  have : ¬256 ≤ c := by omega
  simp [hc, this]
  grind

/-- The self-tests set the fenced bands of the tested cores, the banks out of service, and the supply of free values. -/
theorem bringUpTests_eq (conf : ConfigRecord) (s : State) : bringUpTests conf s =
    { fenceCores (fun s c => (Config.freeWord (s.free + c)).extractLsb' 0 4) (testedCores conf) s with
      badBanks := (List.range 8192).filter (fun b => (Config.freeWord (s.free + 256 + b / 16)).getLsbD (b % 16))
      free := s.free + 768 } := by
  unfold bringUpTests testedCores fenceCores
  rfl

theorem bringUpTests_core_eq (conf : ConfigRecord) (s : State) (c : Nat) : (bringUpTests conf s).core c =
    (fenceCores (fun s c => (Config.freeWord (s.free + c)).extractLsb' 0 4) (testedCores conf) s).core c := by
  rw [bringUpTests_eq]
  unfold State.core
  dsimp only

theorem bringUpTests_core (conf : ConfigRecord) (s : State) (c : Nat) :
    (bringUpTests conf s).core c = { s.core c with fenced := ((bringUpTests conf s).core c).fenced } := by
  rw [bringUpTests_core_eq]
  exact fenceCores_core _ _ _ _

theorem bringUpTests_core_ne {conf : ConfigRecord} {c : Nat} (s : State)
    (h : c ∉ conf.cores ∨ conf.dies.getLsbD (c / 64) = false) : (bringUpTests conf s).core c = s.core c := by
  rw [bringUpTests_core_eq]
  exact fenceCores_core_ne _ _ _ _ (not_mem_testedCores h)

theorem bringUpTests_badBanks {conf : ConfigRecord} {s : State} {b : Nat} (h : b ∈ (bringUpTests conf s).badBanks) :
    b < 8192 := by
  rw [bringUpTests_eq] at h
  dsimp only at h
  rw [List.mem_filter, List.mem_range] at h
  exact h.1

theorem bringUpTests_rest (conf : ConfigRecord) (s : State) : bringUpTests conf s =
    { s with cores := (bringUpTests conf s).cores, badBanks := (bringUpTests conf s).badBanks
             free := (bringUpTests conf s).free } := by
  rw [bringUpTests_eq, fenceCores_eq]

/-- The queue pairs that a configuration record grants (R358, R372). -/
def grantedQueues (conf : ConfigRecord) : List (Nat × QueuePair) :=
  conf.queues.foldl (fun m q => if q.1 < 64 then put m q.1 (QueuePair.reset q.2) else m) []

theorem find?_grantedQueues (conf : ConfigRecord) (q : Nat) :
    (find? (grantedQueues conf) q).isSome = true ↔ q < 64 ∧ ∃ a, (q, a) ∈ conf.queues := by
  refine (find?_foldl_put conf.queues (· < 64) QueuePair.reset [] q).trans ?_
  simp [find?]

theorem find?_loadPolicy_deadline {d : DefaultPolicy} {c ns : Nat} (h : find? d.deadline c = some ns) :
    find? (loadPolicy d).deadline c = some (clkOfNs ns) := by
  simp [loadPolicy, find?_map, h]

/-- The state after bring-up (R368, R369, R372). -/
def broughtUp (conf : ConfigRecord) (digest : BitVec 256) (s : State) : State :=
  { bringUpTests conf s with
    up := true, config := conf, fwDigest := digest, policy := loadPolicy conf.policy, powerAt := s.clk
    queues := grantedQueues conf }

theorem execPowerOn_signed {s : State} {conf : ConfigRecord} (digest : BitVec 256) (hup : s.up = false)
    (hrec : s.recovery = false) (hc : conf.signed = true) :
    execPowerOn true ⟨digest, conf⟩ s = .next (broughtUp conf digest s) := by
  simp only [execPowerOn, hup, hrec, hc, broughtUp, grantedQueues]
  rfl

theorem broughtUp_eq (conf : ConfigRecord) (digest : BitVec 256) (s : State) :
    let t := broughtUp conf digest s
    t = { s with up := true, config := conf, fwDigest := digest, policy := t.policy, powerAt := s.clk
                 queues := t.queues, cores := t.cores, badBanks := t.badBanks, free := t.free } := by
  dsimp only [broughtUp]
  rw [bringUpTests_rest]

theorem broughtUp_core (conf : ConfigRecord) (digest : BitVec 256) (s : State) (c : Nat) :
    (broughtUp conf digest s).core c = (bringUpTests conf s).core c := by
  unfold State.core broughtUp
  dsimp only

theorem broughtUp_badBanks {conf : ConfigRecord} {digest : BitVec 256} {s : State} {b : Nat}
    (h : b ∈ (broughtUp conf digest s).badBanks) : b < 8192 := by
  dsimp only [broughtUp] at h
  exact bringUpTests_badBanks h

/-! The limiter, the ports and the reset. -/

theorem getLsbD_one_shiftLeft {w : Nat} (n : Nat) {i : Nat} (hi : i < w) :
    ((1 : BitVec w) <<< n).getLsbD i = decide (i = n) := by
  have h := BitVec.getLsbD_twoPow (w := w) n i
  rw [BitVec.twoPow_eq] at h
  grind

theorem temperatureLimit_hotDies (s : State) {d : Nat} (hot : Bool) (hd : d < 4) :
    ∃ m, execTemperatureLimit d hot s = .next { s with hotDies := m } ∧
      ∀ i, i < 4 → m.getLsbD i = if i = d then hot else s.hotDies.getLsbD i := by
  refine ⟨if hot then s.hotDies ||| (1 : BitVec 4) <<< d else s.hotDies &&& ~~~((1 : BitVec 4) <<< d),
    by simp only [execTemperatureLimit, Nat.not_le.mpr hd, if_false], fun i hi => ?_⟩
  have hb := getLsbD_one_shiftLeft d hi
  cases hot with
  | true => rw [if_pos rfl, BitVec.getLsbD_or, hb]; grind
  | false => rw [if_neg Bool.false_ne_true, BitVec.getLsbD_and, BitVec.getLsbD_not, hb]; grind

theorem portDown_ports {s : State} (hc : s.cur < 24) :
    ∃ m, execPortDown s = .next { s with ports := m } ∧
      ∀ i, i < 24 → m.getLsbD i = (s.ports.getLsbD i && decide (i ≠ s.cur)) := by
  refine ⟨s.ports &&& ~~~((1 : BitVec 24) <<< s.cur),
    by simp only [execPortDown, Nat.not_le.mpr hc, if_false], fun i hi => ?_⟩
  rw [BitVec.getLsbD_and, BitVec.getLsbD_not, getLsbD_one_shiftLeft s.cur hi]
  simp [hi]

/-- The state after a device reset (R258, R357). -/
def afterReset (s : State) : State :=
  { State.reset with
    cores := s.cores.map fun k => (k.1, { Core.reset with fenced := k.2.fenced })
    dram := s.dram, hostMem := s.hostMem, remote := s.remote, policy := s.policy, up := s.up
    recovery := s.recovery, config := s.config, fwDigest := s.fwDigest, attest := s.attest, ports := s.ports
    hotDies := s.hotDies, powerAt := s.powerAt, clk := s.clk, agenda := s.agenda, free := s.free, nextLid := s.nextLid
    queues := s.queues.map fun q => (q.1, QueuePair.reset q.2.asp) }

theorem execDeviceReset_eq (s : State) : execDeviceReset s = .next (afterReset s) := rfl

theorem afterReset_core (s : State) (c : Nat) :
    (afterReset s).core c = { Core.reset with fenced := (s.core c).fenced } := by
  have h := find?_map s.cores (fun k : Core => { Core.reset with fenced := k.fenced }) c
  simp only [State.core, findD, afterReset, h]
  cases find? s.cores c <;> rfl

theorem afterReset_queue {s : State} {q : Nat} {p : QueuePair} (h : find? s.queues q = some p) :
    find? (afterReset s).queues q = some (QueuePair.reset p.asp) := by
  simp [afterReset, find?_map s.queues (fun p => QueuePair.reset p.asp), h]

/-- Settles O54: bring-up by the lemmas of `broughtUp`, each other event by its own equation. -/
theorem deviceEvents : Obligations.DeviceEvents := by
  unfold Obligations.DeviceEvents
  refine ⟨fun s signed digest conf => ⟨fun h => ?_, fun hu hr h => ?_, fun hu hr hs hc => ?_⟩, fun s d h => ⟨?_, ?_⟩,
    fun s nonce h => ?_, fun s w => ⟨fun h => ?_, fun h => ?_⟩, fun s d hot hd => ?_, fun s hc => ?_, fun s => rfl,
    fun s => ?_⟩
  · rcases h with h | h <;> simp [execPowerOn, h, State.stall]
  · rcases h with h | h <;> simp [execPowerOn, hu, hr, h]
  · subst hs
    refine ⟨_, execPowerOn_signed digest hu hr hc, broughtUp_eq _ _ _, rfl, rfl, clkOfNs_bounds _, clkOfNs_bounds _,
      fun c ns h => ⟨_, find?_loadPolicy_deadline h, clkOfNs_bounds ns⟩, find?_grantedQueues conf, fun c _ _ _ => ?_,
      fun c h => ?_, fun _ => broughtUp_badBanks⟩
    · rw [broughtUp_core]
      exact bringUpTests_core conf s c
    · rw [broughtUp_core]
      exact bringUpTests_core_ne s h
  · simp [execRecoveryFirmwareLoad, h]
  · simp [execRecoveryFirmwareLoad, h]
  · simp [execAttestationReport, h]
  · have hw : s.clk < s.powerAt + powerWindow := h
    simp [execPowerWindow, hw, State.stall]
  · have hw : ¬s.clk < s.powerAt + powerWindow := Nat.not_lt.mpr h
    simp [execPowerWindow, hw]
  · obtain ⟨m, hm, hbits⟩ := temperatureLimit_hotDies s hot hd
    exact ⟨_, hm, rfl, hbits⟩
  · obtain ⟨m, hm, hbits⟩ := portDown_ports hc
    exact ⟨_, hm, rfl, hbits⟩
  · refine ⟨_, execDeviceReset_eq s, rfl, rfl, rfl, afterReset_core s, rfl, rfl, rfl, rfl, rfl, fun q p h => ?_⟩
    exact ⟨_, afterReset_queue h, rfl, rfl, rfl, rfl, rfl, rfl, rfl, rfl, rfl, rfl, rfl, rfl⟩

end Sys2Proof.Machine
end

section
/-! SUPPORT. The round trip of the encodings (R16, R17, R25, R29, R33): words and bytes, the packed fields, and what
the decoder checks beside reading the fields back. -/

namespace Sys2Proof.Laws.RoundTrip

open Sys2Proof

/-! Bytes of words (R9). -/

@[simp] theorem length_bytesOf (n v : Nat) : (bytesOf n v).length = n := by
  induction n generalizing v with
  | zero => rfl
  | succ n ih => simp [bytesOf, ih]

theorem wordOfBytes_bytesOf (n v : Nat) : wordOfBytes (bytesOf n v) = v % 256 ^ n := by
  induction n generalizing v with
  | zero => simp [bytesOf, wordOfBytes, Nat.mod_one]
  | succ n ih =>
    simp only [bytesOf, wordOfBytes, ih, BitVec.toNat_ofNat, Nat.pow_succ' (n := n), Nat.mod_mul]

theorem word_bytesOf (w : DWord) : BitVec.ofNat 64 (wordOfBytes (bytesOf 8 w.toNat)) = w := by
  apply BitVec.eq_of_toNat_eq
  rw [wordOfBytes_bytesOf, BitVec.toNat_ofNat]
  have := w.isLt
  omega

theorem bytesOfWords_cons (w : DWord) (ws : List DWord) : bytesOfWords (w :: ws) = bytesOf 8 w.toNat ++ bytesOfWords ws :=
  List.flatMap_cons ..

theorem bytesOfWords_nil : bytesOfWords [] = [] := rfl

/-- A unit of one word, whatever follows it. -/
theorem decode_one {w : DWord} {d : Decoded} (h : ∀ next, decodeWord w next = .ok d) (hd : ∀ i, d ≠ .one i 2)
    (rest : List Byte) : decode (bytesOfWords [w] ++ rest) = .ok (d, rest) := by
  have ht : (bytesOf 8 w.toNat ++ rest).take 8 = bytesOf 8 w.toNat := by simp
  have hr : (bytesOf 8 w.toNat ++ rest).drop 8 = rest := by simp
  have hl : ¬ (bytesOf 8 w.toNat ++ rest).length < 8 := by simp
  simp only [bytesOfWords_cons, bytesOfWords_nil, List.append_nil, decode, hl, if_false, ht, hr, word_bytesOf, h]

/-- A unit of a literal word and the word after it (R33). -/
theorem decode_two {w w2 : DWord} {i : Instr} (h : decodeWord w (some w2) = .ok (.one i 2)) (rest : List Byte) :
    decode (bytesOfWords [w, w2] ++ rest) = .ok (.one i 2, rest) := by
  have ht : (bytesOf 8 w.toNat ++ (bytesOf 8 w2.toNat ++ rest)).take 8 = bytesOf 8 w.toNat := by simp
  have hm : (bytesOf 8 w.toNat ++ (bytesOf 8 w2.toNat ++ rest)).drop 8 = bytesOf 8 w2.toNat ++ rest := by simp
  have h2 : (bytesOf 8 w2.toNat ++ rest).take 8 = bytesOf 8 w2.toNat := by simp
  have hr : (bytesOf 8 w.toNat ++ (bytesOf 8 w2.toNat ++ rest)).drop 16 = rest := by
    rw [← List.drop_drop (i := 8) (j := 8), hm]; simp
  have hl : ¬ (bytesOf 8 w.toNat ++ (bytesOf 8 w2.toNat ++ rest)).length < 8 := by simp
  have hl2 : ¬ (bytesOf 8 w.toNat ++ (bytesOf 8 w2.toNat ++ rest)).length < 16 := by simp; omega
  simp only [bytesOfWords_cons, bytesOfWords_nil, List.append_nil, List.append_assoc, decode, hl, hl2, if_false, ht, hm, h2, hr,
    word_bytesOf, h]

/-! Packed fields. -/

theorem join_next {p : Nat} (x : BitVec p) {i j n k : Nat} (h : i = j + k) :
    x.extractLsb' i n ++ x.extractLsb' j k = x.extractLsb' j (n + k) := by
  rw [h, join_part]

theorem pack_unpack {w : DWord} (h : w.extractLsb' 62 2 = 0) : (Fields.unpack w).pack = w := by
  simp only [Fields.pack, Fields.unpack]
  rw [show (0#2 : BitVec 2) = w.extractLsb' 62 2 from h.symm]
  simp (disch := decide) only [join_next]
  exact part_all w

theorem unpack_pack (f : Fields) : Fields.unpack f.pack = f := by
  obtain ⟨op, d, a, b, c, g, gn, h, fs, k, ru, m⟩ := f
  simp (disch := decide) only [Fields.unpack, Fields.pack, part_high, part_low, Nat.reduceSub, part_all]

theorem kind_fields (f : Fields) : f.pack.extractLsb' 62 2 = 0 := by
  simp (disch := decide) only [Fields.pack, part_high, Nat.reduceSub, part_all]
  rfl

theorem slot_unpack_pack (f : SlotFields) : SlotFields.unpack f.pack = f := by
  obtain ⟨op6, i, d, s, imm8⟩ := f
  simp (disch := decide) only [SlotFields.unpack, SlotFields.pack, part_high, part_low, Nat.reduceSub, part_all]

theorem bit_low {p q : Nat} (x : BitVec p) (y : BitVec q) {i : Nat} (h : i < q) : (x ++ y).getLsbD i = y.getLsbD i := by
  rw [BitVec.getLsbD_append, if_pos h]

theorem bit_high {p q : Nat} (x : BitVec p) (y : BitVec q) {i : Nat} (h : q ≤ i) :
    (x ++ y).getLsbD i = x.getLsbD (i - q) := by
  rw [BitVec.getLsbD_append, if_neg (Nat.not_lt.mpr h)]

theorem some_of_isSome {α : Type} (o : Option α) (d : α) : (if o.isSome then some (o.getD d) else none) = o := by
  cases o <;> rfl

theorem decodeHeader_pack {h : Header} (hw : h.wf = true) : decodeHeader h.pack = some h := by
  have hp : h = { wait := h.pack.extractLsb' 50 12
                  set0 := if h.pack.getLsbD 49 then some (h.pack.extractLsb' 45 4) else none
                  set1 := if h.pack.getLsbD 44 then some (h.pack.extractLsb' 40 4) else none
                  len := h.pack.extractLsb' 34 6, y := h.pack.getLsbD 33, r := h.pack.getLsbD 32
                  mark := if h.pack.getLsbD 31 then some (h.pack.extractLsb' 17 14) else none } := by
    simp (disch := decide) only [Header.pack, part_high, part_low, bit_high, bit_low, Nat.reduceSub, part_all, bit_of_bool,
      some_of_isSome]
  unfold decodeHeader
  rw [← hp]
  simp [hw]

theorem kind_header (h : Header) : h.pack.extractLsb' 62 2 = 2 := by
  simp (disch := decide) only [Header.pack, part_high, Nat.reduceSub, part_all]
  rfl

theorem kind_literal (v : BitVec 62) : (literalWord v).extractLsb' 62 2 = 3 := by
  simp (disch := decide) only [literalWord, part_high, Nat.reduceSub, part_all]
  rfl

theorem value_literal (v : BitVec 62) : (literalWord v).extractLsb' 0 62 = v := by
  simp (disch := decide) only [literalWord, part_low, part_all]

theorem literal_value {w : DWord} (h : w.extractLsb' 62 2 = 3) : literalWord (w.extractLsb' 0 62) = w := by
  rw [literalWord, show (3#2 : BitVec 2) = w.extractLsb' 62 2 from h.symm]
  simp (disch := decide) only [join_next]
  exact part_all w


/-! Slots of a pair word (R25, R28). -/

@[simp] theorem slot_op6 (o : PairSrc) (op6 : BitVec 6) (d : Reg) : (o.slot op6 d).op6 = op6 := by cases o <;> rfl
@[simp] theorem slot_d (o : PairSrc) (op6 : BitVec 6) (d : Reg) : (o.slot op6 d).d = d := by cases o <;> rfl
@[simp] theorem slotSrc_slot (o : PairSrc) (op6 : BitVec 6) (d : Reg) : slotSrc (o.slot op6 d) = o := by cases o <;> rfl

theorem ofSlot_toSlot {i : Instr} {f : SlotFields} (h : i.toSlot = some f) : ofSlot f = some i := by
  cases i <;> simp only [Instr.toSlot, Option.some.injEq, reduceCtorEq] at h <;> subst h <;> simp [ofSlot]

theorem slotOk_of_wellFormed {i : Instr} (h : WellFormed i) : i.slotOk = true := by
  simp only [WellFormed, Instr.fault] at h
  grind

theorem decodeSlot_pack {i : Instr} {f : SlotFields} (h : i.toSlot = some f) (hs : i.slotOk = true) :
    decodeSlot f.pack = some i := by
  simp [decodeSlot, slot_unpack_pack, ofSlot_toSlot h, h, hs]

/-! The checks of the decoder (R37). -/

/-- What the encoder writes into the fields, the decoder reads back (R17, R33), whatever the instruction. -/
theorem ofFields_toFields (i : Instr) : Statement i :=
  Instr.casesOn (motive := Statement) i
    clauseHeader operandSend executeCommand tallocGrant jobDispatch jobRetire arraySelfTest engineFault
    engineFaultResume medlarActionStart medlarActionComplete loadReturn storePerform publishDeadline
    cleanDropDeadline atomicPerform writebackError movedRefusal translationRequestCompletion invalidateRequest
    prgResponse priTimeout rowOperationStart rowOperationComplete bankComputeError teamResident recordReplication
    readyReport startGen abortGen preemptionRequest queueStop sqtailWrite cqheadWrite registerWrite powerWindow
    temperatureLimit remoteAccessTimeout dataLoss powerOn attestationReport nop br brc brg jmp call callr ret exit
    refill repack yld trap brk eret shflIdx shflUp shflDown shflXor voteAny voteAll voteBallot reduxAdd reduxMin
    reduxMax reduxAnd reduxOr reduxFadd reduxFmin reduxFmax meet add addSat sub subSat addc mul mulh mad madS64 min
    max abs and or xor andn not shl shr sar rol clz popc brev bfe bfi prmt sel cmp add64 lea mov liB32 liB64 fadd
    fsub fmul ffma fmin fmax fcmp frcp frsq fsqrt fex2 flg2 fcls fcvtF32S32 fcvtF32B32 fcvtS32F32 fcvtB32F32
    fcvtF32Fs fcvtFsF32 fcvtFsF32Sat fcvtBf16x2F32 fcvtBf16x2F32Sat fcvtF32Bf16 fadd2Bf16 fmul2Bf16 ffma2Bf16 place
    reloc anch xacq xrel ixld ixst rds wrs ld ldc st atomAdd atomMin atomMax atomAnd atomOr atomXor atomXchg
    atomFadd cas acq rel fence cclean cinval pref talloc tfree tmap tcopy tld tst tfill tadd tmul tfma tcvt tredAdd
    tredMax tredMin ttr mplane mma mmas gmm mdrain mzero epild fbind fget fgett ksort kpack wtake wfix qpush qpop
    qpopAny bari barr barw bars gset gres gresOpen gwait fwait lease rowmaj rowand rowor rownot rowcp bkfence
    ctxsave ctxsaveTeam ctxload ctxloadTeam tinvUnmap tinvDowngrade tinvUnmapAll selftestArray selftestBank pairAdd
    pairSub pairAnd pairOr pairXor pairShl pairShr pairSar pairMinS32 pairMinB32 pairMaxS32 pairMaxB32 pairMov
    pairFadd pairFmul pairFmin pairFmax remoteOrHostAccessArrival queuePairGrant firmwareLaunchStart
    escalatedTeamEnd recoveryFirmwareLoad maintenanceCompletion prefCompletion starvation yieldExclusionEnd
    unitCommit trapRollback meetComplete tallocTimeout leaseEvaluation leaseQuietDecay parkedTimeExpiry
    protectionEnd publicationRequest publicationReply revocation registryRecall reclassification pageWalk launchEnd
    readyDeadlineExpiry preemptionDeadline submissionConsume completionRecordWrite queueEnable errClear portDown
    pairPnop deviceReset flitError

theorem Imm_cField_of_lit {v : Imm} (h : v.lit?.isSome) : v.cField = 0 := by
  cases v with
  | c8 v => cases h
  | lit v => rfl

theorem Src2_cField_of_lit {v : Src2} (h : v.lit?.isSome) : v.cField = 0 := by
  cases v with
  | reg r => rfl
  | imm i => exact Imm_cField_of_lit h

/-- Beside a literal the C field is zero (R33). -/
theorem toFields_c_of_lit {i : Instr} {f : Fields} {v : BitVec 62} (h : i.toFields = some (f, some v)) : f.c = 0 := by
  cases i <;> simp only [Instr.toFields, Option.some.injEq, Prod.mk.injEq, reduceCtorEq, and_false] at h <;>
    (obtain ⟨rfl, hl⟩ := h; simp [mk_c, Src2_cField_of_lit, Imm_cField_of_lit, hl])

/-- The A field that `tinv` of a whole address space ignores is written as zero (R336). -/
theorem toFields_a_of_aIgnored {i : Instr} {f : Fields} {lit : Option (BitVec 62)} (h : i.toFields = some (f, lit))
    (ha : aIgnored f = true) : f.a = 0 := by
  obtain ⟨hop, hc⟩ : f.op = 0xFA ∧ f.c = 2 := by simpa [aIgnored] using ha
  have hi := ofFields_toFields i f lit h
  rw [of_fa hop, hc] at hi
  rw [← Except.ok.inj hi, Instr.toFields] at h
  rw [← (Prod.mk.inj (Option.some.inj h)).1]
  rfl

/-- The fields that the decoder holds against those of the encoding: C where it is free, and A where it is ignored, count
as the encoding has them (R33, R336). -/
def comparedFields (f f' : Fields) (cFree : Bool) : Fields :=
  let g : Fields := if cFree then { f with c := f'.c } else f
  if aIgnored f then { g with a := 0 } else g

theorem comparedFields_self {f : Fields} (b : Bool) (h : aIgnored f = true → f.a = 0) : comparedFields f f b = f := by
  cases b <;> by_cases ha : aIgnored f = true <;> simp [comparedFields, ha]
  all_goals rw [← BitVec.ofNat_eq_ofNat, ← h ha]

theorem comparedFields_of_c_eq {f f' : Fields} (b : Bool) (hc : f'.c = f.c) (ha : aIgnored f = false) :
    comparedFields f f' b = f := by
  cases b <;> simp [comparedFields, ha, hc]

/-- The checks of the decoder on the instruction that the opcode and its selector name (R37). -/
theorem decodeFields_eq {i : Instr} {f f' : Fields} {lit lit' : Option (BitVec 62)} (hi : ofFields f lit = .ok i)
    (hf : i.toFields = some (f', lit')) : decodeFields f lit =
      let cFree := lit.isSome && lit' == lit
      if i.fault = some 2 then .error ⟨2, none⟩
      else if f' ≠ comparedFields f f' (cFree || subFunction f.op) || i.fault = some 3 then .error ⟨3, some i⟩
      else if lit' ≠ lit || (cFree && f.c != 0) then .error ⟨6, some i⟩
      else if f'.c ≠ f.c && !cFree then .error ⟨7, some i⟩
      else match i.fault with
        | some r => .error ⟨r, some i⟩
        | none => .ok i := by
  simp only [decodeFields, hi, hf]
  rfl

/-- The fields of a well-formed instruction decode to it. -/
theorem decodeFields_toFields {i : Instr} {f : Fields} {lit : Option (BitVec 62)} (hw : WellFormed i)
    (h : i.toFields = some (f, lit)) : decodeFields f lit = .ok i := by
  have hw : i.fault = none := hw
  rw [decodeFields_eq (ofFields_toFields i f lit h) h]
  simp only [comparedFields_self _ (toFields_a_of_aIgnored h)]
  cases lit with
  | none => simp [hw]
  | some v => simp [hw, toFields_c_of_lit h]

theorem eq_tinvUnmapAll_of_aIgnored {i : Instr} {f : Fields} {lit : Option (BitVec 62)} (h : ofFields f lit = .ok i)
    (ha : aIgnored f = true) : i = .tinvUnmapAll f.ctl f.b := by
  obtain ⟨hop, hc⟩ : f.op = 0xFA ∧ f.c = 2 := by simpa [aIgnored] using ha
  rw [of_fa hop, hc] at h
  exact (Except.ok.inj h).symm

/-- What decodes is well formed, and its fields are those that were decoded, but for the A field that `tinv` of a whole
address space ignores (R336). -/
theorem decodeFields_ok {i : Instr} {f : Fields} {lit : Option (BitVec 62)} (h : decodeFields f lit = .ok i) :
    WellFormed i ∧ ((∀ c xb, i ≠ .tinvUnmapAll c xb) → i.toFields = some (f, lit)) := by
  obtain ⟨j, hj⟩ : ∃ j, ofFields f lit = .ok j := by
    cases hj : ofFields f lit with
    | ok j => exact ⟨j, rfl⟩
    | error r => simp [decodeFields, hj] at h
  obtain ⟨f', lit', hf⟩ : ∃ f' lit', j.toFields = some (f', lit') := by
    cases hf : j.toFields with
    | some x => exact ⟨x.1, x.2, rfl⟩
    | none => simp [decodeFields, hj, hf] at h
  rw [decodeFields_eq hj hf] at h
  simp only [] at h
  split at h
  · cases h
  split at h
  · cases h
  rename_i hg
  split at h
  · cases h
  rename_i hl
  split at h
  · cases h
  rename_i hc
  split at h
  · cases h
  rename_i hw
  cases h
  obtain ⟨rfl, hlc⟩ : lit' = lit ∧ (lit.isSome = true → f.c = 0) := by
    obtain ⟨h1, h2⟩ : lit' = lit ∧ (lit.isSome = true → lit' = lit → f.c = 0) := by simpa using hl
    exact ⟨h1, fun hs => h2 hs h1⟩
  refine ⟨hw, fun hn => ?_⟩
  have ha : aIgnored f = false := by
    by_contra ha
    exact hn _ _ (eq_tinvUnmapAll_of_aIgnored hj (by simpa using ha))
  have hcc : f'.c = f.c := by
    cases lit' with
    | none => simpa using hc
    | some v => rw [toFields_c_of_lit hf, hlc rfl]
  rw [comparedFields_of_c_eq _ hcc ha] at hg
  have hff : f' = f := by
    by_contra hne
    exact hg (by simp [hne])
  rw [hf, hff]

/-! Words. -/

theorem encode_of_fields {i : Instr} {f : Fields} (h : i.toFields = some (f, none)) : encode i = [f.pack] := by
  unfold encode
  split
  · cases h
  · rw [h]

theorem encode_of_literal {i : Instr} {f : Fields} {v : BitVec 62} (h : i.toFields = some (f, some v)) :
    encode i = [literalWord v, f.pack] := by
  unfold encode
  split
  · cases h
  · rw [h]

/-- One word is that of fields without a literal, or of a header. -/
theorem toFields_of_encode_one {i : Instr} {w : DWord} (h : encode i = [w]) (hn : ∀ h, i ≠ .clauseHeader h) :
    ∃ f, i.toFields = some (f, none) ∧ w = f.pack := by
  cases hf : i.toFields with
  | none =>
    unfold encode at h
    split at h
    · exact absurd rfl (hn _)
    · simp [hf] at h
  | some x =>
    obtain ⟨f, lit⟩ := x
    cases lit with
    | none => exact ⟨f, rfl, by simpa [encode_of_fields hf] using h.symm⟩
    | some v => simp [encode_of_literal hf] at h

theorem toFields_of_encode_two {i : Instr} {w w2 : DWord} (h : encode i = [w, w2]) :
    ∃ f v, i.toFields = some (f, some v) ∧ w = literalWord v ∧ w2 = f.pack := by
  cases hf : i.toFields with
  | none =>
    unfold encode at h
    split at h
    · simp at h
    · simp [hf] at h
  | some x =>
    obtain ⟨f, lit⟩ := x
    cases lit with
    | none => simp [encode_of_fields hf] at h
    | some v =>
      obtain ⟨h1, h2⟩ : literalWord v = w ∧ f.pack = w2 := by simpa [encode_of_literal hf] using h
      exact ⟨f, v, rfl, h1.symm, h2.symm⟩

theorem decodeWord_fields {i : Instr} {f : Fields} (hw : WellFormed i) (h : i.toFields = some (f, none))
    (next : Option DWord) : decodeWord f.pack next = .ok (.one i 1) := by
  simp [decodeWord, kind_fields, unpack_pack, decodeFields_toFields hw h]

theorem decodeWord_literal {i : Instr} {f : Fields} {v : BitVec 62} (hw : WellFormed i)
    (h : i.toFields = some (f, some v)) : decodeWord (literalWord v) (some f.pack) = .ok (.one i 2) := by
  simp [decodeWord, kind_literal, value_literal, kind_fields, unpack_pack, decodeFields_toFields hw h]

theorem decodeWord_header {h : Header} (hw : h.wf = true) (next : Option DWord) :
    decodeWord h.pack next = .ok (.header h) := by
  simp [decodeWord, kind_header, decodeHeader_pack hw]

/-- The slots of a pair word stand in its upper and its lower half (R25). -/
theorem encodePair_parts {i0 i1 : Instr} {w : DWord} (h : encodePair i0 i1 = some w) :
    ∃ f0 f1, i0.toSlot = some f0 ∧ i1.toSlot = some f1 ∧ w.extractLsb' 62 2 = 1 ∧ w.extractLsb' 31 31 = f0.pack ∧
      w.extractLsb' 0 31 = f1.pack := by
  unfold encodePair at h
  split at h
  · rename_i f0 f1 hf0 hf1
    cases h
    refine ⟨f0, f1, hf0, hf1, ?_, ?_, ?_⟩ <;>
      simp (disch := decide) only [part_high, part_low, Nat.reduceSub, part_all]
    rfl
  · cases h

theorem kind_pair {i0 i1 : Instr} {w : DWord} (h : encodePair i0 i1 = some w) : w.extractLsb' 62 2 = 1 := by
  obtain ⟨f0, f1, -, -, hk, -, -⟩ := encodePair_parts h
  exact hk

theorem decodeWord_pair {i0 i1 : Instr} {w : DWord} (h0 : WellFormed i0) (h1 : WellFormed i1)
    (hd : pairDestsOk i0 i1 = true) (h : encodePair i0 i1 = some w) (next : Option DWord) :
    decodeWord w next = .ok (.pair i0 i1) := by
  obtain ⟨f0, f1, hf0, hf1, hk, hs0, hs1⟩ := encodePair_parts h
  simp [decodeWord, hk, hs0, hs1, decodeSlot_pack hf0 (slotOk_of_wellFormed h0),
    decodeSlot_pack hf1 (slotOk_of_wellFormed h1), hd]

/-- A full instruction comes from the fields of one word, or of a word behind a literal (R16, R33). -/
theorem decodeWord_one {w : DWord} {next : Option DWord} {i : Instr} {n : Nat} (h : decodeWord w next = .ok (.one i n)) :
    (n = 1 ∧ w.extractLsb' 62 2 = 0 ∧ decodeFields (Fields.unpack w) none = .ok i) ∨
    (n = 2 ∧ w.extractLsb' 62 2 = 3 ∧ ∃ w2, next = some w2 ∧ w2.extractLsb' 62 2 = 0 ∧
      decodeFields (Fields.unpack w2) (some (w.extractLsb' 0 62)) = .ok i) := by
  have hlt := (w.extractLsb' 62 2).isLt
  unfold decodeWord at h
  split at h
  · rename_i hk
    left
    split at h
    · rename_i hd
      cases h
      exact ⟨rfl, BitVec.eq_of_toNat_eq hk, hd⟩
    · cases h
  · split at h
    · split at h <;> cases h
    · cases h
  · split at h <;> cases h
  · rename_i hk0 hk1 hk2
    right
    have hk : w.extractLsb' 62 2 = 3 := BitVec.eq_of_toNat_eq (by
      simp only [imp_false] at hk0 hk1 hk2
      rw [show BitVec.toNat (3 : BitVec 2) = 3 from rfl]
      omega)
    split at h
    · cases h
    · rename_i w2
      split at h
      · rename_i h2
        split at h
        · rename_i hd
          cases h
          exact ⟨rfl, hk, w2, rfl, h2, hd⟩
        · cases h
      · cases h

end Sys2Proof.Laws.RoundTrip

namespace Sys2Proof

open Laws.RoundTrip

/-- Settles O57: each kind of word by its own lemma; the converse from what the checks of the decoder leave. -/
theorem roundTrip : Obligations.RoundTrip := by
  unfold Obligations.RoundTrip
  refine ⟨fun i rest hw hn => ?_, fun h rest hw => ?_, fun i0 i1 w rest h0 h1 hd h => ?_, fun w next i n h => ?_⟩
  · obtain ⟨⟨f, lit⟩, hf⟩ := Option.ne_none_iff_exists'.mp hn
    cases lit with
    | none =>
      rw [encode_of_fields hf]
      exact decode_one (decodeWord_fields hw hf) (by simp) rest
    | some v =>
      rw [encode_of_literal hf]
      exact decode_two (decodeWord_literal hw hf) rest
  · exact decode_one (decodeWord_header hw) (by simp) rest
  · exact decode_one (decodeWord_pair h0 h1 hd h) (by simp) rest
  · rcases decodeWord_one h with ⟨rfl, hk, hd⟩ | ⟨rfl, hk, w2, rfl, hk2, hd⟩
    · obtain ⟨hw, hf⟩ := decodeFields_ok hd
      exact ⟨hw, fun ht => ⟨fun _ => by rw [encode_of_fields (hf ht), pack_unpack hk], by simp⟩⟩
    · obtain ⟨hw, hf⟩ := decodeFields_ok hd
      exact ⟨hw, fun ht => ⟨by simp, fun _ => ⟨w2, rfl, by rw [encode_of_literal (hf ht), literal_value hk, pack_unpack hk2]⟩⟩⟩

end Sys2Proof
end

section
/-! SUPPORT. Pair words, guards and control transfers (R16 to R36, R70 to R75): the words of the spec, the slots of a
pair word, and where a transfer lands or traps. -/

namespace Sys2Proof.Machine

/-- Settles O58: each word by evaluation of the decoder. -/
theorem decodedWords : Obligations.DecodedWords := by
  unfold Obligations.DecodedWords
  refine ⟨?_, ?_, ?_, ?_, ?_, ?_, ?_, ?_, ?_, ?_, ?_, ?_, ?_, ?_, ?_, ?_, ?_, ?_, ?_, ?_, ?_, ?_, ⟨none, ?_⟩, ⟨none, ?_⟩,
    ⟨_, rfl⟩, ⟨none, ?_⟩, ⟨none, ?_⟩, ⟨none, ?_⟩, ⟨_, rfl⟩⟩ <;> decide

theorem slotOp_eq {op : PairOp} (hop : op ≠ .mov) (d : Reg) (o : PairSrc) (s : State) :
    slotOp op d o s = slot s (pairSrcs d o) (some d) (slotOut op d o) := by
  cases op with
  | mov => exact absurd rfl hop
  | _ => rfl

/-- A slot without flags that reads D and S, or S and an immediate (R25, R28). -/
theorem pairResult_of {i : Reg → PairSrc → Instr} (op : PairOp) {imm : BitVec 8 → Word} {f : Word → Word → Word}
    (h : ∀ rm a b, op.eval rm a b = plain (f a b)) (hop : op ≠ .mov := by decide)
    (hi : ∀ d o s, exec (i d o) s = slotOp op d o s := by intros; rfl)
    (himm : ∀ v, op.imm v = imm v := by intros; rfl) : PairResult i imm f :=
  ⟨fun d r => pairSlot_of (fun s => (hi d (.reg r) s).trans (slotOp_eq hop d _ s))
      fun fpc rd => by rw [slotOut, h, out1_plain],
   fun d r v => pairSlot_of (fun s => (hi d (.imm r v) s).trans (slotOp_eq hop d _ s))
      fun fpc rd => by rw [slotOut, h, out1_plain, himm]⟩

/-- A slot in FP32, the immediate an E4M3 value (R28). -/
theorem pairFpResult_of {i : Reg → PairSrc → Instr} (op : PairOp) {f : Rm → Word → Word → Word × BitVec 5}
    (h : ∀ rm a b, op.eval rm a b = f rm a b) (hop : op ≠ .mov := by decide)
    (hi : ∀ d o s, exec (i d o) s = slotOp op d o s := by intros; rfl)
    (himm : ∀ v, op.imm v = e4m3Imm v := by intros; rfl) : PairFpResult i f :=
  ⟨fun d r => pairSlot_of (fun s => (hi d (.reg r) s).trans (slotOp_eq hop d _ s))
      fun fpc rd => by rw [slotOut, h, out1_fpWord],
   fun d r v => pairSlot_of (fun s => (hi d (.imm r v) s).trans (slotOp_eq hop d _ s))
      fun fpc rd => by rw [slotOut, h, out1_fpWord, himm]⟩

theorem add_eq (a b : Word) : a + b = natWord (a.toNat + b.toNat) := BitVec.add_def a b

/-- Settles O10: each slot by the integer function that it applies. -/
theorem pairSlotResults : Obligations.PairSlotResults := by
  unfold Obligations.PairSlotResults
  refine ⟨pairResult_of .add fun _ a b => congrArg plain (add_eq a b),
    pairResult_of .sub fun _ a b => congrArg plain (sub_eq a b),
    pairResult_of .and fun _ _ _ => rfl,
    pairResult_of .or fun _ _ _ => rfl,
    pairResult_of .xor fun _ _ _ => rfl,
    pairResult_of .shl fun _ a b => congrArg plain (shlOp_eq a b),
    pairResult_of .shr fun _ a b => congrArg plain (shrOp_eq a b),
    pairResult_of .sar fun _ a b => congrArg plain (sarOp_eq a b),
    pairResult_of .minS fun _ a b => congrArg plain (minOp_signed a b),
    pairResult_of .minB fun _ a b => congrArg plain (minOp_unsigned a b),
    pairResult_of .maxS fun _ a b => congrArg plain (maxOp_signed a b),
    pairResult_of .maxB fun _ a b => congrArg plain (maxOp_unsigned a b),
    fun d r => pairSlot_of (fun _ => rfl) fun fpc rd => out1_plain fpc d (rd r),
    fun d r v => pairSlot_of (fun _ => rfl) fun fpc _ => out1_plain fpc d _,
    pairFpResult_of .fadd fun _ _ _ => rfl,
    pairFpResult_of .fmul fun _ _ _ => rfl,
    pairFpResult_of .fmin fun _ _ _ => rfl,
    pairFpResult_of .fmax fun _ _ _ => rfl,
    pairSlot_of (fun _ => rfl) fun _ _ => rfl⟩

theorem guarded_wrs (c : Ctl) (sr : BitVec 8) (x : Reg) :
    Guarded (.wrs c sr x) (fun _ => { settled := sr == 0x10 || sr == 0x11 || sr == 0x2A, lane := false }) c 1 := by
  simp only [← srSettled_eq]
  exact guarded_of (fun _ => rfl) fun _ => rfl

/-- Settles O11: the gate stands first in each of these units. -/
theorem guardedUnits : Obligations.GuardedUnits := by
  unfold Obligations.GuardedUnits
  exact ⟨fun c xd xa v => guarded_of (fun _ => rfl) fun _ => rfl,
    fun c xd xa xb xc => guarded_of (fun _ => rfl) fun _ => rfl,
    fun c md xd xa v => guarded_of (fun _ => rfl) fun _ => rfl,
    fun c xd xa => guarded_of (fun _ => rfl) fun _ => rfl,
    fun c xd xa => ⟨guarded_of (fun _ => rfl) fun _ => rfl, guarded_of (fun _ => rfl) fun _ => rfl⟩,
    fun c sz x xa off => ⟨guarded_of (fun _ => rfl) fun _ => rfl, guarded_of (fun _ => rfl) fun _ => rfl⟩,
    fun c sz n x xa off _ => guarded_of (fun _ => rfl) fun _ => rfl,
    fun c pl w64 xd xa xb xc => ⟨guarded_of (fun _ => rfl) fun _ => rfl, guarded_of (fun _ => rfl) fun _ => rfl,
      guarded_of (fun _ => rfl) fun _ => rfl⟩,
    fun c sr x => ⟨guarded_of (fun _ => rfl) fun _ => rfl, guarded_wrs c sr x⟩⟩

/-! Control transfers (R35, R36, R70 to R75). -/

/-- A transfer that lands goes on at its target's header. -/
theorem transfer_lands {s s' : State} {e : Env} {t : DWord} (h : Lands s e t s') :
    (transfer s e t fun s => .next (stepTo s e (e.th.ctx.goto t))) = .next (Past s' e (e.th.ctx.land t)) := by
  rw [lands_transfer h, stepTo_eq]
  rfl

theorem brc_of_ready {s s1 : State} {e : Env} {c : Ctl} {cc : BitVec 3} {w64 : Bool} {xd xa : Reg} {off : BitVec 16}
    (h : Ready s {} c (if w64 then [xd, xd + 1, xa, xa + 1] else [xd, xa]) s1 e)
    (ha : Arrived e (if w64 then [xd, xd + 1, xa, xa + 1] else [xd, xa])) :
    exec (.brc c cc w64 xd xa off) s =
      if (if w64 then holds cc (BitVec.ofNat 64 (pairNat e.th.read xd)) (BitVec.ofNat 64 (pairNat e.th.read xa))
          else holds cc (e.th.read xd) (e.th.read xa)) = true
      then transfer s1 e (e.th.ctx.target off.toInt) fun s => .next (stepTo s e (e.th.ctx.goto (e.th.ctx.target off.toInt)))
      else .next (stepTo s1 e (e.th.ctx.advance 1)) := by
  simp only [← condInt_eq, ← read64_eq]
  exact gather_of_ready h ha 1 _

/-- `brg` past its guard (R72). -/
theorem brg_of_passes {s : State} {e : Env} {c : Ctl} {off : BitVec 32} (h : Passes s { held := true } c e)
    (hg : e.guard c.g.toNat ≠ 2) :
    exec (.brg c off) s =
      if (e.guard c.g.toNat = 1) ↔ c.gn = false
      then transfer s e (e.th.ctx.target off.toInt) fun s => .next (stepTo s e (e.th.ctx.goto (e.th.ctx.target off.toInt)))
      else .next (stepTo s e (e.th.ctx.advance 1)) := by
  refine (unit_of_passes h 1 _).trans ?_
  have h2 : (e.guard c.g.toNat == 2) = false := by simpa using hg
  simp only [h2, Bool.false_eq_true, if_false]
  refine if_congr ?_ rfl rfl
  cases c.gn <;> simp

theorem jmp_of_ready {s s1 : State} {e : Env} {c : Ctl} {xa : Reg} (h : Ready s {} c [xa, xa + 1] s1 e)
    (ha : Arrived e [xa, xa + 1]) : exec (.jmp c xa) s =
      transfer s1 e (BitVec.ofNat 64 (pairNat e.th.read xa)) fun s =>
        .next (stepTo s e (e.th.ctx.goto (BitVec.ofNat 64 (pairNat e.th.read xa)))) := by
  simp only [← read64_eq]
  exact gather_of_ready h ha 1 _

/-- Settles O12: each transfer by its own lemma, to its target by `transfer_lands` or past its word. -/
theorem transfers : Obligations.Transfers := by
  unfold Obligations.Transfers
  intro s e c s'
  refine ⟨fun h => ?_, fun off h hl => ?_, fun off h hg => ?_, fun cc w64 xd xa off s1 e1 h ha => ?_, fun xa s1 e1 h ha hl => ?_⟩
  · exact (unit_of_passes h 1 _).trans (congrArg _ (stepTo_eq s e _))
  · exact (unit_of_passes h 1 _).trans (transfer_lands hl)
  · simp only [brg_of_passes h hg]
    split
    · exact transfer_lands
    · exact congrArg _ (stepTo_eq s e _)
  · intro t taken
    by_cases ht : taken = true
    · rw [if_pos ht]
      exact fun hl => ((brc_of_ready h ha).trans (if_pos ht)).trans (transfer_lands hl)
    · rw [if_neg ht]
      exact ((brc_of_ready h ha).trans (if_neg ht)).trans (congrArg _ (stepTo_eq s1 e1 _))
  · rw [jmp_of_ready h ha, transfer_lands hl]

theorem isHeader_eq (w : DWord) : isHeader w = decide (w.toNat / 2 ^ 62 = 2) := by
  have := w.isLt
  rw [isHeader, Bool.eq_iff_iff, beq_iff_eq, decide_eq_true_iff, ← BitVec.toNat_inj]
  simp [Nat.shiftRight_eq_div_pow]
  omega

theorem canonical_eq (a : DWord) : canonical a = decide (a.toNat < 2 ^ 57) := by
  have := a.isLt
  rw [canonical, Bool.eq_iff_iff, beq_iff_eq, decide_eq_true_iff, ← BitVec.toNat_inj]
  simp [Nat.shiftRight_eq_div_pow]
  omega

theorem lowBits_eq (t : DWord) : (t.extractLsb' 0 3 != 0) = decide (t.toNat % 8 ≠ 0) := by
  rw [Bool.eq_iff_iff, bne_iff_ne, decide_eq_true_iff, ne_eq, ← BitVec.toNat_inj]
  simp

theorem fetchWord_of_not_canonical {a : DWord} (h : 2 ^ 57 ≤ a.toNat) (s : State) (e : Env) :
    fetchWord s e a = .trap (trapOf 0x04 (a.toNat % 2 ^ 57)) := by
  have hc : canonical a = false := by
    rw [canonical_eq, decide_eq_false_iff_not]
    omega
  simp [fetchWord, hc]

/-- A target that is bad traps at the transferring unit (R36, R73). -/
theorem badTarget_of {i : Instr} {s s0 : State} {e : Env} {t : DWord} {k : State → Outcome}
    (h : exec i s = transfer s0 e t k) : BadTarget i s s0 e t := by
  refine ⟨fun hn => ?_, fun hn hc => ?_, fun s1 w hn hf hw => ?_⟩ <;> rw [h, transfer, lowBits_eq]
  · simp [hn]
  · simp [hn, fetchWord_of_not_canonical hc]
  · have hh : isHeader w = false := by
      rw [isHeader_eq, decide_eq_false_iff_not]
      exact hw
    simp [hn, hf, hh]

theorem call_of_passes {s : State} {e : Env} {c : Ctl} {off : BitVec 32} (h : Passes s {} c e) :
    exec (.call c off) s = callTo s e (e.th.ctx.target off.toInt) := unit_of_passes h 1 _

theorem callr_of_ready {s s1 : State} {e : Env} {c : Ctl} {xa : Reg} (h : Ready s {} c [xa, xa + 1] s1 e)
    (ha : Arrived e [xa, xa + 1]) : exec (.callr c xa) s = callTo s1 e (BitVec.ofNat 64 (pairNat e.th.read xa)) := by
  rw [← read64_eq]
  exact gather_of_ready h ha 1 _

/-- A call at the depth limit traps with the address of the entry (R59, R74). -/
theorem callTo_limit {s s2 : State} {e : Env} {t : DWord} (h : Lands s e t s2) (hd : e.th.ctx.depth = e.la.depthLimit) :
    callTo s e t = .next (raiseTrap s2 e.t (trapOf 0x05 (e.stackAddr e.th.ctx.depth))) := by
  rw [callTo, lands_transfer h]
  simp [hd]

/-- A return reads the entry below and goes where it says (R75). -/
theorem ret_of_passes {s s1 : State} {e : Env} {c : Ctl} {v : Nat} (h : Passes s {} c e) (hd : 0 < e.th.ctx.depth)
    (hr : readNow s e (e.stackAddr (e.th.ctx.depth - 1)) 8 = .ok s1 v) :
    exec (.ret c) s = transfer s1 e (BitVec.ofNat 64 v) fun s =>
      .next (stepTo s e { e.th.ctx.goto (BitVec.ofNat 64 v) with depth := e.th.ctx.depth - 1 }) := by
  refine (unit_of_passes h 1 _).trans ?_
  simp [Nat.ne_of_gt hd, hr]

theorem ret_at_depth_zero {s : State} {e : Env} {c : Ctl} (h : Passes s {} c e) (hd : e.th.ctx.depth = 0) :
    exec (.ret c) s = .next (raiseTrap s e.t (trapOf 0x02 0)) := by
  refine (unit_of_passes h 1 _).trans ?_
  simp [hd]

/-- Settles O13: every transfer comes to `transfer` at its target, and a call past it to its depth check. -/
theorem badTransfers : Obligations.BadTransfers := by
  unfold Obligations.BadTransfers
  intro s s1 c e rel limit
  refine ⟨fun off h => ⟨badTarget_of (unit_of_passes h 1 _), badTarget_of (call_of_passes h), fun s2 hl hd => ?_⟩,
    fun off h hg hc => badTarget_of ((brg_of_passes h hg).trans (if_pos hc)),
    fun cc w64 xd xa off h ha ht => badTarget_of ((brc_of_ready h ha).trans (if_pos ht)),
    fun xa h ha => ⟨badTarget_of (jmp_of_ready h ha), badTarget_of (callr_of_ready h ha), fun s2 hl hd => ?_⟩,
    fun h => ⟨ret_at_depth_zero h, fun v hd hr => badTarget_of (ret_of_passes h hd hr)⟩⟩
  · exact (call_of_passes h).trans (callTo_limit hl hd)
  · exact (callr_of_ready h ha).trans (callTo_limit hl hd)

end Sys2Proof.Machine
end

section
/-! SUPPORT. Clause headers (R29, R30, R32, R63, R295). -/

namespace Sys2Proof.Machine

theorem thread?_of_env {s : State} {t : Nat} {e : Env} (h : s.env t = some e) : s.thread? t = some e.th := by
  unfold State.env at h
  split at h <;> try cases h
  split at h <;> try cases h
  split at h <;> cases h
  assumption

theorem modThread_of_thread? {s : State} {t : Nat} {th : Thread} (h : s.thread? t = some th) (f : Thread → Thread) :
    s.modThread t f = s.setThread t (f th) := by
  unfold State.thread? at h
  simp only [State.modThread, State.setThread, adjust, h]

@[simp] theorem thread?_acquire (s : State) (core t : Nat) : (acquire s core).thread? t = s.thread? t := rfl

/-- Every flag of a mask is zero (R30). -/
theorem flagsZero_iff (th : Thread) (mask : BitVec 12) :
    th.flagsZero mask = true ↔ ∀ f : Nat, f < 12 → mask.getLsbD f = true → findD th.flags f 0 = 0 := by
  simp only [Thread.flagsZero, List.all_eq_true, List.mem_range, Bool.or_eq_true, Bool.not_eq_true', beq_iff_eq, Thread.flag]
  refine forall_congr' fun f => imp_congr_right fun _ => ?_
  cases mask.getLsbD f <;> simp

/-- A thread that has reached a word and may pass it: what stands there decides (R63). -/
theorem execClauseHeader_of_free {s : State} {e : Env} (h : Header) (he : s.env s.cur = some e) (hx : e.th.exited = false)
    (hw : e.th.wait = .none) (hu : ∀ u ∈ e.th.window, u.trap = none ∧ u.act ≠ .exit) :
    execClauseHeader h s =
      if e.th.ctx.crem ≠ 0 then .next (raiseTrap s e.t (trapUndef 6))
      else if e.th.flagsZero h.wait = false then s.stall
      else
        let t := (if h.wait = 0 then s else acquire s (tCore e.t)).setThread e.t { e.th with ctx := e.th.ctx.enterClause h }
        .next (match h.mark with | some m => reachMarker t e m.toNat | none => t) := by
  have hexit : e.th.exiting = false := by
    simpa [Thread.exiting] using fun u h => (hu u h).2
  have htrap : e.th.window.any (fun u => u.trap.isSome) = false := by
    simpa using fun u h => (hu u h).1
  have hth : (if h.wait = 0 then s else acquire s (tCore e.t)).thread? e.t = some e.th := by
    have := thread?_of_env (env_t he ▸ he)
    split <;> exact this
  simp only [execClauseHeader, he, hx, hexit, hw, htrap, bne_self_eq_false, Bool.or_self, Bool.false_eq_true, if_false,
    bne_iff_ne, Bool.not_eq_true', beq_iff_eq, modThread_of_thread? hth]
  split
  · rfl
  · split
    · rfl
    · cases h.mark <;> rfl

/-- Settles O20: the three ways past `execClauseHeader_of_free`. -/
theorem clauseHeaders : Obligations.ClauseHeaders := by
  unfold Obligations.ClauseHeaders
  intro s e h he hx hw hu
  rw [exec_clauseHeader, execClauseHeader_of_free h he hx hw hu]
  refine ⟨fun hc => if_pos hc, fun hc ⟨f, hf, hm, hn⟩ => ?_, fun hc hz => ?_⟩
  · have hz : e.th.flagsZero h.wait = false := by
      rw [← Bool.not_eq_true, flagsZero_iff]
      exact fun hall => hn (hall f hf hm)
    rw [if_neg (not_not.mpr hc), if_pos hz]
    rfl
  · rw [if_neg (not_not.mpr hc), (flagsZero_iff _ _).mpr hz, if_neg Bool.true_eq_false.mp]
    rfl

end Sys2Proof.Machine
end

section
/-! SUPPORT. One step of the device (R16, R26, R32 to R34, R37, R63): the unit that stands at a thread's PC, the events
of the agenda and the end of a clk. -/

namespace Sys2Proof.Machine

open Laws.RoundTrip

theorem kindOf_eq (w : DWord) : kindOf w = w.toNat / 2 ^ 62 := by
  have := w.isLt
  simp [kindOf, Nat.shiftRight_eq_div_pow]
  omega

theorem kindOf_of_part {w : DWord} {k : BitVec 2} (h : w.extractLsb' 62 2 = k) : kindOf w = k.toNat := by
  rw [kindOf, h]

/-! What a word is read as in a clause (R32, R37). -/

theorem readUnit_one {c : Ctx} {w : DWord} {next : Option DWord} {i : Instr} {n : Nat}
    (hd : decodeWord w next = .ok (.one i n)) :
    readUnit c w next = if c.crem = 0 ∨ structureOk c i n = false then .error (trapUndef 6) else .ok (.one i n) := by
  simp [readUnit, hd]

theorem readUnit_header {c : Ctx} {w : DWord} {next : Option DWord} {h : Header}
    (hd : decodeWord w next = .ok (.header h)) : readUnit c w next = .ok (.header h) := by
  simp [readUnit, hd]

theorem readUnit_pair {c : Ctx} {w : DWord} {next : Option DWord} {i0 i1 : Instr}
    (hd : decodeWord w next = .ok (.pair i0 i1)) (hc : c.crem ≠ 0) : readUnit c w next = .ok (.pair i0 i1) := by
  simp [readUnit, hd, hc]

/-- A word of one of the lower reasons traps with it wherever it stands (R37). -/
theorem readUnit_error {c : Ctx} {w : DWord} {next : Option DWord} {x : DecodeError}
    (hd : decodeWord w next = .error x) (hk : kindOf w ≠ 1) (hx : x.reason < 6) :
    readUnit c w next = .error (trapUndef x.reason) := by
  simp [readUnit, hd, trapWord, hk, Nat.min_eq_left (Nat.le_of_lt hx)]

theorem decodeWord_bad_header {w : DWord} (hk : kindOf w = 2) (hd : decodeHeader w = none) (next : Option DWord) :
    decodeWord w next = .error ⟨5, none⟩ := by
  unfold kindOf at hk
  simp [decodeWord, hk, hd]

/-! The next unit of a thread. -/

theorem refreshed_fresh {s : State} {e : Env} (h : e.th.stale = false) : refreshed s e = .ok s e := by
  simp [refreshed, h]

theorem refreshed_stale {s : State} {e : Env} {cl : Clause} {left : Nat} (h : e.th.stale = true)
    (hc : clauseAt s e e.th.ctx.pc = .found cl left) :
    refreshed s e = .ok (s.setThread e.t (e.th.atClause cl left)) { e with th := e.th.atClause cl left } := by
  simp [refreshed, h, hc]

theorem nextUnit_word {s0 s1 s2 : State} {e0 e : Env} {w : DWord} (hr : refreshed s0 e0 = .ok s1 e)
    (hf : fetchWord s1 e e.th.ctx.pc = .ok s2 w) (hk : kindOf w ≠ 3) :
    nextUnit s0 e0 = Next.ofRead s2 (readUnit e.th.ctx w none) := by
  simp [nextUnit, hr, hf, hk]

theorem nextUnit_words {s0 s1 s2 s3 : State} {e0 e : Env} {w w2 : DWord} (hr : refreshed s0 e0 = .ok s1 e)
    (hf : fetchWord s1 e e.th.ctx.pc = .ok s2 w) (hk : kindOf w = 3) (hc : 2 ≤ e.th.ctx.crem)
    (hf2 : fetchWord s2 e (e.th.ctx.pc + 8) = .ok s3 w2) :
    nextUnit s0 e0 = Next.ofRead s3 (readUnit e.th.ctx w (some w2)) := by
  simp [nextUnit, hr, hf, hk, hc, show fetchWord s2 e (e.th.ctx.pc + 8#64) = .ok s3 w2 from hf2]

theorem step_of_issueQ {s : State} {t : Nat} {ts : List Nat} {e : Env} (hq : s.issueQ = t :: ts) :
    let s0 : State := { s with issueQ := ts, cur := t, stalled := false, pair := none }
    s0.env t = some e → e.th.held = false →
    step s = match nextUnit s0 e with
      | .trap ti => trapNext s0 e ti
      | .wait s => .next s
      | .hole => .fault .physicalHole
      | .run s d => runDecoded d s := by
  intro s0 he hh
  have h0 : step s = runThread s0 t := by simp only [step, hq]; rfl
  have h1 : ({ s0 with cur := t } : State) = s0 := rfl
  rw [h0, runThread]
  simp only [h1, he, hh, Bool.false_eq_true, if_false] <;> rfl

theorem step_of_agenda {s : State} {m : Move} {ms : List Move} (hq : s.issueQ = []) (ha : s.agenda = m :: ms) :
    step s = runMove { s with agenda := ms, stalled := false, pair := none } m := by
  unfold step
  split
  · rename_i h
    rw [hq] at h
    cases h
  · split
    · rename_i h
      rw [ha] at h
      cases h
      rfl
    · rename_i h
      rw [ha] at h
      cases h

/-- A thread that has neither ended nor trapped, nor waits for another party, takes its next unit (R60, R345). -/
theorem held_of_free {th : Thread} (hx : th.exited = false) (htr : ∀ u ∈ th.window, u.trap = none)
    (hw : th.wait = .none ∨ (∃ b l, th.wait = .fence b l) ∨ ∃ n, th.wait = .flush n)
    (hp : th.pendTrap = none ∨ th.inh = true) : th.held = false := by
  have h1 : th.window.any (fun u => u.trap.isSome) = false := by simpa using htr
  have h2 : (th.pendTrap.isSome && !th.inh) = false := by rcases hp with h | h <;> simp [h]
  rcases hw with h | ⟨b, l, h⟩ | ⟨n, h⟩ <;> simp only [Thread.held, hx, h1, h2, h, Bool.or_self]

/-- With room in its window, such a thread also issues (R109). -/
theorem blocked_of_free {th : Thread} (hx : th.exited = false) (htr : ∀ u ∈ th.window, u.trap = none)
    (hw : th.wait = .none ∨ (∃ b l, th.wait = .fence b l) ∨ ∃ n, th.wait = .flush n)
    (hl : th.window.length < 8) (ha : th.awaited = false) (he : ∀ u ∈ th.window, u.act ≠ .exit) :
    th.blocked { lane := false } = false := by
  have h1 : th.window.any (fun u => u.trap.isSome) = false := by simpa using htr
  have h2 : th.exiting = false := by simpa [Thread.exiting] using he
  have h3 : decide (th.window.length ≥ 8) = false := by simpa using hl
  rcases hw with h | ⟨b, l, h⟩ | ⟨n, h⟩ <;>
    simp only [Thread.blocked, hx, ha, h1, h2, h3, h, Bool.false_and, Bool.or_self]

theorem trapNext_of_free {s : State} {e : Env} (ti : TrapInfo) (hb : e.th.blocked { lane := false } = false)
    (hp : e.th.param = none) : trapNext s e ti = .next (raiseTrap s e.t ti) := by
  simp [trapNext, hb, hp]

/-! The end of a clk (R265, R292, R371). -/

theorem find?_mapKey {α β : Type} (m : List (Nat × α)) (f : Nat → α → β) (k : Nat) :
    find? (m.map fun x => (x.1, f x.1 x.2)) k = (find? m k).map (f k) := by
  induction m with
  | nil => rfl
  | cons x m ih => grind [find?]

theorem find?_filter {α : Type} {m : List (Nat × α)} {p : Nat × α → Bool} {k : Nat} {v : α}
    (h : find? (m.filter p) k = some v) : find? m k ≠ none ∧ p (k, v) = true := by
  induction m with
  | nil => cases h
  | cons x m ih => grind [find?]

/-- A request to another module that is on its way leaves (R371). -/
theorem sendRemote_of_env {s : State} {u : Nat} {e : Env} (h : s.env u = some e) : sendRemote s u e.th =
    { e.th with accs := e.th.accs.map fun a =>
        if a.sent = none ∧ a.onWay e = true then { a with sent := some s.clk } else a } := by
  cases hn : e.th.accs.any (fun a => a.sent.isNone && a.phys.any (fun p => p.tgt == 2)) with
  | true => simp [sendRemote, hn, h]
  | false =>
    have hid : ∀ a ∈ e.th.accs, (if a.sent = none ∧ a.onWay e = true then { a with sent := some s.clk } else a) = a := by
      intro a ha
      refine if_neg fun ⟨hs, hw⟩ => ?_
      simp only [Access.onWay, Bool.and_eq_true] at hw
      obtain ⟨⟨hp, -⟩, -⟩ := hw
      have := List.any_eq_false.mp hn a ha
      simp [hs, hp] at this
    simp only [sendRemote, hn, List.map_congr_left hid, List.map_id']
    rfl

theorem tick_of_due {s : State} (h : lineOverdue s = true ∨ ∃ k ∈ s.cores, leaseDue s k.2 = true) : tick s = s := by
  refine if_pos ?_
  simpa using h

theorem tick_of_not_due {s : State} (h : lineOverdue s = false) (hl : ∀ k ∈ s.cores, leaseDue s k.2 = false) :
    tick s = { s with
      clk := s.clk + 1, issued := []
      threads := s.threads.map (fun x => (x.1, sendRemote s x.1 x.2))
      cores := s.cores.map (fun k => (k.1, coreTick s k.2)) } := by
  refine if_neg ?_
  simpa [h] using hl

/-- What the end of a clk leaves of a core's lines: none whose count has run out (R265). -/
theorem tick_l1 {s : State} {c ln : Nat} {l : L1Line} (h : lineOverdue s = false)
    (hl : ∀ k ∈ s.cores, leaseDue s k.2 = false) (hf : find? ((tick s).core c).l1 ln = some l) :
    find? (s.core c).l1 ln ≠ none ∧ l.drop = false := by
  rw [tick_of_not_due h hl] at hf
  simp only [State.core, findD, find?_map] at hf
  unfold State.core findD
  cases hc : find? s.cores c with
  | none =>
    rw [hc] at hf
    cases hf
  | some k =>
    rw [hc] at hf
    obtain ⟨h1, h2⟩ := find?_filter (m := k.l1) (p := fun l => !l.2.drop) hf
    exact ⟨h1, by simpa using h2⟩

theorem tick_thread? {s : State} {u : Nat} {e : Env} (h : lineOverdue s = false)
    (hl : ∀ k ∈ s.cores, leaseDue s k.2 = false) (he : s.env u = some e) : (tick s).thread? u =
      some { e.th with accs := e.th.accs.map fun a =>
        if a.sent = none ∧ a.onWay e = true then { a with sent := some s.clk } else a } := by
  have hth : find? s.threads u = some e.th := thread?_of_env he
  rw [tick_of_not_due h hl, State.thread?]
  simp only [find?_mapKey, hth, Option.map_some, sendRemote_of_env he]

/-- An event of the agenda that comes about by itself runs if it can. -/
theorem runDue_eq (s : State) (subject : Nat) (i : Instr) :
    (∀ t, exec i { s with cur := subject } = .next t → runDue s subject i = if t.stalled then s else t) ∧
    ((∀ t, exec i { s with cur := subject } ≠ .next t) → runDue s subject i = s) := by
  unfold runDue runEvent
  refine ⟨fun t h => by rw [h], fun h => ?_⟩
  split
  · exact absurd ‹_› (h _)
  · rfl

/-- Settles O55: a decoded unit by the round trip of its words, a word that is none by its reason, and a choice of the
agenda by its own arm. -/
theorem stepRunsDecoded : Obligations.StepRunsDecoded := by
  unfold Obligations.StepRunsDecoded
  refine ⟨?_, ?_, ?_, ?_⟩
  · intro s t ts e0 e s1 s2 w hq s0 takes he hx htr hwt hpt hst c hf
    have ht : e0.t = t := env_t he
    have hr : refreshed s0 e0 = .ok s1 e := by
      rcases hst with ⟨h, rfl, rfl⟩ | ⟨cl, left, h, hc, rfl, rfl⟩
      · exact refreshed_fresh h
      · rw [refreshed_stale h hc, ht]
    have hstep := step_of_issueQ hq he (held_of_free hx htr hwt hpt)
    have hrun {x : State} {d : Decoded} (h : nextUnit s0 e0 = .run x d) : step s = runDecoded d x := by rw [hstep, h]
    have htrap {ti : TrapInfo} (h : nextUnit s0 e0 = .trap ti) (hk : takes) : step s = .next (raiseTrap s0 t ti) := by
      obtain ⟨hlen, hpar, haw, hex⟩ := hk
      have hn : trapNext s0 e0 ti = _ := trapNext_of_free ti (blocked_of_free hx htr hwt hlen haw hex) hpar
      rw [hstep, h]
      exact hn.trans (by rw [ht])
    have hword (hk : kindOf w ≠ 3) : nextUnit s0 e0 = Next.ofRead s2 (readUnit c w none) := nextUnit_word hr hf hk
    refine ⟨fun i hw hi hn hc hs => ?_, fun i s3 w2 hw hi hc hs hf2 => ?_, fun h hw hp => ?_,
      fun i0 i1 h0 h1 hd hp hc => ?_, fun err hk hd hlt hk' => ?_, fun hk hd hc hk' => ?_, fun i hw hi hn hc hk' => ?_⟩
    · obtain ⟨f, hfi, rfl⟩ := toFields_of_encode_one hi hn
      refine hrun (d := .one i 1) ?_
      rw [hword (by simp [kindOf_of_part (kind_fields f)]), readUnit_one (decodeWord_fields hw hfi none), if_neg (by simp [hc, hs])]
      rfl
    · obtain ⟨f, v, hfi, rfl, rfl⟩ := toFields_of_encode_two hi
      refine hrun (d := .one i 2) ?_
      have hc0 : c.crem ≠ 0 := by omega
      rw [nextUnit_words hr hf (by simp [kindOf_of_part (kind_literal v)]) hc hf2, readUnit_one (decodeWord_literal hw hfi),
        if_neg (by simp [c, hc0, hs])]
      rfl
    · subst hp
      refine hrun (d := .header h) ?_
      rw [hword (by simp [kindOf_of_part (kind_header h)]), readUnit_header (decodeWord_header hw none)]
      rfl
    · refine hrun (d := .pair i0 i1) ?_
      have hd := decodeWord_pair h0 h1 hd hp none
      have hk : kindOf w ≠ 3 := by
        rw [kindOf_of_part (kind_pair hp)]
        decide
      rw [hword hk, readUnit_pair hd hc]
      rfl
    · rw [← kindOf_eq] at hk
      refine htrap ?_ hk'
      rw [hword (by simp [hk]), readUnit_error hd (by simp [hk]) hlt]
      rfl
    · rw [← kindOf_eq] at hk
      refine htrap ?_ hk'
      rw [hword (by simp [hk]), readUnit_error (decodeWord_bad_header hk hd none) (by simp [hk]) (by decide)]
      rfl
    · obtain ⟨f, hfi, rfl⟩ := toFields_of_encode_one hi hn
      refine htrap ?_ hk'
      rw [hword (by simp [kindOf_of_part (kind_fields f)]), readUnit_one (decodeWord_fields hw hfi none), if_pos hc]
      rfl
  · intro s subject i ms hq ha
    exact step_of_agenda hq ha
  · intro s subject i ms hq ha s0
    have h : step s = .next (runDue s0 subject i) := step_of_agenda hq ha
    obtain ⟨h1, h2⟩ := runDue_eq s0 subject i
    exact ⟨fun t hx => by rw [h, h1 t hx], fun hx => by rw [h, h2 hx]⟩
  · intro s ms hq ha s0
    have h : step s = .next (tick s0) := step_of_agenda hq ha
    refine ⟨fun hd => by rw [h, tick_of_due hd], fun ho hl => ⟨_, h, ?_, ?_, ?_, ?_, fun u e he => tick_thread? ho hl he,
      fun c ln l hf => tick_l1 (s := s0) ho hl hf⟩⟩ <;> rw [tick_of_not_due ho hl]
    exact ⟨fun _ => rfl, fun _ => rfl, fun _ => rfl⟩

end Sys2Proof.Machine
end

section
/-! SUPPORT. A thread whose window is empty keeps it empty while its unit checks its registers, and while a team is
saved or restored (R351 to R355): one lemma for each function of the model that these use. -/

namespace Sys2Proof.Machine

/-- A thread, where the state has it, has no unit in its window. -/
def State.Idle (s : State) (t : Nat) : Prop := ∀ th, s.thread? t = some th → th.window = []

section Rules

variable {s s' : State} {u : Nat}

theorem idle_of_thread? {th : Thread} (h : s.thread? u = some th) (hw : th.window = []) : s.Idle u := by
  intro x hx
  cases h.symm.trans hx
  exact hw

theorem State.Idle.window {e : Env} (h : s.Idle u) (he : s.env u = some e) : e.th.window = [] := h _ (thread?_of_env he)

theorem State.Idle.same (h : s.Idle u) (ht : s'.threads = s.threads) : s'.Idle u := by
  intro th hth
  exact h th (by rwa [State.thread?, ← ht])

theorem State.Idle.setThread (h : s.Idle u) {t : Nat} {th : Thread} (hw : t = u → th.window = []) :
    (s.setThread t th).Idle u := by
  by_cases ht : u = t
  · subst ht
    exact idle_of_thread? (thread?_setThread_self s u th) (hw rfl)
  · intro x hx
    exact h x ((thread?_setThread_ne s th ht).symm.trans hx)

theorem State.Idle.modThread (h : s.Idle u) {t : Nat} {f : Thread → Thread}
    (hf : ∀ th, th.window = [] → (f th).window = []) : (s.modThread t f).Idle u := by
  intro x hx
  rw [State.thread?, State_modThread_threads, find?_adjust] at hx
  by_cases ht : u = t
  · subst ht
    rw [if_pos rfl] at hx
    obtain ⟨th, hth, rfl⟩ := Option.map_eq_some_iff.mp hx
    exact hf _ (h _ hth)
  · rw [if_neg ht] at hx
    exact h x hx

theorem State.Idle.modLaunch (h : s.Idle u) {lid : Nat} {f : Launch → Launch} : (s.modLaunch lid f).Idle u := h.same rfl

theorem State.Idle.setTeam (h : s.Idle u) {k : Nat} {tm : Team} : (s.setTeam k tm).Idle u := h.same rfl

theorem State.Idle.foldl {α : Type} {f : State → α → State} {xs : List α} (h : s.Idle u)
    (hf : ∀ s x, x ∈ xs → s.Idle u → (f s x).Idle u) : (xs.foldl f s).Idle u := by
  induction xs generalizing s with
  | nil => exact h
  | cons x xs ih =>
    exact ih (hf s x List.mem_cons_self h) fun s y hy => hf s y (List.mem_cons_of_mem x hy)

theorem threads_foldl {α : Type} {f : State → α → State} (hf : ∀ s x, (f s x).threads = s.threads) (xs : List α)
    (s : State) : (xs.foldl f s).threads = s.threads := by
  induction xs generalizing s with
  | nil => rfl
  | cons x xs ih => exact (ih (f s x)).trans (hf s x)

theorem find?_filter_key {α : Type} (m : List (Nat × α)) {p : Nat → Bool} {k : Nat} (h : p k = true) :
    find? (m.filter fun e => p e.1) k = find? m k := by
  induction m with
  | nil => rfl
  | cons x m ih => grind [find?]

end Rules

/-! What leaves every thread alone: the memories, cores, teams and launches. -/

section Threads

variable (s : State)

theorem l2Room_threads (ln ways n : Nat) : (l2Room ln ways n s).threads = s.threads := by
  induction n generalizing s with
  | zero => rfl
  | succ n ih => grind [l2Room, l2Evict, dramPut]

theorem l2Install_threads (ln : Nat) (l : L2Line) : (l2Install s ln l).threads = s.threads := by
  grind [l2Install, l2Room_threads, dramPut]

theorem homeMergeAs_threads (rank : BitVec 2) (ln : Nat) (d : BitVec 1024) (mask : BitVec 128) :
    (homeMergeAs s rank ln d mask).threads = s.threads := by
  grind [homeMergeAs, l2Install_threads]

theorem homeMerge_threads (ln : Nat) (d : BitVec 1024) (mask : BitVec 128) :
    (homeMerge s ln d mask).threads = s.threads := homeMergeAs_threads s 0 ln d mask

theorem homeWrite_threads (pa n v : Nat) : (homeWrite s pa n v).threads = s.threads := homeMerge_threads s _ _ _

theorem physWrite_threads (p : Phys) (n v : Nat) : (physWrite s p n v).threads = s.threads := by
  grind [physWrite, homeWrite_threads]

theorem putLine_threads (p : Phys) (v : Nat) : (putLine s p v).threads = s.threads := by
  grind [putLine, physWrite_threads, homeWrite_threads, dropCopies]

theorem writeArea_threads (v : SaveView) (ps : List Phys) : (writeArea s v ps).threads = s.threads :=
  threads_foldl (fun s _ => threads_foldl (fun s _ => putLine_threads s _ _) _ s) _ s

theorem flushPrivate_threads (core : Nat) : (flushPrivate s core).threads = s.threads :=
  threads_foldl (fun s l => by grind [flushCoreLine, homeMerge_threads, State_setCore_threads]) _ s

theorem release_threads (core : Nat) : (release s core).1.threads = s.threads :=
  threads_foldl (fun s l => by grind [publish]) _ s

theorem spillBlock_threads (e : Env) (b : Nat) : (spillBlock s e b).threads = s.threads := by
  grind [spillBlock, physWrite_threads]

theorem spillAll_threads (t : Nat) : (spillAll s t).threads = s.threads := by
  unfold spillAll
  split
  · rfl
  · exact threads_foldl (fun s b => spillBlock_threads s _ b) _ s

theorem yieldWays_threads (die : Nat) : (yieldWays s die).threads = s.threads := by
  unfold yieldWays
  split
  · rfl
  · exact threads_foldl (fun s ln => by grind [l2Room_threads]) _ s

theorem modTeam_threads (k : Nat) (f : Team → Team) : (s.modTeam k f).threads = s.threads := by
  unfold State.modTeam
  split
  · exact State_setTeam_threads s k _
  · rfl

theorem freeHandle_threads (core : Nat) (h : Handle) : (freeHandle s core h).threads = s.threads := by
  grind [freeHandle, State_setCore_threads]

theorem loadHandle_threads (a : AreaWords) (hs : List SavedHandle) (key : Nat) (h : SavedHandle) :
    (loadHandle a hs key s h).threads = s.threads := by
  grind [loadHandle, modTeam_threads, State_setCore_threads]

theorem loadJob_threads (a : AreaWords) (key o : Nat) : (loadJob a key s o).threads = s.threads := by
  grind [loadJob, enterJob, State_setCore_threads]

theorem loadGroup_threads (g : Nat) : (loadGroup s g).threads = s.threads := by
  grind [loadGroup, State_setCore_threads]

end Threads

/-! What changes threads. -/

section Idle

variable {s : State} {u : Nat}

theorem waitFor_idle {t w} (h : s.Idle u) : (s.waitFor t w).Idle u := h.modThread fun _ hw => hw

theorem fetchBlock_idle {e b p} (h : s.Idle u) : (fetchBlock s e b p).Idle u := by
  unfold fetchBlock
  split
  · exact h
  · exact h.modThread fun _ hw => hw

theorem shareReg_idle {e r p} (h : s.Idle u) : (shareReg s e r p).Idle u := by
  unfold shareReg
  split
  · exact State.Idle.modThread (h.same rfl) fun _ hw => hw
  · exact h

theorem bindSlot_idle {e b bc s'} (h : s.Idle u) (hb : bindSlot s e b bc = .ok s') : s'.Idle u := by
  unfold bindSlot at hb
  cases hth : s.thread? e.t with
  | none =>
    simp only [hth] at hb
    cases hb
    exact h
  | some th =>
    simp only [hth] at hb
    split at hb
    · cases hb
      exact h
    · split at hb
      · cases hb
      · cases hb
        exact State.Idle.setThread (h.same rfl) fun ht => h th (ht ▸ hth)

theorem checkReg_idle {e r s'} (h : s.Idle u) (hc : checkReg s e r = .ok s') : s'.Idle u := by
  unfold checkReg xlatChk at hc
  have read (b : Nat) (p : Phys) : (shareReg (fetchBlock s e b p) e r p).Idle u := shareReg_idle (fetchBlock_idle h)
  grind [bindSlot_idle]

theorem checkRegs_idle {e rs s'} (h : s.Idle u) (hc : checkRegs s e rs = .ok s') : s'.Idle u := by
  induction rs generalizing s with
  | nil =>
    cases hc
    exact h
  | cons r rs ih =>
    unfold checkRegs at hc
    split at hc
    · rename_i s1 h1
      exact ih (checkReg_idle h h1) hc
    · rename_i hne
      exact absurd hc (hne s')

/-- The threads of a group are those that the state finds. -/
theorem thread?_of_mem_groupThreads {g : Nat} {x : Nat × Thread} (h : x ∈ groupThreads s g) :
    s.thread? x.1 = some x.2 := by
  obtain ⟨i, _, hi⟩ := List.mem_filterMap.mp h
  obtain ⟨th, hth, rfl⟩ := Option.map_eq_some_iff.mp hi
  exact hth

theorem grantThread_window {th : Thread} (h : th.window = []) : (grantThread th).window = [] := by
  unfold grantThread clearExt
  dsimp only
  split
  · exact h
  · simp [h]

theorem grantLock_idle {core n g} (h : s.Idle u) : (grantLock s core n g).Idle u :=
  State.Idle.foldl (h.same rfl) fun _ _ hx hs => hs.setThread fun hxu =>
    grantThread_window (h _ (hxu ▸ thread?_of_mem_groupThreads hx))

theorem offerLock_idle {core n} (h : s.Idle u) : (offerLock s core n).Idle u := by
  grind [offerLock, grantLock_idle]

theorem releaseLock_idle {t} (h : s.Idle u) : (releaseLock s t).Idle u := by
  unfold releaseLock
  split
  · exact h
  · rename_i th hth
    have h1 : (s.setThread t { th with xhold := false }).Idle u := h.setThread fun ht => h th (ht ▸ hth)
    split
    · exact h
    · dsimp only
      split
      · exact h1
      · exact offerLock_idle (h1.same rfl)

theorem freeSlots_idle {t keep} (h : s.Idle u) : (freeSlots s t keep).Idle u := by
  unfold freeSlots
  split
  · exact h
  · rename_i th hth
    have h1 : (s.setThread t { th with bound := th.bound.filter (fun b => keep.contains b) }).Idle u :=
      h.setThread fun ht => h th (ht ▸ hth)
    exact h1.same rfl

theorem dropTeam_idle {k} (h : s.Idle u) : (dropTeam s k).Idle u := by
  unfold dropTeam
  split
  · exact h
  · rename_i tm _
    dsimp only
    refine State.Idle.same ?_ (threads_foldl (fun s (x : Nat × Handle) => freeHandle_threads s _ x.2) _ _)
    by_cases hu : teamKey u = k
    · intro th hth
      have hmine := (find?_filter hth).2
      simp [hu] at hmine
    · have h1 : ((s.threads.filter fun e => teamKey e.1 == k).foldl (fun s e => freeSlots s e.1 []) s).Idle u :=
        h.foldl fun _ _ _ => freeSlots_idle
      have h2 := h1.foldl (xs := s.threads.filter fun e => teamKey e.1 == k)
        (f := fun s e => releaseLock (s.setThread e.1 { e.2 with bound := [], xreq := none }) e.1)
        fun _ x hx hs => releaseLock_idle (hs.setThread fun hxu => by
          have := List.of_mem_filter hx
          simp_all)
      intro th hth
      exact h2 th ((find?_filter_key _ (p := fun t => !(teamKey t == k)) (by simpa using hu)).symm.trans hth)

theorem freeSaved_idle {key tm} (h : s.Idle u) : (freeSaved s key tm).Idle u := dropTeam_idle (h.same rfl)

theorem deliverTrap_idle {t ti} (h : s.Idle u) : (deliverTrap s t ti).Idle u := by
  unfold deliverTrap
  cases he : s.env t with
  | none => exact h
  | some e =>
    have hw : t = u → e.th.window = [] := fun ht => (ht ▸ h).window he
    dsimp only
    split
    · exact State.Idle.setThread h.setTeam hw
    · refine State.Idle.modLaunch ?_
      exact h.setTeam.setThread hw

theorem releaseTeam_idle {k} (h : s.Idle u) : (releaseTeam s k).Idle u := by
  unfold releaseTeam
  split
  · exact h
  · exact State.Idle.foldl (h.same rfl) fun _ _ _ hs => hs.modThread fun _ hw => hw

theorem resumeTeam_idle {k} (h : s.Idle u) : (resumeTeam s k).Idle u := by
  unfold resumeTeam
  split
  · exact releaseTeam_idle h
  · split
    · dsimp only
      split
      · exact deliverTrap_idle (State.Idle.modThread (h.same rfl) fun _ hw => hw)
      · exact h.same rfl
    · exact h

theorem endTeam_idle {k} (h : s.Idle u) : (endTeam s k).Idle u := by
  have hr : (release s (k / 4)).1.Idle u := h.same (release_threads s _)
  have hd : ∀ {s' : State} (tm : Team), s'.Idle u → (dropTeam (foldTeam s' tm) k).Idle u :=
    fun tm h' => dropTeam_idle (h'.same rfl)
  grind [endTeam, waitFor_idle]

theorem tryEndTeam_idle {k} (h : s.Idle u) : (tryEndTeam s k).Idle u := by
  grind [tryEndTeam, endTeam_idle]

theorem loadFar_idle {t} (h : s.Idle u) : (loadFar s t).Idle u := by
  unfold loadFar
  cases he : s.env t with
  | none => exact h
  | some e =>
    have h1 : (s.setThread t { e.th with unread := e.th.farBlocks }).Idle u :=
      h.setThread fun ht => (ht ▸ h).window he
    exact h1.foldl fun _ _ _ hs => by grind [fetchBlock_idle]

theorem loadSlots_idle {t} (h : s.Idle u) : (loadSlots s t).Idle u := by
  grind [loadSlots, freeSlots_idle]

theorem finishRestore_idle {a key} (h : s.Idle u) : (finishRestore s a key).Idle u := by
  unfold finishRestore
  split
  · exact h
  · rename_i tm _
    dsimp only
    generalize (teamTids tm).map (threadOf key) = ts
    have h1 := State.Idle.foldl (xs := ts) (f := loadSlots) (h.foldl (xs := ts) (f := loadFar) fun _ _ _ => loadFar_idle)
      fun _ _ _ => loadSlots_idle
    have h2 := h1.foldl (xs := ts) (f := loadClauses) fun _ _ _ hs => hs.modThread fun _ hw => hw
    have h3 := State.Idle.same h2 (threads_foldl (fun s => loadHandle_threads s a (areaHandles a) key) (areaHandles a) _)
    have h4 := h3.same (yieldWays_threads _ (dieOf (key / 4)))
    have h5 := State.Idle.same (s' := loadStores a key _) h4 rfl
    have h6 := h5.same (threads_foldl (fun s => loadJob_threads s a key) (jobRecords a) _)
    have h7 := h6.foldl (xs := ts) (f := loadFlags) fun _ _ _ hs => hs.modThread fun _ hw => hw
    have h8 := h7.same (threads_foldl (fun s g => loadGroup_threads s (key * 16 + g)) (List.range tm.ngrp) _)
    have h9 := h8.foldl (xs := List.range tm.ngrp)
      (f := fun s g => offerLock s (key / 4) (lockOf (s.core (key / 4)) (key * 16 + g))) fun _ _ _ => offerLock_idle
    split
    · exact h9.same (modTeam_threads _ key _)
    · exact tryEndTeam_idle (resumeTeam_idle h9)

theorem recordThread_window (a : AreaWords) (o clk : Nat) : (recordThread a o clk).window = [] := rfl

theorem areaThreads_window {a : AreaWords} {ngrp clk : Nat} {th : Thread} (h : th ∈ areaThreads a ngrp clk) :
    th.window = [] := by
  obtain ⟨i, _, rfl⟩ := List.mem_map.mp h
  exact recordThread_window a _ clk

theorem installTeam_idle {core slot c0 tm l ths} (h : s.Idle u) (hw : ∀ th ∈ ths, th.window = []) :
    (installTeam s core slot c0 tm l ths).Idle u :=
  State.Idle.foldl (h.same (yieldWays_threads _ _)) fun _ _ hx hs =>
    hs.setThread fun _ => hw _ (List.fst_mem_of_mem_zipIdx hx)

theorem acquire_idle {core} (h : s.Idle u) : (acquire s core).Idle u := h.same rfl

theorem loadTeam_idle {a core lid la} (h : s.Idle u) : (loadTeam s a core lid la).Idle u := by
  refine finishRestore_idle (State.Idle.modLaunch (installTeam_idle (acquire_idle ?_) fun _ => areaThreads_window))
  exact h.same rfl

end Idle

end Sys2Proof.Machine
end

section
/-! SUPPORT. The units for firmware and handlers (R38, R336, R351 to R357): the gate, the area, and how a unit that
completes leaves its thread. -/

namespace Sys2Proof.Machine

/-- The launch of a thread's team. -/
theorem launch_of_env {s : State} {t : Nat} {e : Env} (h : s.env t = some e) : find? s.launches e.tm.lid = some e.la := by
  unfold State.env at h
  split at h <;> try cases h
  split at h <;> try cases h
  split at h <;> try cases h
  assumption

/-! Register operands. -/

theorem read64_toNat (th : Thread) (r : Reg) : (th.read64 r).toNat = pairNat th.read r := by
  have h1 := (th.read (r + 1)).isLt
  have h0 := (th.read r).isLt
  rw [read64_eq, BitVec.toNat_ofNat, Nat.mod_eq_of_lt]
  unfold pairNat
  omega

section Gate

variable {s s1 : State} {c : Ctl} {e0 e : Env}

theorem gather_of_reads {srcs dsts : List Reg} (h : Reads s e0 (srcs ++ dsts) s1 e) (ha : Arrived e srcs)
    (k : State → Env → Outcome) : gather s e0 srcs dsts k = k s1 e := by
  rw [gather, operands_of_reads h]
  rcases ha with ha | ha <;> simp [ha]

/-- A unit that has passed with every older unit committed keeps its window empty while its registers are checked. -/
theorem reads_idle {m : Mode} {rs : List Reg} (hp : Passes s m c e0) (hm : m.settled = true) (h : Reads s e0 rs s1 e) :
    e.t = e0.t ∧ s1.env e.t = some e ∧ s1.Idle e.t := by
  have ht : e.t = e0.t := env_t h.env
  have hw : e0.th.window = [] := by
    have := hp.free
    simp_all [Thread.blocked]
  have hi : s.Idle e0.t := by
    rw [env_t hp.env]
    exact idle_of_thread? (thread?_of_env hp.env) hw
  exact ⟨ht, ht ▸ h.env, ht ▸ checkRegs_idle hi h.checks⟩

theorem contextUnit_of_passes {team : Bool} (h : Passes s { settled := true, long := true } c e0) (k : Env → Outcome) :
    contextUnit s c team k =
      if (if team then e0.tm.firmware else e0.th.inh) = true then k e0 else .next (raiseTrap s e0.t (trapUndef 9)) :=
  unit_of_passes h 1 _

theorem firmwareUnit_of_passes (h : Passes s { settled := true } c e0) (k : Env → Outcome) :
    firmwareUnit s c 1 k = if e0.tm.firmware = true then k e0 else .next (raiseTrap s e0.t (trapUndef 9)) :=
  unit_of_passes h 1 _

/-- A context unit in its place comes to its area with its operands read (R351). -/
theorem contextUnit_gather {team : Bool} {srcs dsts : List Reg} (h : Passes s { settled := true, long := true } c e0)
    (hin : (if team then e0.tm.firmware else e0.th.inh) = true) (hr : Reads s e0 (srcs ++ dsts) s1 e)
    (ha : Arrived e srcs) (k : State → Env → Outcome) :
    (contextUnit s c team fun e => gather s e srcs dsts k) = k s1 e := by
  rw [contextUnit_of_passes h, if_pos hin, gather_of_reads hr ha]

theorem firmwareUnit_gather {srcs dsts : List Reg} (h : Passes s { settled := true } c e0)
    (hin : e0.tm.firmware = true) (hr : Reads s e0 (srcs ++ dsts) s1 e) (ha : Arrived e srcs)
    (k : State → Env → Outcome) : (firmwareUnit s c 1 fun e => gather s e srcs dsts k) = k s1 e := by
  rw [firmwareUnit_of_passes h, if_pos hin, gather_of_reads hr ha]

theorem withArea_misaligned {a : DWord} (h : a.toNat % 4096 ≠ 0) (k : Nat → Outcome) :
    withArea s e a k = .next (raiseTrap s e.t (trapOf 0x03 (a.toNat % 2 ^ 57))) := by
  simp [withArea, h]

theorem withArea_of_aligned {a : DWord} (h : a.toNat % 4096 = 0) (hc : a.toNat < 2 ^ 57) (k : Nat → Outcome) :
    withArea s e a k = k a.toNat := by
  simp only [withArea, h, canonical_eq, hc, Nat.mod_eq_of_lt hc, decide_true, bne_self_eq_false, Bool.not_true,
    Bool.false_eq_true, if_false]

end Gate

/-! How a unit that completes leaves its thread (R110, R112). -/

section Settle

variable {s : State} {e : Env} {c : Ctl} {xd : Reg} {v : Word}

/-- A unit that writes no register goes on alike, at once or behind older units. -/
theorem settle_nil (s : State) (e : Env) (c : Ctl) : settle s e c 1 [] = Gone s e (e.th.ctx.past 1) := by
  rw [gone_eq]
  unfold settle
  by_cases hw : e.th.window = []
  · simp only [hw, List.isEmpty_nil, if_true]
    exact congrArg _ (issued_of_idle hw _ _ _)
  · have hu : e.th.undoOf c.k [] = [] := by cases c.k <;> rfl
    simp only [List.isEmpty_iff, hw, if_false, hu]
    exact congrArg _ (enter_of_busy hw _ _ _)

/-- A thread with an empty window past a unit of one word with register writes. -/
theorem settle_of_idle (hw : e.th.window = []) (ws : List (Reg × Word)) :
    settle s e c 1 ws = s.setThread e.t ((e.th.writes c.k e.th.nextSeq ws).issued s.clk
      ((e.th.writes c.k e.th.nextSeq ws).ctx.advance 1)) := by
  simp [settle, hw]

theorem settle_regsAfter (hw : e.th.window = []) (ws : List (Reg × Word)) :
    ∃ th, settle s e c 1 ws = s.setThread e.t th ∧ RegsAfter e.th th c.k ws := by
  refine ⟨_, settle_of_idle hw ws, regsAfter_writes _ _ _ _ rfl rfl ?_⟩
  rw [writes_eq]
  rfl

/-- What a context unit leaves: no K-marked write before it is read behind it (R110). -/
def afterContext (s : State) (e : Env) (c : Ctl) (xd : Reg) (v : Word) : Thread :=
  let th := Thread.writes { e.th with ctx := { e.th.ctx with fwd := [] } } c.k e.th.nextSeq [(xd, v)]
  th.issued s.clk (th.ctx.advance 1)

theorem settleContext_eq (hw : e.th.window = []) :
    settleContext s e c [(xd, v)] = s.setThread e.t (afterContext s e c xd v) :=
  settle_of_idle (e := { e with th := { e.th with ctx := { e.th.ctx with fwd := [] } } }) hw _

theorem afterContext_regs : RegsAfter e.th (afterContext s e c xd v) c.k [(xd, v)] := by
  have h := regsAfter_writes { e.th with ctx := { e.th.ctx with fwd := [] } } c.k [(xd, v)] (afterContext s e c xd v)
    rfl rfl (by unfold afterContext; rw [writes_eq]; rfl)
  exact ⟨h.stored, h.read⟩

theorem afterContext_fwd : (afterContext s e c xd v).ctx.fwd = if c.k then [⟨xd.toNat, v, e.th.nextSeq⟩] else [] := by
  unfold afterContext Thread.writes Thread.write
  cases c.k <;> rfl

theorem afterContext_read {r : Reg} (hr : r ≠ xd) : (afterContext s e c xd v).read r = (afterContext s e c xd v).stored r := by
  have hd : ¬xd.toNat = r.toNat := fun h => hr (reg_toNat_inj.mp h).symm
  have hn : (afterContext s e c xd v).inReach (afterContext s e c xd v).nextSeq r = none := by
    rw [Thread.inReach, afterContext_fwd]
    cases c.k <;> simp [hd]
  rw [read_eq, hn]

theorem settleContext_settled (hw : e.th.window = []) : ∃ th,
    Settled s (settleContext s e c [(xd, v)]) e c.k [(xd, v)] (e.th.ctx.past 1) th ∧ ∀ r, r ≠ xd → th.read r = th.stored r := by
  refine ⟨afterContext s e c xd v, ⟨settleContext_eq hw, afterContext_regs, ?_, ?_⟩, fun r => afterContext_read⟩
  · have hb (u : WUnit) : e.th.beside u = e.th.window := by simp [Thread.beside, hw]
    rw [hb]
    unfold afterContext
    rw [issued_eq, writes_eq]
    rfl
  · rw [settleContext_eq hw]
    exact sameMemory_setThread _ _ _

end Settle

end Sys2Proof.Machine
end

section
/-! SUPPORT. `ctxsave` and `ctxsave.team` (R351, R352): what each attempt of a save does. -/

namespace Sys2Proof.Machine

/-- A context unit whose thread has an empty window completes with its status (R110, R351). -/
theorem ends_of_settleContext {i : Instr} {s s' : State} {e : Env} {c : Ctl} {xd : Reg} {v : Word}
    (hw : e.th.window = []) (h : exec i s = .next (settleContext s' e c [(xd, v)])) : ∃ t th, exec i s = .next t ∧
      Settled s' t e c.k [(xd, v)] (e.th.ctx.past 1) th ∧ ∀ r, r ≠ xd → th.read r = th.stored r := by
  obtain ⟨th, hth⟩ := settleContext_settled hw
  exact ⟨_, th, h, hth⟩

/-- Every place and engine of a team that is told to stop has stopped, and its values and the area can be written
(R352 steps 3 to 5). -/
def Stopped (s : State) (e : Env) (key : Nat) (tm : Team) (ps : List Phys) : Prop :=
  tm.quieting = true ∧ heldWfix s key tm = [] ∧ teamQuiet s key tm = true ∧
    (∃ x, backChecks s e ((teamTids tm).map (threadOf key)) = .ok x) ∧ teamSpills s key tm = false ∧
    saveWaits s (key / 4) ps = false

/-- The publications of a save are complete (R352 step 5): there are none, or those that it has waited for are gone. -/
def Published (s : State) (e : Env) (core : Nat) (s' : State) : Prop :=
  (e.th.wait = .none ∧ release s core = (s', [])) ∨
    ∃ b ids, e.th.wait = .fence b ids ∧ (∀ p ∈ s.pubs, p.id ∉ ids) ∧ s' = s

/-- The far values of a team in their backing words and the status words of its jobs with its launch (R352 step 5;
log 49). -/
def spilledTeam (s : State) (key : Nat) (tm : Team) : State :=
  keepStatus ((teamTids tm).foldl (fun s i => spillAll s (threadOf key i)) s) key tm

section Attempts

variable {s : State} {e : Env} {c : Ctl} {xd : Reg} {area len key : Nat} {tm : Team} {la : Launch} {team : Bool}

/-- The view of a team for its save by the thread of a unit. -/
def saveView (s : State) (e : Env) (key : Nat) (tm : Team) (la : Launch) (team : Bool) : SaveView :=
  viewOf s key tm la (if team then none else some (tTid e.t))

section Halted

variable (hh : tm.halted = true) (hs : team = true → tm.saving = true) (hl : find? s.launches tm.lid = some la)
include hh hs hl

/-- An area that is too short is reported with the length that the team needs (R351 status 1). -/
theorem saveTeam_short (h : len < (saveView s e key tm la team).size) : saveTeam s e c xd area len key tm team =
    .next (settleContext s e c [(xd, natWord (1 + 2 ^ 8 * ((saveView s e key tm la team).size / 4096)))]) := by
  have hn : (team && !tm.saving) = false := by cases team <;> simp_all
  unfold saveView at h ⊢
  simp only [saveTeam, hh, hn, hl, h, Bool.not_true, Bool.false_eq_true, if_false, if_true]
  rfl

variable {ps : List Phys} (hlen : (saveView s e key tm la team).size ≤ len)
  (hps : areaPages s e .w area ((saveView s e key tm la team).size / 4096) = .ok ps)
include hlen hps

/-- The engines of the team are told to stop first (R352 step 4). -/
theorem saveTeam_busy (hq : tm.quieting = false) : saveTeam s e c xd area len key tm team = .next (s.quiet key true) := by
  have hn : (team && !tm.saving) = false := by cases team <;> simp_all
  unfold saveView at hlen hps
  simp only [saveTeam, hh, hn, hl, Nat.not_lt.mpr hlen, hps, hq, Bool.not_true, Bool.not_false, Bool.false_eq_true,
    if_false, if_true]

/-- A team that has stopped is released and written (R352 steps 5 to 7). -/
theorem saveTeam_stopped (hq : Stopped s e key tm ps) : saveTeam s e c xd area len key tm team =
    saveRelease s e (key / 4) team fun s => finishSave s e c xd key tm la team ps := by
  have hn : (team && !tm.saving) = false := by cases team <;> simp_all
  obtain ⟨hquiet, hfix, hstop, ⟨x, hback⟩, hspill, hwait⟩ := hq
  unfold saveView at hlen hps
  simp only [saveTeam, hh, hn, hl, Nat.not_lt.mpr hlen, hps, hquiet, hfix, hstop, hback, hspill, hwait, Bool.not_true,
    Bool.or_self, Bool.false_eq_true, if_false]

end Halted

theorem saveRelease_waits {core : Nat} {s' : State} {i : Nat} {ids : List Nat} (hw : e.th.wait = .none)
    (h : release s core = (s', i :: ids)) (k : State → Outcome) :
    saveRelease s e core team k = .next (s'.waitFor e.t (.fence false (i :: ids))) := by
  simp [saveRelease, hw, h]

theorem saveRelease_published {core : Nat} {s' : State} (h : Published s e core s') (k : State → Outcome) :
    saveRelease s e core team k =
      if team then .next (s'.waitFor e.t (.flush core)) else k (s'.waitFor e.t .none) := by
  rcases h with ⟨hw, hr⟩ | ⟨b, ids, hw, hp, rfl⟩
  · simp [saveRelease, hw, hr]
  · have hn : s'.pubs.any (fun p => ids.contains p.id) = false := by simpa using hp
    simp only [saveRelease, hw, hn, Bool.false_eq_true, if_false]

theorem saveRelease_flushed {core n : Nat} (hw : e.th.wait = .flush n) (k : State → Outcome) :
    saveRelease s e core team k = k (s.waitFor e.t .none) := by
  simp [saveRelease, hw]

end Attempts

/-- The state in which a T = 0 save of a team completes (R352 step 6). -/
def savedOwn (s : State) (e : Env) (key : Nat) (tm : Team) (la : Launch) (ps : List Phys) : State :=
  let s := spilledTeam s key tm
  (writeArea s (viewOf s key ((s.team? key).getD tm) la (some (tTid e.t))) ps).quiet key false

/-- The state in which a T = 1 save of a team completes, which is gone with it (R352 steps 5 to 7). -/
def savedTeam (s : State) (key : Nat) (tm : Team) (la : Launch) (ps : List Phys) : State :=
  let s := flushPrivate (spilledTeam s key tm) (key / 4)
  let tm := (s.team? key).getD tm
  freeSaved (writeArea s (viewOf s key tm la none) ps) key tm

section Finish

variable {s : State} {e e4 : Env} {c : Ctl} {xd : Reg} {key u : Nat} {tm : Team} {la : Launch} {ps : List Phys}

theorem finishSave_own (h : (savedOwn s e key tm la ps).env e.t = some e4) :
    finishSave s e c xd key tm la false ps = .next (settleContext (savedOwn s e key tm la ps) e4 c [(xd, 0)]) := by
  unfold savedOwn spilledTeam at h ⊢
  simp only [finishSave, Bool.false_eq_true, if_false, h]

theorem finishSave_team (h : (savedTeam s key tm la ps).env e.t = some e4) :
    finishSave s e c xd key tm la true ps = .next (settleContext (savedTeam s key tm la ps) e4 c [(xd, 0)]) := by
  unfold savedTeam spilledTeam at h ⊢
  simp only [finishSave, if_true, h]

theorem spilledTeam_threads : (spilledTeam s key tm).threads = s.threads :=
  threads_foldl (fun s _ => spillAll_threads s _) (teamTids tm) s

theorem savedOwn_idle (h : s.Idle u) : (savedOwn s e key tm la ps).Idle u :=
  h.same (((modTeam_threads _ key _).trans (writeArea_threads _ _ ps)).trans spilledTeam_threads)

theorem savedTeam_idle (h : s.Idle u) : (savedTeam s key tm la ps).Idle u :=
  freeSaved_idle (h.same (((writeArea_threads _ _ ps).trans (flushPrivate_threads _ (key / 4))).trans spilledTeam_threads))

theorem published_idle {core : Nat} {s' : State} (hp : Published s e core s') (h : s.Idle u) : s'.Idle u := by
  rcases hp with ⟨_, hr⟩ | ⟨_, _, _, _, rfl⟩
  · have hs : s' = (release s core).1 := by rw [hr]
    exact h.same (hs ▸ release_threads s core)
  · exact h

end Finish

end Sys2Proof.Machine
end

section
/-! SUPPORT. `ctxload` and `ctxload.team` (R351, R355): the area read and checked, and what a restoration comes to. -/

namespace Sys2Proof.Machine

section Area

variable {s : State} {a : AreaWords} {own : Option Nat} {lid : Nat} {la : Launch}

theorem checkArea_no_launch (h : areaLaunch s a = none) : checkArea s a own = .status 3 := by
  simp [checkArea, h]

theorem checkArea_other_launch {n : Nat} (h : areaLaunch s a = some (lid, la)) (hn : lid ≠ n) :
    checkArea s a (some n) = .status 3 := by
  simp [checkArea, h, Ne.symm hn]

theorem checkArea_short (h : areaLaunch s a = some (lid, la)) (ho : own = none ∨ own = some lid)
    (hs : sectionsOk a la = false) : checkArea s a own = .status 2 := by
  rcases ho with rfl | rfl <;> simp [checkArea, h, hs]

variable {e : Env} {c : Ctl} {xd : Reg} {area : Nat} {ps all : List Phys}
  (hps : areaPages s e .r area 1 = .ok ps) (k : AreaWords → Nat → Launch → Outcome)
include hps

theorem withLoaded_no_header (hh : headerOk (areaWords s (tCore e.t) ps) = false) :
    withLoaded s e c xd area own k = .next (settleContext s e c [(xd, 2)]) := by
  simp [withLoaded, hps, hh]

variable (hh : headerOk (areaWords s (tCore e.t) ps) = true)
  (hall : areaPages s e .r area (areaSize (areaWords s (tCore e.t) ps) / 4096) = .ok all)
include hh hall

theorem withLoaded_status {n : Nat} (hc : checkArea s (areaWords s (tCore e.t) all) own = .status n) :
    withLoaded s e c xd area own k = .next (settleContext s e c [(xd, BitVec.ofNat 32 n)]) := by
  simp [withLoaded, hps, hh, hall, hc]

theorem withLoaded_ok (hc : checkArea s (areaWords s (tCore e.t) all) own = .ok lid la) :
    withLoaded s e c xd area own k = k (areaWords s (tCore e.t) all) lid la := by
  simp [withLoaded, hps, hh, hall, hc]

end Area

/-- `ctxload` of the own team once its area is in order (R355). -/
def restoreOwn (s : State) (e : Env) (c : Ctl) (xd : Reg) (a : AreaWords) (lid : Nat) (la : Launch) : Outcome :=
  let key := teamKey e.t
  if !ownRoom (s.core (key / 4)) e.tm (areaHandles a) then .next (settleContext s e c [(xd, 4)])
  else if !teamQuiet s key e.tm || jobsFull (s.core (key / 4)) (fun j => teamKey j.thread != key) (jobRecords a).length then
    s.stall
  else match backChecks s e ((teamTids e.tm).map (threadOf key)) with
  | .trap ti => .next (raiseTrap s e.t ti)
  | .wait s => .next s
  | .ok _ => if teamSpills s key e.tm then s.stall else .next (loadOwn s a key e.tm lid la)

/-- `ctxload.team` on a core once its area is in order (R355). -/
def restoreTeam (s : State) (e : Env) (c : Ctl) (xd xc : Reg) (a : AreaWords) (lid : Nat) (la : Launch) : Outcome :=
  let core := ((e.th.read xc).extractLsb' 0 8).toNat
  if !loadRoom s core la (areaHandles a) then .next (settleContext s e c [(xd, 4)])
  else if jobsFull (s.core core) (fun _ => true) (jobRecords a).length then s.stall
  else match (loadTeam s a core lid la).env e.t with
    | none => .fault .noSuchInstance
    | some e => .next (settleContext (loadTeam s a core lid la) e c [(xd, 0)])

section Restore

variable {s : State} {e : Env} {c : Ctl} {xd xc : Reg} {a : AreaWords} {lid : Nat} {la : Launch}

theorem restoreOwn_no_room (h : ownRoom (s.core (teamKey e.t / 4)) e.tm (areaHandles a) = false) :
    restoreOwn s e c xd a lid la = .next (settleContext s e c [(xd, 4)]) := by
  simp [restoreOwn, h]

theorem restoreOwn_of_stopped (h : ownRoom (s.core (teamKey e.t / 4)) e.tm (areaHandles a) = true)
    (hq : teamQuiet s (teamKey e.t) e.tm = true)
    (hj : jobsFull (s.core (teamKey e.t / 4)) (fun j => teamKey j.thread != teamKey e.t) (jobRecords a).length = false)
    (hb : ∃ x, backChecks s e ((teamTids e.tm).map (threadOf (teamKey e.t))) = .ok x)
    (hs : teamSpills s (teamKey e.t) e.tm = false) :
    restoreOwn s e c xd a lid la = .next (loadOwn s a (teamKey e.t) e.tm lid la) := by
  obtain ⟨x, hb⟩ := hb
  simp only [restoreOwn, h, hq, hj, hb, hs, Bool.not_true, Bool.or_self, Bool.false_eq_true, if_false]

/-- The core that the selector of a context unit names (R351, log 45). -/
theorem selector_core (w : Word) : (w.extractLsb' 0 8).toNat = w.toNat % 2 ^ 8 := by
  simp

theorem selector_slot (w : Word) : (w.extractLsb' 8 2).toNat = w.toNat / 2 ^ 8 % 4 := by
  simp [Nat.shiftRight_eq_div_pow]

theorem restoreTeam_no_room (h : loadRoom s ((e.th.read xc).toNat % 2 ^ 8) la (areaHandles a) = false) :
    restoreTeam s e c xd xc a lid la = .next (settleContext s e c [(xd, 4)]) := by
  simp only [restoreTeam, selector_core, h, Bool.not_false, if_true]

theorem restoreTeam_of_room {e4 : Env} (h : loadRoom s ((e.th.read xc).toNat % 2 ^ 8) la (areaHandles a) = true)
    (hj : (s.core ((e.th.read xc).toNat % 2 ^ 8)).jobs.length + (jobRecords a).length ≤ 64)
    (he : (loadTeam s a ((e.th.read xc).toNat % 2 ^ 8) lid la).env e.t = some e4) :
    restoreTeam s e c xd xc a lid la =
      .next (settleContext (loadTeam s a ((e.th.read xc).toNat % 2 ^ 8) lid la) e4 c [(xd, 0)]) := by
  have hf : jobsFull (s.core ((e.th.read xc).toNat % 2 ^ 8)) (fun _ => true) (jobRecords a).length = false := by
    simpa [jobsFull] using hj
  simp only [restoreTeam, selector_core, h, hf, he, Bool.not_true, Bool.false_eq_true, if_false]

end Restore

section Units

variable {s s1 : State} {c : Ctl} {e0 e : Env} {xd xa xc : Reg}

/-- The unit of the own team, or that of the team that the selector names. -/
def loadUnit (team : Bool) (c : Ctl) (xd xa xc : Reg) : Instr := if team then .ctxloadTeam c xd xa xc else .ctxload c xd xa

/-- What a load of each kind comes to once its area is in order. -/
def restoreWith (team : Bool) (s : State) (e : Env) (c : Ctl) (xd xc : Reg) : AreaWords → Nat → Launch → Outcome :=
  if team then restoreTeam s e c xd xc else restoreOwn s e c xd

theorem exec_loadUnit {team : Bool} (h : Passes s { settled := true, long := true } c e0)
    (hin : if team then e0.tm.firmware = true else e0.th.inh = true)
    (hr : Reads s e0 (if team then [xa, xa + 1, xc, xd] else [xa, xa + 1, xd]) s1 e)
    (ha : Arrived e (if team then [xa, xa + 1, xc] else [xa, xa + 1]))
    (hal : pairNat e.th.read xa % 4096 = 0) (hlt : pairNat e.th.read xa < 2 ^ 57) :
    exec (loadUnit team c xd xa xc) s = withLoaded s1 e c xd (pairNat e.th.read xa)
      (if team then none else some e.tm.lid) (restoreWith team s1 e c xd xc) := by
  rw [← read64_toNat] at hal hlt ⊢
  cases team with
  | true => exact (contextUnit_gather (team := true) h hin hr ha _).trans (withArea_of_aligned hal hlt _)
  | false => exact (contextUnit_gather (team := false) h hin hr ha _).trans (withArea_of_aligned hal hlt _)

end Units

end Sys2Proof.Machine
end

section
/-! SUPPORT. `tinv` (R336, R337) and `selftest` (R357). -/

namespace Sys2Proof.Machine

/-! `tinv`. -/

theorem tinvOver_draining {s : State} {e : Env} {c : Ctl} {r : VRange} {keep : Bool} (h : draining s r = true) :
    tinvOver s e c r keep = .next { s with stalled := true } := by
  simp only [tinvOver, h, if_true]
  rfl

theorem tinvOver_drained {s : State} {e e4 : Env} {c : Ctl} {r : VRange} {keep : Bool} (h : draining s r = false)
    (he : (dropRange s r keep).env e.t = some e4) :
    tinvOver s e c r keep = .next (Gone (dropRange s r keep) e4 (e4.th.ctx.past 1)) := by
  simp only [tinvOver, h, he, settle_nil, Bool.false_eq_true, if_false]

/-- The address space that the operand of `tinv` names (R336). -/
theorem extractLsb'_asn (w : DWord) : w.extractLsb' 48 16 = BitVec.ofNat 16 (w.toNat / 2 ^ 48) := by
  apply BitVec.eq_of_toNat_eq
  simp [Nat.shiftRight_eq_div_pow]

theorem tinvRange_eq (base count : DWord) : tinvRange base count =
    ⟨BitVec.ofNat 16 (count.toNat / 2 ^ 48), base.toNat / 2 ^ 16 * 2 ^ 16,
      base.toNat / 2 ^ 16 * 2 ^ 16 + 2 ^ 16 * (count.toNat % 2 ^ 48)⟩ := by
  simp [tinvRange, extractLsb'_asn]

/-- The units that unmap or downgrade (R336): what each reads, and the range of its operands. -/
theorem exec_tinv {s s1 : State} {c : Ctl} {e0 e : Env} {xa xb : Reg} {i : Instr} {rs : List Reg} {keep : Bool}
    (hi : (i, rs, keep) ∈ [(.tinvUnmap c xa xb, [xa, xa + 1, xb, xb + 1], false),
      (.tinvDowngrade c xa xb, [xa, xa + 1, xb, xb + 1], true), (.tinvUnmapAll c xb, [xb, xb + 1], false)])
    (h : Passes s { settled := true } c e0) (hf : e0.tm.firmware = true) (hr : Reads s e0 rs s1 e) (ha : Arrived e rs) :
    let count := pairNat e.th.read xb
    let base := pairNat e.th.read xa / 2 ^ 16 * 2 ^ 16
    exec i s = tinvOver s1 e c (if rs.length = 2 then ⟨BitVec.ofNat 16 (count / 2 ^ 48), 0, 2 ^ 57⟩
      else ⟨BitVec.ofNat 16 (count / 2 ^ 48), base, base + 2 ^ 16 * (count % 2 ^ 48)⟩) keep := by
  simp only [← read64_toNat, ← tinvRange_eq]
  simp only [← extractLsb'_asn]
  have hr' : Reads s e0 (rs ++ []) s1 e := (List.append_nil rs).symm ▸ hr
  simp only [List.mem_cons, Prod.mk.injEq, List.not_mem_nil, or_false] at hi
  rcases hi with ⟨rfl, rfl, rfl⟩ | ⟨rfl, rfl, rfl⟩ | ⟨rfl, rfl, rfl⟩ <;> exact firmwareUnit_gather h hf hr' ha _

/-- What a step that keeps the classified pages keeps through a list of them. -/
theorem pages_foldl {α : Type} {f : State → α → State} (hf : ∀ s x, (f s x).pages = s.pages) (xs : List α)
    (s : State) : (xs.foldl f s).pages = s.pages := by
  induction xs generalizing s with
  | nil => rfl
  | cons x xs ih => exact (ih (f s x)).trans (hf s x)

theorem l2Room_pages (ln ways n : Nat) (s : State) : (l2Room ln ways n s).pages = s.pages := by
  induction n generalizing s with
  | zero => rfl
  | succ n ih => grind [l2Room, l2Evict, dramPut]

theorem writeBack_pages (s : State) (ln : Nat) (l : L1Line) : (writeBack s ln l).pages = s.pages := by
  grind [writeBack, homeMergeAs, l2Install, l2Room_pages, dramPut]

theorem flushCore_pages (ptes : List Nat) (keep : Bool) (s : State) (core : Nat) :
    (flushCore ptes keep s core).pages = s.pages :=
  pages_foldl (fun s _ => writeBack_pages s _ _) _ s

/-- The pages that an unmap leaves classified (R337): those whose page-table entry no page of the range has. -/
theorem dropRange_pages (s : State) (r : VRange) :
    (dropRange s r false).pages = s.pages.filter fun c => !(r.ptes s).contains c.1 := by
  unfold dropRange
  simp only [Bool.false_eq_true, if_false]
  congr 1
  refine (pages_foldl (fun s _ => ?_) _ _).trans (pages_foldl (flushCore_pages _ _) _ s)
  rfl

theorem page_of_mem_dropRange {s : State} {r : VRange} {p : Nat} {x : PageClass}
    (h : (p, x) ∈ (dropRange s r false).pages) : (p, x) ∈ s.pages ∧ r.page x = false := by
  rw [dropRange_pages, List.mem_filter] at h
  obtain ⟨hm, hp⟩ := h
  refine ⟨hm, Bool.eq_false_iff.mpr fun hx => ?_⟩
  have : p ∈ r.ptes s := List.mem_map.mpr ⟨(p, x), List.mem_filter.mpr ⟨hm, hx⟩, rfl⟩
  simp_all

/-! `selftest`. -/

theorem retested_fenced (k : Core) (bad : BitVec 4) : (retested k bad).fenced = bad := by
  unfold retested testFailed suspendMatrix
  split
  · rfl
  · dsimp only
    split <;> simp

theorem retested_teams (k : Core) (bad : BitVec 4) : (retested k bad).teams = k.teams := by
  unfold retested testFailed suspendMatrix
  split
  · rfl
  · dsimp only
    split <;> rfl

/-- A core changed beside its teams leaves every thread its team and launch. -/
theorem env_setCore {s : State} {n : Nat} {k : Core} (h : k.teams = (s.core n).teams) (t : Nat) :
    (s.setCore n k).env t = s.env t := by
  have ht (j : Nat) : (s.setCore n k).team? j = s.team? j := by
    unfold State.team?
    by_cases hj : j / 4 = n
    · rw [hj, core_setCore_self, h]
    · rw [core_setCore_ne _ _ hj]
  unfold State.env
  simp only [ht, thread?_setCore] <;> rfl

theorem extractLsb'_nibble (w : Word) : (w.extractLsb' 0 4).setWidth 32 = w &&& 0xF := by
  apply BitVec.eq_of_toNat_eq
  have := Nat.and_two_pow_sub_one_eq_mod w.toNat 4
  simp_all
  omega

theorem badBanks_selftest (bad : List Nat) (found : Word) (n b : Nat) :
    b ∈ bad ++ ((List.range 16).filter fun i => found.getLsbD i && !bad.contains (n * 16 + i)).map (n * 16 + ·) ↔
      b ∈ bad ∨ (b / 16 = n ∧ found.getLsbD (b % 16) = true) := by
  rw [List.mem_append, List.mem_map]
  constructor
  · rintro (h | ⟨i, hi, rfl⟩)
    · exact .inl h
    · rw [List.mem_filter, List.mem_range, Bool.and_eq_true] at hi
      obtain ⟨hlt, hf, _⟩ := hi
      exact .inr ⟨by omega, by rwa [show (n * 16 + i) % 16 = i by omega]⟩
  · rintro (h | ⟨hb, hf⟩)
    · exact .inl h
    · by_cases hm : b ∈ bad
      · exact .inl hm
      · have he : n * 16 + b % 16 = b := by omega
        refine .inr ⟨b % 16, List.mem_filter.mpr ⟨List.mem_range.mpr (by omega), ?_⟩, he⟩
        simp [hf, he, hm]

/-- The state after the test of a core's matrix array (R357; log 2). -/
def arrayTested (s : State) (core : Nat) : State :=
  { s.setCore core (retested (s.core core) ((Config.freeWord s.free).extractLsb' 0 4)) with free := s.free + 1 }

/-- The state after the test of a bank core (R357; log 2). -/
def bankTested (s : State) (bc : Nat) : State :=
  { s with
    free := s.free + 1
    badBanks := s.badBanks ++ ((List.range 16).filter fun i =>
      (Config.freeWord s.free).getLsbD i && !s.badBanks.contains (bc * 16 + i)).map (bc * 16 + ·) }

theorem env_arrayTested (s : State) (core t : Nat) : (arrayTested s core).env t = s.env t := by
  refine Eq.trans ?_ (env_setCore (retested_teams (s.core core) ((Config.freeWord s.free).extractLsb' 0 4)) t)
  rfl

theorem arrayTested_fenced (s : State) (core : Nat) :
    ((arrayTested s core).core core).fenced = (Config.freeWord s.free).extractLsb' 0 4 := by
  refine Eq.trans (congrArg Core.fenced ?_) (retested_fenced (s.core core) _)
  exact core_setCore_self s core _

theorem env_bankTested (s : State) (bc t : Nat) : (bankTested s bc).env t = s.env t := rfl

theorem any_banksOf {s : State} {bc : Nat} : (banksOf bc).any (fun b => (find? s.tickets b).isSome) = true ↔
    ∃ b, b < 16 ∧ find? s.tickets (bc * 16 + b) ≠ none := by
  simp only [banksOf, List.any_map, List.any_eq_true, List.mem_range, Function.comp_apply, Option.isSome_iff_ne_none]

section Selftest

variable {s s1 : State} {c : Ctl} {e0 e : Env} {xd xa : Reg} (h : Passes s { settled := true } c e0)
  (hf : e0.tm.firmware = true) (hr : Reads s e0 [xa, xd] s1 e) (ha : Arrived e [xa])
include h hf hr ha

theorem exec_selftestArray_of_passes (he : s1.env e.t = some e) : exec (.selftestArray c xd xa) s =
    .next (settle (arrayTested s1 ((e.th.read xa).toNat % 2 ^ 8)) e c 1
      [(xd, Config.freeWord s1.free &&& 0xF)]) := by
  refine (firmwareUnit_gather h hf hr ha _).trans ?_
  have he2 := (env_arrayTested s1 ((e.th.read xa).toNat % 2 ^ 8) e.t).trans he
  unfold arrayTested at he2 ⊢
  simp only [selector_core, he2, extractLsb'_nibble]

theorem exec_selftestBank_of_busy (hb : ∃ b, b < 16 ∧ find? s1.tickets ((e.th.read xa).toNat % 2 ^ 9 * 16 + b) ≠ none) :
    exec (.selftestBank c xd xa) s = .next { s1 with stalled := true } := by
  refine (firmwareUnit_gather h hf hr ha _).trans ?_
  have hn : ((e.th.read xa).extractLsb' 0 9).toNat = (e.th.read xa).toNat % 2 ^ 9 := by simp
  rw [← hn, ← any_banksOf] at hb
  simp only [hb, if_true]
  rfl

theorem exec_selftestBank_of_free (he : s1.env e.t = some e)
    (hb : ∀ b, b < 16 → find? s1.tickets ((e.th.read xa).toNat % 2 ^ 9 * 16 + b) = none) :
    exec (.selftestBank c xd xa) s = .next (settle (bankTested s1 ((e.th.read xa).toNat % 2 ^ 9)) e c 1
      [(xd, Config.freeWord s1.free &&& 0xFFFF)]) := by
  refine (firmwareUnit_gather h hf hr ha _).trans ?_
  have hn : ((e.th.read xa).extractLsb' 0 9).toNat = (e.th.read xa).toNat % 2 ^ 9 := by simp
  have hb' : ¬(banksOf ((e.th.read xa).toNat % 2 ^ 9)).any (fun b => (find? s1.tickets b).isSome) = true := by
    rw [any_banksOf]
    rintro ⟨b, hlt, hne⟩
    exact hne (hb b hlt)
  have he2 := (env_bankTested s1 ((e.th.read xa).toNat % 2 ^ 9) e.t).trans he
  unfold bankTested at he2 ⊢
  simp only [hn, if_neg hb', he2]

end Selftest

end Sys2Proof.Machine
end

section
/-! SUPPORT and the obligation of the units for firmware and handlers (R38, R110, R336, R337, R351 to R357): each unit
comes to its operation, and the operation's lemma gives what it leaves. -/

namespace Sys2Proof.Machine

theorem teamKey_div (t : Nat) : teamKey t / 4 = tCore t := by
  simp only [teamKey, tCore]
  omega

section Save

variable {s s1 : State} {c : Ctl} {e0 e : Env} {xd xa xb xc : Reg} (h : Passes s { settled := true, long := true } c e0)
include h

theorem exec_ctxsave_misaligned (hin : e0.th.inh = true) (hr : Reads s e0 [xa, xa + 1, xb, xd] s1 e)
    (ha : Arrived e [xa, xa + 1, xb]) (hal : pairNat e.th.read xa % 4096 ≠ 0) : exec (.ctxsave c xd xa xb) s =
      .next (raiseTrap s1 e.t (trapOf 0x03 (pairNat e.th.read xa % 2 ^ 57))) := by
  rw [← read64_toNat] at hal ⊢
  exact (contextUnit_gather (team := false) h hin hr ha _).trans (withArea_misaligned hal _)

theorem exec_ctxsave_of_area (hin : e0.th.inh = true) (hr : Reads s e0 [xa, xa + 1, xb, xd] s1 e)
    (ha : Arrived e [xa, xa + 1, xb]) (hal : pairNat e.th.read xa % 4096 = 0) (hlt : pairNat e.th.read xa < 2 ^ 57) :
    exec (.ctxsave c xd xa xb) s =
      saveTeam s1 e c xd (pairNat e.th.read xa) (e.th.read xb).toNat (teamKey e.t) e.tm false := by
  rw [← read64_toNat] at hal hlt ⊢
  exact (contextUnit_gather (team := false) h hin hr ha _).trans (withArea_of_aligned hal hlt _)

variable (hin : e0.tm.firmware = true) (hr : Reads s e0 [xa, xa + 1, xb, xc, xd] s1 e)
  (ha : Arrived e [xa, xa + 1, xb, xc]) (hal : pairNat e.th.read xa % 4096 = 0) (hlt : pairNat e.th.read xa < 2 ^ 57)
include hin hr ha hal hlt

theorem exec_ctxsaveTeam_no_team
    (hk : s1.team? ((e.th.read xc).toNat % 2 ^ 8 * 4 + (e.th.read xc).toNat / 2 ^ 8 % 4) = none) :
    exec (.ctxsaveTeam c xd xa xb xc) s = .next (settleContext s1 e c [(xd, 5)]) := by
  rw [← read64_toNat] at hal hlt
  refine ((contextUnit_gather (team := true) h hin hr ha _).trans (withArea_of_aligned hal hlt _)).trans ?_
  simp only [selector_core, selector_slot, hk]

theorem exec_ctxsaveTeam_of_team {tm : Team}
    (hk : s1.team? ((e.th.read xc).toNat % 2 ^ 8 * 4 + (e.th.read xc).toNat / 2 ^ 8 % 4) = some tm) :
    exec (.ctxsaveTeam c xd xa xb xc) s = saveTeam s1 e c xd (pairNat e.th.read xa) (e.th.read xb).toNat
      ((e.th.read xc).toNat % 2 ^ 8 * 4 + (e.th.read xc).toNat / 2 ^ 8 % 4) tm true := by
  rw [← read64_toNat] at hal hlt ⊢
  refine ((contextUnit_gather (team := true) h hin hr ha _).trans (withArea_of_aligned hal hlt _)).trans ?_
  simp only [selector_core, selector_slot, hk]

end Save

/-- Settles O47, a clause of it for each bullet: a unit out of its place; `ctxsave`; `ctxsave.team`; the loads; then the
units for firmware alone: out of their place; `tinv`; `selftest`. Where a unit completes, the window of its thread is
empty (`State.Idle`), so that it leaves the thread as `Settled` says. -/
theorem firmwareAndContextUnits : Obligations.FirmwareAndContextUnits := by
  unfold Obligations.FirmwareAndContextUnits
  intro s c e0 xd xa xb xc
  refine ⟨fun hp => ⟨fun hn => ?_, fun hn => ?_, fun s1 e hin hr ha => ?_, fun s1 e hin hr ha => ?_,
    fun team s1 e ps hin hr ha => ?_⟩, fun hp => ⟨fun hn => ?_, fun i rs keep hin hi s1 e hr ha => ?_,
    fun s1 e hin hr ha => ?_⟩, fun r p x => page_of_mem_dropRange⟩
  · have hn' : ¬(if false then e0.tm.firmware else e0.th.inh) = true := by simp [hn]
    exact ⟨(contextUnit_of_passes hp _).trans (if_neg hn'), (contextUnit_of_passes hp _).trans (if_neg hn')⟩
  · have hn' : ¬(if true then e0.tm.firmware else e0.th.inh) = true := by simp [hn]
    exact ⟨(contextUnit_of_passes hp _).trans (if_neg hn'), (contextUnit_of_passes hp _).trans (if_neg hn')⟩
  · obtain ⟨ht, he, hi⟩ := reads_idle hp rfl hr
    have hl := launch_of_env he
    have hw := hi.window he
    rw [← ht, ← teamKey_div]
    refine ⟨exec_ctxsave_misaligned hp hin hr ha, fun hal hlt hh => ?_⟩
    have hx := exec_ctxsave_of_area hp hin hr ha hal hlt
    have hsv : false = true → e.tm.saving = true := nofun
    refine ⟨fun hlen => ends_of_settleContext hw (hx.trans (saveTeam_short hh hsv hl hlen)), fun ps hlen hps =>
      ⟨fun hq => hx.trans (saveTeam_busy hh hsv hl hlen hps hq), fun s2 hq => ?_⟩⟩
    have hs := hx.trans (saveTeam_stopped hh hsv hl hlen hps hq)
    refine ⟨fun i ids hwait hrel => hs.trans (saveRelease_waits hwait hrel _), fun hpub e4 he4 => ?_⟩
    have hi4 : (savedOwn (s2.waitFor e.t .none) e (teamKey e.t) e.tm e.la ps).Idle e.t :=
      savedOwn_idle (waitFor_idle (published_idle hpub hi))
    exact ends_of_settleContext (hi4.window he4)
      (hs.trans ((saveRelease_published hpub _).trans (finishSave_own he4)))
  · obtain ⟨ht, he, hi⟩ := reads_idle hp rfl hr
    have hw := hi.window he
    refine fun hal hlt => ⟨fun hk => ends_of_settleContext hw (exec_ctxsaveTeam_no_team hp hin hr ha hal hlt hk),
      fun tm la hk hl hh hsv => ?_⟩
    have hx := exec_ctxsaveTeam_of_team hp hin hr ha hal hlt hk
    have hsv' : true = true → tm.saving = true := fun _ => hsv
    refine ⟨fun hlen => ends_of_settleContext hw (hx.trans (saveTeam_short hh hsv' hl hlen)), fun ps hlen hps =>
      ⟨fun hq => hx.trans (saveTeam_busy hh hsv' hl hlen hps hq), fun s2 hq hpub =>
        (hx.trans (saveTeam_stopped hh hsv' hl hlen hps hq)).trans (saveRelease_published hpub _),
      fun n hq hflush e4 he4 => ?_⟩⟩
    have hi4 : (savedTeam (s1.waitFor e.t .none)
        ((e.th.read xc).toNat % 2 ^ 8 * 4 + (e.th.read xc).toNat / 2 ^ 8 % 4) tm la ps).Idle e.t :=
      savedTeam_idle (waitFor_idle hi)
    exact ends_of_settleContext (hi4.window he4) ((hx.trans (saveTeam_stopped hh hsv' hl hlen hps hq)).trans
      ((saveRelease_flushed hflush _).trans (finishSave_team he4)))
  · obtain ⟨ht, he, hi⟩ := reads_idle hp rfl hr
    have hw := hi.window he
    intro i area own dest reports hal hlt hps
    have hx : exec i s = _ := exec_loadUnit hp hin hr ha hal hlt
    refine ⟨fun hh => ends_of_settleContext hw (hx.trans (withLoaded_no_header hps _ hh)), fun all hh hall => ?_⟩
    have status {n : Nat} (hc : checkArea s1 (areaWords s1 (tCore e.t) all) own = .status n) : reports (BitVec.ofNat 32 n) :=
      ends_of_settleContext hw (hx.trans (withLoaded_status hps _ hh hall hc))
    refine ⟨fun hla => status (checkArea_no_launch hla), fun lid la hla hteam hne => ?_, fun lid la hla hown hsec =>
      status (checkArea_short hla ?_ hsec), fun lid la hok => ?_⟩
    · have ho : own = some e.tm.lid := by simp [own, hteam]
      exact status (ho ▸ checkArea_other_launch hla hne)
    · rcases hown with hteam | rfl
      · exact .inl (by simp [own, hteam])
      · cases team
        · exact .inr rfl
        · exact .inl rfl
    · have hy := hx.trans (withLoaded_ok hps _ hh hall hok)
      cases team with
      | false =>
        exact ⟨nofun, fun _ hroom => ends_of_settleContext hw (hy.trans (restoreOwn_no_room hroom)),
          fun _ hroom hq hj hb hs => hy.trans (restoreOwn_of_stopped hroom hq hj hb hs), nofun⟩
      | true =>
        refine ⟨fun _ hroom => ends_of_settleContext hw (hy.trans (restoreTeam_no_room hroom)), nofun, nofun,
          fun _ hroom hj e4 he4 => ?_⟩
        exact ends_of_settleContext ((loadTeam_idle hi).window he4) (hy.trans (restoreTeam_of_room hroom hj he4))
  · have hn' : ¬e0.tm.firmware = true := by simp [hn]
    exact ⟨(firmwareUnit_of_passes hp _).trans (if_neg hn'), (firmwareUnit_of_passes hp _).trans (if_neg hn'),
      (firmwareUnit_of_passes hp _).trans (if_neg hn'), (firmwareUnit_of_passes hp _).trans (if_neg hn'),
      (firmwareUnit_of_passes hp _).trans (if_neg hn')⟩
  · have hx := exec_tinv hi hp hin hr ha
    exact ⟨fun hd => hx.trans (tinvOver_draining hd), fun hd e4 he4 => hx.trans (tinvOver_drained hd he4)⟩
  · obtain ⟨ht, he, hi⟩ := reads_idle hp rfl hr
    have hw := hi.window he
    refine ⟨?_, exec_selftestBank_of_busy hp hin hr ha, fun hb => ?_⟩
    · obtain ⟨th, hth, hregs⟩ := settle_regsAfter (s := arrayTested s1 ((e.th.read xa).toNat % 2 ^ 8)) (c := c) hw
        [(xd, Config.freeWord s1.free &&& 0xF)]
      exact ⟨_, th, (exec_selftestArray_of_passes hp hin hr ha he).trans (congrArg _ hth), thread?_setThread_self _ _ _,
        hregs, arrayTested_fenced _ _, ⟨fun _ => rfl, fun _ => rfl, fun _ => rfl⟩⟩
    · obtain ⟨th, hth, hregs⟩ := settle_regsAfter (s := bankTested s1 ((e.th.read xa).toNat % 2 ^ 9)) (c := c) hw
        [(xd, Config.freeWord s1.free &&& 0xFFFF)]
      exact ⟨_, th, (exec_selftestBank_of_free hp hin hr ha he hb).trans (congrArg _ hth), thread?_setThread_self _ _ _,
        hregs, badBanks_selftest _ _ _, ⟨fun _ => rfl, fun _ => rfl, fun _ => rfl⟩⟩

end Sys2Proof.Machine
end

section
/-! SUPPORT. Calls and returns (R59, R74, R75). -/

namespace Sys2Proof.Machine

/-- A unit that has issued an access (R112), where the context that it leaves keeps the K-marked writes in reach. -/
theorem issueAccess_eq {s : State} {e : Env} {n : Nat} {srcs : List Reg} {a : Access} {loads : Bool} {next : Ctx → Ctx}
    (hn : ∀ c fwd, next { c with fwd := fwd } = { next c with fwd := fwd }) :
    issueAccess s e n srcs a loads next = Issues s e (next (e.th.ctx.advance n)) a srcs (!loads) := by
  have hc := hn (e.th.ctx.advance n) (e.th.ctx.fwd.filter fun f => !a.kind.regs.any fun r => r.toNat == f.reg)
  unfold issueAccess Issues
  refine congrArg (s.setThread e.t) ?_
  refine (congrArg (fun c => ({ Thread.enter _ _ _ c with accs := _, nextAcc := _ } : Thread)) hc).trans ?_
  rw [Thread.enter, issued_eq]
  cases a.flag <;> cases loads <;> rfl

/-- A call whose target can be reached and whose entry can be written (R59, R74). -/
theorem callTo_of_lands {s s1 : State} {e : Env} {t : DWord} {p : Phys} (hl : Lands s e t s1)
    (hd : e.th.ctx.depth ≠ e.la.depthLimit) (hx : e.xlat s1 (e.stackAddr e.th.ctx.depth) .w = .ok p) (hp : p.hole = false) :
    callTo s e t = .next (Issues s1 e { e.th.ctx.land t with depth := e.th.ctx.depth + 1 }
      (mkAccess s1 e .push (e.stackAddr e.th.ctx.depth) 8 (e.th.ctx.pc + 8).toNat [p] 0 false none) [] true) := by
  have hd' : (e.th.ctx.depth == e.la.depthLimit) = false := beq_eq_false_iff_ne.mpr hd
  rw [callTo, lands_transfer hl]
  simp only [xlatChk, hd', hx, hp, Bool.false_eq_true, if_false]
  exact congrArg _ (issueAccess_eq fun _ _ => rfl)

/-- Settles O14: a call by `callTo_of_lands`, a return by its read of the entry below. -/
theorem callsAndReturns : Obligations.CallsAndReturns := by
  unfold Obligations.CallsAndReturns
  refine fun s c => ⟨fun e off s1 p h => ?_, fun e xa s0 s1 p h ha => ?_, fun e s1 v s2 h hd hr hl => ?_⟩
  · exact fun hl hd hx hp => (call_of_passes h).trans (callTo_of_lands hl hd hx hp)
  · exact fun hl hd hx hp => (callr_of_ready h ha).trans (callTo_of_lands hl hd hx hp)
  · rw [ret_of_passes h hd hr, lands_transfer hl, stepTo_eq]
    rfl

end Sys2Proof.Machine
end

section
/-! SUPPORT. Arrivals at a meet and the mismatch of R81 (R80 to R82). -/

namespace Sys2Proof.Machine

theorem issueWait_eq (th : Thread) (clk : Nat) (w : Wait) : th.issueWait clk w = Waits th clk w := by
  simp only [Thread.issueWait, Waits, Bool.and_eq_true, beq_iff_eq]

/-- A meet records the values of its sources and waits (R80). -/
theorem arrives_of {i : Instr} {c : Ctl} {dst : List Reg} {xa xb : Option Reg}
    (hi : ∀ s, exec i s = meetAt s c i dst xa xb) :
    Arrives i c (xa.toList ++ xb.toList) dst (fun rd => xa.elim 0 rd) (fun rd => xb.elim 0 rd) := by
  intro s s1 e h ha
  obtain ⟨e0, hp, hr⟩ := h.reaches
  have ht : e.t = e0.t := env_t hr.env
  have hth : s1.thread? e.t = some e.th := thread?_of_env (ht ▸ hr.env)
  rw [hi, meetAt, unit_of_passes hp, gather_of_reads hr ha]
  simp only [modThread_of_thread? hth, issueWait_eq]
  cases xa <;> cases xb <;> rfl

/-- The live threads of a group are those that the state finds. -/
theorem thread?_of_mem_liveThreads {s : State} {g : Nat} {x : Nat × Thread} (h : x ∈ liveThreads s g) :
    s.thread? x.1 = some x.2 :=
  thread?_of_mem_groupThreads (List.mem_of_mem_filter h)

/-- Threads that wait at different addresses are more than one (R81). -/
theorem exists_other_of_not_sameMeet {s : State} {g : Nat} (h : sameMeet s g = false) {t : Nat} {th : Thread}
    (hm : (t, th) ∈ liveThreads s g) : ∃ x ∈ liveThreads s g, x.1 ≠ t := by
  by_contra hall
  push Not at hall
  have hpc : ∀ x ∈ liveThreads s g, x.2 = th := fun x hx => by
    have := thread?_of_mem_liveThreads hx
    rw [hall x hx, thread?_of_mem_liveThreads hm] at this
    exact (Option.some.inj this).symm
  unfold sameMeet at h
  cases hl : liveThreads s g with
  | nil => rw [hl] at hm; cases hm
  | cons e es =>
    rw [hl] at h hpc
    have : es.all (fun f => f.2.ctx.pc == e.2.ctx.pc) = true := by
      simp only [List.all_eq_true, beq_iff_eq]
      intro f hf
      rw [hpc f (List.mem_cons_of_mem e hf), hpc e List.mem_cons_self]
    simp [this] at h

/-- The least of some numbers, as a mismatch names it (R81). -/
theorem foldl_min_headD {xs : List Nat} (h : xs ≠ []) :
    xs.foldl min (xs.headD 0) ∈ xs ∧ ∀ x ∈ xs, xs.foldl min (xs.headD 0) ≤ x := by
  cases xs with
  | nil => exact absurd rfl h
  | cons a as =>
    have hm : (a :: as).min? = some ((a :: as).foldl min ((a :: as).headD 0)) := by
      rw [List.min?_cons', List.headD_cons, List.foldl_cons, Nat.min_self]
    exact List.min?_eq_some_iff.mp hm

theorem meetCheck_of_no_mismatch {s : State} {g : Nat} (h : allMeet s g = false ∨ sameMeet s g = true) (arrived : List Nat) :
    meetCheck s g arrived = s := by
  unfold meetCheck
  rcases h with h | h <;> simp [h]

/-- A mismatch traps at the arriving thread of the lowest LANE (R81). -/
theorem meetCheck_of_mismatch {s : State} {g : Nat} {arrived : List Nat} {before after : List (Nat × Thread)} {t : Nat}
    {th : Thread} (hl : liveThreads s g = before ++ (t, th) :: after) (ha : allMeet s g = true)
    (hs : sameMeet s g = false) (hb : ∀ x ∈ before, x.1 ∉ arrived) (ht : t ∈ arrived) :
    let others := ((liveThreads s g).filter fun e => e.1 != t).map fun e => e.2.ctx.pc.toNat
    meetCheck s g arrived = raiseTrap (s.waitFor t .none) t (trapOf 0x08 (others.foldl min (others.headD 0))) := by
  have hf : (liveThreads s g).find? (fun e => arrived.contains e.1) = some (t, th) := by
    rw [hl, List.find?_append, List.find?_eq_none.mpr (by simpa using hb)]
    simp [ht]
  unfold meetCheck
  simp only [ha, hs, hf, Bool.not_false, Bool.and_self, if_true, Option.orElse_some]

/-- Settles O21: every meet arrives by `arrives_of`, and the check of R81 goes by its mismatch. -/
theorem meetArrivals : Obligations.MeetArrivals := by
  unfold Obligations.MeetArrivals
  refine ⟨fun c xd xa xb n uns => ?_, fun s g arrived => ⟨fun h => meetCheck_of_no_mismatch h arrived, ?_⟩⟩
  · exact ⟨arrives_of (xa := some xa) (xb := some xb) fun _ => rfl, arrives_of (xa := some xa) (xb := none) fun _ => rfl,
      arrives_of (xa := some xa) (xb := none) fun _ => rfl, arrives_of (xa := some xa) (xb := none) fun _ => rfl,
      arrives_of (xa := some xa) (xb := none) fun _ => rfl, arrives_of (xa := some xa) (xb := none) fun _ => rfl,
      arrives_of (xa := some xa) (xb := none) fun _ => rfl, arrives_of (xa := some xa) (xb := none) fun _ => rfl,
      arrives_of (xa := some xa) (xb := none) fun _ => rfl, arrives_of (xa := some xa) (xb := none) fun _ => rfl,
      arrives_of (xa := some xa) (xb := none) fun _ => rfl, arrives_of (xa := some xa) (xb := none) fun _ => rfl,
      arrives_of (xa := some xa) (xb := none) fun _ => rfl, arrives_of (xa := some xa) (xb := none) fun _ => rfl,
      arrives_of (xa := some xa) (xb := none) fun _ => rfl, arrives_of (xa := none) (xb := none) fun _ => rfl⟩
  · intro before t th after hl ha hs hb ht
    refine ⟨_, meetCheck_of_mismatch hl ha hs hb ht, ?_⟩
    obtain ⟨x, hx, hxt⟩ := exists_other_of_not_sameMeet hs (t := t) (th := th) (by simp [hl])
    have hne : ((liveThreads s g).filter fun e => e.1 != t).map (fun e => e.2.ctx.pc.toNat) ≠ [] := by
      refine List.ne_nil_of_mem (List.mem_map_of_mem (List.mem_filter.mpr ⟨hx, ?_⟩))
      simpa using hxt
    obtain ⟨hmem, hle⟩ := foldl_min_headD hne
    refine ⟨?_, fun y hy hyt => hle _ (List.mem_map_of_mem (List.mem_filter.mpr ⟨hy, by simpa using hyt⟩))⟩
    obtain ⟨y, hy, hyl⟩ := List.mem_map.mp hmem
    obtain ⟨hy, hyt⟩ := List.mem_filter.mp hy
    exact ⟨y, hy, by simpa using hyt, hyl⟩

end Sys2Proof.Machine
end

section
/-! SUPPORT. Named barriers (R87, R89): a team of more than 16 groups numbers threads beyond its own slot. -/

namespace Sys2Proof.Machine

open Sys2Proof.Tests

/-- A team of 17 groups: its TIDs run to 543, and those from 512 on are numbers of threads of the next team slot. -/
def wideTeam : Team := { tm0 with ngrp := 17 }

/-- A thread of team slot 1 that waits at barrier 0 with the token 5. -/
def sleeper : Thread := { th0 with wait := .barrier 0 5 }

/-- Thread 0 of the wide team in slot 0, and the sleeper in slot 1. -/
def wideState : State := { st th0 wideTeam with threads := [(0, th0), (512, sleeper)] }

/-- The arrival of thread 0 completes the phase of its team's barrier 0, and wakes the sleeper. -/
theorem bars_wakes_sleeper : ∀ t, exec (.bars Tests.c 0) wideState = .next t → (t.thread? 512).map (·.wait) = some .none := by
  have h : (match exec (.bars Tests.c 0) wideState with
      | .next t => (t.thread? 512).map (·.wait) | _ => none) = some .none := by decide +kernel
  intro t ht
  rwa [ht] at h

/-- Refutes O34: the arrival that completes a phase of `wideTeam` wakes `sleeper`, a thread of another team, which by
`Arrival.others` stays as it was. R54 gives a team at most 16 groups, but the statement does not ask for that. -/
theorem not_barrierUnits : ¬ Obligations.BarrierUnits := by
  unfold Obligations.BarrierUnits
  rintro ⟨-, -, h⟩
  have hp : Passes wideState { settled := true } Tests.c (en th0 wideTeam) := gate rfl (by decide +kernel)
  obtain ⟨-, hbars⟩ := h wideState (en th0 wideTeam) Tests.c 0 hp (by decide)
  obtain ⟨-, t, th, ht, ha⟩ := hbars rfl rfl
  have hsleeps : t.thread? 512 = some sleeper := by
    have hother : teamKey 512 ≠ teamKey (en th0 wideTeam).t := by decide
    rw [ha.others 512 sleeper (by decide) rfl, if_neg fun ⟨_, hteam, _⟩ => hother hteam]
  have hwoken := bars_wakes_sleeper t ht
  rw [hsleeps] at hwoken
  exact absurd hwoken (by decide)

end Sys2Proof.Machine
end

section
/-! SUPPORT. Leases and the activation rule (R91, R269 to R272). -/

namespace Sys2Proof.Machine

/-! A unit that acts as it commits (R112). -/

/-- With no older unit left it acts at once. -/
theorem settleAct_idle {s : State} {e : Env} (h : e.th.window = []) (n : Nat) (act : CommitAct) (now : State → State) :
    settleAct s e n act 0 now = now (Gone s e (e.th.ctx.past n)) := by
  have hf : ({ e.th with fps := mergeFps e.th.fps 0 } : Thread) = e.th := by simp [mergeFps]
  rw [gone_eq, settleAct, hf, h, List.isEmpty_nil, if_pos rfl]
  exact congrArg (fun th => now (s.setThread e.t th)) (issued_of_idle h _ _ _)

/-- Behind older units it waits for them in the window. -/
theorem settleAct_busy {s : State} {e : Env} (h : e.th.window ≠ []) (n : Nat) (act : CommitAct) (fps : BitVec 5)
    (now : State → State) : settleAct s e n act fps now = Behind s e (e.th.ctx.past n) act fps := by
  simp only [settleAct, List.isEmpty_iff, h, if_false, Behind, Thread.enter, issued_eq]
  rfl

theorem setLease_eq (s : State) (t n : Nat) : setLease s t n = s.setCore (tCore t) { s.core (tCore t) with
    leases := adjust (s.core (tCore t)).leases (gKey t) (fun l =>
      if n = 0 then { l with measured := true } else { l with measured := false, lines := n }) } := by
  simp only [setLease, beq_iff_eq]

/-! The groups of a core by age. -/

theorem mem_insertAge {x y : Nat × Lease} {ls : List (Nat × Lease)} : y ∈ insertAge x ls ↔ y = x ∨ y ∈ ls := by
  induction ls with
  | nil => simp [insertAge]
  | cons z zs ih =>
    unfold insertAge
    split
    · simp
    · simp only [List.mem_cons, ih]
      tauto

theorem mem_byAge {y : Nat × Lease} {ls : List (Nat × Lease)} : y ∈ byAge ls ↔ y ∈ ls := by
  induction ls with
  | nil => simp [byAge]
  | cons x xs ih =>
    rw [byAge, List.foldr_cons, mem_insertAge, List.mem_cons]
    exact or_congr_right ih

/-- The groups that have been parked for 100,000 clk (R272). -/
theorem mem_overdue {clk g : Nat} {ls : List (Nat × Lease)} :
    g ∈ overdue clk ls ↔ ∃ l, (g, l) ∈ ls ∧ ∃ p, l.parked = some p ∧ p + 100000 ≤ clk := by
  simp only [overdue, List.mem_map, List.mem_filter, mem_byAge]
  constructor
  · rintro ⟨⟨g', l⟩, ⟨hm, hp⟩, rfl⟩
    cases hl : l.parked with
    | none => simp [hl] at hp
    | some p => exact ⟨l, hm, p, hl, by simpa [hl] using hp⟩
  · rintro ⟨l, hm, p, hl, hp⟩
    exact ⟨(g, l), ⟨hm, by simpa [hl] using hp⟩, rfl⟩

/-! What the steps of the rule change. -/

/-- In a sorted list a key has one value. -/
theorem find?_of_mem {α : Type} {m : List (Nat × α)} (h : Sorted m = true) {k : Nat} {v : α} (hm : (k, v) ∈ m) :
    find? m k = some v := by
  induction m with
  | nil => cases hm
  | cons x xs ih =>
    obtain ⟨hlt, hs⟩ := sorted_cons.mp h
    rcases List.mem_cons.mp hm with rfl | hm
    · simp [find?]
    · have hne : k ≠ x.1 := Nat.ne_of_gt (hlt _ hm)
      simp only [find?, hne, if_false]
      exact ih hs hm

theorem mem_of_find? {α : Type} {m : List (Nat × α)} {k : Nat} {v : α} (h : find? m k = some v) : (k, v) ∈ m := by
  induction m with
  | nil => cases h
  | cons x xs ih => grind [find?]

section ChangeOne

variable (ls : List (Nat × Lease)) (g : Nat) (f : Lease → Lease)

/-- The leases with that of one group changed. -/
def changeOne : List (Nat × Lease) := ls.map fun x => if x.1 == g then (g, f x.2) else x

theorem find?_changeOne (k : Nat) :
    find? (changeOne ls g f) k = (find? ls k).map fun l => if k = g then f l else l := by
  have hmap : changeOne ls g f = ls.map fun x => (x.1, if x.1 = g then f x.2 else x.2) := by
    refine List.map_congr_left fun x _ => ?_
    by_cases hx : x.1 = g <;> simp [hx]
  rw [hmap]
  exact find?_mapKey ls (fun k l => if k = g then f l else l) k

theorem sorted_changeOne (h : Sorted ls = true) : Sorted (changeOne ls g f) = true := by
  unfold changeOne
  induction ls with
  | nil => rfl
  | cons x xs ih =>
    obtain ⟨hlt, hs⟩ := sorted_cons.mp h
    have hkey : ∀ y : Nat × Lease, (if y.1 == g then (g, f y.2) else y).1 = y.1 := by
      intro y
      by_cases hy : y.1 = g <;> simp [hy]
    rw [List.map_cons, sorted_cons]
    refine ⟨fun y hy => ?_, ih hs⟩
    obtain ⟨z, hz, rfl⟩ := List.mem_map.mp hy
    rw [hkey, hkey]
    exact hlt z hz

theorem park_eq (clk : Nat) : park clk ls g = changeOne ls g fun l => { l with parked := some clk } := rfl

theorem protect_eq (clk : Nat) :
    protect clk ls g = changeOne ls g fun l => { l with parked := none, protect := some (clk + 16384) } := rfl

end ChangeOne

/-- The lease of a group has a property. -/
def LeaseIs (ls : List (Nat × Lease)) (g : Nat) (q : Lease → Prop) : Prop := ∃ l, find? ls g = some l ∧ q l

section Rule

variable {clk g : Nat} {ls : List (Nat × Lease)} {q : Lease → Prop}

theorem LeaseIs.changeOne {f : Lease → Lease} (h : LeaseIs ls g q) (hq : ∀ l, q l → q (f l)) (k : Nat) :
    LeaseIs (changeOne ls k f) g q := by
  obtain ⟨l, hl, hql⟩ := h
  refine ⟨if g = k then f l else l, by rw [find?_changeOne, hl, Option.map_some], ?_⟩
  split
  · exact hq l hql
  · exact hql

/-- Step 1 parks only active groups without protection (R272). -/
theorem shrink_keeps {l : Lease} (n : Nat) (hs : Sorted ls = true) (hf : find? ls g = some l)
    (hl : l.protect ≠ none ∨ l.parked ≠ none) :
    Sorted (shrink clk n ls) = true ∧ find? (shrink clk n ls) g = some l := by
  induction n generalizing ls with
  | zero => exact ⟨hs, hf⟩
  | succ n ih =>
    unfold shrink
    dsimp only
    split
    · split
      · rename_i x hx
        have hm := mem_byAge.mp (List.mem_of_getLast? hx)
        simp only [activeOf, List.mem_filter, Option.isNone_iff_eq_none] at hm
        obtain ⟨⟨hmem, hpark⟩, hprot⟩ := hm
        have hne : g ≠ x.1 := by
          rintro rfl
          have hxl : x.2 = l := Option.some.inj ((find?_of_mem hs hmem).symm.trans hf)
          subst hxl
          rcases hl with h | h
          · exact h hprot
          · exact h hpark
        rw [park_eq]
        refine ih (sorted_changeOne ls x.1 _ hs) ?_
        simp [find?_changeOne, hf, hne]
      · exact ⟨hs, hf⟩
    · exact ⟨hs, hf⟩

/-- Steps 2 and 3 park no group. -/
def UnparkedStays (clk : Nat) (q : Lease → Prop) : Prop :=
  (∀ l, q l → q { l with parked := none }) ∧ ∀ l, q l → q { l with parked := none, protect := some (clk + 16384) }

theorem foldl_protect_keeps (hq : UnparkedStays clk q) (gs : List Nat) (h : LeaseIs ls g q) :
    LeaseIs (gs.foldl (protect clk) ls) g q := by
  induction gs generalizing ls with
  | nil => exact h
  | cons k gs ih => exact ih (h.changeOne hq.2 k)

theorem letIn_keeps (hq : UnparkedStays clk q) (xs : List (Nat × Lease)) (h : LeaseIs ls g q) :
    LeaseIs (letIn ls xs) g q := by
  induction xs generalizing ls with
  | nil => exact h
  | cons x xs ih =>
    unfold letIn
    split
    · split
      · exact h.changeOne hq.1 x.1
      · exact h
    · split
      · exact h
      · exact ih (h.changeOne hq.1 x.1)

/-- What holds of a lease after the overdue groups are protected holds after the rule. -/
theorem evaluate_keeps {s : State} (hq : UnparkedStays s.clk q)
    (h : LeaseIs ((overdue s.clk (shrink s.clk ls.length ls)).foldl (protect s.clk) (shrink s.clk ls.length ls)) g q) :
    LeaseIs (evaluate s ls) g q := by
  unfold evaluate
  refine letIn_keeps hq _ ?_
  split
  · exact h.changeOne hq.2 _
  · exact h

/-- A group activated and protected in this clk. -/
def Shielded (clk : Nat) (l : Lease) : Prop := l.parked = none ∧ l.protect = some (clk + 16384)

theorem unparkedStays_parked (clk : Nat) : UnparkedStays clk fun l => l.parked = none := ⟨fun _ _ => rfl, fun _ _ => rfl⟩

theorem unparkedStays_shielded (clk : Nat) : UnparkedStays clk (Shielded clk) := ⟨fun _ h => ⟨rfl, h.2⟩, fun _ _ => ⟨rfl, rfl⟩⟩

/-- Step 2 activates and protects each overdue group. -/
theorem foldl_protect_shields {gs : List Nat} (hg : g ∈ gs) {l : Lease} (hf : find? ls g = some l) :
    LeaseIs (gs.foldl (protect clk) ls) g (Shielded clk) := by
  induction gs generalizing ls l with
  | nil => cases hg
  | cons k gs ih =>
    have hk := find?_changeOne ls k (fun l => { l with parked := none, protect := some (clk + 16384) }) g
    rw [hf, Option.map_some, ← protect_eq] at hk
    by_cases hgk : g = k
    · subst hgk
      refine foldl_protect_keeps (unparkedStays_shielded clk) gs ⟨_, hk, ?_⟩
      simp [Shielded]
    · exact ih (List.mem_of_ne_of_mem hgk hg) hk

end Rule

/-! The events of the lease unit. -/

theorem overdue_isEmpty {clk : Nat} {ls : List (Nat × Lease)} : (overdue clk ls).isEmpty = false ↔
    ∃ g l, (g, l) ∈ ls ∧ ∃ p, l.parked = some p ∧ p + 100000 ≤ clk := by
  rw [← Bool.not_eq_true, List.isEmpty_iff, List.eq_nil_iff_forall_not_mem, not_forall_not]
  simp only [mem_overdue]

theorem leaseEvaluation_of_due {s : State} (h : (s.core s.cur).nextEval ≤ s.clk ∨
      (∃ g l, (g, l) ∈ (s.core s.cur).leases ∧ ∃ p, l.parked = some p ∧ p + 100000 ≤ s.clk) ∨
      ((s.core s.cur).atBar = false ∧ barrierHolds s (s.core s.cur).leases = true)) :
    exec .leaseEvaluation s = .next (evaluateCore s s.cur) := by
  have hstall : ¬(decide (s.clk < (s.core s.cur).nextEval) && (overdue s.clk (s.core s.cur).leases).isEmpty &&
      ((s.core s.cur).atBar || !barrierHolds s (s.core s.cur).leases)) = true := by
    rcases h with h | h | ⟨hat, hb⟩
    · simp [Nat.not_lt.mpr h]
    · simp [overdue_isEmpty.mpr h]
    · simp [hat, hb]
  exact if_neg hstall

theorem parkedTimeExpiry_of_late {s : State} {l : Lease} (hm : (s.cur, l) ∈ (s.core (s.cur / 64)).leases) {p : Nat}
    (hl : l.parked = some p) (hp : p + 100000 ≤ s.clk) :
    exec .parkedTimeExpiry s = .next (evaluateCore s (s.cur / 64)) := by
  have ho : (overdue s.clk (s.core (s.cur / 64)).leases).contains s.cur = true := by
    simpa using mem_overdue.mpr ⟨l, hm, p, hl, hp⟩
  exact if_pos ho

/-- Settles O37: the unit by `settleAct`, the events by what makes them due, and the rule by what its steps keep. -/
theorem leaseUnitAndEvents : Obligations.LeaseUnitAndEvents := by
  unfold Obligations.LeaseUnitAndEvents
  refine ⟨fun s e c n h => ⟨fun hw => ?_, fun hw => ?_⟩, fun s core => ⟨?_, ?_⟩,
    fun s ls g l hs hf => ⟨fun hprot hpark => ?_, fun p hpark hp => ?_⟩, fun s l hf => ⟨fun hm hq => ?_, fun c hp hc => ?_⟩⟩
  · exact (unit_of_passes h 1 _).trans (congrArg _ (settleAct_busy hw 1 _ 0 _))
  · refine (unit_of_passes h 1 _).trans (congrArg _ ((settleAct_idle hw 1 _ _).trans ?_))
    rw [setLease_eq]
    have hn : n.toNat = 0 ↔ n = 0 := by rw [← BitVec.toNat_inj]; rfl
    simp only [hn]
    rfl
  · rintro rfl h
    exact leaseEvaluation_of_due h
  · rintro rfl l ⟨hm, p, hl, hp⟩
    exact parkedTimeExpiry_of_late hm hl hp
  · refine evaluate_keeps (unparkedStays_parked s.clk) (foldl_protect_keeps (unparkedStays_parked s.clk) _ ?_)
    obtain ⟨-, hk⟩ := shrink_keeps (clk := s.clk) ls.length hs hf (.inl hprot)
    exact ⟨l, hk, hpark⟩
  · obtain ⟨-, hk⟩ := shrink_keeps (clk := s.clk) ls.length hs hf (.inr (by simp [hpark]))
    exact evaluate_keeps (unparkedStays_shielded s.clk)
      (foldl_protect_shields (mem_overdue.mpr ⟨l, mem_of_find? hk, p, hpark, hp⟩) hk)
  · show execLeaseQuietDecay s = _
    simp [execLeaseQuietDecay, hf, hm, Nat.not_lt.mpr hq]
  · show execProtectionEnd s = _
    simp [execProtectionEnd, hf, hp, Nat.not_lt.mpr hc]

end Sys2Proof.Machine
end

section
/-! SUPPORT. What the participants of a meet receive (R80, R83 to R86). -/

namespace Sys2Proof.Machine

/-! Shuffles and votes (R83, R84). -/

/-- The participants of a meet differ in their lanes. -/
theorem Parties.lane_inj {ps : List Party} (h : Parties ps) {p q : Party} (hp : p ∈ ps) (hq : q ∈ ps)
    (hl : p.lane = q.lane) : p = q :=
  List.inj_on_of_nodup_map (List.pairwise_map.mpr (h.1.imp Nat.ne_of_lt)) hp hq hl

/-- The value from a lane that a participant names (R83). -/
theorem shflFrom_lane {ps : List Party} (h : Parties ps) (me : Party) (l : Nat) :
    Shuffled ps me (l : Int) (shflFrom ps me (some l)) := by
  unfold shflFrom
  dsimp only
  split
  · rename_i p hp
    have hpl : p.lane = l := by simpa using List.find?_some hp
    have hpm := List.mem_of_find?_eq_some hp
    refine ⟨fun q hq hql => ?_, fun hno => absurd (congrArg Int.ofNat hpl) (hno p hpm)⟩
    rw [h.lane_inj hpm hq (by omega)]
  · rename_i hn
    refine ⟨fun q hq hql => ?_, fun _ => rfl⟩
    have := List.find?_eq_none.mp hn q hq
    simp at this
    omega

/-- The value from a lane that need not exist. -/
theorem shflFrom_within {ps : List Party} (h : Parties ps) (me : Party) (l : Int) :
    Shuffled ps me l (shflFrom ps me (if 0 ≤ l && l < 32 then some l.toNat else none)) := by
  by_cases hl : 0 ≤ l ∧ l < 32
  · have := shflFrom_lane h me l.toNat
    rw [Int.toNat_of_nonneg hl.1] at this
    simpa [hl] using this
  · have hn : (decide (0 ≤ l) && decide (l < 32)) = false := by simpa using hl
    rw [hn]
    refine ⟨fun p hp hpl => ?_, fun _ => rfl⟩
    have := h.2 p hp
    omega

theorem boolWord_eq (b : Bool) (p : Prop) [Decidable p] (h : b = true ↔ p) : boolWord b = if p then 1 else 0 := by
  unfold boolWord
  exact if_congr h rfl rfl

/-- A bit of the ballot (R84). -/
theorem ballot_bit {ps : List Party} {i : Nat} (hi : i < 32) :
    (ballot ps).getLsbD i = true ↔ ∃ p ∈ ps, p.lane = i ∧ p.va ≠ 0 := by
  have key (qs : List Party) (r : Word) : (qs.foldl (fun (r : Word) p => r ||| (1#32 <<< p.lane)) r).getLsbD i = true ↔
      r.getLsbD i = true ∨ ∃ p ∈ qs, p.lane = i := by
    induction qs generalizing r with
    | nil => simp
    | cons q qs ih =>
      have hq : (1#32 <<< q.lane).getLsbD i = true ↔ q.lane = i := by
        simp [hi]
        omega
      rw [List.foldl_cons, ih, BitVec.getLsbD_or, Bool.or_eq_true, hq, List.exists_mem_cons_iff, or_assoc]
  unfold ballot
  rw [key]
  simp [and_comm, and_left_comm]

/-! Folds (R85). -/

/-- A fold that keeps one of two values, and never a worse one, keeps a best one. -/
theorem foldInt_select {f : Word → Word → Word} {le : Word → Word → Prop} (refl : ∀ a, le a a)
    (trans : ∀ a b c, le a b → le b c → le a c) (one : ∀ a b, f a b = a ∨ f a b = b) (left : ∀ a b, le (f a b) a)
    (right : ∀ a b, le (f a b) b) {ps : List Party} (h : ps ≠ []) :
    (∃ p ∈ ps, foldInt f ps = p.va) ∧ ∀ p ∈ ps, le (foldInt f ps) p.va := by
  have key (qs : List Party) (a : Word) :
      let r := qs.foldl (fun r q => f r q.va) a
      (r = a ∨ ∃ p ∈ qs, r = p.va) ∧ le r a ∧ ∀ p ∈ qs, le r p.va := by
    induction qs generalizing a with
    | nil => exact ⟨.inl rfl, refl a, by simp⟩
    | cons q qs ih =>
      obtain ⟨hmem, hle, hall⟩ := ih (f a q.va)
      refine ⟨?_, trans _ _ _ hle (left a q.va), ?_⟩
      · rcases hmem with h | ⟨p, hp, h⟩
        · rcases one a q.va with h1 | h1
          · exact .inl (h.trans h1)
          · exact .inr ⟨q, List.mem_cons_self, h.trans h1⟩
        · exact .inr ⟨p, List.mem_cons_of_mem q hp, h⟩
      · simp only [List.forall_mem_cons]
        exact ⟨trans _ _ _ hle (right a q.va), hall⟩
  cases ps with
  | nil => exact absurd rfl h
  | cons p qs =>
    obtain ⟨hmem, hle, hall⟩ := key qs p.va
    refine ⟨?_, List.forall_mem_cons.mpr ⟨hle, hall⟩⟩
    rcases hmem with h | ⟨q, hq, h⟩
    · exact ⟨p, List.mem_cons_self, h⟩
    · exact ⟨q, List.mem_cons_of_mem p hq, h⟩

theorem foldInt_minOp_unsigned {ps : List Party} (h : ps ≠ []) : (∃ p ∈ ps, foldInt (minOp true) ps = p.va) ∧
    ∀ p ∈ ps, (foldInt (minOp true) ps).toNat ≤ p.va.toNat := by
  refine foldInt_select (le := fun a b => a.toNat ≤ b.toNat) (fun _ => le_rfl) (fun _ _ _ => le_trans) ?_ ?_ ?_ h <;>
    (intro a b; by_cases hab : b.toNat < a.toNat <;> simp [minOp, BitVec.ult, hab] <;> omega)

theorem foldInt_minOp_signed {ps : List Party} (h : ps ≠ []) : (∃ p ∈ ps, foldInt (minOp false) ps = p.va) ∧
    ∀ p ∈ ps, (foldInt (minOp false) ps).toInt ≤ p.va.toInt := by
  refine foldInt_select (le := fun a b => a.toInt ≤ b.toInt) (fun _ => le_rfl) (fun _ _ _ => le_trans) ?_ ?_ ?_ h <;>
    (intro a b; by_cases hab : b.toInt < a.toInt <;> simp [minOp, BitVec.slt, hab] <;> omega)

theorem foldInt_maxOp_unsigned {ps : List Party} (h : ps ≠ []) : (∃ p ∈ ps, foldInt (maxOp true) ps = p.va) ∧
    ∀ p ∈ ps, p.va.toNat ≤ (foldInt (maxOp true) ps).toNat := by
  refine foldInt_select (le := fun a b => b.toNat ≤ a.toNat) (fun _ => le_rfl) (fun _ _ _ h1 h2 => le_trans h2 h1) ?_ ?_ ?_ h <;>
    (intro a b; by_cases hab : a.toNat < b.toNat <;> simp [maxOp, BitVec.ult, hab] <;> omega)

theorem foldInt_maxOp_signed {ps : List Party} (h : ps ≠ []) : (∃ p ∈ ps, foldInt (maxOp false) ps = p.va) ∧
    ∀ p ∈ ps, p.va.toInt ≤ (foldInt (maxOp false) ps).toInt := by
  refine foldInt_select (le := fun a b => b.toInt ≤ a.toInt) (fun _ => le_rfl) (fun _ _ _ h1 h2 => le_trans h2 h1) ?_ ?_ ?_ h <;>
    (intro a b; by_cases hab : a.toInt < b.toInt <;> simp [maxOp, BitVec.slt, hab] <;> omega)

theorem foldInt_add {ps : List Party} (h : ps ≠ []) :
    foldInt (· + ·) ps = intWord ((ps.map fun p => (p.va.toNat : Int)).foldl (· + ·) 0) := by
  have key (qs : List Party) (a : Int) : qs.foldl (fun (r : Word) q => r + q.va) (intWord a) =
      intWord ((qs.map fun p => (p.va.toNat : Int)).foldl (· + ·) a) := by
    induction qs generalizing a with
    | nil => rfl
    | cons q qs ih =>
      have hq : intWord a + q.va = intWord (a + q.va.toNat) := by simp [intWord, BitVec.ofInt_add]
      rw [List.foldl_cons, hq, ih, List.map_cons, List.foldl_cons]
  cases ps with
  | nil => exact absurd rfl h
  | cons p qs =>
    have hp : p.va = intWord ((0 : Int) + p.va.toNat) := by simp [intWord]
    rw [foldInt, hp, key, List.map_cons, List.foldl_cons]

theorem foldInt_and_bit {ps : List Party} (h : ps ≠ []) (i : Nat) :
    (foldInt (· &&& ·) ps).getLsbD i = true ↔ ∀ p ∈ ps, p.va.getLsbD i = true := by
  have key (qs : List Party) (a : Word) : (qs.foldl (fun (r : Word) q => r &&& q.va) a).getLsbD i = true ↔
      a.getLsbD i = true ∧ ∀ p ∈ qs, p.va.getLsbD i = true := by
    induction qs generalizing a with
    | nil => simp
    | cons q qs ih => rw [List.foldl_cons, ih, BitVec.getLsbD_and, Bool.and_eq_true, List.forall_mem_cons, and_assoc]
  cases ps with
  | nil => exact absurd rfl h
  | cons p qs => rw [foldInt, key, List.forall_mem_cons]

theorem foldInt_or_bit {ps : List Party} (h : ps ≠ []) (i : Nat) :
    (foldInt (· ||| ·) ps).getLsbD i = true ↔ ∃ p ∈ ps, p.va.getLsbD i = true := by
  have key (qs : List Party) (a : Word) : (qs.foldl (fun (r : Word) q => r ||| q.va) a).getLsbD i = true ↔
      a.getLsbD i = true ∨ ∃ p ∈ qs, p.va.getLsbD i = true := by
    induction qs generalizing a with
    | nil => simp
    | cons q qs ih => rw [List.foldl_cons, ih, BitVec.getLsbD_or, Bool.or_eq_true, List.exists_mem_cons_iff, or_assoc]
  cases ps with
  | nil => exact absurd rfl h
  | cons p qs => rw [foldInt, key, List.exists_mem_cons_iff]

/-- A pattern is a NaN where its exponent field is all ones and its mantissa is not 0 (R134). -/
theorem isNaN_iff (x : Word) :
    isNaN x = true ↔ (x.extractLsb' 23 8).toNat = 255 ∧ (x.extractLsb' 0 23).toNat ≠ 0 := by
  have hx := x.isLt
  have he : (x.extractLsb' 23 8).toNat = x.toNat / 2 ^ 23 % 2 ^ 8 := by simp [Nat.shiftRight_eq_div_pow]
  have hm : (x.extractLsb' 0 23).toNat = x.toNat % 2 ^ 23 := by simp
  rw [he, hm, isNaN, decide_eq_true_eq]
  omega

theorem decode32_of_nan {x : Word} (h : isNaN x = true) : decode32 x = .nan (!x.getLsbD 22) := by
  obtain ⟨he, hm⟩ := (isNaN_iff x).mp h
  rw [decode32, if_pos he, if_neg hm]

theorem decode32_of_not_nan {x : Word} (h : isNaN x = false) (sig : Bool) : decode32 x ≠ .nan sig := by
  have hn := (isNaN_iff x).not.mp (by simp [h])
  unfold decode32
  dsimp only
  split
  · rw [if_pos (not_ne_iff.mp fun hm => hn ⟨‹_›, hm⟩)]
    nofun
  · split <;> nofun

/-- A NaN alone becomes the canonical one, and a signalling one raises NV (R85, R134). -/
theorem foldFp_one (f : Word → Word → FRes) (p : Party) :
    foldFp f [p] = (if isNaN p.va then 0x7FC00000 else p.va, if isSNaN p.va then 1 else 0) := by
  cases h : isNaN p.va with
  | true =>
    simp only [foldFp, decode32_of_nan h, isSNaN, h]
    rfl
  | false =>
    rw [foldFp]
    split
    · exact absurd ‹_› (decode32_of_not_nan h _)
    · simp [isSNaN, h]

/-! A meet completes (R80). -/

theorem env_setThread_ne {s : State} {t u : Nat} (th : Thread) (h : u ≠ t) : (s.setThread t th).env u = s.env u := by
  unfold State.env
  simp only [thread?_setThread_ne s th h, team?_setThread, State_setThread_launches]

/-- A delivery changes its own thread alone. -/
theorem meetDeliver_other (ps : List Party) (s : State) (t : Nat) :
    meetDeliver ps s t = s ∨ ∃ th, meetDeliver ps s t = s.setThread t th := by
  unfold meetDeliver
  cases he : s.env t with
  | none => exact .inl rfl
  | some e =>
    obtain rfl := env_t he
    dsimp only
    split
    · split
      · refine .inr ?_
        unfold computeIssue
        dsimp only
        split
        · exact ⟨_, rfl⟩
        · exact ⟨_, rfl⟩
      · exact .inr ⟨_, rfl⟩
    · exact .inl rfl

/-- Deliveries to other threads leave a thread and the memories alone. -/
theorem foldl_meetDeliver_other (ps : List Party) (xs : List (Nat × Thread)) (s : State) :
    let t := xs.foldl (fun s x => meetDeliver ps s x.1) s
    SameMemory s t ∧ ∀ u, (∀ x ∈ xs, x.1 ≠ u) → t.env u = s.env u ∧ t.thread? u = s.thread? u := by
  induction xs generalizing s with
  | nil => exact ⟨sameMemory_refl s, fun _ _ => ⟨rfl, rfl⟩⟩
  | cons x xs ih =>
    obtain ⟨hm, ht⟩ := ih (meetDeliver ps s x.1)
    rw [List.foldl_cons]
    rcases meetDeliver_other ps s x.1 with h | ⟨th, h⟩
    · rw [h] at hm ht ⊢
      exact ⟨hm, fun u hu => ht u fun y hy => hu y (List.mem_cons_of_mem x hy)⟩
    · rw [h] at hm ht ⊢
      refine ⟨⟨hm.device, hm.host, hm.remote⟩, fun u hu => ?_⟩
      have hne : u ≠ x.1 := (hu x List.mem_cons_self).symm
      obtain ⟨h1, h2⟩ := ht u fun y hy => hu y (List.mem_cons_of_mem x hy)
      exact ⟨h1.trans (env_setThread_ne th hne), h2.trans (thread?_setThread_ne s th hne)⟩

/-- The live threads of a group have different numbers. -/
theorem liveThreads_nodup (s : State) (g : Nat) : ((liveThreads s g).map (·.1)).Nodup := by
  have hg : ((groupThreads s g).map (·.1)).Nodup := by
    refine List.pairwise_map.mpr ?_
    unfold groupThreads
    rw [List.pairwise_filterMap]
    refine List.nodup_range.imp fun hne x hx y hy => ?_
    obtain ⟨_, _, rfl⟩ := Option.map_eq_some_iff.mp hx
    obtain ⟨_, _, rfl⟩ := Option.map_eq_some_iff.mp hy
    dsimp only
    omega
  exact hg.sublist (List.filter_sublist.map _)

/-- What a thread of the group has once every delivery is made is what its own delivery gave it. -/
theorem foldl_meetDeliver_self {ps : List Party} {s : State} {g u : Nat} {e : Env} {th : Thread}
    (hu : (u, th) ∈ liveThreads s g) (he : s.env u = some e) :
    ∃ s1, s1.env u = some e ∧
      ((liveThreads s g).foldl (fun s x => meetDeliver ps s x.1) s).thread? u = (meetDeliver ps s1 u).thread? u := by
  obtain ⟨as, bs, hl⟩ := List.append_of_mem hu
  have hd := liveThreads_nodup s g
  rw [hl, List.map_append, List.map_cons, List.nodup_append] at hd
  obtain ⟨-, hbs, has⟩ := hd
  have ha : ∀ x ∈ as, x.1 ≠ u := fun x hx =>
    has x.1 (List.mem_map_of_mem hx) u List.mem_cons_self
  have hb : ∀ x ∈ bs, x.1 ≠ u := fun x hx hxu =>
    (List.nodup_cons.mp hbs).1 (List.mem_map.mpr ⟨x, hx, hxu⟩)
  refine ⟨as.foldl (fun s x => meetDeliver ps s x.1) s, ?_, ?_⟩
  · rw [((foldl_meetDeliver_other ps as s).2 u ha).1, he]
  · rw [hl, List.foldl_append, List.foldl_cons]
    exact ((foldl_meetDeliver_other ps bs _).2 u hb).2

section Deliver

variable {ps : List Party} {s : State} {u : Nat} {e : Env} {i : Instr} {va vb : Word} (he : s.env u = some e)
  (hw : e.th.wait = .meet i va vb)
include he hw

theorem meetDeliver_none (hr : meetResult ps ⟨tLane u, va, vb⟩ i = none) : ∃ th, (meetDeliver ps s u).thread? u = some th ∧
    th.regs = e.th.regs ∧ th.wait = .none ∧ th.ctx.pc = e.th.ctx.pc + 8 := by
  obtain rfl := env_t he
  refine ⟨e.th.enter s.clk (WUnit.start e.th) (e.th.ctx.advance 1), ?_, rfl, rfl, rfl⟩
  simp [meetDeliver, he, hw, hr]

/-- With its destination at the lane and no older unit left, a participant has its result at once. -/
theorem meetDeliver_lane {c : Ctl} {xd : Reg} {v : Word × BitVec 5}
    (hr : meetResult ps ⟨tLane u, va, vb⟩ i = some (c, xd, v)) (hp : e.th.ctx.place xd = .lane) (hi : e.th.window = []) :
    ∃ th, (meetDeliver ps s u).thread? u = some th ∧ RegsAfter e.th th c.k [(xd, v.1)] ∧ th.wait = .none ∧
      th.ctx.pc = e.th.ctx.pc + 8 := by
  obtain rfl := env_t he
  have hd : meetDeliver ps s e.t = computeIssue s e c.k 1 [] [xd] ⟨[(xd, v.1)], v.2, none, .none⟩ := by
    simp [meetDeliver, he, hw, hr]
  have hc := computeIssue_computed s e c.k 1 [] [xd] ⟨[(xd, v.1)], v.2, none, .none⟩
  have hnear : ¬(([] ++ [xd]).any (fun r => (e.th.ctx.place r).far) ∨ olderCommand s e e.th.nextSeq laneSite true = true) := by
    simp [hp, Place.far, olderCommand, hi]
  rw [Computed, if_neg hnear] at hc
  obtain ⟨th, hx⟩ := hc
  refine ⟨th, by rw [hd, hx.state, thread?_setThread_self], hx.regs, ?_, ?_⟩
  · exact congrArg Thread.wait hx.rest
  · exact congrArg (fun x : Thread => x.ctx.pc) hx.rest

end Deliver

/-- Settles O22: each result by the lemma of its fold, and the completion by what each delivery gives. -/
theorem meetResults : Obligations.MeetResults := by
  unfold Obligations.MeetResults
  refine ⟨fun ps me c xd xa xb n hps hme => ?_, fun s ha hs hw => ?_⟩
  · have hne : ps ≠ [] := List.ne_nil_of_mem hme
    refine ⟨⟨_, rfl, shflFrom_lane hps me _⟩, ⟨_, rfl, shflFrom_within hps me _⟩, ⟨_, rfl, shflFrom_within hps me _⟩,
      ⟨_, rfl, shflFrom_lane hps me _⟩, ⟨_, rfl, boolWord_eq _ _ (by simp)⟩, ⟨_, rfl, boolWord_eq _ _ (by simp)⟩,
      ⟨_, rfl, fun i => ballot_bit⟩, ⟨_, rfl, foldInt_add hne⟩, ⟨_, rfl, foldInt_minOp_unsigned hne⟩,
      ⟨_, rfl, foldInt_minOp_signed hne⟩, ⟨_, rfl, foldInt_maxOp_unsigned hne⟩, ⟨_, rfl, foldInt_maxOp_signed hne⟩,
      ⟨_, rfl, fun i _ => foldInt_and_bit hne i⟩, ⟨_, rfl, fun i _ => foldInt_or_bit hne i⟩, fun f i hf => ?_, rfl⟩
    have hfold : meetResult ps me i = some (c, xd, foldFp f ps) := by
      simp only [List.mem_cons, Prod.mk.injEq, List.not_mem_nil, or_false] at hf
      rcases hf with ⟨rfl, rfl⟩ | ⟨rfl, rfl⟩ | ⟨rfl, rfl⟩ <;> rfl
    rw [hfold]
    refine ⟨fun p hp => by rw [hp, foldFp_one], fun p q qs hp => by rw [hp]; rfl⟩
  · have hall : (liveThreads s s.cur).all (fun e => e.2.window.isEmpty) = true := by simpa using hw
    refine ⟨_, if_pos (by rw [ha, hs, hall]; rfl), (foldl_meetDeliver_other _ _ s).1, fun u e i va vb hu he hwait => ?_⟩
    obtain ⟨s1, h1, h2⟩ := foldl_meetDeliver_self hu he
      (ps := (liveThreads s s.cur).filterMap fun x => x.2.meet?.map fun m => (⟨tLane x.1, m.2.1, m.2.2⟩ : Party))
    refine ⟨fun c xd v hr hp hi => ?_, fun hr => ?_⟩
    · rw [h2]
      exact meetDeliver_lane h1 hwait hr hp hi
    · rw [h2]
      exact meetDeliver_none h1 hwait hr

end Sys2Proof.Machine
end

section
/-! SUPPORT. What the end of a thread and the halt of a team leave alone (R76, R117, R345): the memories, a thread that
has left and a sibling that lives. -/

namespace Sys2Proof.Machine

/-! The memories. -/

/-- The two states hold the same bytes, in the tiers, the L2 slices, the host and the other modules. -/
structure SameStores (s t : State) : Prop where
  dram   : t.dram = s.dram
  l2     : t.l2 = s.l2
  host   : t.hostMem = s.hostMem
  remote : t.remote = s.remote

theorem SameStores.memory {s t : State} (h : SameStores s t) : SameMemory s t := by
  obtain ⟨hd, hl, hh, hr⟩ := h
  refine ⟨fun a => ?_, fun a => by rw [hh], fun a => by rw [hr]⟩
  simp only [State.byteAt, homeRead, homeLine, dramLine, hd, hl]

/-! What leaves every core alone. -/

section Cores

variable (s : State)

theorem cores_foldl {α : Type} {f : State → α → State} (hf : ∀ s x, (f s x).cores = s.cores) (xs : List α) (s : State) :
    (xs.foldl f s).cores = s.cores := by
  induction xs generalizing s with
  | nil => rfl
  | cons x xs ih => exact (ih (f s x)).trans (hf s x)

theorem l2Room_cores (ln ways n : Nat) : (l2Room ln ways n s).cores = s.cores := by
  induction n generalizing s with
  | zero => rfl
  | succ n ih => grind [l2Room, l2Evict, dramPut]

theorem l2Install_cores (ln : Nat) (l : L2Line) : (l2Install s ln l).cores = s.cores := by
  grind [l2Install, l2Room_cores, dramPut]

theorem homeWrite_cores (pa n v : Nat) : (homeWrite s pa n v).cores = s.cores := by
  grind [homeWrite, homeMerge, homeMergeAs, l2Install_cores]

theorem spillBlock_cores (e : Env) (b : Nat) : (spillBlock s e b).cores = s.cores := by
  grind [spillBlock, physWrite, homeWrite_cores]

theorem spillAll_cores (t : Nat) : (spillAll s t).cores = s.cores := by
  unfold spillAll
  split
  · rfl
  · exact cores_foldl (fun s b => spillBlock_cores s _ b) _ s

end Cores

theorem team?_of_cores {s t : State} (h : t.cores = s.cores) (k : Nat) : t.team? k = s.team? k := by
  unfold State.team? State.core
  rw [h]

theorem team?_of_env {s : State} {t : Nat} {e : Env} (h : s.env t = some e) : s.team? (teamKey t) = some e.tm := by
  unfold State.env at h
  split at h <;> try cases h
  split at h <;> try cases h
  split at h <;> cases h
  assumption

/-! Rolling back and granting. -/

theorem foldl_flagDown (as : List Access) (th : Thread) : as.foldl (fun th a => th.flagDown? a.flag) th =
    { th with flags := (as.foldl (fun th a => th.flagDown? a.flag) th).flags } := by
  induction as generalizing th with
  | nil => rfl
  | cons a as ih =>
    rw [List.foldl_cons, ih]
    cases a.flag <;> rfl

theorem rollback_exited (th : Thread) (seq : Nat) : (th.rollback seq).exited = th.exited := by
  unfold Thread.rollback
  split
  · rfl
  · dsimp only
    rw [foldl_flagDown]

theorem rollback_idle {th : Thread} (h : th.window = []) (seq : Nat) : th.rollback seq = th := by
  simp [Thread.rollback, h]

theorem grantThread_exited (th : Thread) : (grantThread th).exited = th.exited := by
  unfold grantThread clearExt
  dsimp only
  split <;> rfl

theorem flagDown?_exited (th : Thread) (f : Option Nat) : (th.flagDown? f).exited = th.exited := by
  cases f <;> rfl

/-! One state after another of an exit. -/

/-- A state in which the memories are those of `s0`, thread t has a property, thread u lives, and team k has a
property. -/
structure Seen (s0 : State) (t : Nat) (p : Thread → Prop) (u k : Nat) (q : Team → Prop) (s : State) : Prop where
  stores : SameStores s0 s
  self   : ∃ th, s.thread? t = some th ∧ p th
  other  : ∃ x, s.thread? u = some x ∧ x.exited = false
  team   : ∃ tm, s.team? k = some tm ∧ q tm

section Updates

variable {s0 s s' : State} {t u k : Nat} {p p' : Thread → Prop} {q q' : Team → Prop}

theorem Seen.same (h : Seen s0 t p u k q s) (hs : SameStores s s') (ht : s'.threads = s.threads)
    (hc : s'.cores = s.cores) : Seen s0 t p u k q s' := by
  obtain ⟨⟨h1, h2, h3, h4⟩, hself, hother, hteam⟩ := h
  refine ⟨⟨hs.dram.trans h1, hs.l2.trans h2, hs.host.trans h3, hs.remote.trans h4⟩, ?_, ?_, ?_⟩
  · rwa [State.thread?, ht]
  · rwa [State.thread?, ht]
  · rwa [team?_of_cores hc]

theorem Seen.setThread (h : Seen s0 t p u k q s) {v : Nat} {th : Thread} (hp : v = t → p' th)
    (hpp : v ≠ t → ∀ th, p th → p' th) (hu : v = u → th.exited = false) : Seen s0 t p' u k q (s.setThread v th) := by
  obtain ⟨⟨h1, h2, h3, h4⟩, ⟨y, hy, hpy⟩, ⟨x, hx, hxe⟩, hteam⟩ := h
  refine ⟨⟨h1, h2, h3, h4⟩, ?_, ?_, hteam⟩
  · by_cases hv : t = v
    · exact ⟨th, hv ▸ thread?_setThread_self s v th, hp hv.symm⟩
    · exact ⟨y, (thread?_setThread_ne s th hv).trans hy, hpp (Ne.symm hv) y hpy⟩
  · by_cases hv : u = v
    · exact ⟨th, hv ▸ thread?_setThread_self s v th, hu hv.symm⟩
    · exact ⟨x, (thread?_setThread_ne s th hv).trans hx, hxe⟩

theorem thread?_modThread (s : State) (v w : Nat) (f : Thread → Thread) :
    (s.modThread v f).thread? w = if w = v then (s.thread? v).map f else s.thread? w := find?_adjust _ _ _ _

theorem Seen.modThread (h : Seen s0 t p u k q s) {v : Nat} {f : Thread → Thread} (hp : v = t → ∀ th, p th → p' (f th))
    (hpp : v ≠ t → ∀ th, p th → p' th) (hu : ∀ x, (f x).exited = x.exited) :
    Seen s0 t p' u k q (s.modThread v f) := by
  obtain ⟨⟨h1, h2, h3, h4⟩, ⟨y, hy, hpy⟩, ⟨x, hx, hxe⟩, hteam⟩ := h
  refine ⟨⟨h1, h2, h3, h4⟩, ?_, ?_, hteam⟩
  · by_cases hv : t = v
    · exact ⟨f y, by rw [thread?_modThread, if_pos hv, ← hv, hy]; rfl, hp hv.symm y hpy⟩
    · exact ⟨y, by rw [thread?_modThread, if_neg hv, hy], hpp (Ne.symm hv) y hpy⟩
  · by_cases hv : u = v
    · exact ⟨f x, by rw [thread?_modThread, if_pos hv, ← hv, hx]; rfl, (hu x).trans hxe⟩
    · exact ⟨x, by rw [thread?_modThread, if_neg hv, hx], hxe⟩

theorem Seen.setCore (h : Seen s0 t p u k q s) {n : Nat} {c : Core} (hc : c.teams = (s.core n).teams) :
    Seen s0 t p u k q (s.setCore n c) := by
  obtain ⟨⟨h1, h2, h3, h4⟩, hself, hother, tm, htm, hq⟩ := h
  refine ⟨⟨h1, h2, h3, h4⟩, hself, hother, tm, ?_, hq⟩
  rw [← htm]
  unfold State.team?
  by_cases hn : k / 4 = n
  · rw [hn, core_setCore_self, hc]
  · rw [core_setCore_ne _ _ hn]

theorem Seen.setTeam (h : Seen s0 t p u k q s) {j : Nat} {tm : Team} (hq : j = k → q' tm) (hqq : ∀ tm, q tm → q' tm) :
    Seen s0 t p u k q' (s.setTeam j tm) := by
  obtain ⟨⟨h1, h2, h3, h4⟩, hself, hother, x, hx, hqx⟩ := h
  refine ⟨⟨h1, h2, h3, h4⟩, hself, hother, ?_⟩
  by_cases hj : k = j
  · exact ⟨tm, hj ▸ team?_setTeam_self s j tm, hq hj.symm⟩
  · exact ⟨x, (team?_setTeam_ne s tm hj).trans hx, hqq x hqx⟩

theorem Seen.imp (h : Seen s0 t p u k q s) (hp : ∀ th, p th → p' th) (hq : ∀ tm, q tm → q' tm) : Seen s0 t p' u k q' s := by
  obtain ⟨hs, ⟨y, hy, hpy⟩, hother, tm, htm, hqt⟩ := h
  exact ⟨hs, ⟨y, hy, hp y hpy⟩, hother, tm, htm, hq tm hqt⟩

end Updates

/-! The halt of a team (R345). -/

theorem epildDrop_teams (c : Core) (j : Job) : (epildDrop c j).teams = c.teams := by
  unfold epildDrop
  dsimp only
  split
  · rfl
  · split <;> rfl

/-- What `rollWait` does to the thread. -/
def Thread.stopWait (th : Thread) : Thread :=
  if th.wait.outlasts then th else { th with wait := .none, arriving := none }

/-- A property of states that everything keeps that the halt of a team does to its threads. -/
structure HaltClosed (P : State → Prop) : Prop where
  core  : ∀ {s} n (c : Core), c.teams = (s.core n).teams → P s → P (s.setCore n c)
  alloc : ∀ {s} rs, P s → P { s with allocS := rs }
  wait  : ∀ {s} v, P s → P (s.modThread v Thread.stopWait)
  skid  : ∀ {s} v, P s → P (s.modThread v (fun th => { th with skid := 0 }))
  flag  : ∀ {s} v f, P s → P (s.modThread v (fun th => th.flagDown? f))
  back  : ∀ {s} v seq, P s → P (s.modThread v (fun th => th.rollback seq))

section HaltThread

variable {P : State → Prop} (hc : HaltClosed P) {s : State}

include hc

theorem dropTalloc_keeps (h : P s) (v : Nat) : P (s.dropTalloc v) := by
  have hcore := hc.core (tCore v)
    { s.core (tCore v) with allocs := (s.core (tCore v)).allocs.filter (fun r => r.thread != v) } rfl h
  unfold State.dropTalloc
  dsimp only
  split
  · exact hc.alloc _ hcore
  · exact hc.alloc _ h

theorem dropJob_keeps (h : P s) (core : Nat) (j : Job) : P (dropJob s core j) := by
  refine hc.flag _ _ (hc.core _ _ ?_ (hc.core _ _ (epildDrop_teams _ j) h))
  rfl

theorem rollbackTo_keeps (h : P s) (v seq : Nat) : P (s.rollbackTo v seq) :=
  hc.back v seq (List.foldlRecOn _ _ h fun _ hs j _ => dropJob_keeps hc hs _ j)

theorem dropHeldFix_keeps (h : P s) (v : Nat) : P (dropHeldFix s v) := by
  unfold dropHeldFix
  split
  · exact h
  · refine List.foldlRecOn _ _ h fun s hs j _ => ?_
    unfold withdrawWfix
    split
    · exact dropJob_keeps hc hs _ j
    · exact rollbackTo_keeps hc hs _ _

theorem rollWait_keeps (h : P s) (v : Nat) : P (rollWait s v) := by
  have h1 := hc.wait v h
  unfold rollWait
  dsimp only
  split
  · exact h1
  · split
    · split
      · exact h1
      · exact rollbackTo_keeps hc h1 _ _
    · exact h1

theorem haltThread_keeps (h : P s) (v : Nat) : P (haltThread s v) := by
  unfold haltThread
  split
  · exact h
  · refine dropHeldFix_keeps hc (hc.skid v (rollWait_keeps hc ?_ v)) v
    split
    · exact dropTalloc_keeps hc h v
    · exact h

end HaltThread

/-- What the halt of a team may do to a thread of it, and a property that each of these keeps. -/
structure HaltKeeps (p : Thread → Prop) : Prop where
  wait : ∀ th, p th → p { th with wait := .none, arriving := none }
  skid : ∀ th, p th → p { th with skid := 0 }
  flag : ∀ th f, p th → p (Thread.flagDown? th f)
  back : ∀ th seq, p th → p (Thread.rollback th seq)

section Halt

variable {s0 s : State} {t u k : Nat} {p : Thread → Prop} {q : Team → Prop} (hk : HaltKeeps p)

include hk

theorem seen_haltClosed : HaltClosed (Seen s0 t p u k q) where
  core _ _ hc h := h.setCore hc
  alloc _ h := h.same ⟨rfl, rfl, rfl, rfl⟩ rfl rfl
  wait _ h := h.modThread
    (fun _ th hp => by
      unfold Thread.stopWait
      split
      · exact hp
      · exact hk.wait th hp)
    (fun _ _ h => h) fun x => by
      unfold Thread.stopWait
      split <;> rfl
  skid _ h := h.modThread (fun _ th => hk.skid th) (fun _ _ h => h) fun _ => rfl
  flag _ f h := h.modThread (fun _ th => hk.flag th f) (fun _ _ h => h) fun x => flagDown?_exited x f
  back _ seq h := h.modThread (fun _ th => hk.back th seq) (fun _ _ h => h) fun x => rollback_exited x seq

/-- The halt of a team keeps its number of groups. -/
theorem haltTeam_seen {n : Nat} (h : Seen s0 t p u k (fun tm => tm.ngrp = n ∧ tm.halted = false) s) {v : Nat}
    (hv : teamKey v = k) : Seen s0 t p u k (fun tm => tm.ngrp = n) (haltTeam s v) := by
  obtain ⟨tm, htm, hn, -⟩ := h.team
  have htm' : s.team? (teamKey v) = some tm := hv ▸ htm
  have h1 : Seen s0 t p u k (fun tm => tm.ngrp = n) (s.setTeam (teamKey v) { tm with
      halted := true, trapTid := some (tTid v), escal := false, late := some ⟨s.clk, none⟩ }) :=
    h.setTeam (fun _ => hn) fun _ hx => hx.1
  unfold haltTeam
  rw [htm']
  refine List.foldlRecOn _ _ h1 fun s hs i _ => ?_
  split
  · exact hs
  · exact haltThread_keeps (seen_haltClosed hk) hs _

/-- A team that runs halts at a trap of one of its threads. -/
theorem haltFor_seen {n : Nat} (h : Seen s0 t p u k (fun tm => tm.ngrp = n ∧ tm.halted = false) s) {v : Nat}
    (hv : teamKey v = k) : Seen s0 t p u k (fun tm => tm.ngrp = n) (haltFor s v) := by
  obtain ⟨tm, htm, -, hh⟩ := h.team
  unfold haltFor
  rw [hv, htm]
  simp only [hh, Bool.not_false, if_true]
  exact haltTeam_seen hk h hv

omit hk

theorem modTeam_seen {n : Nat} (h : Seen s0 t p u k (fun tm => tm.ngrp = n) s) {j : Nat} {f : Team → Team}
    (hf : ∀ tm, (f tm).ngrp = tm.ngrp) : Seen s0 t p u k (fun tm => tm.ngrp = n) (s.modTeam j f) := by
  unfold State.modTeam
  split
  · rename_i tm htm
    refine h.setTeam (fun hj => ?_) fun _ hx => hx
    obtain ⟨x, hx, hn⟩ := h.team
    rw [← hj, htm] at hx
    cases hx
    exact (hf tm).trans hn
  · exact h

theorem modLaunch_seen (h : Seen s0 t p u k q s) (l : Nat) (f : Launch → Launch) : Seen s0 t p u k q (s.modLaunch l f) :=
  h.same ⟨rfl, rfl, rfl, rfl⟩ rfl rfl

theorem deliverTrap_seen {n : Nat} (h : Seen s0 t p u k (fun tm => tm.ngrp = n) s) {v : Nat} (hvt : v ≠ t)
    (ti : TrapInfo) : Seen s0 t p u k (fun tm => tm.ngrp = n) (deliverTrap s v ti) := by
  unfold deliverTrap
  split
  · exact h
  · rename_i e he
    obtain rfl := env_t he
    have hu : e.t = u → e.th.exited = false := fun hv => by
      obtain ⟨x, hx, hxe⟩ := h.other
      have := thread?_of_env he
      rw [hv, hx] at this
      cases this
      exact hxe
    have h1 := h.setTeam (q' := fun tm => tm.ngrp = n) (j := teamKey e.t)
      (tm := { e.tm with halted := true, trapTid := some (tTid e.t)
                         escal := !(e.la.tmask / 2 ^ ti.code.toNat % 2 == 1 && !e.th.inh && !e.th.exited && ti.code != 0x12)
                         aua := ti.aua })
      (fun hj => by
        obtain ⟨x, hx, hn⟩ := h.team
        rw [← hj, team?_of_env he] at hx
        cases hx
        exact hn) fun _ hx => hx
    have h2 := fun th (hth : th.exited = e.th.exited) =>
      h1.setThread (p' := p) (v := e.t) (th := th) (fun hv => absurd hv hvt) (fun _ _ h => h) fun hv => hth.trans (hu hv)
    dsimp only
    split
    · exact h2 _ rfl
    · refine modLaunch_seen ?_ _ _
      exact h2 _ rfl

/-- A trap delivered to another thread. -/
theorem deliverLate_seen {n : Nat} (h : Seen s0 t p u k (fun tm => tm.ngrp = n) s) {v : Nat} (hvt : v ≠ t) (ti : TrapInfo) :
    Seen s0 t p u k (fun tm => tm.ngrp = n) (deliverLate s v ti) := by
  have hd := deliverTrap_seen h hvt ti
  have hlate : ∀ b (f : Team → Team), (∀ tm, (f tm).ngrp = tm.ngrp) → Seen s0 t p u k (fun tm => tm.ngrp = n)
      (if b = true then (deliverTrap s v ti).modTeam (teamKey v) f else deliverTrap s v ti) := fun b f hf => by
    cases b
    · exact hd
    · exact modTeam_seen hd hf
  unfold deliverLate
  split
  · exact h
  · exact hlate _ _ fun _ => rfl

/-- A trap that another thread of the team takes halts it. -/
theorem takeTrap_seen {n : Nat} (hk : HaltKeeps p) (h : Seen s0 t p u k (fun tm => tm.ngrp = n ∧ tm.halted = false) s)
    {v : Nat} (hv : teamKey v = k) (hvt : v ≠ t) (ti : TrapInfo) :
    Seen s0 t p u k (fun tm => tm.ngrp = n) (takeTrap s v ti) := by
  have h1 := haltFor_seen hk h hv
  unfold takeTrap
  dsimp only
  split
  · exact h1
  · split
    · exact h1.modThread (fun hx => absurd hx hvt) (fun _ _ h => h) fun _ => rfl
    · exact deliverLate_seen h1 hvt ti

theorem tell_seen (h : Seen s0 t p u k q s) (asp : AddrSpace) (va : Nat) : Seen s0 t p u k q (s.tell asp va) := by
  unfold State.tell
  split
  · split
    · exact h
    · exact h.same ⟨rfl, rfl, rfl, rfl⟩ rfl rfl
  · exact h

/-- A trap raised at another thread of the team. -/
theorem raiseTrap_seen {n : Nat} (hk : HaltKeeps p) (h : Seen s0 t p u k (fun tm => tm.ngrp = n ∧ tm.halted = false) s)
    {v : Nat} (hv : teamKey v = k) (hvt : v ≠ t) (ti : TrapInfo) :
    Seen s0 t p u k (fun tm => tm.ngrp = n) (raiseTrap s v ti) := by
  have hraise : ∀ (e : Env) x, Seen s0 t p u k (fun tm => tm.ngrp = n ∧ tm.halted = false) x →
      Seen s0 t p u k (fun tm => tm.ngrp = n) (if e.th.window.isEmpty = true then takeTrap x v ti else
        (haltFor x v).modThread v (fun th => { th with
          window := th.window ++ [{ WUnit.start th with done := false, trap := some ti }]
          nextSeq := th.nextSeq + 1, wait := .none })) := fun e x hx => by
    split
    · exact takeTrap_seen hk hx hv hvt ti
    · exact (haltFor_seen hk hx hv).modThread (fun hx => absurd hx hvt) (fun _ _ h => h) fun _ => rfl
  unfold raiseTrap
  split
  · exact h.imp (fun _ h => h) fun _ hq => hq.1
  · rename_i e _
    refine hraise e _ ?_
    split
    · exact tell_seen h _ _
    · exact h

/-- A meet of the threads left in a group (R81) traps at none that has exited. -/
theorem meetCheck_seen {n : Nat} (hk : HaltKeeps p) (hx : ∀ th, p th → th.exited = true)
    (h : Seen s0 t p u k (fun tm => tm.ngrp = n ∧ tm.halted = false) s) (ht : teamKey t = k) :
    Seen s0 t p u k (fun tm => tm.ngrp = n) (meetCheck s (gKey t) []) := by
  have hdone := h.imp (fun _ h => h) (q' := fun tm => tm.ngrp = n) fun _ hq => hq.1
  unfold meetCheck
  split
  · dsimp only
    split
    · exact hdone
    · rename_i v th hv
      have hmem : (v, th) ∈ liveThreads s (gKey t) := by
        have hnone : (liveThreads s (gKey t)).find? (fun e => ([] : List Nat).contains e.1) = none :=
          List.find?_eq_none.2 (by simp)
        rw [hnone] at hv
        exact List.mem_of_head? hv
      have hne : v ≠ t := fun hvt => by
        obtain ⟨y, hy, hpy⟩ := h.self
        obtain ⟨hg, hl⟩ := List.mem_filter.1 hmem
        rw [← hvt, thread?_of_mem_groupThreads hg] at hy
        cases hy
        have hex : th.exited = true := hx _ hpy
        simp [hex] at hl
      have hkey : teamKey v = k := by
        obtain ⟨i, hi, heq⟩ := List.mem_filterMap.1 (List.mem_filter.1 hmem).1
        obtain ⟨y, -, hy⟩ := Option.map_eq_some_iff.1 heq
        cases hy
        rw [← ht]
        simp only [List.mem_range] at hi
        simp only [teamKey, gKey]
        omega
      have hwait : Seen s0 t p u k (fun tm => tm.ngrp = n ∧ tm.halted = false) (s.waitFor v .none) :=
        h.modThread (fun hx => absurd hx hne) (fun _ _ h => h) fun _ => rfl
      exact raiseTrap_seen hk hwait hkey hne _
  · exact hdone

/-- The exit of one thread of a team is not the last while another lives. -/
theorem lastExit_of_live {n : Nat} (h : Seen s0 t p u k (fun tm => tm.ngrp = n) s) (ht : teamKey t = k)
    (hu : teamKey u = k) (hn : tTid u < 32 * n) : lastExit s t = s := by
  obtain ⟨tm, htm, hq⟩ := h.team
  obtain ⟨x, hx, hxe⟩ := h.other
  have hthread : threadOf (teamKey t) (tTid u) = u := by
    have hkey : t / 512 = u / 512 := ht.trans hu.symm
    simp only [threadOf, teamKey, tTid]
    omega
  have hlive : allExited s (teamKey t) tm = false := by
    refine Bool.eq_false_iff.2 fun hall => ?_
    have := List.all_eq_true.1 hall (tTid u) (by simpa [teamTids, hq] using hn)
    simp [hthread, hx, hxe] at this
  have htm' : s.team? (teamKey t) = some tm := ht ▸ htm
  simp [lastExit, htm', hlive]

end Halt

/-! The thread that leaves (R76, R117, R128). -/

/-- A thread that ends: no unit behind it, no request and no wait. -/
structure Quits (pc : DWord) (th : Thread) : Prop where
  window : th.window = []
  xreq   : th.xreq = none
  wait   : th.wait = .none
  pc     : th.ctx.pc = pc

/-- It holds no proxy slot and no lock any longer, and has exited. -/
structure Left (pc : DWord) (th : Thread) : Prop where
  quits  : Quits pc th
  bound  : th.bound = []
  xhold  : th.xhold = false
  exited : th.exited = true

theorem left_haltKeeps (pc : DWord) : HaltKeeps (Left pc) where
  wait th h := ⟨⟨h.quits.window, h.quits.xreq, rfl, h.quits.pc⟩, h.bound, h.xhold, h.exited⟩
  skid th h := ⟨⟨h.quits.window, h.quits.xreq, h.quits.wait, h.quits.pc⟩, h.bound, h.xhold, h.exited⟩
  flag th f h := by
    cases f
    · exact h
    · exact ⟨⟨h.quits.window, h.quits.xreq, h.quits.wait, h.quits.pc⟩, h.bound, h.xhold, h.exited⟩
  back th seq h := by rwa [rollback_idle h.quits.window]

section Leaving

variable {s0 s : State} {t u k : Nat} {pc : DWord} {q : Team → Prop}

/-- A thread without a request only loses its extension names as its group is granted the lock (R117). -/
theorem grantThread_of_quits {th : Thread} (h : Quits pc th) : grantThread th = clearExt th := by
  have : (clearExt th).xreq = none := h.xreq
  unfold grantThread
  simp [this]

theorem freeSlots_seen (hut : u ≠ t) (h : Seen s0 t (Quits pc) u k q s) :
    Seen s0 t (fun th => Quits pc th ∧ th.bound = []) u k q (freeSlots s t []) := by
  obtain ⟨th, hth, hq⟩ := h.self
  have h1 := h.setThread (p' := fun th => Quits pc th ∧ th.bound = []) (v := t)
    (th := { th with bound := th.bound.filter (fun b => [].contains b) })
    (fun _ => ⟨⟨hq.window, hq.xreq, hq.wait, hq.pc⟩, by simp⟩) (fun hv => absurd rfl hv) fun hv => absurd hv.symm hut
  unfold freeSlots
  rw [hth]
  exact h1.same ⟨rfl, rfl, rfl, rfl⟩ rfl rfl

/-- The same without the lock. -/
def Unlocked (pc : DWord) (th : Thread) : Prop := Quits pc th ∧ th.bound = [] ∧ th.xhold = false

theorem Unlocked.grant {th : Thread} (h : Unlocked pc th) : Unlocked pc (grantThread th) := by
  obtain ⟨hq, hb, hx⟩ := h
  rw [grantThread_of_quits hq]
  exact ⟨⟨hq.window, hq.xreq, hq.wait, hq.pc⟩, hb, hx⟩

theorem grantLock_seen (h : Seen s0 t (Unlocked pc) u k q s) (core n g : Nat) :
    Seen s0 t (Unlocked pc) u k q (grantLock s core n g) := by
  have h1 := h.setCore (n := core) (c := { s.core core with locks := put (s.core core).locks n ⟨some g⟩ }) rfl
  obtain ⟨y, hy, hpy⟩ := h.self
  obtain ⟨x, hx, hxe⟩ := h.other
  unfold grantLock
  refine List.foldlRecOn _ _ h1 fun z hz e he => Seen.setThread hz (fun hv => ?_) (fun _ _ h => h) fun hv => ?_
  · have := thread?_of_mem_groupThreads he
    rw [hv] at this
    cases hy.symm.trans this
    exact hpy.grant
  · have := thread?_of_mem_groupThreads he
    rw [hv] at this
    cases hx.symm.trans this
    exact (grantThread_exited _).trans hxe

theorem offerLock_seen (h : Seen s0 t (Unlocked pc) u k q s) (core n : Nat) :
    Seen s0 t (Unlocked pc) u k q (offerLock s core n) := by
  unfold offerLock
  dsimp only
  split
  · exact h
  · split
    · exact grantLock_seen h _ _ _
    · exact grantLock_seen h _ _ _
    · exact grantLock_seen h _ _ _
    · exact h

theorem releaseLock_seen (hut : u ≠ t) (h : Seen s0 t (fun th => Quits pc th ∧ th.bound = []) u k q s) :
    Seen s0 t (Unlocked pc) u k q (releaseLock s t) := by
  obtain ⟨th, hth, hq, hb⟩ := h.self
  unfold releaseLock
  rw [hth]
  dsimp only
  split
  · rename_i hx
    obtain ⟨hs, -, hother, hteam⟩ := h
    exact ⟨hs, ⟨th, hth, hq, hb, by simpa using hx⟩, hother, hteam⟩
  · have h1 := h.setThread (p' := Unlocked pc) (v := t) (th := { th with xhold := false })
      (fun _ => ⟨⟨hq.window, hq.xreq, hq.wait, hq.pc⟩, hb, rfl⟩) (fun hv => absurd rfl hv) fun hv => absurd hv.symm hut
    split
    · exact h1
    · refine offerLock_seen (Seen.setCore h1 ?_) _ _
      rfl

/-- The exit of a thread beside one that lives (R76, R128). -/
theorem exitThread_seen {n : Nat} (hut : u ≠ t) (ht : teamKey t = k) (hu : teamKey u = k) (hn : tTid u < 32 * n)
    (h : Seen s0 t (Quits pc) u k (fun tm => tm.ngrp = n ∧ tm.halted = false) (spillAll s t)) :
    Seen s0 t (Left pc) u k (fun tm => tm.ngrp = n) (exitThread s t) := by
  have h1 := releaseLock_seen hut (freeSlots_seen hut h)
  obtain ⟨th, hth, hq, hb, hx⟩ := h1.self
  have h2 := h1.setThread (p' := Left pc) (v := t)
    (th := { th with exited := true, wait := .none, yieldEnd := none, starved := none })
    (fun _ => ⟨⟨hq.window, hq.xreq, rfl, hq.pc⟩, hb, hx, rfl⟩) (fun hv => absurd rfl hv) fun hv => absurd hv.symm hut
  have h3 : ∀ x, Seen s0 t (Left pc) u k (fun tm => tm.ngrp = n ∧ tm.halted = false) x →
      Seen s0 t (Left pc) u k (fun tm => tm.ngrp = n) (lastExit (meetCheck x (gKey t) []) t) := fun x hx => by
    have := meetCheck_seen (left_haltKeeps pc) (fun _ h => h.exited) hx ht
    rwa [lastExit_of_live this ht hu hn]
  unfold exitThread
  dsimp only
  rw [modThread_of_thread? hth]
  refine h3 _ ?_
  split
  · refine h2.setCore ?_
    rfl
  · exact h2

end Leaving

end Sys2Proof.Machine
end

section
/-! PROOF of ThreadUnits. -/

namespace Sys2Proof.Machine

section Exit

variable {s : State} {e : Env} {c : Ctl}

theorem idle_of_settled (h : Passes s { settled := true } c e) : e.th.window = [] ∧ e.th.xreq = none := by
  have := h.free
  simp_all [Thread.blocked]

theorem queued_of_settled (h : Passes s { settled := true } c e) : Passes s .queued c e where
  env   := h.env
  free  := by
    have := h.free
    simp_all [Thread.blocked, Mode.queued]
  param := h.param
  flag  := fun hl => by cases hl
  guard := h.guard

/-- An exit or the refill of an empty queue comes to the exit. -/
theorem exec_exits {i : Instr} (hi : i = .exit c ∨ (∃ xd, i = .refill c xd) ∧ e.la.wqn ≤ e.tm.wqHead)
    (h : Passes s { settled := true } c e) : exec i s = exitNow s e := by
  rcases hi with rfl | ⟨⟨xd, rfl⟩, hq⟩
  · show execExit c s = _
    rw [execExit, unit_of_passes (queued_of_settled h)]
  · show execRefill c xd s = _
    rw [execRefill, unit_of_passes h, if_pos hq]

theorem exitNow_of_trap (hw : e.th.window = []) {ti : TrapInfo} (hs : spillChecks s e (List.range 32) = .trap ti) :
    exitNow s e = .next (raiseTrap s e.t ti) := by
  simp [exitNow, hw, hs]

theorem exitNow_of_ok (hw : e.th.window = []) {s1 : State} (hs : spillChecks s e (List.range 32) = .ok s1)
    (hn : spillsWait s e.t = false) : exitNow s e = .next (exitThread (Gone s e e.th.ctx) e.t) := by
  rw [gone_eq, ← issued_of_idle hw]
  simp [exitNow, hw, hs, hn]

theorem exitNow_of_busy (hw : e.th.window ≠ []) : exitNow s e = .next (Behind s e e.th.ctx .exit 0) := by
  simp [exitNow, hw, Behind, Thread.enter, issued_eq, WUnit.start]

/-- Blocks at near places have no backing words. -/
theorem spillBlock_near {b : Nat} (h : (placeOfCode (codeOfBlock e.th.ctx.pmap b)).far = false) : spillBlock s e b = s := by
  simp [spillBlock, h]

theorem spillAll_near {t : Nat} (he : ∀ e, s.env t = some e → ∀ r : Reg, (e.th.ctx.place r).far = false) :
    spillAll s t = s := by
  unfold spillAll
  split
  · rfl
  · rename_i e h
    have hb : ∀ b ∈ List.range 32, spillBlock s e b = s := fun b hb => by
      refine spillBlock_near ?_
      have hreg : blockOf (BitVec.ofNat 8 (8 * b)) = b := by
        have := List.mem_range.1 hb
        simp only [blockOf, BitVec.toNat_ofNat]
        omega
      have := he e h (BitVec.ofNat 8 (8 * b))
      rwa [Ctx.place, hreg] at this
    generalize List.range 32 = bs at hb
    induction bs with
    | nil => rfl
    | cons b bs ih =>
      rw [List.foldl_cons, hb b List.mem_cons_self]
      exact ih fun b h => hb b (List.mem_cons_of_mem _ h)

/-- A thread that leaves beside one that lives. -/
theorem exitThread_beside (h : Passes s { settled := true } c e) {u : Nat} {x : Thread} (hut : u ≠ e.t)
    (hk : teamKey u = teamKey e.t) (hn : tTid u < 32 * e.tm.ngrp) (hx : s.thread? u = some x) (hl : x.exited = false)
    (hh : e.tm.halted = false) :
    Seen (spillAll (Gone s e e.th.ctx) e.t) e.t (Left e.th.ctx.pc) u (teamKey e.t) (fun tm => tm.ngrp = e.tm.ngrp)
      (exitThread (Gone s e e.th.ctx) e.t) := by
  obtain ⟨hw, hr⟩ := idle_of_settled h
  have henv : s.env e.t = some e := by
    rw [env_t h.env]
    exact h.env
  refine exitThread_seen hut rfl hk hn ⟨⟨rfl, rfl, rfl, rfl⟩, ?_, ?_, ?_⟩
  · rw [State.thread?, spillAll_threads]
    exact ⟨_, thread?_setThread_self _ _ _, ⟨by simp [Thread.beside, hw], hr, rfl, rfl⟩⟩
  · rw [State.thread?, spillAll_threads]
    exact ⟨x, (thread?_setThread_ne _ _ hut).trans hx, hl⟩
  · rw [team?_of_cores (spillAll_cores _ _)]
    have hteam : (Gone s e e.th.ctx).team? (teamKey e.t) = some e.tm := (team?_of_env henv :)
    exact ⟨e.tm, hteam, rfl, hh⟩

theorem exit_leaves (h : Passes s { settled := true } c e) {u : Nat} {x : Thread} (hut : u ≠ e.t)
    (hk : teamKey u = teamKey e.t) (hn : tTid u < 32 * e.tm.ngrp) (hx : s.thread? u = some x) (hl : x.exited = false)
    (hh : e.tm.halted = false) :
    let t := exitThread (Gone s e e.th.ctx) e.t
    (∃ th, t.thread? e.t = some th ∧ th.exited = true ∧ th.wait = .none ∧ th.bound = [] ∧ th.xhold = false ∧
      th.ctx.pc = e.th.ctx.pc) ∧
    ((∀ r : Reg, (e.th.ctx.place r).far = false) → SameMemory s t) := by
  have hseen := exitThread_beside h hut hk hn hx hl hh
  refine ⟨?_, fun hnear => ?_⟩
  · obtain ⟨th, hth, hq, hb, hxh, hex⟩ := hseen.self
    exact ⟨th, hth, hex, hq.wait, hb, hxh, hq.pc⟩
  · have hsame : spillAll (Gone s e e.th.ctx) e.t = Gone s e e.th.ctx := spillAll_near fun e' he' => by
      have := thread?_of_env he'
      rw [show (Gone s e e.th.ctx).thread? e.t = some _ from thread?_setThread_self _ _ _] at this
      rw [← Option.some.inj this]
      exact hnear
    have hst := hseen.stores
    rw [hsame] at hst
    obtain ⟨h1, h2, h3, h4⟩ := hst
    exact SameStores.memory ⟨h1, h2, h3, h4⟩

theorem write64_eq (xd : Reg) (v : Nat) : write64 xd (BitVec.ofNat 64 v) = [(xd, natWord v), (xd + 1, natWord (v / 2 ^ 32))] := by
  have hlo : loWord (BitVec.ofNat 64 v) = natWord v := by
    rw [loWord_eq, natWord]
    simp
  have hhi : hiWord (BitVec.ofNat 64 v) = natWord (v / 2 ^ 32) := by
    refine BitVec.eq_of_toNat_eq ?_
    simp only [hiWord, natWord, BitVec.extractLsb'_toNat, BitVec.toNat_ofNat]
    omega
  rw [write64, hlo, hhi]

/-- The thread after a `refill` has taken an item into a pair. -/
def refilled (e : Env) (c : Ctl) (xd : Reg) (v clk : Nat) : Thread :=
  let th := e.th.writes c.k e.th.nextSeq (write64 xd (BitVec.ofNat 64 v))
  th.issued clk { th.ctx.advance 1 with depth := 0 }

/-- A `refill` with an item left takes it (R77, R247). -/
theorem refill_of_item {e0 : Env} {xd : Reg} {s1 s2 : State} {v : Nat} (h : Passes s { settled := true } c e0)
    (hq : e0.tm.wqHead < e0.la.wqn) (hr : Reads s e0 [xd, xd + 1] s1 e)
    (hv : readNow s1 e ((e.la.wqb + 8 * (e.la.wqn * e.gt + e.tm.wqHead)) % 2 ^ 57) 8 = .ok s2 v) :
    ∃ t th, exec (.refill c xd) s = .next (t.modTeam (teamKey e.t) (fun tm => { tm with wqHead := tm.wqHead + 1 })) ∧
      Settled s2 t e c.k [(xd, natWord v), (xd + 1, natWord (v / 2 ^ 32))] { e.th.ctx.past 1 with depth := 0 } th := by
  obtain ⟨ht, henv, hidle⟩ := reads_idle h rfl hr
  have hw : e.th.window = [] := hidle e.th (thread?_of_env henv)
  have hwr := regsAfter_writes e.th c.k [(xd, natWord v), (xd + 1, natWord (v / 2 ^ 32))]
    (refilled e c xd v s2.clk) (by rw [← write64_eq]; rfl) (by rw [← write64_eq]; rfl) (by
      rw [refilled, writes_eq]
      rfl)
  refine ⟨s2.setThread e.t (refilled e c xd v s2.clk), refilled e c xd v s2.clk, ?_, rfl, hwr, ?_,
    sameMemory_setThread _ _ _⟩
  · show execRefill c xd s = _
    rw [execRefill, unit_of_passes h, if_neg (by omega), operands_of_reads hr]
    dsimp only
    rw [hv]
    rfl
  · rw [refilled, writes_eq, issued_eq]
    simp only [Thread.beside, hw, if_true]
    rfl

/-- Settles O15: an exit beside a live thread runs through the release of its slots and its lock and the meet check
with that thread alive, so that the exit is not the team's last. -/
theorem threadUnits : Obligations.ThreadUnits := by
  intro s c
  refine ⟨fun e i hi h => ?_, fun e h hw => ?_, fun e0 e xd s1 s2 v h hq hr hv => refill_of_item h hq hr hv,
    fun e xa s1 h ha => ?_, fun e h => ?_⟩
  · obtain ⟨hw, -⟩ := idle_of_settled h
    rw [exec_exits hi h]
    refine ⟨fun ti hs => exitNow_of_trap hw hs, fun s1 hs hn => ⟨_, exitNow_of_ok hw hs hn, rfl, ?_⟩⟩
    exact fun u x hut hk htid hx hl hh => exit_leaves h hut hk htid hx hl hh
  · show execExit c s = _
    rw [execExit, unit_of_passes h, exitNow_of_busy hw]
  · show execRepack c xa s = _
    rw [execRepack, gather_of_ready h ha, stepTo_eq]
    rfl
  · refine ⟨_, thread?_setThread_self _ _ _, ?_⟩
    show execYld c s = _
    have hpast : ∀ f, (Past s e (e.th.ctx.advance 1)).modThread e.t f = (Past s e (e.th.ctx.advance 1)).setThread e.t _ :=
      modThread_of_thread? (thread?_setThread_self _ _ _)
    rw [execYld, unit_of_passes h, stepTo_eq, hpast]
    rfl

end Exit

end Sys2Proof.Machine
end

section
/-! SUPPORT. What the commands of a window do to a thread: sends and execute commands at their places (R107, R108), and
the rollback (R111, R114). -/

namespace Sys2Proof.Machine

section Places

variable {s : State} {e : Env} {seq : Nat} {p : Site}

/-- No older unit has a command at a place (R108, R118). -/
def NoneOlder (s : State) (e : Env) (seq : Nat) (p : Site) : Prop :=
  (∀ v ∈ e.th.window, v.seq < seq → v.trap = none →
    (∀ r ∈ v.sends, (siteOf s e v.before r).same p = false) ∧ (v.cmd ≠ none → (homeOf s e v).same p = false) ∧
    ∀ a ∈ e.th.accs, a.seq = v.seq → a.kind.isLoad = true → ∀ r ∈ a.kind.regs, (siteOf s e v.before r).same p = false) ∧
  (p.1 = .lane → e.th.xreq ≠ none → ∀ v ∈ e.th.window, seq ≤ v.seq)

theorem olderCommand_eq_false : olderCommand s e seq p true = false ↔ NoneOlder s e seq p := by
  simp only [olderCommand, NoneOlder, Bool.or_eq_false_iff, List.any_eq_false, Bool.and_eq_true, Bool.or_eq_true,
    decide_eq_true_eq, Option.isNone_iff_eq_none, Option.isSome_iff_ne_none, List.any_eq_true, beq_iff_eq, Bool.true_and]
  refine and_congr (forall₂_congr fun v _ => ?_) ?_
  · simp only [not_and, not_or, not_exists, Bool.not_eq_true, and_assoc]
  · rw [Bool.eq_false_iff]
    simp [Option.isSome_iff_ne_none]

theorem olderCommand_eq_true : olderCommand s e seq p true = true ↔ ¬NoneOlder s e seq p := by
  rw [← olderCommand_eq_false, Bool.not_eq_false]

theorem site_same_iff (a b : Site) : a.same b = true ↔ a.1 = b.1 ∨ (a.2 ≠ none ∧ a.2 = b.2) := by
  simp [Site.same, Option.isSome_iff_ne_none]

end Places

/-! Units of a window. -/

theorem unit?_modUnit {th : Thread} {u : WUnit} (h : th.unit? u.seq = some u) {f : WUnit → WUnit}
    (hf : ∀ v, (f v).seq = v.seq) : (th.modUnit u.seq f).unit? u.seq = some (f u) := by
  have hq : (fun v : WUnit => v.seq == u.seq) ∘ (fun v => if v.seq == u.seq then f v else v) = fun v => v.seq == u.seq := by
    funext v
    by_cases hv : v.seq = u.seq <;> simp [hv, hf]
  unfold Thread.unit? at h
  unfold Thread.unit? Thread.modUnit
  rw [List.find?_map, hq, h]
  simp

/-! Rolling back. -/

theorem flag_flagDown? (th : Thread) (g : Option Nat) (f : Nat) :
    (th.flagDown? g).flag f = th.flag f - (if g = some f then 1 else 0) := by
  cases g with
  | none => rfl
  | some n =>
    simp only [Thread.flagDown?, Thread.flagDown, Thread.flag, findD_putD, Option.some.injEq]
    by_cases hf : f = n
    · simp [hf]
    · simp [hf, Ne.symm hf]

/-- Each access that goes takes one from its flag (R30). -/
theorem flag_foldl_flagDown (as : List Access) (th : Thread) (f : Nat) :
    (as.foldl (fun th a => th.flagDown? a.flag) th).flag f = th.flag f - (as.filter (fun a => a.flag == some f)).length := by
  induction as generalizing th with
  | nil => rfl
  | cons a as ih =>
    rw [List.foldl_cons, ih, flag_flagDown?]
    by_cases ha : a.flag = some f
    · simp [ha]
      omega
    · simp [ha]

/-- The stored values written in order: the last write of a register stands. -/
theorem findD_foldl_putD (ws : List (Reg × Word)) (regs : List (Nat × Word)) (r : Reg) :
    findD (ws.foldl (fun rs w => putD 0 rs w.1.toNat w.2) regs) r.toNat 0 = (lastWrite ws r).getD (findD regs r.toNat 0) := by
  induction ws generalizing regs with
  | nil => rfl
  | cons w ws ih =>
    obtain ⟨q, v⟩ := w
    rw [List.foldl_cons, ih, lastWrite_cons, findD_putD]
    cases lastWrite ws r with
    | some x => simp
    | none => by_cases hr : q = r <;> simp [hr, reg_toNat_inj, Ne.symm (a := q) (b := r)]

theorem lastWrite_eq_none {ws : List (Reg × Word)} {r : Reg} (h : ∀ y ∈ ws, y.1 ≠ r) : lastWrite ws r = none := by
  simpa [lastWrite] using h

/-- Units without an undo entry of a register give it nothing back (R111). -/
theorem restoreUndo_append {us vs : List WUnit} {regs : List (Nat × Word)} {r : Reg}
    (h : ∀ x ∈ us, ∀ y ∈ x.undo, y.1 ≠ r) :
    findD (restoreUndo regs (us ++ vs)) r.toNat 0 = findD (restoreUndo regs vs) r.toNat 0 := by
  induction us with
  | nil => rfl
  | cons u us ih =>
    rw [List.cons_append, restoreUndo, findD_foldl_putD, lastWrite_eq_none (h u List.mem_cons_self), Option.getD_none]
    exact ih fun x hx => h x (List.mem_cons_of_mem u hx)

theorem restoreUndo_oldest {us vs : List WUnit} {u : WUnit} {regs : List (Nat × Word)} {r : Reg} {w : Word}
    (h : ∀ x ∈ us, ∀ y ∈ x.undo, y.1 ≠ r) (hw : lastWrite u.undo r = some w) :
    findD (restoreUndo regs (us ++ u :: vs)) r.toNat 0 = w := by
  rw [restoreUndo_append h, restoreUndo, findD_foldl_putD, hw, Option.getD_some]

/-- A thread rolled back to the unit at the head of its window is as it was before that unit (R111, R114). -/
theorem rollback_head {th : Thread} {u : WUnit} {us : List WUnit} (hw : th.window = u :: us) (hs : ∀ v ∈ us, u.seq ≤ v.seq) :
    let th' := th.rollback u.seq
    th'.window = [] ∧ th'.ctx = { u.before with fwd := th'.ctx.fwd } ∧ th'.arriving = none ∧ th'.xreq = none ∧
    (∀ a, a ∈ th'.accs ↔ a ∈ th.accs ∧ a.seq < u.seq) ∧
    (∀ f, th'.flag f = th.flag f - (th.accs.filter (fun a => u.seq ≤ a.seq && a.flag == some f)).length) ∧
    ∀ r, th'.stored r = findD (restoreUndo th.regs (u :: us)) r.toNat 0 := by
  have hall : ∀ v ∈ u :: us, u.seq ≤ v.seq := List.forall_mem_cons.2 ⟨le_rfl, hs⟩
  have hkeep : (u :: us).filter (fun v => decide (u.seq ≤ v.seq)) = u :: us := List.filter_eq_self.2 (by simpa using hs)
  have hgone : (u :: us).filter (fun v => decide (v.seq < u.seq)) = [] := List.filter_eq_nil_iff.2 (by simpa using hs)
  have hany : (u :: us).any (fun v => decide (v.seq < u.seq)) = false := List.any_eq_false.2 (by simpa using hs)
  have hroll : th.rollback u.seq = { th with
      flags := ((th.accs.filter (fun a => u.seq ≤ a.seq)).foldl (fun th a => th.flagDown? a.flag) th).flags
      regs := restoreUndo th.regs (u :: us)
      ctx := { u.before with fwd := fwdBack th.ctx.fwd u.before.fwd u.seq }
      window := []
      accs := th.accs.filter (fun a => a.seq < u.seq)
      gread := none
      arriving := none
      xreq := none } := by
    simp only [Thread.rollback, hw, hkeep]
    rw [foldl_flagDown]
    simp only [hw, hgone, hany, Bool.false_eq_true, if_false]
  rw [hroll]
  refine ⟨rfl, rfl, rfl, rfl, fun a => by simp, fun f => ?_, fun r => rfl⟩
  refine (flag_foldl_flagDown _ th f).trans ?_
  rw [List.filter_filter]
  simp only [Bool.and_comm]

/-! Commands. -/

/-- The thread after the execute command of a unit has written its result (R107, R110, R111). -/
def Thread.executed (th : Thread) (u : WUnit) (o : AluOut) : Thread :=
  (th.writes u.kbit u.seq o.writes).modUnit u.seq (fun v => { v with
    cmd := none, pend := [], done := true, fps := o.fps, act := o.act, undo := th.undoOf u.kbit o.writes })

section Commands

variable {s : State} {t : Nat} {e : Env} {u : WUnit}

/-- An operand of the thread's next unit, which executes at the lane (R71). -/
theorem operandSend_next (he : s.env t = some e) (hu : e.th.unit? e.th.nextSeq = none) {rs : List Reg} {r : Reg}
    (ha : e.th.arriving = some rs) (hr : r ∈ rs) : exec (.operandSend t e.th.nextSeq r) s = .next (
      if olderCommand s e e.th.nextSeq (siteOf s e e.th.ctx r) true then { s with stalled := true }
      else s.setThread t { e.th with arriving := some (rs.erase r) }) := by
  show execOperandSend t e.th.nextSeq r s = _
  simp only [execOperandSend, he, hu, ha, List.contains_iff_mem.2 hr, bne_self_eq_false, Bool.not_true, Bool.false_or,
    Bool.false_eq_true, if_false, State.stall]
  split <;> rfl

theorem operandSend_unit (he : s.env t = some e) (hu : e.th.unit? u.seq = some u) (ht : u.trap = none) {r : Reg}
    (hr : r ∈ u.sends) : exec (.operandSend t u.seq r) s = .next (
      if olderCommand s e u.seq (siteOf s e u.before r) true then { s with stalled := true }
      else s.setThread t (e.th.modUnit u.seq (·.sent r))) := by
  show execOperandSend t u.seq r s = _
  simp only [execOperandSend, he, hu, ht, List.contains_iff_mem.2 hr, Bool.not_true, Bool.false_or, Option.isSome_none, State.stall]
  split <;> rfl

/-- A command whose unit still awaits an operand, or behind an older command, stays (R107, R108). -/
theorem executeCommand_stays (he : s.env t = some e) (hu : e.th.unit? u.seq = some u) {o : AluOut} (hc : u.cmd = some o)
    (h : u.sends ≠ [] ∨ olderCommand s e u.seq (homeOf s e u) true = true) (err : Bool) :
    exec (.executeCommand t u.seq err) s = .next { s with stalled := true } := by
  show execExecuteCommand t u.seq err s = _
  simp only [execExecuteCommand, withCommand, he, hu, hc]
  refine if_pos ?_
  rcases h with h | h <;> simp [h]

section Ready

variable (he : s.env t = some e) (hu : e.th.unit? u.seq = some u) (ht : u.trap = none) {o : AluOut} (hc : u.cmd = some o)
  (hs : u.sends = []) (hn : olderCommand s e u.seq (homeOf s e u) true = false)

include he hu ht hc hs hn

theorem executeCommand_writes (hx : o.trap = none) :
    exec (.executeCommand t u.seq false) s = .next (s.setThread t (e.th.executed u o)) := by
  show execExecuteCommand t u.seq false s = _
  simp only [execExecuteCommand, withCommand, he, hu, hc, hs, ht, hn, hx, List.isEmpty_nil, Bool.not_true,
    Option.isSome_none, Bool.or_false, Bool.false_eq_true, if_false]
  rfl

theorem executeCommand_traps {ti : TrapInfo} (hx : o.trap = some ti) :
    exec (.executeCommand t u.seq false) s = .next (trapUnit s t u.seq ti) := by
  show execExecuteCommand t u.seq false s = _
  simp only [execExecuteCommand, withCommand, he, hu, hc, hs, ht, hn, hx, List.isEmpty_nil, Bool.not_true,
    Option.isSome_none, Bool.or_false, Bool.false_eq_true, if_false]

theorem executeCommand_errs {pa va : Nat} (hb : bankOfUnit s e u = some (pa, va)) :
    exec (.executeCommand t u.seq true) s = .next (trapUnit (logError s 5 pa (tCore t)) t u.seq
      (trapOf 0x0F (va % 2 ^ 57 / 1024 * 1024 + 5 * 2 ^ 57))) := by
  show execExecuteCommand t u.seq true s = _
  simp only [execExecuteCommand, withCommand, he, hu, hc, hs, ht, hn, hb, List.isEmpty_nil, Bool.not_true,
    Option.isSome_none, Bool.or_false, Bool.false_eq_true, if_false, if_true]

end Ready

theorem bankOfUnit_va {r : Reg} {rs : List Reg} {k pa va : Nat} (hp : u.pend = r :: rs) (hk : u.before.place r = .bank k)
    (h : bankOfUnit s e u = some (pa, va)) : va = u.before.backing k (blockOf r) := by
  simp only [bankOfUnit, hp, hk] at h
  split at h <;> cases h
  rfl

/-- A write with K = 0 is in no unit's reach by its number (R110). -/
theorem writes_unmarked (th : Thread) (seq seq' : Nat) (ws : List (Reg × Word)) :
    th.writes false seq ws = th.writes false seq' ws := by
  induction ws generalizing th with
  | nil => rfl
  | cons w ws ih => exact ih _

/-- What a unit reads after the writes of an execute command: with K = 1 within seven units (R110). -/
theorem read_writes (th : Thread) (k : Bool) (seq : Nat) (ws : List (Reg × Word)) {r : Reg} {v : Word}
    (hv : lastWrite ws r = some v) (hk : k = false ∨ th.nextSeq - seq ≤ 7) : (th.writes k seq ws).read r = v := by
  have near : ∀ n, th.nextSeq - n ≤ 7 → (th.writes k n ws).read r = v := fun n hn => by
    have hnext : (th.writes k n ws).nextSeq = th.nextSeq := by rw [writes_eq]
    have hf := found_writes th k n th.nextSeq ws r hn
    rw [hv, Option.getD_some] at hf
    rwa [read_eq, hnext]
  rcases hk with rfl | hk
  · rw [writes_unmarked th seq th.nextSeq]
    exact near _ (by omega)
  · exact near seq hk

section Executed

variable (th : Thread) (u : WUnit) (o : AluOut)

theorem executed_rest : th.executed u o = { th with
    regs := (th.executed u o).regs, ctx := { th.ctx with fwd := (th.executed u o).ctx.fwd }
    window := (th.executed u o).window } := by
  unfold Thread.executed Thread.modUnit
  rw [writes_eq]

theorem executed_stored (r : Reg) : (th.executed u o).stored r =
    if u.kbit then th.stored r else (lastWrite o.writes r).getD (th.stored r) := by
  have hw : (th.executed u o).stored r = (th.writes u.kbit u.seq o.writes).stored r := rfl
  rw [hw]
  cases u.kbit
  · exact stored_writes th _ _ r
  · exact stored_writes_k th _ _ r

theorem executed_read {r : Reg} {v : Word} (hv : lastWrite o.writes r = some v)
    (hk : u.kbit = false ∨ th.nextSeq - u.seq ≤ 7) : (th.executed u o).read r = v :=
  (show (th.executed u o).read r = (th.writes u.kbit u.seq o.writes).read r from rfl).trans (read_writes th _ _ _ hv hk)

theorem executed_unit {th : Thread} {u : WUnit} (h : th.unit? u.seq = some u) : (th.executed u o).unit? u.seq = some { u with
    cmd := none, pend := [], done := true, fps := o.fps, act := o.act
    undo := if u.kbit then [] else o.writes.map (fun w => (w.1, th.stored w.1)) } := by
  refine unit?_modUnit ?_ fun _ => rfl
  rw [writes_eq]
  exact h

end Executed

end Commands

/-! The commit of the oldest unit (R112). -/

section Commit

variable {s : State} {th : Thread} {u : WUnit} {us : List WUnit}

/-- A thread past the oldest unit of its window. -/
def Thread.committed (th : Thread) (u : WUnit) (us : List WUnit) : Thread :=
  { th with window := us, fps := th.fps ||| u.fps.setWidth 32 }

theorem unitCommit_eq (h : s.thread? s.cur = some th) : exec .unitCommit s =
    .next ((commitHead s s.cur).getD { s with stalled := true }) := by
  show execUnitCommit s = _
  simp only [execUnitCommit, h]
  cases commitHead s s.cur <;> rfl

variable (h : s.thread? s.cur = some th) (hw : th.window = u :: us)

include h hw

theorem commitHead_of_trap {ti : TrapInfo} (ht : u.trap = some ti) : commitHead s s.cur = none := by
  simp [commitHead, h, hw, ht]

variable (ht : u.trap = none)

include ht

/-- A unit that commits once it has completed. -/
theorem commitHead_of_plain (hr : ∀ o, u.act ≠ .rel o) (hx : u.act ≠ .exit) :
    commitHead s s.cur = if u.done then some (commitUnit s s.cur th u us) else none := by
  simp only [commitHead, h, hw, ht, Option.isSome_none, Bool.false_eq_true, if_false]
  split
  · exact absurd ‹_› (hr _)
  · exact absurd ‹_› (hr _)
  · exact absurd ‹_› hx
  · rfl

theorem commitHead_of_exit (hx : u.act = .exit) : commitHead s s.cur = commitExit s s.cur th u us := by
  simp [commitHead, h, hw, ht, hx]

theorem commitHead_of_published {ids : List Nat} (hr : u.act = .rel (some ids)) (hp : ∀ p ∈ s.pubs, p.id ∉ ids) :
    commitHead s s.cur = some (commitUnit s s.cur th u us) := by
  have hnone : s.pubs.any (fun p => ids.contains p.id) = false := List.any_eq_false.2 (by simpa using hp)
  simp only [commitHead, h, hw, ht, hr, hnone, Option.isSome_none, Bool.false_eq_true, if_false]

theorem commitHead_of_older (hr : u.act = .rel none) (ha : ∃ a ∈ th.accs, a.seq < u.seq) : commitHead s s.cur = none := by
  have hany : th.accs.any (fun a => a.seq < u.seq) = true := List.any_eq_true.2 (by simpa using ha)
  simp [commitHead, h, hw, ht, hr, hany]

theorem commitHead_of_release (hr : u.act = .rel none) (ha : ∀ a ∈ th.accs, u.seq ≤ a.seq) {s1 : State} {ids : List Nat}
    (hs : release s (tCore s.cur) = (s1, ids)) : commitHead s s.cur = some (if ids = [] then commitUnit s1 s.cur th u us
      else s1.setThread s.cur { th with window := { u with act := .rel (some ids) } :: us }) := by
  have hany : th.accs.any (fun a => a.seq < u.seq) = false := List.any_eq_false.2 (by simpa using ha)
  simp only [commitHead, h, hw, ht, hr, hany, hs, Option.isSome_none, Bool.false_eq_true, if_false, List.isEmpty_iff]
  split <;> rfl

omit h hw ht

theorem commitUnit_of_act (s : State) (t : Nat) (ha : ∀ id, u.act ≠ .access id) :
    commitUnit s t th u us = commitAct (s.setThread t (th.committed u us)) t u.act := by
  unfold commitUnit
  split
  · exact absurd ‹_› (ha _)
  · rfl

/-- The access of a unit may perform once the unit commits. -/
theorem commitUnit_of_access (s : State) (t : Nat) {id : Nat} (ha : u.act = .access id) : commitUnit s t th u us =
    s.setThread t { th.committed u us with
      accs := th.accs.map (fun a => { a with commit := a.commit || decide (a.id = id) }) } := by
  have hacc : ∀ a : Access, (if a.id == id then { a with commit := true } else a) =
      { a with commit := a.commit || decide (a.id = id) } := fun a => by
    by_cases h : a.id = id <;> simp [h]
  simp only [commitUnit, ha, hacc]
  rfl

/-- The rollback of a thread whose oldest unit traps (R114). -/
theorem trapRollback_of_head {ti : TrapInfo} {th1 : Thread} (h : s.thread? s.cur = some th) (hw : th.window = u :: us)
    (ht : u.trap = some ti) {s1 : State}
    (hs1 : s1 = ((s.core (tCore s.cur)).jobs.filter (fun j => j.since s.cur u.seq)).foldl
      (fun x j => dropJob x (tCore s.cur) j) s) (h1 : s1.thread? s.cur = some th1) :
    exec .trapRollback s = .next (takeTrap (s1.setThread s.cur (th1.rollback u.seq)) s.cur ti) := by
  have hto : s.rollbackTo s.cur u.seq = s1.setThread s.cur (th1.rollback u.seq) := by
    rw [State.rollbackTo, ← hs1]
    exact modThread_of_thread? h1 _
  show execTrapRollback s = _
  simp only [execTrapRollback, rollbackTrap, h, hw, ht, hto]

end Commit

/-! Events of a thread. -/

section Events

variable {s : State} {th : Thread}

/-- The pending trap of the trapping thread is delivered once its window is empty (R346). -/
theorem trapRollback_pending {e : Env} {ti : TrapInfo} (he : s.env s.cur = some e) (hw : e.th.window = [])
    (hp : e.th.pendTrap = some ti) (hh : e.tm.halted = true) (ht : e.tm.trapTid = some (tTid s.cur)) (hi : e.th.inh = false)
    (hx : e.tm.escal = false) :
    exec .trapRollback s = .next (deliverTrap (s.setThread s.cur { e.th with pendTrap := none }) s.cur ti) := by
  have hroll : rollbackTrap s s.cur = none := by simp [rollbackTrap, thread?_of_env he, hw]
  have hdel : deliverPending s s.cur = some (deliverTrap (s.takePending s.cur) s.cur ti) := by
    simp [deliverPending, he, hw, hp, hh, ht, hi, hx]
  show execTrapRollback s = _
  simp only [execTrapRollback, thread?_of_env he, hroll, hdel]
  rw [State.takePending, modThread_of_thread? (thread?_of_env he)]

theorem starvation_eq (h : s.thread? s.cur = some th) : exec .starvation s =
    .next (if 4096 ≤ th.age ∧ th.starved = none then s.setThread s.cur { th with starved := some s.clk }
      else { s with stalled := true }) := by
  show execStarvation s = _
  simp only [execStarvation, h]
  by_cases hs : 4096 ≤ th.age ∧ th.starved = none
  · have hgo : (decide (th.age < 4096) || th.starved.isSome) = false := by simpa using hs
    rw [hgo, if_pos hs]
    rfl
  · have hstay : (decide (th.age < 4096) || th.starved.isSome) = true := by
      rw [← Bool.not_eq_false]
      simpa using hs
    rw [hstay, if_neg hs]
    rfl

theorem yieldExclusionEnd_eq (h : s.thread? s.cur = some th) {c : Nat} (hc : th.yieldEnd = some c) :
    exec .yieldExclusionEnd s = .next (if c ≤ s.clk then s.setThread s.cur { th with yieldEnd := none }
      else { s with stalled := true }) := by
  show execYieldExclusionEnd s = _
  simp only [execYieldExclusionEnd, h, hc, State.stall]
  by_cases hs : c ≤ s.clk
  · rw [if_neg (by omega), if_pos hs]
  · rw [if_pos (by omega), if_neg hs]

end Events

/-! Acts at commit. -/

section Acts

variable {s : State} {k : Nat} {tm : Team}

theorem modTeam_of_team? (h : s.team? k = some tm) (f : Team → Team) : s.modTeam k f = s.setTeam k (f tm) := by
  simp only [State.modTeam, h]

/-- The two bits of a slot of the guard table. -/
theorem guard_bit (tm : Team) (n : Nat) {i : Nat} (hi : i < 2) : (tm.guard n).getLsbD i = tm.guards.getLsbD (2 * n + i) := by
  simp [Team.guard, hi]

theorem three_bit (i : Nat) : (3 : BitVec 32).getLsbD i = decide (i < 2) := by
  by_cases h : i < 32
  · interval_cases i <;> rfl
  · have h2 : ¬ i < 2 := by omega
    simp [h2, BitVec.getLsbD_of_ge _ _ (Nat.le_of_not_lt h)]

/-- One slot of the guard table changed. -/
theorem guard_setGuard (tm : Team) {g n : Nat} (hn : n < 16) (v : BitVec 2) :
    { tm with guards := setGuard tm.guards g v }.guard n = if n = g then v else tm.guard n := by
  refine BitVec.eq_of_getLsbD_eq fun i hi => ?_
  have h32 : 2 * n + i < 32 := by omega
  rw [guard_bit _ _ hi, setGuard]
  simp only [BitVec.getLsbD_or, BitVec.getLsbD_and, BitVec.getLsbD_not, BitVec.getLsbD_shiftLeft, three_bit, h32,
    BitVec.getLsbD_setWidth, decide_true, Bool.true_and]
  by_cases hg : n = g
  · have h1 : ¬2 * n + i < 2 * g := by omega
    have h2 : 2 * n + i - 2 * g = i := by omega
    subst hg
    simp [h1, h2, hi, show i < 32 by omega]
  · rw [if_neg hg, guard_bit _ _ hi]
    by_cases hlt : n < g
    · have h1 : 2 * n + i < 2 * g := by omega
      simp [h1]
    · have h1 : ¬2 * n + i < 2 * g := by omega
      have h2 : ¬2 * n + i - 2 * g < 2 := by omega
      simp [h1, h2, BitVec.getLsbD_of_ge v _ (Nat.le_of_not_lt h2)]

theorem trimSlots_memory (s : State) (t : Nat) : SameMemory s (trimSlots s t) := by
  unfold trimSlots freeSlots
  dsimp only
  split
  · exact sameMemory_refl s
  · split
    · exact sameMemory_refl s
    · exact ⟨fun _ => rfl, fun _ => rfl, fun _ => rfl⟩

end Acts

/-- A unit that executes at the lane asks for its far sources (R71, R107). -/
theorem gather_asks {s s1 : State} {m : Mode} {c : Ctl} {srcs dsts : List Reg} {e : Env} (h : Ready s m c (srcs ++ dsts) s1 e)
    (hf : e.th.farOf srcs ≠ []) (ha : e.th.arriving = none) (n : Nat) (k : State → Env → Outcome) :
    (unit s m c n fun e => gather s e srcs dsts k) = .next (s1.setThread e.t { e.th with arriving := some (e.th.farOf srcs) }) := by
  simp only [gather]
  rw [unit_of_ready h]
  simp [hf, ha]

end Sys2Proof.Machine
end

section
/-! PROOF of WindowEvents. -/

namespace Sys2Proof.Machine

/-- Settles O53: each event is one case of its operation; the rollback is the head's, with every unit of the window as
young as it. -/
theorem windowEvents : Obligations.WindowEvents := by
  refine ⟨fun s t e he => ?_, site_same_iff, fun s th u us h hw => ?_, fun s e ti he hw hp hh ht hi hx => ?_,
    fun s th h => ?_, fun s t tm h => ?_, fun c cc w64 fp xd xa off an gd sr => ?_⟩
  · intro th clear
    have free : ∀ seq p, clear seq p → olderCommand s e seq p true = false := fun _ _ h => olderCommand_eq_false.2 h
    have held : ∀ seq p, ¬clear seq p → olderCommand s e seq p true = true := fun _ _ h => olderCommand_eq_true.2 h
    refine ⟨fun rs r hu ha hr => ?_, fun u hu ht => ⟨fun r hr hc => ?_, fun r hr hc => ?_, fun o err ho h => ?_,
      fun o ho hs hc hx => ?_, fun o ti ho hs hc hx => ?_, fun o r rs k pa va ho hs hc hp hk hb => ?_⟩⟩
    · rw [operandSend_next he hu ha hr]
      by_cases hc : clear th.nextSeq (siteOf s e th.ctx r)
      · rw [free _ _ hc]
        exact congrArg _ (if_pos hc).symm
      · rw [held _ _ hc]
        exact congrArg _ (if_neg hc).symm
    · refine ⟨_, (operandSend_unit he hu ht hr).trans (congrArg _ (if_neg (by simp [free _ _ hc]))), rfl, ?_⟩
      exact unit?_modUnit hu fun _ => rfl
    · exact (operandSend_unit he hu ht hr).trans (congrArg _ (if_pos (held _ _ hc)))
    · exact executeCommand_stays he hu ho (h.imp_right (held _ _)) err
    · exact ⟨_, executeCommand_writes he hu ht ho hs (free _ _ hc) hx, executed_rest th u o, executed_stored th u o,
        fun r v => executed_read th u o, executed_unit o hu⟩
    · exact executeCommand_traps he hu ht ho hs (free _ _ hc) hx
    · exact ⟨bankOfUnit_va hp hk hb, _, rfl, executeCommand_errs he hu ht ho hs (free _ _ hc) hb⟩
  · intro past
    have some_of : ∀ {x}, commitHead s s.cur = some x → exec .unitCommit s = .next x := fun hx => by
      rw [unitCommit_eq h, hx]
      rfl
    have none_of : commitHead s s.cur = none → exec .unitCommit s = .next { s with stalled := true } := fun hx => by
      rw [unitCommit_eq h, hx]
      rfl
    have done_of : u.trap = none → (∀ o, u.act ≠ .rel o) → u.act ≠ .exit → u.done = true →
        exec .unitCommit s = .next (commitUnit s s.cur th u us) := fun ht hr hx hd =>
      some_of ((commitHead_of_plain h hw ht hr hx).trans (if_pos hd))
    refine ⟨fun ht ha hd => ?_, fun ht hr hx hd => ?_, fun ht hr ha hx hd => ?_, fun e ht hx he => ⟨fun x hs hn => ?_,
      fun ti hs => ?_⟩, fun id ht ha hd => ?_, fun ids ht hr hp => ?_, fun ht hr ha => ?_, fun s1 ids ht hr ha hs => ?_,
      fun ti ht => none_of (commitHead_of_trap h hw ht), fun ti th1 ht hs => ?_⟩
    · rw [done_of ht (by simp [ha]) (by simp [ha]) hd, commitUnit_of_act s s.cur (by simp [ha]), ha]
      rfl
    · exact none_of ((commitHead_of_plain h hw ht hr hx).trans (if_neg (by simp [hd])))
    · rw [done_of ht hr hx hd, commitUnit_of_act s s.cur ha]
      rfl
    · have hact : commitUnit s s.cur th u us = exitThread (s.setThread s.cur (past th)) s.cur := by
        rw [commitUnit_of_act s s.cur (by simp [hx]), hx]
        rfl
      refine some_of ((commitHead_of_exit h hw ht hx).trans ?_)
      simp only [commitExit, he, hs, hn, hact, Bool.false_eq_true, if_false]
    · refine some_of ((commitHead_of_exit h hw ht hx).trans ?_)
      simp only [commitExit, he, hs]
    · refine ⟨_, done_of ht (by simp [ha]) (by simp [ha]) hd |>.trans (congrArg _ (commitUnit_of_access s s.cur ha)), rfl,
        fun a hm hid => ?_, fun a hm => List.mem_map.2 ⟨a, hm, rfl⟩⟩
      obtain ⟨b, -, rfl⟩ := List.mem_map.1 hm
      simp only [decide_eq_true hid, Bool.or_true]
    · rw [some_of (commitHead_of_published h hw ht hr hp), commitUnit_of_act s s.cur (by simp [hr]), hr]
      rfl
    · exact none_of (commitHead_of_older h hw ht hr ha)
    · rw [some_of (commitHead_of_release h hw ht hr ha hs), commitUnit_of_act s1 s.cur (by simp [hr]), hr]
      rcases eq_or_ne ids [] with hi | hi
      · simp only [hi, if_true]
        rfl
      · simp only [hi, if_false]
    · intro core s1 h1 hw1
      obtain ⟨hwin, hctx, harr, hxreq, haccs, hflag, hst⟩ := rollback_head hw1 hs
      refine ⟨th1.rollback u.seq, hwin, hctx, harr, hxreq, haccs, hflag, fun r a v b w hab hund hlast => ?_,
        fun r hund => ?_, ?_⟩
      · rw [hst, hab]
        exact restoreUndo_oldest hund hlast
      · rw [hst, ← List.append_nil (u :: us)]
        exact restoreUndo_append hund
      · exact trapRollback_of_head h hw ht rfl h1
  · exact trapRollback_pending he hw hp hh ht hi hx
  · exact ⟨starvation_eq h, fun c hc => yieldExclusionEnd_eq h hc⟩
  · refine ⟨fun f b => modTeam_of_team? h _, fun g v hg => ⟨_, modTeam_of_team? h _, rfl, fun n hn => ?_⟩,
      fun b n => modTeam_of_team? h _, fun n => setLease_eq s t n, rfl, trimSlots_memory s t⟩
    have hg8 : (BitVec.ofNat 8 g).toNat = g := by simp; omega
    rw [hg8]
    exact guard_setGuard tm hn v
  · refine ⟨fun s s1 e h hf ha => ?_, fun s s1 e h hf ha => ?_, fun s s1 e h hf ha => ?_, fun s s1 e h hf ha => ?_,
      fun s s1 e h hf ha => ?_, fun s s1 e h hf ha => ?_, fun s s1 e h hf ha => ?_, fun s s1 e h hf ha => ?_⟩
    · exact gather_asks h hf ha 1 _
    · exact gather_asks h hf ha 1 _
    · exact gather_asks h hf ha 1 _
    · exact gather_asks h hf ha 1 _
    · exact gather_asks h hf ha 1 _
    · exact gather_asks h hf ha 1 _
    · exact gather_asks h hf ha 1 _
    · show execWrs c sr xa s = _
      unfold execWrs
      simp only [srWide64_eq, srSettled_eq]
      exact gather_asks h hf ha 1 _

end Sys2Proof.Machine
end

section
/-! SUPPORT. The candidates of an issue set (R61, R62, R67): the orders that rank them, and whom the set takes. -/

namespace Sys2Proof.Machine

/-! The first of a list. -/

section Best

variable {α : Type} {better : α → α → Bool}

theorem mem_of_best {xs : List α} {r : α} (h : best better xs = some r) : r ∈ xs := by
  induction xs generalizing r with
  | nil => cases h
  | cons x xs ih =>
    unfold best at h
    split at h
    · cases h
      exact List.mem_cons_self
    · rename_i y hy
      split at h <;> cases h
      · exact List.mem_cons_of_mem x (ih hy)
      · exact List.mem_cons_self

theorem best_of_ne_nil {xs : List α} (h : xs ≠ []) : ∃ r, best better xs = some r := by
  cases xs with
  | nil => exact absurd rfl h
  | cons x xs =>
    unfold best
    split
    · exact ⟨x, rfl⟩
    · split
      · exact ⟨_, rfl⟩
      · exact ⟨_, rfl⟩

theorem best_eq_none {xs : List α} (h : best better xs = none) : xs = [] := by
  by_contra hx
  obtain ⟨r, hr⟩ := best_of_ne_nil (better := better) hx
  cases h.symm.trans hr

/-- A relation that ranks: of two at most one is before the other, and to be no better passes on. -/
structure Ranks (better : α → α → Bool) : Prop where
  asymm : ∀ a b, better a b = true → better b a = false
  trans : ∀ a b c, better a b = false → better b c = false → better a c = false

/-- None of the list is better than the first one of it. -/
theorem best_first (hb : Ranks better) {xs : List α} {r : α} (h : best better xs = some r) :
    ∀ z ∈ xs, better z r = false := by
  have hself : ∀ a, better a a = false := fun a => by
    by_contra ha
    rw [Bool.not_eq_false] at ha
    cases ha.symm.trans (hb.asymm a a ha)
  induction xs generalizing r with
  | nil => exact fun z hz => absurd hz List.not_mem_nil
  | cons x xs ih =>
    intro z hz
    unfold best at h
    split at h
    · rename_i hx
      cases h
      rw [best_eq_none hx] at hz
      rw [List.mem_singleton.1 hz, hself]
    · rename_i y hy
      split at h <;> cases h
      · rename_i hyx
        rcases List.mem_cons.1 hz with rfl | hz
        · exact hb.asymm _ _ hyx
        · exact ih hy z hz
      · rename_i hyx
        rcases List.mem_cons.1 hz with rfl | hz
        · exact hself z
        · exact hb.trans _ _ _ (ih hy z hz) (by simpa using hyx)

end Best

/-! The orders. -/

theorem ahead_ranks : Ranks Cand.ahead where
  asymm a b h := by
    simp [Cand.ahead] at h ⊢
    omega
  trans a b c h1 h2 := by
    simp [Cand.ahead] at h1 h2 ⊢
    omega

theorem starvedFirst_ranks : Ranks Cand.starvedFirst where
  asymm a b h := by
    simp [Cand.starvedFirst] at h ⊢
    omega
  trans a b c h1 h2 := by
    simp [Cand.starvedFirst] at h1 h2 ⊢
    omega

/-- How the reference thread is found where none is starved (R62): the highest key, then the greatest Age. -/
def Cand.refFirst (a b : Cand) : Bool :=
  a.ahead b || (a.sameKey b && (b.age < a.age || (a.age == b.age && a.tie < b.tie)))

theorem refFirst_ranks : Ranks Cand.refFirst where
  asymm a b h := by
    simp [Cand.refFirst, Cand.ahead, Cand.sameKey] at h ⊢
    omega
  trans a b c h1 h2 := by
    simp [Cand.refFirst, Cand.ahead, Cand.sameKey] at h1 h2 ⊢
    omega

/-! The candidates that the picker compares. -/

/-- Those in the instruction buffer, and those that stand at the key of the first starved one (R61, R67). -/
def entrants (cs : List Cand) : List Cand :=
  match best Cand.starvedFirst (cs.filter (·.starved.isSome)) with
  | some c => cs.filter (inBuffer cs) ++ cs.filter (fun x => x.sameKey c && !inBuffer cs x)
  | none => cs.filter (inBuffer cs)

theorem issueSetOf_eq (cs : List Cand) : issueSetOf cs = match refOf (entrants cs) with
    | none => []
    | some ref => (List.range 32).filterMap (fun lane =>
      if lane == tLane ref.t then some ref.t else (memberAt ref (entrants cs) lane).map (·.t)) := rfl

section Entrants

variable {cs : List Cand} {c r : Cand}

theorem mem_of_mem_entrants (h : c ∈ entrants cs) : c ∈ cs := by
  unfold entrants at h
  split at h
  · rcases List.mem_append.1 h with h | h <;> exact (List.mem_filter.1 h).1
  · exact (List.mem_filter.1 h).1

theorem mem_entrants_of_inBuffer (h : c ∈ cs) (hb : inBuffer cs c = true) : c ∈ entrants cs := by
  have := List.mem_filter.2 ⟨h, hb⟩
  unfold entrants
  split
  · exact List.mem_append_left _ this
  · exact this

theorem sameKey_iff {a b : Cand} : a.sameKey b = true ↔ a.depth = b.depth ∧ a.pc = b.pc := by simp [Cand.sameKey]

theorem inBuffer_congr {a b : Cand} (h : a.sameKey b = true) : inBuffer cs a = inBuffer cs b := by
  obtain ⟨hd, hp⟩ := sameKey_iff.1 h
  have hahead : (fun x : Cand => x.ahead a) = fun x => x.ahead b := by
    funext x
    simp only [Cand.ahead, hd, hp]
  unfold inBuffer
  rw [hahead]

/-- Whoever stands at the key of one that is compared is compared. -/
theorem mem_entrants_of_sameKey (hr : r ∈ entrants cs) (hc : c ∈ cs) (hk : c.sameKey r = true) : c ∈ entrants cs := by
  cases hb : inBuffer cs c with
  | true => exact mem_entrants_of_inBuffer hc hb
  | false =>
    have hbr : inBuffer cs r = false := by rw [← inBuffer_congr hk, hb]
    unfold entrants at hr ⊢
    split at hr
    · rename_i c0 _
      rcases List.mem_append.1 hr with hr | hr
      · simp [hbr] at hr
      · obtain ⟨-, hr0⟩ := List.mem_filter.1 hr
        rw [Bool.and_eq_true] at hr0
        obtain ⟨hd, hp⟩ := sameKey_iff.1 hk
        obtain ⟨hd0, hp0⟩ := sameKey_iff.1 hr0.1
        refine List.mem_append_right _ (List.mem_filter.2 ⟨hc, ?_⟩)
        simp [sameKey_iff, hb, hd, hp, hd0, hp0]
    · simp [hbr] at hr

theorem inBuffer_of_first (h : ∀ x ∈ cs, x.ahead c = false) : inBuffer cs c = true := by
  have : cs.filter (fun x => x.ahead c) = [] := List.filter_eq_nil_iff.2 (by simpa using h)
  simp [inBuffer, this]

theorem exists_ahead_of_not_inBuffer (h : inBuffer cs c = false) : ∃ x ∈ cs, x.ahead c = true := by
  by_contra hn
  simp only [not_exists, not_and, Bool.not_eq_true] at hn
  cases h.symm.trans (inBuffer_of_first hn)

/-- The candidates of the highest key are compared. -/
theorem exists_highest (h : cs ≠ []) : ∃ m ∈ entrants cs, ∀ x ∈ cs, x.ahead m = false := by
  obtain ⟨m, hm⟩ := best_of_ne_nil (better := Cand.ahead) h
  have hfirst := best_first ahead_ranks hm
  exact ⟨m, mem_entrants_of_inBuffer (mem_of_best hm) (inBuffer_of_first hfirst), hfirst⟩

/-! The reference thread. -/

theorem mem_of_refOf {l : List Cand} (h : refOf l = some r) : r ∈ l := by
  unfold refOf at h
  split at h
  · rename_i c hc
    cases h
    exact (List.mem_filter.1 (mem_of_best hc)).1
  · exact mem_of_best h

theorem refOf_of_ne_nil {l : List Cand} (h : l ≠ []) : ∃ r, refOf l = some r := by
  unfold refOf
  split
  · exact ⟨_, rfl⟩
  · exact best_of_ne_nil h

theorem exists_reference (h : cs ≠ []) : ∃ r, refOf (entrants cs) = some r := by
  obtain ⟨m, hm, -⟩ := exists_highest h
  exact refOf_of_ne_nil (List.ne_nil_of_mem hm)

/-- A starved candidate makes the one that starved first the reference (R62, R67). -/
theorem reference_of_starved (hr : refOf (entrants cs) = some r) (hs : ∃ c ∈ cs, c.starved ≠ none) :
    ∃ x, r.starved = some x ∧ ∀ c ∈ cs, ∀ y, c.starved = some y → x ≤ y := by
  obtain ⟨c1, hc1, hs1⟩ := hs
  have hne : cs.filter (·.starved.isSome) ≠ [] :=
    List.ne_nil_of_mem (List.mem_filter.2 ⟨hc1, Option.isSome_iff_ne_none.2 hs1⟩)
  obtain ⟨c0, hc0⟩ := best_of_ne_nil (better := Cand.starvedFirst) hne
  obtain ⟨hm0, hs0⟩ := List.mem_filter.1 (mem_of_best hc0)
  have hin : c0 ∈ entrants cs := by
    cases hb : inBuffer cs c0 with
    | true => exact mem_entrants_of_inBuffer hm0 hb
    | false =>
      unfold entrants
      rw [hc0]
      exact List.mem_append_right _ (List.mem_filter.2 ⟨hm0, by simp [hb, sameKey_iff]⟩)
  have hinf : c0 ∈ (entrants cs).filter (·.starved.isSome) := List.mem_filter.2 ⟨hin, hs0⟩
  obtain ⟨r', hr'⟩ := best_of_ne_nil (better := Cand.starvedFirst) (List.ne_nil_of_mem hinf)
  have hrr : r' = r := by
    unfold refOf at hr
    rw [hr'] at hr
    exact Option.some.inj hr
  subst hrr
  obtain ⟨x, hx⟩ := Option.isSome_iff_exists.1 (List.mem_filter.1 (mem_of_best hr')).2
  obtain ⟨z, hz⟩ := Option.isSome_iff_exists.1 hs0
  refine ⟨x, hx, fun c hc y hy => ?_⟩
  have h1 := best_first starvedFirst_ranks hr' c0 hinf
  have h2 := best_first starvedFirst_ranks hc0 c (List.mem_filter.2 ⟨hc, by simp [hy]⟩)
  simp [Cand.starvedFirst, hx, hy, hz] at h1 h2
  omega

/-- Otherwise no candidate has a higher key, or a greater Age at its key (R62). -/
theorem reference_of_none_starved (hr : refOf (entrants cs) = some r) (hs : ∀ c ∈ cs, c.starved = none) :
    ∀ c ∈ cs, c.depth < r.depth ∨ (c.depth = r.depth ∧ r.pc < c.pc) ∨ (c.depth = r.depth ∧ c.pc = r.pc ∧ c.age ≤ r.age) := by
  have hnone : (entrants cs).filter (·.starved.isSome) = [] :=
    List.filter_eq_nil_iff.2 fun x hx => by simp [hs x (mem_of_mem_entrants hx)]
  have hbest : best Cand.refFirst (entrants cs) = some r := by
    unfold refOf at hr
    rw [hnone] at hr
    exact hr
  have hfirst := best_first refFirst_ranks hbest
  intro c hc
  cases hb : inBuffer cs c with
  | true =>
    have h1 := hfirst c (mem_entrants_of_inBuffer hc hb)
    simp [Cand.refFirst, Cand.ahead, Cand.sameKey] at h1
    omega
  | false =>
    obtain ⟨x, hx, hxc⟩ := exists_ahead_of_not_inBuffer hb
    obtain ⟨m, hm, hmf⟩ := exists_highest (List.ne_nil_of_mem hc)
    have h1 := hfirst m hm
    have h2 := hmf x hx
    simp [Cand.refFirst, Cand.ahead, Cand.sameKey] at h1 h2 hxc
    omega

/-! The members. -/

theorem memberAt_spec {lane : Nat} {l : List Cand} (h : memberAt r l lane = some c) :
    c ∈ l ∧ tLane c.t = lane ∧ c.sameKey r = true ∧ c.dest = r.dest := by
  obtain ⟨hm, hp⟩ := List.mem_filter.1 (mem_of_best h)
  simp only [Bool.and_eq_true, beq_iff_eq] at hp
  obtain ⟨⟨hl, hk⟩, hd⟩ := hp
  exact ⟨hm, hl, hk, hd⟩

theorem memberAt_of_mem {l : List Cand} (hc : c ∈ l) (hk : c.sameKey r = true) (hd : c.dest = r.dest) :
    ∃ x, memberAt r l (tLane c.t) = some x :=
  best_of_ne_nil (List.ne_nil_of_mem (List.mem_filter.2 ⟨hc, by simp [hk, hd]⟩))

/-- What a lane of the set takes. -/
def takenAt (cs : List Cand) (r : Cand) (lane : Nat) : Option Nat :=
  if lane == tLane r.t then some r.t else (memberAt r (entrants cs) lane).map (·.t)

theorem takenAt_spec (hr : r ∈ entrants cs) {lane u : Nat} (h : takenAt cs r lane = some u) :
    tLane u = lane ∧ ∃ c ∈ cs, c.t = u ∧ c.sameKey r = true ∧ c.dest = r.dest := by
  unfold takenAt at h
  split at h
  · rename_i hl
    cases h
    exact ⟨(beq_iff_eq.1 hl).symm, r, mem_of_mem_entrants hr, rfl, by simp [sameKey_iff], rfl⟩
  · obtain ⟨c, hc, rfl⟩ := Option.map_eq_some_iff.1 h
    obtain ⟨hm, hl, hk, hd⟩ := memberAt_spec hc
    exact ⟨hl, c, mem_of_mem_entrants hm, rfl, hk, hd⟩

theorem issueSetOf_of_refOf (hr : refOf (entrants cs) = some r) :
    issueSetOf cs = (List.range 32).filterMap (takenAt cs r) := by
  rw [issueSetOf_eq, hr]
  rfl

theorem tLane_lt (t : Nat) : tLane t < 32 := Nat.mod_lt t (by decide)

theorem mem_issueSetOf_of_takenAt (hr : refOf (entrants cs) = some r) {lane u : Nat} (hl : lane < 32)
    (h : takenAt cs r lane = some u) : u ∈ issueSetOf cs := by
  rw [issueSetOf_of_refOf hr]
  exact List.mem_filterMap.2 ⟨lane, List.mem_range.2 hl, h⟩

/-- Who is in the set: candidates that stand as the reference does. -/
theorem mem_issueSetOf (hr : refOf (entrants cs) = some r) {u : Nat} (h : u ∈ issueSetOf cs) :
    ∃ c ∈ cs, c.t = u ∧ c.sameKey r = true ∧ c.dest = r.dest := by
  rw [issueSetOf_of_refOf hr] at h
  obtain ⟨lane, -, hu⟩ := List.mem_filterMap.1 h
  exact (takenAt_spec (mem_of_refOf hr) hu).2

theorem reference_mem_issueSetOf (hr : refOf (entrants cs) = some r) : r.t ∈ issueSetOf cs :=
  mem_issueSetOf_of_takenAt hr (tLane_lt r.t) (if_pos (beq_self_eq_true _))

/-- Every lane with a candidate that stands as the reference does has one in the set. -/
theorem exists_of_lane (hr : refOf (entrants cs) = some r) (hc : c ∈ cs) (hk : c.sameKey r = true) (hd : c.dest = r.dest) :
    ∃ v ∈ issueSetOf cs, tLane v = tLane c.t := by
  obtain ⟨u, hu⟩ : ∃ u, takenAt cs r (tLane c.t) = some u := by
    unfold takenAt
    split
    · exact ⟨_, rfl⟩
    · obtain ⟨x, hx⟩ := memberAt_of_mem (mem_entrants_of_sameKey (mem_of_refOf hr) hc hk) hk hd
      rw [hx]
      exact ⟨_, rfl⟩
  exact ⟨u, mem_issueSetOf_of_takenAt hr (tLane_lt _) hu, (takenAt_spec (mem_of_refOf hr) hu).1⟩

theorem issueSetOf_of_none (h : refOf (entrants cs) = none) : issueSetOf cs = [] := by
  rw [issueSetOf_eq, h]

theorem issueSetOf_mem {u : Nat} (h : u ∈ issueSetOf cs) : ∃ c ∈ cs, c.t = u := by
  cases hr : refOf (entrants cs) with
  | none =>
    rw [issueSetOf_of_none hr] at h
    cases h
  | some r =>
    obtain ⟨c, hc, ht, -⟩ := mem_issueSetOf hr h
    exact ⟨c, hc, ht⟩

/-- The set is in ascending LANE, with one thread at most in each. -/
theorem issueSetOf_lanes (cs : List Cand) : (issueSetOf cs).Pairwise (fun a b => tLane a < tLane b) := by
  cases hr : refOf (entrants cs) with
  | none =>
    rw [issueSetOf_of_none hr]
    exact List.Pairwise.nil
  | some r =>
    rw [issueSetOf_of_refOf hr, List.pairwise_filterMap]
    refine List.pairwise_lt_range.imp fun hab x hx y hy => ?_
    rwa [(takenAt_spec (mem_of_refOf hr) hx).1, (takenAt_spec (mem_of_refOf hr) hy).1]

end Entrants

end Sys2Proof.Machine
end

section
/-! SUPPORT. What a thread that comes up does to the list of threads (R63, R112): none joins it, and one that stays in
it stands there as often as before. -/

namespace Sys2Proof.Machine

/-- Thread u is gone from the list of threads, or stands there n times. -/
def State.Listed (n u : Nat) (s : State) : Prop :=
  (s.threads.map (·.1)).count u = 0 ∨ n ≤ (s.threads.map (·.1)).count u

section Lists

variable {α : Type}

theorem mem_keys_of_find? {m : List (Nat × α)} {k : Nat} (h : find? m k ≠ none) : k ∈ m.map (·.1) := by
  obtain ⟨v, hv⟩ := Option.ne_none_iff_exists'.1 h
  exact List.mem_map_of_mem (mem_of_find? hv)

theorem count_put_ne (m : List (Nat × α)) {k u : Nat} (v : α) (h : u ≠ k) :
    ((put m k v).map (·.1)).count u = (m.map (·.1)).count u := by
  induction m with
  | nil => grind [put]
  | cons x m ih => grind [put]

theorem count_le_put (m : List (Nat × α)) (k u : Nat) (v : α) :
    (m.map (·.1)).count u ≤ ((put m k v).map (·.1)).count u := by
  induction m with
  | nil => simp
  | cons x m ih => grind [put]

end Lists

section Listed

variable {n u : Nat} {s s' : State}

theorem State.Listed.same (h : s.Listed n u) (ht : s'.threads = s.threads) : s'.Listed n u := by
  rwa [State.Listed, ht]

theorem State.Listed.setThread (h : s.Listed n u) {t : Nat} {th : Thread} (ht : t = u → s.thread? u ≠ none) :
    (s.setThread t th).Listed n u := by
  rcases h with h | h
  · by_cases hu : u = t
    · exact absurd (mem_keys_of_find? (ht hu.symm)) (List.count_eq_zero.1 h)
    · exact Or.inl ((count_put_ne s.threads th hu).trans h)
  · exact Or.inr (h.trans (count_le_put s.threads t u th))

theorem State.Listed.setFound (h : s.Listed n u) {t : Nat} {x th : Thread} (ht : s.thread? t = some x) :
    (s.setThread t th).Listed n u :=
  h.setThread fun hu => by simp [← hu, ht]

theorem State.Listed.modThread (h : s.Listed n u) {t : Nat} {f : Thread → Thread} : (s.modThread t f).Listed n u := by
  cases ht : s.thread? t with
  | some x =>
    rw [modThread_of_thread? ht]
    exact h.setFound ht
  | none =>
    refine h.same ?_
    unfold State.thread? at ht
    simp only [State_modThread_threads, adjust, ht]

/-- Threads set one after the other that the first state has. -/
theorem State.Listed.setEach {xs : List (Nat × Thread)} {f : Thread → Thread} (h : s.Listed n u)
    (hx : ∀ x ∈ xs, s.thread? x.1 ≠ none) : (xs.foldl (fun s x => s.setThread x.1 (f x.2)) s).Listed n u := by
  rcases h with h | h
  · refine List.foldlRecOn (motive := State.Listed n u) _ _ (Or.inl h) fun z hz x hm => hz.setThread fun hu => ?_
    exact absurd (mem_keys_of_find? (hu ▸ hx x hm)) (List.count_eq_zero.1 h)
  · refine Or.inr (List.foldlRecOn (motive := fun z : State => n ≤ (z.threads.map (·.1)).count u) _ _ h fun z hz x _ => ?_)
    exact hz.trans (count_le_put z.threads x.1 u _)

theorem listed_haltClosed : HaltClosed (State.Listed n u) where
  core _ _ _ h := h.same rfl
  alloc _ h := h.same rfl
  wait _ h := h.modThread
  skid _ h := h.modThread
  flag _ _ h := h.modThread
  back _ _ h := h.modThread

/-! Traps. -/

theorem modTeam_listed (h : s.Listed n u) (k : Nat) (f : Team → Team) : (s.modTeam k f).Listed n u :=
  h.same (modTeam_threads s k f)

theorem haltTeam_listed (h : s.Listed n u) (v : Nat) : (haltTeam s v).Listed n u := by
  unfold haltTeam
  split
  · exact h
  · refine List.foldlRecOn (motive := State.Listed n u) _ _ (h.same rfl) fun z hz i _ => ?_
    split
    · exact hz
    · exact haltThread_keeps listed_haltClosed hz _

theorem displace_listed (h : s.Listed n u) (v : Nat) : (displace s v).Listed n u := by
  unfold displace
  split
  · exact h
  · refine modTeam_listed ?_ _ _
    split
    · exact State.Listed.same h.modThread rfl
    · exact h

theorem haltFor_listed (h : s.Listed n u) (v : Nat) : (haltFor s v).Listed n u := by
  unfold haltFor
  split
  · exact h
  · split
    · exact haltTeam_listed h v
    · split
      · exact displace_listed h v
      · exact h

theorem deliverTrap_listed (h : s.Listed n u) (v : Nat) (ti : TrapInfo) : (deliverTrap s v ti).Listed n u := by
  unfold deliverTrap
  split
  · exact h
  · rename_i e he
    have hset : ∀ tm th, ((s.setTeam (teamKey v) tm).setThread v th).Listed n u := fun tm th =>
      State.Listed.setFound (h.same rfl) (thread?_of_env he)
    dsimp only
    split
    · exact hset _ _
    · exact (hset _ _).same rfl

theorem deliverLate_listed (h : s.Listed n u) (v : Nat) (ti : TrapInfo) : (deliverLate s v ti).Listed n u := by
  have hd := deliverTrap_listed h v ti
  have hlate : ∀ b (f : Team → Team), (if b = true then (deliverTrap s v ti).modTeam (teamKey v) f
      else deliverTrap s v ti).Listed n u := fun b f => by
    cases b
    · exact hd
    · exact modTeam_listed hd _ _
  unfold deliverLate
  split
  · exact h
  · exact hlate _ _

theorem takeTrap_listed (h : s.Listed n u) (v : Nat) (ti : TrapInfo) : (takeTrap s v ti).Listed n u := by
  have h1 := haltFor_listed h v
  unfold takeTrap
  dsimp only
  split
  · exact h1
  · split
    · exact h1.modThread
    · exact deliverLate_listed h1 v ti

theorem tell_threads (asp : AddrSpace) (va : Nat) : (s.tell asp va).threads = s.threads := by
  unfold State.tell
  split
  · split <;> rfl
  · rfl

theorem raiseTrap_listed (h : s.Listed n u) (v : Nat) (ti : TrapInfo) : (raiseTrap s v ti).Listed n u := by
  have hraise : ∀ (e : Env) x, x.Listed n u → (if e.th.window.isEmpty = true then takeTrap x v ti else
      (haltFor x v).modThread v (fun th => { th with
        window := th.window ++ [{ WUnit.start th with done := false, trap := some ti }]
        nextSeq := th.nextSeq + 1, wait := .none })).Listed n u := fun e x hx => by
    split
    · exact takeTrap_listed hx v ti
    · exact (haltFor_listed hx v).modThread
  unfold raiseTrap
  split
  · exact h
  · refine hraise _ _ ?_
    split
    · exact h.same (tell_threads _ _)
    · exact h

theorem trapUnit_listed (h : s.Listed n u) (v seq : Nat) (ti : TrapInfo) : (trapUnit s v seq ti).Listed n u := by
  unfold trapUnit
  split
  · exact h
  · exact (haltFor_listed h v).modThread

theorem releaseTeam_listed (h : s.Listed n u) (k : Nat) : (releaseTeam s k).Listed n u := by
  unfold releaseTeam
  split
  · exact h
  · exact List.foldlRecOn (motive := State.Listed n u) _ _ (h.same rfl) fun z hz i _ => hz.modThread

theorem resumeTeam_listed (h : s.Listed n u) (k : Nat) : (resumeTeam s k).Listed n u := by
  unfold resumeTeam
  split
  · exact releaseTeam_listed h k
  · split
    · dsimp only
      split
      · refine deliverTrap_listed (State.Listed.modThread ?_) _ _
        exact h.same rfl
      · exact h.same rfl
    · exact h

theorem paramTrap_listed (h : s.Listed n u) (k : Nat) : (paramTrap s k).Listed n u := by
  unfold paramTrap
  split
  · exact h
  · exact resumeTeam_listed (List.foldlRecOn (motive := State.Listed n u) _ _ h fun z hz i _ => hz.modThread) k

/-! The end of a thread. -/

theorem freeSlots_listed (h : s.Listed n u) (v : Nat) (keep : List Nat) : (freeSlots s v keep).Listed n u := by
  unfold freeSlots
  split
  · exact h
  · exact State.Listed.same (h.setFound ‹_›) rfl

theorem grantLock_listed (h : s.Listed n u) (core m g : Nat) : (grantLock s core m g).Listed n u := by
  unfold grantLock
  refine State.Listed.setEach (f := grantThread) (h.same rfl) fun x hx => ?_
  rw [thread?_of_mem_groupThreads hx]
  exact Option.some_ne_none _

theorem offerLock_listed (h : s.Listed n u) (core m : Nat) : (offerLock s core m).Listed n u := by
  unfold offerLock
  dsimp only
  split
  · exact h
  · split
    · exact grantLock_listed h _ _ _
    · exact grantLock_listed h _ _ _
    · exact grantLock_listed h _ _ _
    · exact h

theorem releaseLock_listed (h : s.Listed n u) (v : Nat) : (releaseLock s v).Listed n u := by
  unfold releaseLock
  split
  · exact h
  · rename_i th hth
    have h1 : (s.setThread v { th with xhold := false }).Listed n u := h.setFound hth
    split
    · exact h
    · dsimp only
      split
      · exact h1
      · refine offerLock_listed ?_ _ _
        exact h1.same rfl

/-- A team that goes takes all its threads with it, and no other one. -/
theorem dropTeam_listed (h : s.Listed n u) (k : Nat) : (dropTeam s k).Listed n u := by
  unfold dropTeam
  split
  · exact h
  · rename_i tm _
    dsimp only
    refine State.Listed.same ?_ (threads_foldl (fun s (x : Nat × Handle) => freeHandle_threads s _ x.2) _ _)
    by_cases hu : teamKey u = k
    · refine Or.inl (List.count_eq_zero.2 fun hm => ?_)
      obtain ⟨x, hx, rfl⟩ := List.mem_map.1 hm
      have := (List.mem_filter.1 hx).2
      simp [hu] at this
    · have h1 : ((s.threads.filter fun e => teamKey e.1 == k).foldl (fun s e => freeSlots s e.1 []) s).Listed n u :=
        List.foldlRecOn (motive := State.Listed n u) _ _ h fun z hz x _ => freeSlots_listed hz _ _
      have h2 : ((s.threads.filter fun e => teamKey e.1 == k).foldl
          (fun s e => releaseLock (s.setThread e.1 { e.2 with bound := [], xreq := none }) e.1)
          ((s.threads.filter fun e => teamKey e.1 == k).foldl (fun s e => freeSlots s e.1 []) s)).Listed n u := by
        refine List.foldlRecOn (motive := State.Listed n u) _ _ h1 fun z hz x hx =>
          releaseLock_listed (hz.setThread fun hxu => ?_) _
        have := List.of_mem_filter hx
        simp_all
      have hcount : ∀ m : List (Nat × Thread), ((m.filter fun e => !(teamKey e.1 == k)).map (·.1)).count u =
          (m.map (·.1)).count u := fun m => by
        rw [show (fun e : Nat × Thread => !(teamKey e.1 == k)) = (fun v => !(teamKey v == k)) ∘ (·.1) from rfl,
          ← List.filter_map, List.count_filter]
        simpa using hu
      unfold State.Listed at h2 ⊢
      simp only [State_modLaunch_threads, State_setCore_threads]
      rwa [hcount]

theorem endTeam_listed (h : s.Listed n u) (k : Nat) : (endTeam s k).Listed n u := by
  have hr : (release s (k / 4)).1.Listed n u := h.same (release_threads s _)
  have hd : ∀ {x : State} (tm : Team), x.Listed n u → (dropTeam (foldTeam x tm) k).Listed n u :=
    fun {x} tm hx => dropTeam_listed (s := foldTeam x tm) (hx.same rfl) k
  unfold endTeam
  split
  · split
    · split
      · exact h
      · exact hd _ h
    · dsimp only
      split
      · exact hd _ hr
      · exact hr.modThread
  · exact h

theorem tryEndTeam_listed (h : s.Listed n u) (k : Nat) : (tryEndTeam s k).Listed n u := by
  unfold tryEndTeam
  split
  · exact h
  · dsimp only
    split
    · exact endTeam_listed h k
    · exact h

theorem lastExit_listed (h : s.Listed n u) (v : Nat) : (lastExit s v).Listed n u := by
  unfold lastExit
  split
  · exact h
  · split
    · exact h
    · split
      · exact tryEndTeam_listed h _
      · have hdown : ∀ js : List Job,
            (js.foldl (fun s j => s.modThread j.thread (fun th => th.flagDown? j.flag)) s).Listed n u := fun js =>
          List.foldlRecOn (motive := State.Listed n u) _ _ h fun z hz j _ => hz.modThread
        refine takeTrap_listed ?_ v _
        exact State.Listed.same (hdown _) rfl

theorem meetCheck_listed (h : s.Listed n u) (g : Nat) (arrived : List Nat) : (meetCheck s g arrived).Listed n u := by
  unfold meetCheck
  split
  · dsimp only
    split
    · exact h
    · exact raiseTrap_listed h.modThread _ _
  · exact h

theorem exitThread_listed (h : s.Listed n u) (v : Nat) : (exitThread s v).Listed n u := by
  have h1 := releaseLock_listed (freeSlots_listed (h.same (spillAll_threads s v)) v []) v
  unfold exitThread
  dsimp only
  refine lastExit_listed (meetCheck_listed ?_ _ _) v
  split
  · exact State.Listed.same h1.modThread rfl
  · exact h1.modThread

/-! Commit. -/

theorem commitAct_listed (h : s.Listed n u) (v : Nat) (a : CommitAct) : (commitAct s v a).Listed n u := by
  cases a with
  | none | rel _ | access _ => exact h
  | status _ _ | guard _ _ | bari _ _ => exact modTeam_listed h _ _
  | lease _ => exact h.same rfl
  | unlock => exact releaseLock_listed h v
  | slots =>
    show (trimSlots s v).Listed n u
    unfold trimSlots
    split
    · exact h
    · exact freeSlots_listed h _ _
  | exit => exact exitThread_listed h v

theorem commitUnit_listed (h : s.Listed n u) {v : Nat} {th : Thread} (hv : s.thread? v ≠ none) (w : WUnit) (ws : List WUnit) :
    (commitUnit s v th w ws).Listed n u := by
  have hset : ∀ x, (s.setThread v x).Listed n u := fun x => h.setThread fun hu => hu ▸ hv
  unfold commitUnit
  dsimp only
  split
  · exact hset _
  · exact commitAct_listed (hset _) v _

theorem waitWalk_listed (h : s.Listed n u) (v va : Nat) : (s.waitWalk v va).Listed n u := State.Listed.same h.modThread rfl

theorem waitAts_listed (h : s.Listed n u) (e : Env) (page va : Nat) (write : Bool) :
    (s.waitAts e page va write).Listed n u := by
  refine State.Listed.modThread (h.same ?_)
  unfold State.request
  split <;> rfl

/-- What a translation that has to wait leaves. -/
theorem xlatChk_listed (h : s.Listed n u) {e : Env} {va : Nat} {need : Need} {s' : State}
    (hx : xlatChk s e va need (fun _ => .ok s) = .wait s') : s'.Listed n u := by
  unfold xlatChk at hx
  split at hx <;> cases hx
  · exact waitWalk_listed h _ _
  · exact waitAts_listed h _ _ _ _

theorem spillChecks_listed (h : s.Listed n u) {e : Env} {bs : List Nat} {s' : State} (hx : spillChecks s e bs = .wait s') :
    s'.Listed n u := by
  induction bs with
  | nil => cases hx
  | cons b bs ih =>
    unfold spillChecks at hx
    split at hx
    · exact ih hx
    · unfold spillCheck at hx
      dsimp only at hx
      split at hx
      · exact xlatChk_listed h hx
      · cases hx

theorem commitExit_listed (h : s.Listed n u) {v : Nat} {th : Thread} {w : WUnit} {ws : List WUnit}
    (hx : commitExit s v th w ws = some s') : s'.Listed n u := by
  unfold commitExit at hx
  split at hx
  · cases hx
  · rename_i e he
    have hv : s.thread? v ≠ none := by simp [thread?_of_env he]
    split at hx
    · cases hx
      exact trapUnit_listed h _ _ _
    · split at hx <;> cases hx
      exact spillChecks_listed h ‹_›
    · split at hx <;> cases hx
      exact commitUnit_listed h hv _ _

theorem commitHead_listed (h : s.Listed n u) {v : Nat} (hx : commitHead s v = some s') : s'.Listed n u := by
  unfold commitHead at hx
  split at hx
  · cases hx
  · rename_i th hth
    have hv : s.thread? v ≠ none := by simp [hth]
    have hr : (release s (tCore v)).1.Listed n u := h.same (release_threads s _)
    have hrv : (release s (tCore v)).1.thread? v = some th := by rwa [State.thread?, release_threads]
    split at hx
    · cases hx
    · split at hx
      · cases hx
      · split at hx
        · split at hx
          · cases hx
          · dsimp only at hx
            split at hx <;> cases hx
            · exact commitUnit_listed hr (by simp [hrv]) _ _
            · exact hr.setFound hrv
        · split at hx <;> cases hx
          exact commitUnit_listed h hv _ _
        · exact commitExit_listed h hx
        · split at hx <;> cases hx
          exact commitUnit_listed h hv _ _

theorem commitAll_listed (h : s.Listed n u) (v m : Nat) : (commitAll s v m).Listed n u := by
  induction m generalizing s with
  | zero => exact h
  | succ m ih =>
    unfold commitAll
    split
    · exact ih (commitHead_listed h ‹_›)
    · exact h

/-! The fetch of a header (R63). -/

theorem l2Fill_threads (ln : Nat) (rank rc : BitVec 2) : (l2Fill s ln rank rc).threads = s.threads := by
  unfold l2Fill
  split
  · rfl
  · split
    · rfl
    · exact l2Install_threads s ln _

theorem icRead_threads (core pa : Nat) : (icRead s core pa).1.threads = s.threads := by
  unfold icRead
  dsimp only
  split
  · rfl
  · exact l2Fill_threads _ _ _

/-- The state of a fetch. -/
def Fetch.Holds (P : State → Prop) : Fetch → Prop
  | .ok s _ | .wait s => P s
  | .trap _ | .hole => True

/-- An outcome with a state has a property. -/
def Leads (P : State → Prop) (r : Outcome) : Prop := ∀ x, r = .next x → P x

theorem fetchWord_listed (h : s.Listed n u) (e : Env) (a : DWord) : (fetchWord s e a).Holds (State.Listed n u) := by
  unfold fetchWord
  dsimp only
  split
  · trivial
  · split
    · trivial
    · exact waitWalk_listed h _ _
    · exact waitAts_listed h _ _ _ _
    · split
      · trivial
      · split
        · exact h
        · split
          · exact h.same rfl
          · exact h.same (icRead_threads _ _)

theorem header_of_readUnit {c : Ctx} {w : DWord} {next : Option DWord} {d : Decoded} (hc : c.crem = 0)
    (h : readUnit c w next = .ok d) : ∃ x, d = .header x := by
  unfold readUnit at h
  dsimp only at h
  split at h
  · cases h
    exact ⟨_, rfl⟩
  · simp [hc] at h
  · simp [hc] at h
  · cases h

/-- What stands next at a clause's header (R63): a header, or no unit. -/
def Next.AtHeader (P : State → Prop) : Next → Prop
  | .run s d => P s ∧ ∃ x, d = .header x
  | .wait s => P s
  | .trap _ | .hole => True

theorem refreshed_of_read {e : Env} (h : e.th.stale = false) : refreshed s e = .ok s e := by
  simp [refreshed, h]

theorem nextUnit_listed (h : s.Listed n u) {e : Env} (hs : e.th.stale = false) (hc : e.th.ctx.crem = 0) :
    (nextUnit s e).AtHeader (State.Listed n u) := by
  have hfetch := fetchWord_listed h e e.th.ctx.pc
  unfold nextUnit
  rw [refreshed_of_read hs]
  dsimp only
  split
  · trivial
  · rename_i hx
    rwa [hx] at hfetch
  · trivial
  · rename_i s1 w hx
    rw [hx] at hfetch
    rw [if_neg (by simp [hc])]
    cases hr : readUnit e.th.ctx w none with
    | error ti => trivial
    | ok d => exact ⟨hfetch, header_of_readUnit hc hr⟩

theorem reachEntry_threads (lid k m i : Nat) (e : List DWord) : (reachEntry lid k m s i e).threads = s.threads := by
  have hl : ∀ (x : State) f, (x.modLaunch lid f).threads = x.threads := fun _ _ => rfl
  have ht : ∀ (x : State) f, (x.modTeam k f).threads = x.threads := fun x f => modTeam_threads x k f
  unfold reachEntry
  dsimp only
  split <;> grind

/-- A header passed (R63). -/
theorem execClauseHeader_listed (h : s.Listed n u) (x : Header) : Leads (State.Listed n u) (execClauseHeader x s) := by
  intro t ht
  unfold execClauseHeader at ht
  split at ht
  · cases ht
  · rename_i e _
    have hpast : ∀ s' : State, s'.threads = s.threads →
        (s'.modThread e.t (fun th => { th with ctx := th.ctx.enterClause x })).Listed n u :=
      fun s' hs' => State.Listed.modThread (h.same hs')
    have hacq : (if x.wait == 0 then s else acquire s (tCore e.t)).threads = s.threads := by split <;> rfl
    split at ht
    · cases ht
      exact h.same rfl
    · split at ht
      · cases ht
        exact raiseTrap_listed h _ _
      · split at ht
        · cases ht
          exact h.same rfl
        · dsimp only at ht
          split at ht <;> cases ht
          · refine State.Listed.same (hpast _ hacq) ?_
            exact threads_foldl (fun s p => reachEntry_threads _ _ _ _ _) _ _
          · exact hpast _ hacq

theorem trapNext_listed (h : s.Listed n u) (e : Env) (ti : TrapInfo) : Leads (State.Listed n u) (trapNext s e ti) := by
  intro t ht
  unfold trapNext at ht
  split at ht
  · cases ht
    exact h.same rfl
  · split at ht <;> cases ht
    · exact paramTrap_listed h _
    · exact raiseTrap_listed h _ _

/-- A thread at a clause's header. -/
theorem runThread_listed (h : s.Listed n u) {v : Nat} {e : Env} (he : s.env v = some e) (hs : e.th.stale = false)
    (hc : e.th.ctx.crem = 0) : Leads (State.Listed n u) (runThread s v) := by
  have hv : ({ s with cur := v } : State).Listed n u := h.same rfl
  have hev : ({ s with cur := v } : State).env v = some e := he
  have hnext := nextUnit_listed hv hs hc
  intro t ht
  unfold runThread at ht
  dsimp only at ht
  rw [hev] at ht
  dsimp only at ht
  split at ht
  · cases ht
    exact h.same rfl
  · split at ht
    · exact trapNext_listed hv _ _ _ ht
    · rename_i hx
      rw [hx] at hnext
      cases ht
      exact hnext
    · cases ht
    · rename_i hx
      rw [hx] at hnext
      obtain ⟨hrun, x, rfl⟩ := hnext
      exact execClauseHeader_listed hrun x _ ht

theorem refreshed_spec {e e' : Env} {s' : State} {v : Nat} (he : s.env v = some e) (h : refreshed s e = .ok s' e') :
    s'.env v = some e' ∧ e'.th.stale = false ∧ (s.Listed n u → s'.Listed n u) := by
  obtain rfl := env_t he
  have hfound : ∀ c left, Refreshed.ok (s.setThread e.t (e.th.atClause c left)) { e with th := e.th.atClause c left } =
      .ok s' e' → s'.env e.t = some e' ∧ e'.th.stale = false ∧ (s.Listed n u → s'.Listed n u) := fun c left hx => by
    cases hx
    exact ⟨env_setThread he _, rfl, fun h => h.setFound (thread?_of_env he)⟩
  unfold refreshed at h
  dsimp only at h
  split at h
  · rename_i hs
    cases h
    exact ⟨he, by simpa using hs, fun h => h⟩
  · split at h
    · exact hfound _ _ h
    · exact hfound _ _ h
    · split at h <;> cases h

theorem frontEnd_listed (h : s.Listed n u) (v : Nat) : Leads (State.Listed n u) (frontEnd s v) := by
  intro t ht
  unfold frontEnd at ht
  split at ht
  · cases ht
    exact h
  · rename_i e he
    split at ht
    · cases ht
      exact h
    · split at ht
      · cases ht
        exact h
      · rename_i s' e' hr
        obtain ⟨he', hs', hl'⟩ := refreshed_spec (n := n) (u := u) he hr
        split at ht
        · rename_i hc
          exact runThread_listed (hl' h) he' hs' (by simpa using hc) _ ht
        · cases ht
          exact hl' h

theorem comeUp_listed (h : s.Listed n u) (v : Nat) : (comeUp s v).Listed n u := by
  have h1 := commitAll_listed h v 8
  have hfront := frontEnd_listed (s := (commitAll s v 8).fresh) (h1.same rfl) v
  unfold comeUp
  dsimp only
  split
  · rename_i x hx
    split
    · exact h1
    · exact hfront _ hx
  · exact h1

end Listed

end Sys2Proof.Machine
end

section
/-! SUPPORT. The pick (R61, R62, R198): what it does to the threads of a cluster, and the order in which the set acts. -/

namespace Sys2Proof.Machine

/-- The second state differs in its threads only. -/
def OnlyThreads (s t : State) : Prop := t = { s with threads := t.threads }

section Only

variable {s t : State}

theorem OnlyThreads.refl (s : State) : OnlyThreads s s := rfl

theorem OnlyThreads.setThread (h : OnlyThreads s t) (v : Nat) (th : Thread) : OnlyThreads s (t.setThread v th) := by
  unfold OnlyThreads at h ⊢
  unfold State.setThread
  rw [h]

theorem OnlyThreads.modThread (h : OnlyThreads s t) (v : Nat) (f : Thread → Thread) : OnlyThreads s (t.modThread v f) := by
  unfold OnlyThreads at h ⊢
  unfold State.modThread
  rw [h]

theorem OnlyThreads.memory (h : OnlyThreads s t) : SameMemory s t := by
  rw [h]
  exact ⟨fun _ => rfl, fun _ => rfl, fun _ => rfl⟩

theorem OnlyThreads.issued (h : OnlyThreads s t) : t.issued = s.issued := by rw [h]

theorem OnlyThreads.core (h : OnlyThreads s t) (n : Nat) : t.core n = s.core n := by
  rw [h]
  rfl

/-- The turn's bookkeeping taken back. -/
theorem OnlyThreads.restored (h : OnlyThreads s t) :
    { t with issueQ := s.issueQ, issueSet := s.issueSet, issued := s.issued } = t := by
  rw [h]

/-- A thread found again, with its team and launch. -/
theorem OnlyThreads.env (h : OnlyThreads s t) {u : Nat} {e : Env} {th : Thread} (he : t.env u = some e)
    (hth : s.thread? u = some th) : s.env u = some { e with th := th } := by
  obtain rfl := env_t he
  have hteam : s.team? (teamKey e.t) = some e.tm := by
    have := team?_of_env he
    rwa [h] at this
  have hla : find? s.launches e.tm.lid = some e.la := by
    have := launch_of_env he
    rwa [h] at this
  simp only [State.env, hth, hteam, hla]

end Only

/-! After the pick. -/

section Pick

variable {s : State} {u : Nat}

/-- Each thread of a list changed once. -/
theorem thread?_modEach (f : Nat → Thread → Thread) (xs : List Nat) (hu : xs.count u ≤ 1) (s : State) :
    (xs.foldl (fun s t => s.modThread t (f t)) s).thread? u = if u ∈ xs then (s.thread? u).map (f u) else s.thread? u := by
  induction xs generalizing s with
  | nil => rfl
  | cons x xs ih =>
    by_cases hx : x = u
    · subst hx
      have hnot : x ∉ xs := by
        rw [List.count_cons_self] at hu
        exact List.count_eq_zero.1 (by omega)
      rw [List.foldl_cons, ih (by simp [List.count_eq_zero.2 hnot]), if_neg hnot, thread?_modThread]
      simp
    · rw [List.count_cons_of_ne hx] at hu
      rw [List.foldl_cons, ih hu, thread?_modThread, if_neg (Ne.symm hx)]
      simp [Ne.symm hx]

theorem onlyThreads_modEach (f : Nat → Thread → Thread) (xs : List Nat) (s : State) :
    OnlyThreads s (xs.foldl (fun s t => s.modThread t (f t)) s) :=
  List.foldlRecOn (motive := OnlyThreads s) _ _ (OnlyThreads.refl s) fun _ h x _ => h.modThread x _

/-- The guard that a thread's next unit reads is kept once it is not Open (R198). -/
theorem noteGuard_cases (s : State) (t : Nat) : noteGuard s t = s ∨ ∃ e n, s.env t = some e ∧ e.th.gread = none ∧
    n < 16 ∧ n ≠ 0 ∧ e.guard n ≠ 2 ∧ noteGuard s t = s.setThread t { e.th with gread := some (e.guard n == 1) } := by
  unfold noteGuard
  split
  · exact Or.inl rfl
  · rename_i e he
    split
    · exact Or.inl rfl
    · rename_i hg
      split
      · dsimp only
        split
        · exact Or.inl rfl
        · rename_i i _ _ ho
          simp only [Bool.or_eq_true, beq_iff_eq, not_or] at hg ho
          refine Or.inr ⟨e, i.ctl.g.toNat, he, by simpa using hg.1, i.ctl.g.isLt, fun h0 => ho.1 ?_, ho.2, rfl⟩
          exact BitVec.eq_of_toNat_eq h0
      · exact Or.inl rfl

theorem onlyThreads_noteGuard {s0 s : State} (h : OnlyThreads s0 s) (t : Nat) : OnlyThreads s0 (noteGuard s t) := by
  rcases noteGuard_cases s t with hn | ⟨e, n, -, -, -, -, -, hn⟩
  · rwa [hn]
  · rw [hn]
    exact h.setThread _ _

theorem thread?_noteGuard_ne {t : Nat} (h : u ≠ t) : (noteGuard s t).thread? u = s.thread? u := by
  rcases noteGuard_cases s t with hn | ⟨e, n, -, -, -, -, -, hn⟩
  · rw [hn]
  · rw [hn]
    exact thread?_setThread_ne _ _ h

/-- What a thread may keep of its guard: what it had, or, where it had none, the value of one that is not Open. -/
def Noted (s : State) (u : Nat) (th : Thread) (g : Option Bool) : Prop :=
  g = th.gread ∨ (th.gread = none ∧ ∃ e n, s.env u = some e ∧ n < 16 ∧ n ≠ 0 ∧ e.guard n ≠ 2 ∧ g = some (e.guard n == 1))

theorem noted_all {s1 : State} {th new : Thread} (hth : s1.thread? u = some th) (hw : new.window = th.window)
    (hg : new.gread = th.gread) (ho : OnlyThreads s1 s) (hs : s.thread? u = some new) (xs : List Nat) :
    ∃ g, (xs.foldl noteGuard s).thread? u = some { new with gread := g } ∧ Noted s1 u th g := by
  have start : OnlyThreads s1 s ∧ ∃ g, s.thread? u = some { new with gread := g } ∧ Noted s1 u th g :=
    ⟨ho, new.gread, hs, Or.inl hg⟩
  refine (List.foldlRecOn (motive := fun z : State => OnlyThreads s1 z ∧
    ∃ g, z.thread? u = some { new with gread := g } ∧ Noted s1 u th g) _ _ start fun z hz v _ => ?_).2
  obtain ⟨hoz, g, hzu, hng⟩ := hz
  refine ⟨onlyThreads_noteGuard hoz v, ?_⟩
  by_cases hv : u = v
  · subst hv
    rcases noteGuard_cases z u with hn | ⟨e, n, he, hnone, h16, h0, h2, hn⟩
    · exact ⟨g, by rw [hn, hzu], hng⟩
    · have heth : e.th = { new with gread := g } := Option.some.inj ((thread?_of_env he).symm.trans hzu)
      have hgnone : g = none := by rw [heth] at hnone; exact hnone
      have hthnone : th.gread = none := by
        rcases hng with hng | ⟨hng, -⟩
        · rw [← hng, hgnone]
        · exact hng
      have hguard : e.guard n = ({ e with th := th } : Env).guard n := by
        simp only [Env.guard, heth, hw]
      refine ⟨some (e.guard n == 1), ?_, Or.inr ⟨hthnone, _, n, hoz.env he hth, h16, h0, hguard ▸ h2, by rw [hguard]⟩⟩
      rw [hn, thread?_setThread_self, heth]
  · exact ⟨g, by rw [thread?_noteGuard_ne hv, hzu], hng⟩

end Pick

/-! The order in which the set acts. -/

section Order

variable {s : State} {set : List Nat} {u : Nat} {e : Env}

theorem actOrder_of_xacq (hu : set.head? = some u) (he : s.env u = some e) {s2 : State} {c : Ctl} {n : Nat}
    (hn : nextUnit s e = .run s2 (.one (.xacq c) n)) :
    let low (t : Nat) : Bool := (slotOf (s.core (tCore u)) (gKey t)).getD 0 % 2 == 0
    actOrder s set = set.filter low ++ set.filter (fun t => !low t) := by
  obtain ⟨us, rfl⟩ := List.head?_eq_some_iff.1 hu
  simp only [actOrder, he, Option.map_some, hn]

theorem actOrder_of_not (h : ¬∃ u e s2 c n, set.head? = some u ∧ s.env u = some e ∧
    nextUnit s e = .run s2 (.one (.xacq c) n)) : actOrder s set = set := by
  unfold actOrder
  split
  · rfl
  · rename_i u us
    split
    · rename_i hm
      obtain ⟨e, he, hn⟩ := Option.map_eq_some_iff.1 hm
      exact absurd ⟨u, e, _, _, _, rfl, he, hn⟩ h
    · rfl

end Order

/-! Candidates. -/

section Candidates

variable {s s1 : State} {core cl u : Nat} {c : Cand}

theorem candOf_t (h : candOf s u = some c) : c.t = u := by
  unfold candOf at h
  split at h <;> cases h
  rfl

/-- The candidates of a cluster. -/
def candsOf (s1 : State) (all : List Nat) : List Cand := (all.filter (ready s1)).filterMap (candOf s1)

theorem mem_candsOf {all : List Nat} : c ∈ candsOf s1 all ↔ c.t ∈ all ∧ ready s1 c.t = true ∧ candOf s1 c.t = some c := by
  unfold candsOf
  rw [List.mem_filterMap]
  constructor
  · rintro ⟨v, hv, hc⟩
    obtain ⟨ha, hr⟩ := List.mem_filter.1 hv
    rw [candOf_t hc]
    exact ⟨ha, hr, hc⟩
  · rintro ⟨ha, hr, hc⟩
    exact ⟨c.t, List.mem_filter.2 ⟨ha, hr⟩, hc⟩

theorem core_of_mem_clusterThreads (h : u ∈ clusterThreads s core cl) : tCore u = core := by
  have := (List.mem_filter.1 h).2
  simp only [Bool.and_eq_true, beq_iff_eq] at this
  exact this.1

theorem nodup_of_sorted {α : Type} {m : List (Nat × α)} (h : Sorted m = true) : (m.map (·.1)).Nodup := by
  induction m with
  | nil => exact List.nodup_nil
  | cons x m ih =>
    obtain ⟨k, v⟩ := x
    simp only [Sorted, Bool.and_eq_true, List.all_eq_true, decide_eq_true_eq] at h
    refine List.nodup_cons.2 ⟨fun hm => ?_, ih h.2⟩
    obtain ⟨y, hy, hk⟩ := List.mem_map.1 hm
    have := h.1 y hy
    simp only at hk
    omega

/-- A thread that the state still lists once it has come up stands once among those of its cluster. -/
theorem count_clusterThreads {th : Thread} {xs : List Nat} (hs : Sorted (xs.foldl comeUp s).threads = true)
    (hu : (xs.foldl comeUp s).thread? u = some th) : (clusterThreads s core cl).count u ≤ 1 := by
  have hl : (xs.foldl comeUp s).Listed ((s.threads.map (·.1)).count u) u :=
    List.foldlRecOn (motive := State.Listed ((s.threads.map (·.1)).count u) u) _ _ (Or.inr le_rfl)
      fun _ h v _ => comeUp_listed h v
  have hone := List.nodup_iff_count_le_one.1 (nodup_of_sorted hs) u
  have hmem : u ∈ (xs.foldl comeUp s).threads.map (·.1) := mem_keys_of_find? (by
    rw [show find? (xs.foldl comeUp s).threads u = some th from hu]
    exact Option.some_ne_none _)
  have hsub : (clusterThreads s core cl).count u ≤ (s.threads.map (·.1)).count u := List.filter_sublist.count_le u
  rcases hl with h0 | hl
  · exact absurd hmem (List.count_eq_zero.1 h0)
  · omega

end Candidates

end Sys2Proof.Machine
end

section
/-! PROOF of IssueSets. -/

namespace Sys2Proof.Machine

/-! The turn of a cluster. -/

section Turn

variable {s : State} {core cl : Nat}

theorem formSet_of_past (h : (core, cl) ∈ s.issued ∨ ∃ x ∈ s.issued, cl < x.2) : formSet s core cl = s := by
  have hany : s.issued.any (fun x => cl < x.2 || x == (core, cl)) = true := by
    rw [List.any_eq_true]
    rcases h with h | ⟨x, hx, hlt⟩
    · exact ⟨_, h, by simp⟩
    · exact ⟨x, hx, by simp [hlt]⟩
  unfold formSet
  rw [if_pos hany]

/-- The threads of a cluster have come up. -/
def risen (s : State) (core cl : Nat) : State := (clusterThreads s core cl).foldl comeUp s

/-- The issue set of a cluster. -/
def pickOf (s : State) (core cl : Nat) : List Nat :=
  if withheld (risen s core cl) core then [] else issueSetOf (candsOf (risen s core cl) (clusterThreads s core cl))

/-- The threads after the pick. -/
def agedState (s : State) (core cl : Nat) : State :=
  (clusterThreads s core cl).foldl (fun x t => x.modThread t (afterPick (pickOf s core cl)
    ((clusterThreads s core cl).filter (ready (risen s core cl))) t)) (risen s core cl)

/-- They have read their guards. -/
def notedState (s : State) (core cl : Nat) : State := (clusterThreads s core cl).foldl noteGuard (agedState s core cl)

theorem formSet_of_turn (h1 : (core, cl) ∉ s.issued) (h2 : ∀ x ∈ s.issued, x.2 ≤ cl) : formSet s core cl =
    { notedState s core cl with
      issueQ := actOrder (notedState s core cl) (pickOf s core cl), issueSet := pickOf s core cl
      issued := (notedState s core cl).issued ++ [(core, cl)] } := by
  have hany : s.issued.any (fun x => cl < x.2 || x == (core, cl)) = false := by
    rw [List.any_eq_false]
    intro x hx
    have hle := h2 x hx
    have hne : x ≠ (core, cl) := fun hxe => h1 (hxe ▸ hx)
    simp [hne, hle]
  unfold formSet
  rw [if_neg (by simp [hany])]
  rfl

theorem onlyThreads_aged (s : State) (core cl : Nat) : OnlyThreads (risen s core cl) (agedState s core cl) :=
  onlyThreads_modEach _ _ _

theorem onlyThreads_noted (s : State) (core cl : Nat) : OnlyThreads (risen s core cl) (notedState s core cl) :=
  List.foldlRecOn (motive := OnlyThreads (risen s core cl)) _ _ (onlyThreads_aged s core cl)
    fun _ h t _ => onlyThreads_noteGuard h t

theorem mem_pickOf {u : Nat} (h : u ∈ pickOf s core cl) : ∃ c ∈ candsOf (risen s core cl) (clusterThreads s core cl), c.t = u := by
  unfold pickOf at h
  split at h
  · cases h
  · exact issueSetOf_mem h

theorem pickOf_lanes (s : State) (core cl : Nat) : (pickOf s core cl).Pairwise (fun a b => tLane a < tLane b) := by
  unfold pickOf
  split
  · exact List.Pairwise.nil
  · exact issueSetOf_lanes _

/-- A thread of the cluster after the pick of a set (R62, R66). -/
def Thread.picked (th : Thread) (set : List Nat) (rdy : Bool) (u : Nat) : Thread :=
  { th with
    age := if u ∈ set then 0 else if rdy = true then th.age + 1 else th.age
    starved := if u ∈ set then none else th.starved
    yieldEnd := if set = [] ∨ u ∈ set then th.yieldEnd else none }

theorem afterPick_eq {set rdy : List Nat} {u : Nat} {b : Bool} (h : u ∈ rdy ↔ b = true) (th : Thread) :
    afterPick set rdy u th = th.picked set b u := by
  unfold afterPick Thread.picked
  by_cases hp : u ∈ set
  · simp [hp]
  · simp [hp, h]

/-- Threads of other clusters stay. -/
theorem thread?_noted_ne {u : Nat} (h : u ∉ clusterThreads s core cl) :
    (notedState s core cl).thread? u = (risen s core cl).thread? u := by
  have hne : ∀ t ∈ clusterThreads s core cl, u ≠ t := fun t ht hut => h (hut ▸ ht)
  have haged : (agedState s core cl).thread? u = (risen s core cl).thread? u := by
    unfold agedState
    rw [thread?_modEach _ _ (by simp [List.count_eq_zero.2 h]), if_neg h]
  refine (List.foldlRecOn (motive := fun z : State => z.thread? u = (agedState s core cl).thread? u) _ _ rfl
    fun z hz t ht => ?_).trans haged
  exact (thread?_noteGuard_ne (hne t ht)).trans hz

/-- A thread of the cluster after the pick, with the guard that it has read (R198). -/
theorem thread?_noted {u : Nat} {th : Thread} (hs : Sorted (risen s core cl).threads = true)
    (hu : u ∈ clusterThreads s core cl) (hth : (risen s core cl).thread? u = some th) :
    ∃ g, (notedState s core cl).thread? u =
      some { th.picked (pickOf s core cl) (ready (risen s core cl) u) u with gread := g } ∧
    Noted (risen s core cl) u th g := by
  have hcount : (clusterThreads s core cl).count u ≤ 1 := count_clusterThreads hs hth
  have hrdy : u ∈ (clusterThreads s core cl).filter (ready (risen s core cl)) ↔ ready (risen s core cl) u = true := by
    simp [hu]
  have haged : (agedState s core cl).thread? u = some (th.picked (pickOf s core cl) (ready (risen s core cl) u) u) := by
    unfold agedState
    rw [thread?_modEach _ _ hcount, if_pos hu, hth, Option.map_some, afterPick_eq hrdy]
  exact noted_all (new := th.picked (pickOf s core cl) (ready (risen s core cl) u) u) hth rfl rfl (onlyThreads_aged s core cl) haged _

end Turn

/-- A thread comes up (R63, R112) past the header that it has reached. -/
theorem comeUp_of_idle {x : State} {u : Nat} {e : Env} (he : x.env u = some e) (hs : x.stalled = false)
    (hp : x.pair = none) (hst : e.th.stale = false) (hw : e.th.window = []) :
    (e.mayIssue x.clk = false ∨ e.th.ctx.crem ≠ 0 → comeUp x u = x) ∧
    (e.mayIssue x.clk = true → e.th.ctx.crem = 0 → comeUp x u =
      match runThread x u with | .next y => if y.stalled then x else y | _ => x) := by
  have hnone : commitHead x u = none := by simp [commitHead, thread?_of_env he, hw]
  have hall : commitAll x u 8 = x := by simp [commitAll, hnone]
  have hfresh : x.fresh = x := by
    unfold State.fresh
    rw [← hs, ← hp]
  have hup : comeUp x u = match frontEnd x u with | .next y => if y.stalled then x else y | _ => x := by
    unfold comeUp
    dsimp only
    rw [hall, hfresh] <;> rfl
  rw [hup]
  constructor
  · intro h
    have hfront : frontEnd x u = .next x := by
      rcases h with h | h
      · simp [frontEnd, he, h]
      · simp [frontEnd, he, refreshed_of_read hst, h]
    rw [hfront]
    simp
  · intro hm hc
    have hfront : frontEnd x u = runThread x u := by simp [frontEnd, he, hm, refreshed_of_read hst, hc]
    rw [hfront]

theorem comeUp_of_commit {x y : State} {u : Nat} (h : commitHead x u = some y) (hn : commitHead y u = none) :
    comeUp x u = comeUp y u := by
  have hx : commitAll x u 8 = y := by simp [commitAll, h, hn]
  have hy : commitAll y u 8 = y := by simp [commitAll, hn]
  unfold comeUp
  rw [hx, hy]

/-- Settles O56: the threads of a cluster that still stand in the list once they have come up stand there once, so that
each is aged once; the set is that of the candidates' orders. -/
theorem issueSets : Obligations.IssueSets := by
  intro s core cl ms hq ha s0 s1 may low locks
  have hstep : step s = .next (formSet s0 core cl) := step_of_agenda hq ha
  have hmay : ∀ {u c}, may u c ↔ c ∈ candsOf s1 (clusterThreads s0 core cl) ∧ c.t = u := by
    intro u c
    rw [mem_candsOf]
    constructor
    · rintro ⟨h1, h2, h3⟩
      obtain rfl := candOf_t h3
      exact ⟨⟨h1, h2, h3⟩, rfl⟩
    · rintro ⟨h, rfl⟩
      exact h
  refine ⟨fun h => by rw [hstep, formSet_of_past (s := s0) h], fun h1 h2 => ?_, fun x u e he hs hp hst => ⟨fun hw => ?_, fun hw => ?_,
    fun y h hn => comeUp_of_commit h hn⟩⟩
  · have honly := onlyThreads_noted s0 core cl
    have hlocks : ∀ q l, locks { notedState s0 core cl with issueQ := q, issueSet := pickOf s0 core cl, issued := l } ↔
        ∃ u e s2 c n, (pickOf s0 core cl).head? = some u ∧ (notedState s0 core cl).env u = some e ∧
          nextUnit (notedState s0 core cl) e = .run s2 (.one (.xacq c) n) := fun q l => by
      rw [← honly.restored]
      rfl
    refine ⟨_, hstep.trans (congrArg _ (formSet_of_turn (s := s0) h1 h2)), ?_, ?_, fun hl => ?_, fun hl => ?_, fun hw => ?_,
      fun u hu => ?_, pickOf_lanes s0 core cl, fun hw hex => ?_, fun u hu => thread?_noted_ne hu, fun hs u th hu hth => ?_⟩
    · exact congrArg (· ++ _) honly.issued
    · obtain ⟨hd, hh, hr⟩ := honly.memory
      exact ⟨hd, hh, hr⟩
    · obtain ⟨u, e, s2, c, n, hu, he, hn⟩ := (hlocks _ _).1 hl
      obtain ⟨x, hx, rfl⟩ := mem_pickOf (List.mem_of_head? hu)
      obtain ⟨hx, -⟩ := mem_candsOf.1 hx
      have horder := actOrder_of_xacq hu he hn
      rw [honly.core, core_of_mem_clusterThreads hx] at horder
      exact horder
    · exact actOrder_of_not fun h => hl ((hlocks _ _).2 h)
    · exact if_pos hw
    · obtain ⟨c, hc, rfl⟩ := mem_pickOf hu
      exact ⟨c, hmay.2 ⟨hc, rfl⟩⟩
    · have hset : pickOf s0 core cl = issueSetOf (candsOf s1 (clusterThreads s0 core cl)) :=
        if_neg (by rw [show withheld (risen s0 core cl) core = false from hw]; exact Bool.false_ne_true)
      obtain ⟨u0, c0, h0⟩ := hex
      obtain ⟨hc0, -⟩ := hmay.1 h0
      obtain ⟨r, hr⟩ := exists_reference (List.ne_nil_of_mem hc0)
      have hcand : ∀ {u c}, may u c → c ∈ candsOf s1 (clusterThreads s0 core cl) := fun h => (hmay.1 h).1
      have hrc := mem_of_mem_entrants (mem_of_refOf hr)
      refine ⟨r.t, r, hset ▸ reference_mem_issueSetOf hr, hmay.2 ⟨hrc, rfl⟩, fun u hu c hc => ?_, fun u c hc hp hd hq => ?_,
        fun hst => ?_, fun hst u c hc => ?_⟩
      · obtain ⟨x, hx, hxt, hk, hd⟩ := mem_issueSetOf hr (hset ▸ hu)
        obtain ⟨-, -, hxc⟩ := mem_candsOf.1 hx
        obtain ⟨-, -, hcc⟩ := hc
        rw [hxt] at hxc
        obtain rfl := Option.some.inj (hxc.symm.trans hcc)
        obtain ⟨hdepth, hpc⟩ := sameKey_iff.1 hk
        exact ⟨hpc, hdepth, hd⟩
      · obtain ⟨hm, rfl⟩ := hmay.1 hc
        obtain ⟨v, hv, hl⟩ := exists_of_lane hr hm (sameKey_iff.2 ⟨hd, hp⟩) hq
        exact ⟨v, hset ▸ hv, hl⟩
      · obtain ⟨u, c, hc, hs⟩ := hst
        obtain ⟨x, hx, hmin⟩ := reference_of_starved hr ⟨c, hcand hc, hs⟩
        exact ⟨x, hx, fun u c y hc hy => hmin c (hcand hc) y hy⟩
      · exact reference_of_none_starved hr (fun x hx => hst x.t x (hmay.2 ⟨hx, rfl⟩)) c (hcand hc)
    · exact thread?_noted hs hu hth
  · obtain ⟨h1, -⟩ := comeUp_of_idle he hs hp hst hw
    exact h1
  · obtain ⟨-, h2⟩ := comeUp_of_idle he hs hp hst hw
    exact h2

end Sys2Proof.Machine
end

section
/-! SUPPORT and the obligation of the indexed registers (R99, R125). -/

namespace Sys2Proof.Machine

/-- The sub-cause by which an index register or an indexed name fails (R125), if it does. -/
def indexFault (th : Thread) (r : Reg) : Option Nat :=
  if th.ctx.place r = .unmapped then some 5 else if (th.ctx.place r).far then some 8
  else if 64 ≤ r.toNat ∧ th.extends = false then some 4 else none

theorem extHeld_eq_false {th : Thread} {r : Reg} :
    extHeld th (blockOf r) = false ↔ 64 ≤ r.toNat ∧ th.extends = false := by
  have hb : r.toNat / 8 < 8 ↔ ¬64 ≤ r.toNat := by omega
  simp [extHeld, blockOf, hb]

/-- The check of R125, by its sub-cause. -/
theorem laneOnly_eq (th : Thread) (r : Reg) :
    laneOnly th r = (indexFault th r).map fun k => trapOf 0x0B (k + 2 ^ 8 * (r.toNat / 8)) := by
  unfold laneOnly indexFault
  cases hp : th.ctx.place r with
  | unmapped => rfl
  | slice k => rfl
  | bank k => rfl
  | lane =>
    by_cases h : 64 ≤ r.toNat ∧ th.extends = false
    · have he := extHeld_eq_false.mpr h
      simp only [h, he, Place.far]
      rfl
    · have he : extHeld th (blockOf r) = true := by simpa using mt extHeld_eq_false.mp h
      simp [h, he, Place.far]

theorem laneOnly_of_fault {th : Thread} {r : Reg} {k : Nat} (h : indexFault th r = some k) :
    laneOnly th r = some (trapOf 0x0B (k + 2 ^ 8 * (r.toNat / 8))) := by
  rw [laneOnly_eq, h, Option.map_some]

theorem laneOnly_of_indexReg {e : Env} {r : Reg} (h : IndexReg e r) : laneOnly e.th r = none := by
  have hn : ¬(64 ≤ r.toNat ∧ e.th.extends = false) := fun ⟨h1, h2⟩ => by
    rcases h.ext with hx | hx
    · omega
    · simp [h2] at hx
  simp [laneOnly_eq, indexFault, h.lane, hn, Place.far]

/-- The register that an index names, by the sum of the numbers (R125). -/
theorem indexed_eq (th : Thread) (xa : Reg) (imm : Imm) :
    indexed th xa imm = BitVec.ofNat 8 (((th.read xa).toNat + imm.signed32.toNat) % 2 ^ 32) := by
  apply BitVec.eq_of_toNat_eq
  simp [indexed, BitVec.toNat_add]

theorem indexReady_of_indexReg {s : State} {e : Env} {xa : Reg} (h : IndexReg e xa) (k : Outcome) :
    indexReady s e xa k = k := by
  simp [indexReady, laneOnly_of_indexReg h, h.done]

theorem indexReady_of_fault {s : State} {e : Env} {xa : Reg} {n : Nat} (h : indexFault e.th xa = some n) (k : Outcome) :
    indexReady s e xa k = .next (raiseTrap s e.t (trapOf 0x0B (n + 2 ^ 8 * (xa.toNat / 8)))) := by
  simp only [indexReady, laneOnly_of_fault h]

section Units

variable {s s1 : State} {c : Ctl} {imm : Imm} {e0 e : Env} {xa xb xd : Reg}

/-- The index register and the named one pass: `ixld` computes as any unit does. -/
theorem ixld_of_passes (hp : Passes s .queued c e0) (ha : IndexReg e0 xa) (hn : IndexReg e0 (indexed e0.th xa imm))
    (hr : Reads s e0 [indexed e0.th xa imm, xd] s1 e) :
    exec (.ixld c xd xa imm) s = .next (computeIssue s1 e c.k imm.words [indexed e0.th xa imm] [xd]
      (word xd (e.th.read (indexed e0.th xa imm)))) := by
  simp only [exec_ixld, execIxld, unit_of_passes hp, indexReady_of_indexReg ha, laneOnly_of_indexReg hn,
    operands_of_reads hr, out1_plain]

theorem ixld_of_fault {k : Nat} (hp : Passes s .queued c e0) (ha : IndexReg e0 xa)
    (hn : indexFault e0.th (indexed e0.th xa imm) = some k) : exec (.ixld c xd xa imm) s =
      .next (raiseTrap s e0.t (trapOf 0x0B (k + 2 ^ 8 * ((indexed e0.th xa imm).toNat / 8)))) := by
  simp only [exec_ixld, execIxld, unit_of_passes hp, indexReady_of_indexReg ha, laneOnly_of_fault hn]

/-- Checking the value register leaves the index, and so the name. -/
theorem indexed_congr (hx : e.th.read xa = e0.th.read xa) : indexed e.th xa imm = indexed e0.th xa imm := by
  simp only [indexed, hx]

/-- `ixst` checks its value register between the index and the named one. -/
theorem ixst_of_passes (hp : Passes s .queued c e0) (ha : IndexReg e0 xa) (hr : Reads s e0 [xb] s1 e)
    (hn : IndexReg e (indexed e.th xa imm)) :
    exec (.ixst c xa xb imm) s = .next (computeIssue s1 e false imm.words [xb] [indexed e.th xa imm]
      (word (indexed e.th xa imm) (e.th.read xb))) := by
  have hd := hn.done
  simp [exec_ixst, execIxst, unit_of_passes hp, indexReady_of_indexReg ha, operands_of_reads hr,
    laneOnly_of_indexReg hn, hd, out1_plain]

theorem ixst_of_fault {k : Nat} (hp : Passes s .queued c e0) (ha : IndexReg e0 xa) (hr : Reads s e0 [xb] s1 e)
    (hn : indexFault e.th (indexed e.th xa imm) = some k) : exec (.ixst c xa xb imm) s =
      .next (raiseTrap s1 e.t (trapOf 0x0B (k + 2 ^ 8 * ((indexed e.th xa imm).toNat / 8)))) := by
  simp only [exec_ixst, execIxst, unit_of_passes hp, indexReady_of_indexReg ha, operands_of_reads hr,
    laneOnly_of_fault hn]

end Units

/-- Settles O25: each unit passes its checks in the order of R125, and then computes as any unit does. -/
theorem indexedRegisters : Obligations.IndexedRegisters := by
  unfold Obligations.IndexedRegisters
  intro s s1 c imm e0 e xa xb xd hp n sub
  have hn : indexed e0.th xa imm = n := indexed_eq e0.th xa imm
  refine ⟨fun ha hi hr => ?_, fun ha hr hi hx => ?_, fun k hk => ⟨?_, ?_⟩, fun k ha hk => ⟨?_, fun hr hx hc he => ?_⟩⟩
  · exact ⟨_, hn ▸ ixld_of_passes hp ha (hn ▸ hi) (hn ▸ hr), computeIssue_computed s1 e c.k imm.words [n] [xd] _⟩
  · have hn' : indexed e.th xa imm = n := (indexed_congr hx).trans hn
    exact ⟨_, hn' ▸ ixst_of_passes hp ha hr (hn' ▸ hi), computeIssue_computed s1 e false imm.words [xb] [n] _⟩
  · rw [exec_ixld, execIxld, unit_of_passes hp, indexReady_of_fault hk]
  · rw [exec_ixst, execIxst, unit_of_passes hp, indexReady_of_fault hk]
  · exact hn ▸ ixld_of_fault hp ha (hn ▸ hk)
  · have hn' : indexed e.th xa imm = n := (indexed_congr hx).trans hn
    have hk' : indexFault e.th n = some k := by
      rw [← show indexFault e0.th n = some k from hk]
      simp only [indexFault, hc, he]
    exact hn' ▸ ixst_of_fault hp ha hr (hn' ▸ hk')

end Sys2Proof.Machine
end

section
/-! SUPPORT and the obligation of the extension lock (R99, R116 to R118): what a grant leaves of the threads of a group,
which group a free lock is offered to, and the two units. -/

namespace Sys2Proof.Machine

/-! The threads of a group. -/

theorem mem_groupThreads {s : State} {g u : Nat} {x : Thread} :
    (u, x) ∈ groupThreads s g ↔ gKey u = g ∧ s.thread? u = some x := by
  simp only [groupThreads, List.mem_filterMap, List.mem_range, Option.map_eq_some_iff, Prod.mk.injEq, gKey]
  constructor
  · rintro ⟨i, hi, y, hy, rfl, rfl⟩
    exact ⟨by omega, hy⟩
  · rintro ⟨rfl, hx⟩
    have hu : 32 * (u / 32) + u % 32 = u := Nat.div_add_mod u 32
    exact ⟨u % 32, Nat.mod_lt _ (by decide), x, by rwa [hu], hu, rfl⟩

theorem groupThreads_nodup (s : State) (g : Nat) : ((groupThreads s g).map (·.1)).Nodup := by
  refine List.pairwise_map.mpr ?_
  unfold groupThreads
  rw [List.pairwise_filterMap]
  refine List.nodup_range.imp fun hne x hx y hy => ?_
  obtain ⟨_, _, rfl⟩ := Option.map_eq_some_iff.mp hx
  obtain ⟨_, _, rfl⟩ := Option.map_eq_some_iff.mp hy
  dsimp only
  omega

/-- Threads set one after the other: each named once has its own. -/
theorem thread?_foldl_setThread {f : Thread → Thread} {xs : List (Nat × Thread)} (hd : (xs.map (·.1)).Nodup) (s : State)
    (u : Nat) : (∀ x, (u, x) ∈ xs → (xs.foldl (fun s e => s.setThread e.1 (f e.2)) s).thread? u = some (f x)) ∧
      ((∀ x, (u, x) ∉ xs) → (xs.foldl (fun s e => s.setThread e.1 (f e.2)) s).thread? u = s.thread? u) := by
  induction xs generalizing s with
  | nil => exact ⟨fun x hx => absurd hx List.not_mem_nil, fun _ => rfl⟩
  | cons y ys ih =>
    obtain ⟨v, y⟩ := y
    obtain ⟨hv, hd⟩ := List.nodup_cons.mp hd
    obtain ⟨hin, hout⟩ := ih hd (s.setThread v (f y))
    refine ⟨fun x hx => ?_, fun h => ?_⟩
    · rcases List.mem_cons.mp hx with hx | hx
      · cases hx
        exact (hout fun z hz => hv (List.mem_map.mpr ⟨_, hz, rfl⟩)).trans (thread?_setThread_self s u (f _))
      · exact hin x hx
    · have hne : u ≠ v := fun huv => h y (by simp [huv])
      exact (hout fun x hx => h x (List.mem_cons_of_mem _ hx)).trans (thread?_setThread_ne s (f y) hne)

/-! What a grant does to a thread (R117). -/

theorem find?_filter_not_key {α : Type} (m : List (Nat × α)) {p : Nat → Bool} {k : Nat} (h : p k = false) :
    find? (m.filter fun e => p e.1) k = none := by
  cases hf : find? (m.filter fun e => p e.1) k with
  | none => rfl
  | some v => simpa [h] using (find?_filter hf).2

/-- Whether a number names an extension register at the lane of a thread. -/
def extAtLane (th : Thread) (r : Nat) : Bool :=
  64 ≤ r && r < 128 && placeOfCode (codeOfBlock th.ctx.pmap (r / 8)) == .lane

theorem extAtLane_iff (th : Thread) (r : Reg) : extAtLane th r.toNat = true ↔ th.extName r := by
  simp only [extAtLane, Thread.extName, Ctx.place, blockOf, Bool.and_eq_true, decide_eq_true_eq, beq_iff_eq, and_assoc]

theorem clearExt_eq (th : Thread) : clearExt th = { th with
    regs := th.regs.filter fun w => !extAtLane th w.1
    ctx := { th.ctx with fwd := th.ctx.fwd.filter fun f => !extAtLane th f.reg } } := rfl

theorem stored_clearExt_lost {th : Thread} {r : Reg} (h : th.extName r) : (clearExt th).stored r = 0 := by
  have hf : (!extAtLane th r.toNat) = false := by simp [(extAtLane_iff th r).mpr h]
  rw [clearExt_eq, Thread.stored, findD, find?_filter_not_key th.regs (p := fun k => !extAtLane th k) hf, Option.getD_none]

theorem stored_clearExt_kept {th : Thread} {r : Reg} (h : ¬th.extName r) : (clearExt th).stored r = th.stored r := by
  have hf : (!extAtLane th r.toNat) = true := by simp [mt (extAtLane_iff th r).mp h]
  rw [clearExt_eq, Thread.stored, findD, find?_filter_key th.regs (p := fun k => !extAtLane th k) hf]
  rfl

/-- No K-marked write of an extension name at the lane stays in reach. -/
theorem read_clearExt {th : Thread} {r : Reg} (h : th.extName r) : (clearExt th).read r = 0 := by
  have hn : (clearExt th).inReach (clearExt th).nextSeq r = none := by
    rw [clearExt_eq]
    refine List.find?_eq_none.mpr fun f hf hr => ?_
    have hreg : f.reg = r.toNat := by
      simp only [Bool.and_eq_true, beq_iff_eq] at hr
      exact hr.1
    simpa [hreg, (extAtLane_iff th r).mpr h] using List.of_mem_filter hf
  rw [read_eq, hn]
  exact stored_clearExt_lost h

/-- A thread without a saved set only loses its extension names, and its request is granted. -/
theorem grantThread_eq {th : Thread} (h : th.xreq = none ∨ th.xsave = []) : grantThread th = { clearExt th with
    xhold := th.xhold || th.xreq.isSome
    xreq := none
    window := if th.xreq = none ∨ th.wait = .lock then th.window else th.window.drop 1
    wait := if th.xreq.isSome = true ∧ th.wait = .lock then .none else th.wait } := by
  rw [grantThread, clearExt_eq]
  cases hx : th.xreq with
  | none => simp
  | some a => simp [h.resolve_left (by simp [hx])]

/-! What a grant does to a group. -/

section Grant

variable (s : State) (core n g : Nat)

theorem grantLock_stores : SameStores s (grantLock s core n g) := by
  unfold grantLock
  exact List.foldlRecOn (motive := SameStores s) _ _ ⟨rfl, rfl, rfl, rfl⟩ fun _ h _ _ => ⟨h.dram, h.l2, h.host, h.remote⟩

theorem grantLock_cores : (grantLock s core n g).cores =
    (s.setCore core { s.core core with locks := put (s.core core).locks n ⟨some g⟩ }).cores :=
  cores_foldl (f := fun s (e : Nat × Thread) => s.setThread e.1 (grantThread e.2)) (fun _ _ => rfl) _ _

theorem grantLock_holder : ((grantLock s core n g).core core).lockHolder n = some g := by
  rw [State.core, grantLock_cores, ← State.core, core_setCore_self, Core.lockHolder, findD_put_self]

variable {s g}

theorem grantLock_thread? {u : Nat} {x : Thread} (hu : gKey u = g) (hx : s.thread? u = some x) :
    (grantLock s core n g).thread? u = some (grantThread x) := by
  obtain ⟨h, -⟩ := thread?_foldl_setThread (f := grantThread) (groupThreads_nodup s g)
    (s.setCore core { s.core core with locks := put (s.core core).locks n ⟨some g⟩ }) u
  exact h x (mem_groupThreads.mpr ⟨hu, hx⟩)

/-- A thread of the group of a state s0 that has only issued since, and may have asked. -/
theorem lockGranted_of_issued {s0 : State} {u : Nat} {x y : Thread} (hu : gKey u = g) (hx : s0.thread? u = some x)
    (hy : s.thread? u = some y) (hregs : y.regs = x.regs) (hmap : y.ctx.pmap = x.ctx.pmap)
    (hreq : x.xreq.isSome = true → y.xreq.isSome = true) (hsave : y.xreq = none ∨ y.xsave = []) :
    LockGranted s0 (grantLock s core n g) u x (grantThread y) := by
  have hext : ∀ r, y.extName r ↔ x.extName r := fun r => by simp only [Thread.extName, Ctx.place, hmap]
  refine ⟨hx, grantLock_thread? core n hu hy, fun r hr => ⟨?_, ?_⟩, fun r hr => ?_, fun h => ⟨?_, ?_⟩⟩ <;>
    rw [grantThread_eq hsave]
  · exact stored_clearExt_lost ((hext r).mpr hr)
  · exact read_clearExt ((hext r).mpr hr)
  · refine (stored_clearExt_kept (mt (hext r).mp hr)).trans ?_
    simp only [Thread.stored, hregs]
  · simp [hreq h]

end Grant

/-! Requests, and whom a free lock is offered to (R117). -/

/-- A thread of a group has a request waiting that it issued in a clk. -/
def Requests (s : State) (g a : Nat) : Prop := ∃ u x, gKey u = g ∧ s.thread? u = some x ∧ x.xreq = some a

/-- The older of a request met before and that of a thread. -/
def olderOf (r : Option Nat) (e : Nat × Thread) : Option Nat :=
  match e.2.xreq, r with
  | some a, some b => some (min a b)
  | some a, none => some a
  | none, r => r

theorem foldl_olderOf (xs : List (Nat × Thread)) (b : Nat) :
    xs.foldl olderOf (some b) = some ((xs.filterMap (·.2.xreq)).foldl min b) := by
  induction xs generalizing b with
  | nil => rfl
  | cons x xs ih =>
    cases hx : x.2.xreq with
    | none => simp [olderOf, hx, ih]
    | some a => simp [olderOf, hx, ih, Nat.min_comm]

theorem oldestRequest_eq (s : State) (g : Nat) :
    oldestRequest s g = ((groupThreads s g).filterMap (·.2.xreq)).min? := by
  have hf : oldestRequest s g = (groupThreads s g).foldl olderOf none := rfl
  rw [hf]
  induction groupThreads s g with
  | nil => rfl
  | cons x xs ih =>
    cases hx : x.2.xreq with
    | none => simp [olderOf, hx, ih]
    | some a => simp [olderOf, hx, foldl_olderOf, List.min?]

theorem mem_requests {s : State} {g a : Nat} : a ∈ (groupThreads s g).filterMap (·.2.xreq) ↔ Requests s g a := by
  simp only [List.mem_filterMap, Prod.exists, mem_groupThreads, Requests, and_assoc]

theorem oldestRequest_eq_none {s : State} {g : Nat} : oldestRequest s g = none ↔ ∀ a, ¬Requests s g a := by
  simp only [oldestRequest_eq, List.min?_eq_none_iff, List.eq_nil_iff_forall_not_mem, mem_requests]

theorem oldestRequest_eq_some {s : State} {g a : Nat} :
    oldestRequest s g = some a ↔ Requests s g a ∧ ∀ b, Requests s g b → a ≤ b := by
  simp only [oldestRequest_eq, List.min?_eq_some_iff, mem_requests]

/-- The oldest request of the group in a slot, with the group. -/
def candidate (s : State) (k : Core) (slot : Nat) : Option (Nat × Nat) :=
  (groupAt k slot).bind fun g => (oldestRequest s g).map fun a => (a, g)

theorem candidate_eq_none {s : State} {k : Core} {slot : Nat} :
    candidate s k slot = none ↔ ∀ g, groupAt k slot = some g → ∀ a, ¬Requests s g a := by
  simp only [candidate, Option.bind_eq_none_iff, Option.map_eq_none_iff, oldestRequest_eq_none]

theorem candidate_eq_some {s : State} {k : Core} {slot a g : Nat} : candidate s k slot = some (a, g) ↔
    groupAt k slot = some g ∧ Requests s g a ∧ ∀ b, Requests s g b → a ≤ b := by
  simp only [candidate, Option.bind_eq_some_iff, Option.map_eq_some_iff, Prod.mk.injEq, oldestRequest_eq_some]
  constructor
  · rintro ⟨h, hg, b, hb, rfl, rfl⟩
    exact ⟨hg, hb⟩
  · rintro ⟨hg, ha⟩
    exact ⟨g, hg, a, ha, rfl, rfl⟩

/-- Which of two candidates is granted the lock: the older, of equals the first. -/
def winner : Option (Nat × Nat) → Option (Nat × Nat) → Option Nat
  | some (a, g), some (b, h) => some (if a ≤ b then g else h)
  | some (_, g), none => some g
  | none, some (_, h) => some h
  | none, none => none

section Offer

variable {s : State} {core n g a : Nat} (hfree : (s.core core).lockHolder n = none)
include hfree

theorem offerLock_eq : offerLock s core n =
    ((winner (candidate s (s.core core) (2 * n)) (candidate s (s.core core) (2 * n + 1))).map (grantLock s core n)).getD s := by
  unfold offerLock candidate
  simp only [hfree, Option.isSome_none, Bool.false_eq_true, if_false]
  rcases groupAt (s.core core) (2 * n) with _ | g <;> rcases groupAt (s.core core) (2 * n + 1) with _ | h <;>
    dsimp only [Option.bind]
  · rfl
  · cases oldestRequest s h <;> rfl
  · cases oldestRequest s g <;> rfl
  · cases oldestRequest s g <;> cases oldestRequest s h <;> rfl

/-- A group with the oldest request of the pair, of equals that of the lower slot, is granted the lock. -/
theorem offerLock_grants (hp : groupAt (s.core core) (2 * n) = some g ∨ groupAt (s.core core) (2 * n + 1) = some g)
    (ha : Requests s g a) (hmin : ∀ g' a', groupAt (s.core core) (2 * n) = some g' ∨ groupAt (s.core core) (2 * n + 1) = some g' →
      Requests s g' a' → a ≤ a' ∧ (a' = a → g' = g ∨ groupAt (s.core core) (2 * n) = some g)) :
    offerLock s core n = grantLock s core n g := by
  have hg : ∀ slot, groupAt (s.core core) slot = some g → candidate s (s.core core) slot = some (a, g) := fun slot h =>
    candidate_eq_some.mpr ⟨h, ha, fun b hb => (hmin g b hp hb).1⟩
  have hw : winner (candidate s (s.core core) (2 * n)) (candidate s (s.core core) (2 * n + 1)) = some g := by
    by_cases hlow : groupAt (s.core core) (2 * n) = some g
    · rw [hg _ hlow]
      cases h1 : candidate s (s.core core) (2 * n + 1) with
      | none => rfl
      | some q =>
        obtain ⟨hq, hr, -⟩ := candidate_eq_some.mp h1
        exact congrArg some (if_pos (hmin _ _ (.inr hq) hr).1)
    · rw [hg _ (hp.resolve_left hlow)]
      cases h0 : candidate s (s.core core) (2 * n) with
      | none => rfl
      | some q =>
        obtain ⟨b, h⟩ := q
        obtain ⟨hq, hr, -⟩ := candidate_eq_some.mp h0
        obtain ⟨hab, heq⟩ := hmin h b (.inl hq) hr
        have hne : b ≠ a := fun hb => hlow ((heq hb).elim (fun hh => hh ▸ hq) id)
        exact congrArg some (if_neg (by omega))
  rw [offerLock_eq hfree, hw]
  rfl

theorem offerLock_stays (h : ∀ g a, groupAt (s.core core) (2 * n) = some g ∨ groupAt (s.core core) (2 * n + 1) = some g →
    ¬Requests s g a) : offerLock s core n = s := by
  rw [offerLock_eq hfree, candidate_eq_none.mpr fun g hg a => h g a (.inl hg), candidate_eq_none.mpr fun g hg a => h g a (.inr hg)]
  rfl

end Offer

theorem offerLock_stores (s : State) (core n : Nat) : SameStores s (offerLock s core n) := by
  unfold offerLock
  dsimp only
  split
  · exact ⟨rfl, rfl, rfl, rfl⟩
  · split
    · exact grantLock_stores _ _ _ _
    · exact grantLock_stores _ _ _ _
    · exact grantLock_stores _ _ _ _
    · exact ⟨rfl, rfl, rfl, rfl⟩

/-! `xacq` (R117, R118). -/

section Acquire

variable {s : State} {c : Ctl} {e : Env} (hp : Passes s { settled := true } c e)
include hp

theorem idle_of_acquires : e.th.window = [] ∧ e.th.xreq = none := by
  have hb := hp.free
  simp only [Thread.blocked, Bool.or_eq_false_iff, Bool.true_and, Bool.not_eq_false', List.isEmpty_iff,
    Option.isSome_eq_false_iff, Option.isNone_iff_eq_none] at hb
  exact ⟨hb.1.2, hb.2⟩

theorem xacq_free (hl : (s.core (tCore e.t)).lockHolder (lockOf (s.core (tCore e.t)) (gKey e.t)) = none) :
    exec (.xacq c) s = .next (grantLock (s.setThread e.t { e.th.issued s.clk (e.th.ctx.past 1) with xreq := some s.clk })
      (tCore e.t) (lockOf (s.core (tCore e.t)) (gKey e.t)) (gKey e.t)) := by
  rw [exec_xacq, execXacq, unit_of_passes hp]
  simp only [hl]
  rfl

/-- Where the group holds the lock already, the thread becomes a holder as it issues. -/
theorem xacq_own (hl : (s.core (tCore e.t)).lockHolder (lockOf (s.core (tCore e.t)) (gKey e.t)) = some (gKey e.t)) :
    ∃ th, (Gone s e (e.th.ctx.past 1)).thread? e.t = some th ∧
      exec (.xacq c) s = .next ((Gone s e (e.th.ctx.past 1)).setThread e.t { th with xhold := true }) := by
  obtain ⟨hw, -⟩ := idle_of_acquires hp
  refine ⟨_, by rw [gone_eq, thread?_setThread_self], ?_⟩
  rw [exec_xacq, execXacq, unit_of_passes hp, gone_eq, setThread_setThread, ← issued_of_idle hw]
  simp only [hl, beq_self_eq_true, if_true]
  rfl

/-- What a thread leaves whose request waits. -/
def asking (s : State) (e : Env) : Thread :=
  { (clearExt e.th).enter s.clk { WUnit.start e.th with done := false } (clearExt e.th |>.ctx.advance 1) with xreq := some s.clk }

theorem xacq_waits {g : Nat} (hl : (s.core (tCore e.t)).lockHolder (lockOf (s.core (tCore e.t)) (gKey e.t)) = some g)
    (hg : g ≠ gKey e.t) : exec (.xacq c) s = .next (s.setThread e.t (asking s e)) := by
  rw [exec_xacq, execXacq, unit_of_passes hp]
  simp only [hl, beq_iff_eq, hg, if_false]
  rfl

end Acquire

theorem stored_clearExt (th : Thread) (r : Reg) : (clearExt th).stored r =
    if 64 ≤ r.toNat ∧ r.toNat < 128 ∧ th.ctx.place r = .lane then 0 else th.stored r := by
  by_cases h : th.extName r
  · rw [stored_clearExt_lost h]
    exact (if_pos h).symm
  · rw [stored_clearExt_kept h]
    exact (if_neg h).symm

/-! `xrel` (R117). -/

theorem releaseLock_of_no_holder {s : State} {t : Nat} {th : Thread} (h : s.thread? t = some th) (hx : th.xhold = false) :
    releaseLock s t = s := by
  simp [releaseLock, h, hx]

/-- The state in which a thread is no holder any longer and the lock of its pair is free. -/
def freed (s : State) (t : Nat) (th : Thread) : State :=
  (s.setThread t { th with xhold := false }).setCore (tCore t) { s.core (tCore t) with
    locks := put (s.core (tCore t)).locks (lockOf (s.core (tCore t)) (gKey t)) ⟨none⟩ }

theorem freed_thread? (s : State) (t u : Nat) (th : Thread) :
    (freed s t th).thread? u = if u = t then some { th with xhold := false } else s.thread? u := find?_put _ _ _ _

theorem freed_core (s : State) (t : Nat) (th : Thread) : (freed s t th).core (tCore t) = { s.core (tCore t) with
    locks := put (s.core (tCore t)).locks (lockOf (s.core (tCore t)) (gKey t)) ⟨none⟩ } := core_setCore_self _ _ _

theorem freed_lockHolder (s : State) (t : Nat) (th : Thread) :
    ((freed s t th).core (tCore t)).lockHolder (lockOf (s.core (tCore t)) (gKey t)) = none := by
  rw [freed_core, Core.lockHolder, findD_put_self]

section Release

variable {s : State} {t : Nat} {th : Thread} (h : s.thread? t = some th) (hx : th.xhold = true)
include h hx

theorem releaseLock_of_holder : releaseLock s t =
    if (groupThreads (s.setThread t { th with xhold := false }) (gKey t)).any (fun e => e.2.xhold) = true then
      s.setThread t { th with xhold := false }
    else offerLock (freed s t th) (tCore t) (lockOf (s.core (tCore t)) (gKey t)) := by
  unfold releaseLock
  simp only [h, hx, Bool.not_true, Bool.false_eq_true, if_false]
  rfl

theorem releaseLock_beside {u : Nat} {x : Thread} (hut : u ≠ t) (hg : gKey u = gKey t) (hu : s.thread? u = some x)
    (hxu : x.xhold = true) : releaseLock s t = s.setThread t { th with xhold := false } := by
  rw [releaseLock_of_holder h hx]
  refine if_pos (List.any_eq_true.mpr ⟨(u, x), mem_groupThreads.mpr ⟨hg, ?_⟩, hxu⟩)
  rw [thread?_setThread_ne _ _ hut, hu]

theorem releaseLock_last (hall : ∀ u x, u ≠ t → gKey u = gKey t → s.thread? u = some x → x.xhold = false) :
    releaseLock s t = offerLock (freed s t th) (tCore t) (lockOf (s.core (tCore t)) (gKey t)) := by
  rw [releaseLock_of_holder h hx]
  refine if_neg fun hany => ?_
  obtain ⟨⟨u, x⟩, hm, hxu⟩ := List.any_eq_true.mp hany
  obtain ⟨hg, hu⟩ := mem_groupThreads.mp hm
  by_cases hut : u = t
  · subst hut
    rw [thread?_setThread_self] at hu
    cases hu
    cases hxu
  · rw [thread?_setThread_ne _ _ hut] at hu
    rw [hall u x hut hg hu] at hxu
    cases hxu

end Release

/-! The obligation. -/

/-- The thread past a unit of one word that is complete as it issues, with no older unit. -/
def pastOne (s : State) (e : Env) : Thread := e.th.issued s.clk (e.th.ctx.past 1)

theorem gone_of_idle {s : State} {e : Env} (hw : e.th.window = []) :
    Gone s e (e.th.ctx.past 1) = s.setThread e.t (pastOne s e) := by
  rw [gone_eq, ← issued_of_idle hw]
  rfl

/-- The state after the `xrel` of a last holder, before the lock is offered. -/
def released (s : State) (e : Env) : State := freed (s.setThread e.t (pastOne s e)) e.t (pastOne s e)

theorem released_self (s : State) (e : Env) :
    (released s e).thread? e.t = some { pastOne s e with xhold := false } := by rw [released, freed_thread?, if_pos rfl]

theorem released_other (s : State) {e : Env} {u : Nat} (h : u ≠ e.t) : (released s e).thread? u = s.thread? u := by
  rw [released, freed_thread?, if_neg h, thread?_setThread_ne _ _ h]

theorem released_lockHolder (s : State) (e : Env) :
    ((released s e).core (tCore e.t)).lockHolder (lockOf (s.core (tCore e.t)) (gKey e.t)) = none := freed_lockHolder _ _ _

theorem released_groupAt (s : State) (e : Env) (slot : Nat) :
    groupAt ((released s e).core (tCore e.t)) slot = groupAt (s.core (tCore e.t)) slot := by
  rw [released, freed_core]
  rfl

section Released

variable {s : State} {e : Env} (ht : s.thread? e.t = some e.th)
include ht

theorem requests_released {g a : Nat} : Requests (released s e) g a ↔ Requests s g a := by
  constructor
  · rintro ⟨u, x, hu, hx, hr⟩
    by_cases hut : u = e.t
    · subst hut
      cases (released_self s e).symm.trans hx
      exact ⟨e.t, e.th, hu, ht, hr⟩
    · exact ⟨u, x, hu, (released_other s hut).symm.trans hx, hr⟩
  · rintro ⟨u, x, hu, hx, hr⟩
    by_cases hut : u = e.t
    · subst hut
      cases ht.symm.trans hx
      exact ⟨e.t, _, hu, released_self s e, hr⟩
    · exact ⟨u, x, hu, (released_other s hut).trans hx, hr⟩

/-- A thread of the group to which the freed lock passes. -/
theorem lockGranted_released {n g u : Nat} {x : Thread} (hu : gKey u = g) (hx : s.thread? u = some x)
    (hsave : x.xreq = none ∨ x.xsave = []) : ∃ y, LockGranted s (grantLock (released s e) (tCore e.t) n g) u x y := by
  by_cases hut : u = e.t
  · subst hut
    obtain rfl := Option.some.inj (ht.symm.trans hx)
    exact ⟨_, lockGranted_of_issued _ _ hu hx (released_self s e) rfl rfl id hsave⟩
  · exact ⟨_, lockGranted_of_issued _ _ hu hx ((released_other s hut).trans hx) rfl rfl id hsave⟩

end Released

/-- The last holder's release, with no older unit (R117). -/
theorem releaseLock_gone {s : State} {e : Env} (hw : e.th.window = []) (hh : e.th.xhold = true)
    (hall : ∀ u x, u ≠ e.t → gKey u = gKey e.t → s.thread? u = some x → x.xhold = false) :
    releaseLock (Gone s e (e.th.ctx.past 1)) e.t =
      offerLock (released s e) (tCore e.t) (lockOf (s.core (tCore e.t)) (gKey e.t)) := by
  rw [gone_of_idle hw]
  exact releaseLock_last (thread?_setThread_self _ _ _) hh fun u x hut hg hu =>
    hall u x hut hg ((thread?_setThread_ne _ _ hut).symm.trans hu)

/-- Settles O24: a grant is one change for each thread of the group, and a release offers the lock by the oldest
request of the pair. -/
theorem extensionLock : Obligations.ExtensionLock := by
  refine ⟨fun s c e hp => ?_, fun s c e hp => ?_⟩
  · intro core n lost
    have ht : s.thread? e.t = some e.th := by rw [env_t hp.env]; exact thread?_of_env hp.env
    obtain ⟨hw, hreq⟩ := idle_of_acquires hp
    refine ⟨fun hl hs => ?_, xacq_own hp, fun g hl hg => ⟨_, xacq_waits hp hl hg, rfl, rfl, rfl, rfl, stored_clearExt e.th⟩⟩
    let th : Thread := { e.th.issued s.clk (e.th.ctx.past 1) with xreq := some s.clk }
    have hgrant := grantThread_eq (th := th) (.inr hs)
    refine ⟨_, _, xacq_free hp hl, grantLock_holder _ _ _ _, grantLock_thread? _ _ rfl (thread?_setThread_self s e.t th),
      ?_, ?_, ?_, fun r => ?_, ?_, fun u x hu hx hxs => ?_⟩
    · rw [hgrant]
      exact Bool.or_true _
    · rw [hgrant]
    · rw [hgrant]
      rfl
    · rw [hgrant]
      exact stored_clearExt th r
    · obtain ⟨hd, hl2, hh, hr⟩ := grantLock_stores (s.setThread e.t th) core n (gKey e.t)
      exact SameStores.memory ⟨hd, hl2, hh, hr⟩
    · by_cases hut : u = e.t
      · subst hut
        cases ht.symm.trans hx
        exact ⟨_, lockGranted_of_issued _ _ hu hx (thread?_setThread_self s e.t th) rfl rfl (fun _ => rfl) (.inr hs)⟩
      · exact ⟨_, lockGranted_of_issued _ _ hu hx ((thread?_setThread_ne s th hut).trans hx) rfl rfl id hxs⟩
  · intro core k n pairs asks others
    have hx : exec (.xrel c) s = .next (settleAct s e 1 .unlock 0 fun s => releaseLock s e.t) := by
      rw [exec_xrel, execXrel, unit_of_passes hp]
    have ht : s.thread? e.t = some e.th := by rw [env_t hp.env]; exact thread?_of_env hp.env
    refine ⟨fun hw => ?_, fun hw hh => ?_, fun u x hw hh hu => ?_, fun hw hh hall => ?_⟩
    · rw [hx, settleAct_busy hw]
    · have hself : (s.setThread e.t (pastOne s e)).thread? e.t = some (pastOne s e) := thread?_setThread_self _ _ _
      rw [hx, settleAct_idle hw, gone_of_idle hw, releaseLock_of_no_holder hself hh]
    · obtain ⟨hut, hg, hu, hxu⟩ := hu
      rw [hx, settleAct_idle hw, gone_of_idle hw]
      exact ⟨_, thread?_setThread_self _ _ _, congrArg _ (releaseLock_beside (thread?_setThread_self _ _ _) hh hut hg
        ((thread?_setThread_ne _ _ hut).trans hu) hxu)⟩
    · have hlast := releaseLock_gone hw hh fun u x hut hg hu => by
        simpa using fun hxu => hall u x ⟨hut, hg, hu, hxu⟩
      have hfree := released_lockHolder s e
      have hpairs : ∀ g, (groupAt ((released s e).core core) (2 * n) = some g ∨
          groupAt ((released s e).core core) (2 * n + 1) = some g) ↔ pairs g := fun g => by
        rw [released_groupAt, released_groupAt]
      refine ⟨_, by rw [hx, settleAct_idle hw], rfl, ?_, fun hnone => ?_, fun g a hpair hask hmin => ?_⟩
      · rw [hlast]
        obtain ⟨hd, hl, hh, hr⟩ := offerLock_stores (released s e) core n
        exact SameStores.memory ⟨hd, hl, hh, hr⟩
      · rw [hlast, offerLock_stays hfree fun g a hg ha => hnone g a ((hpairs g).mp hg) ((requests_released ht).mp ha)]
        exact ⟨hfree, pastOne s e, by rw [gone_of_idle hw, thread?_setThread_self], released_self s e⟩
      · have hgrant := offerLock_grants hfree ((hpairs g).mpr hpair) ((requests_released ht).mpr hask) fun g' a' hg' ha' => by
          rw [released_groupAt]
          exact hmin g' a' ((hpairs g').mp hg') ((requests_released ht).mp ha')
        rw [hlast, hgrant]
        exact ⟨grantLock_holder _ _ _ _, fun u x hu hx hs => lockGranted_released ht hu hx hs⟩

end Sys2Proof.Machine
end

section
/-! SUPPORT. The place map and the checks of `place` and `reloc` (R98 to R103, R121, R122): codes and their places, which
check fails first, and what the checks of a block leave of its thread. -/

namespace Sys2Proof.Machine

/-! Codes of the place map (R98, R105). -/

theorem codeOfBlock_toNat (pmap : BitVec 128) (b : Nat) : (codeOfBlock pmap b).toNat = pmap.toNat / 2 ^ (4 * b) % 16 := by
  simp [codeOfBlock, Nat.shiftRight_eq_div_pow]

theorem placeOfCode_eq (c : BitVec 4) : placeOfCode c = if c = 0 then .lane else if c.toNat / 4 = 1 then .slice (c.toNat % 4)
    else if c.toNat / 4 = 2 then .bank (c.toNat % 4) else .unmapped := by
  revert c
  decide

theorem placeOfCode_lane {c : BitVec 4} : placeOfCode c = .lane ↔ c = 0 := by
  revert c
  decide

theorem placeOfCode_far {c : BitVec 4} : (placeOfCode c).far = true ↔ c.toNat / 4 = 1 ∨ c.toNat / 4 = 2 := by
  revert c
  decide

theorem placeOfCode_unmapped {c : BitVec 4} :
    placeOfCode c = .unmapped ↔ ¬(c = 0 ∨ c.toNat / 4 = 1 ∨ c.toNat / 4 = 2) := by
  revert c
  decide

theorem placeOfCode_anchor {c : BitVec 4} (h : c.toNat / 4 = 1 ∨ c.toNat / 4 = 2) : (placeOfCode c).anchor = c.toNat % 4 := by
  revert c
  decide

theorem placeOfCode_bank {c : BitVec 4} (h : c.toNat / 4 = 2) : placeOfCode c = .bank (c.toNat % 4) := by
  revert c
  decide

theorem extractLsb'_code (pl : BitVec 8) : pl.extractLsb' 0 4 = BitVec.ofNat 4 pl.toNat := by
  apply BitVec.eq_of_toNat_eq
  simp

theorem fifteen_bit (i : Nat) : (0xF : BitVec 128).getLsbD i = decide (i < 4) := by
  by_cases h : i < 128
  · interval_cases i <;> rfl
  · have h4 : ¬i < 4 := by omega
    simp [h4, BitVec.getLsbD_of_ge _ _ (Nat.le_of_not_lt h)]

/-- One code of a place map changed. -/
theorem codeOfBlock_setCode (pmap : BitVec 128) (b b' : Nat) (c : BitVec 4) (hb : b' < 32) :
    codeOfBlock (setCode pmap b c) b' = if b' = b then c else codeOfBlock pmap b' := by
  refine BitVec.eq_of_getLsbD_eq fun i hi => ?_
  have h128 : 4 * b' + i < 128 := by omega
  simp only [codeOfBlock, BitVec.getLsbD_extractLsb', hi, decide_true, Bool.true_and, setCode, BitVec.getLsbD_or,
    BitVec.getLsbD_and, BitVec.getLsbD_not, BitVec.getLsbD_shiftLeft, fifteen_bit, h128, BitVec.getLsbD_setWidth]
  by_cases hg : b' = b
  · have h1 : ¬4 * b' + i < 4 * b := by omega
    have h2 : 4 * b' + i - 4 * b = i := by omega
    subst hg
    simp [h1, h2, hi, show i < 128 by omega]
  · rw [if_neg hg]
    by_cases hlt : b' < b
    · have h1 : 4 * b' + i < 4 * b := by omega
      simp [h1, hi]
    · have h1 : ¬4 * b' + i < 4 * b := by omega
      have h2 : ¬4 * b' + i - 4 * b < 4 := by omega
      simp [h1, h2, hi, BitVec.getLsbD_of_ge c _ (Nat.le_of_not_lt h2)]

/-- The place map names an anchor (R99 sub-cause 7). -/
theorem namesAnchor_iff (pmap : BitVec 128) (k : Nat) : namesAnchor pmap k = true ↔ ∃ b, b < 32 ∧ namesFar pmap b k := by
  simp only [namesAnchor, List.any_eq_true, List.mem_range, Bool.and_eq_true, beq_iff_eq, namesFar, ← codeOfBlock_toNat]
  refine exists_congr fun b => and_congr_right fun _ => ?_
  rw [placeOfCode_far]
  exact and_congr_right fun h => by rw [placeOfCode_anchor h]

/-! Which check of a new place fails first (R99, R121, R122). -/

section Checks

variable {s : State} {e : Env} {b : Nat} {c : BitVec 4} {reloc : Bool}

/-- An anchor that is not set, or outside the team's arena (sub-cause 2). -/
def Env.outside (e : Env) (k : Nat) : Prop :=
  e.th.ctx.anchorSet k = false ∨ (e.th.ctx.anchor k).toNat < e.arenaBase ∨
    e.arenaBase + e.arenaSize < (e.th.ctx.anchor k).toNat + 1024

/-- A lane extension block, new or old, without the lock (sub-cause 4). -/
def Env.locked (e : Env) (b : Nat) (c : BitVec 4) : Prop :=
  8 ≤ b ∧ e.th.extends = false ∧ (c = 0 ∨ codeOfBlock e.th.ctx.pmap b = 0)

theorem extHeld_block_eq_false {th : Thread} : extHeld th b = false ↔ 8 ≤ b ∧ th.extends = false := by
  simp [extHeld]

theorem checkPlace_budget (h0 : c = 0) (hb : e.budget ≤ b) :
    checkPlace s e b c reloc = .trap (trapOf 0x0B (3 + 2 ^ 8 * b)) := by
  simp [checkPlace, placeOfCode_lane.mpr h0, hb]

/-- The check for the lane budget passes. -/
theorem budget_passes (h : c = 0 → b < e.budget) : (placeOfCode c == .lane && decide (e.budget ≤ b)) = false := by
  by_cases h0 : c = 0
  · simp [h h0]
  · have : placeOfCode c ≠ .lane := mt placeOfCode_lane.mp h0
    simp [this]

theorem locked_iff : (((placeOfCode c == .lane) || (placeOfCode (codeOfBlock e.th.ctx.pmap b) == .lane)) &&
    !extHeld e.th b) = true ↔ e.locked b c := by
  simp only [Bool.and_eq_true, Bool.or_eq_true, beq_iff_eq, placeOfCode_lane, Bool.not_eq_true', extHeld_block_eq_false,
    Env.locked]
  tauto

/-- The check for the extension lock passes. -/
theorem extension_passes (hl : reloc = true → ¬e.locked b c) : (reloc && ((placeOfCode c == .lane) ||
    (placeOfCode (codeOfBlock e.th.ctx.pmap b) == .lane)) && !extHeld e.th b) = false := by
  cases reloc with
  | false => rfl
  | true =>
    rw [Bool.true_and]
    simpa using mt locked_iff.mp (hl rfl)

theorem checkPlace_locked (h0 : c = 0 → b < e.budget) (h : e.locked b c) :
    checkPlace s e b c true = .trap (trapOf 0x0B (4 + 2 ^ 8 * b)) := by
  simp only [checkPlace, budget_passes h0, Bool.true_and, locked_iff.mpr h, Bool.false_eq_true, if_false, if_true]
  rfl

section Far

variable (hl : reloc = true → ¬e.locked b c)
include hl

/-- A far place, its extension check passed, comes to its anchor. -/
theorem checkPlace_outside (hf : c.toNat / 4 = 1 ∨ c.toNat / 4 = 2) (ho : e.outside (c.toNat % 4)) :
    checkPlace s e b c reloc = .trap (trapOf 0x0B (2 + 2 ^ 8 * (c.toNat % 4))) := by
  have h0 : c ≠ 0 := fun h => by simp [h] at hf
  have ha : (!e.th.ctx.anchorSet (c.toNat % 4) || decide ((e.th.ctx.anchor (c.toNat % 4)).toNat < e.arenaBase) ||
      decide (e.arenaBase + e.arenaSize < (e.th.ctx.anchor (c.toNat % 4)).toNat + 1024)) = true := by
    simpa [Env.outside, or_assoc] using ho
  simp only [checkPlace, budget_passes fun h => absurd h h0, extension_passes hl, placeOfCode_far.mpr hf,
    placeOfCode_anchor hf, ha, Bool.not_true, Bool.false_eq_true, if_false, if_true]
  rfl

variable {p : Phys} (hc : c.toNat / 4 = 2) (ho : ¬e.outside (c.toNat % 4))
  (hw : walk s e.la.asp ((e.th.ctx.anchor (c.toNat % 4)).toNat + 32 * b) = .page p)
include hc ho hw

/-- A bank place inside the arena, on a page that its walk finds. -/
theorem checkPlace_page : checkPlace s e b c reloc = if p.tgt ≠ 0 ∨ tier1 p.pa = false then .trap (trapOf 0x0B (6 + 2 ^ 8 * b))
    else (bindSlot s e b (bankCoreOf p.pa)).andThen fun s' =>
      xlatChk s e (e.th.ctx.backing (c.toNat % 4) b) .arena fun _ => .ok s' := by
  have hx := extension_passes hl
  have ha : (!e.th.ctx.anchorSet (c.toNat % 4) || decide ((e.th.ctx.anchor (c.toNat % 4)).toNat < e.arenaBase) ||
      decide (e.arenaBase + e.arenaSize < (e.th.ctx.anchor (c.toNat % 4)).toNat + 1024)) = false := by
    simpa [Env.outside, and_assoc] using ho
  have hw' : walk s e.la.asp (e.th.ctx.backing (c.toNat % 4) b) = .page p := hw
  have hne : (Place.bank (c.toNat % 4) == .lane) = false := rfl
  rw [placeOfCode_bank hc, hne] at hx
  simp only [checkPlace, placeOfCode_bank hc, Place.far, Place.anchor, hne, hx, ha, hw', Bool.false_and, Bool.not_true,
    Bool.false_eq_true, if_false, Bool.or_eq_true, bne_iff_ne, Bool.not_eq_true']
  cases bindSlot s e b (bankCoreOf p.pa) <;> rfl

theorem checkPlace_beyond (hp : p.tgt ≠ 0 ∨ tier1 p.pa = false) :
    checkPlace s e b c reloc = .trap (trapOf 0x0B (6 + 2 ^ 8 * b)) :=
  (checkPlace_page hl hc ho hw).trans (if_pos hp)

/-- Every proxy slot of the bank core is bound to other threads (sub-cause 1). -/
theorem checkPlace_full (hp : p.tgt = 0) (ht : tier1 p.pa = true) (he : s.thread? e.t = some e.th)
    (hb : bankCoreOf p.pa ∉ e.th.bound) (hs : 16 ≤ findD s.slots (bankCoreOf p.pa) 0) :
    checkPlace s e b c reloc = .trap (trapOf 0x0B (1 + 2 ^ 8 * b)) := by
  rw [checkPlace_page hl hc ho hw, if_neg (by simp [hp, ht])]
  simp [bindSlot, he, hb, hs, Chk.andThen]

end Far

end Checks

end Sys2Proof.Machine
end

section
/-! SUPPORT. What the checks of a block's registers leave of its thread (R99 to R103, R355), and what a shared word
means for them (R102). -/

namespace Sys2Proof.Machine

/-! The thread. -/

/-- A thread of which checks may have changed the names of block b, the unread mark of the block, and the proxy slots. -/
structure Thread.OnlyBlock (th0 : Thread) (b : Nat) (th : Thread) : Prop where
  rest   : th = { th0 with regs := th.regs, unread := th.unread, bound := th.bound }
  regs   : ∀ r : Reg, r.toNat / 8 ≠ b → th.stored r = th0.stored r
  unread : ∀ b', b' ≠ b → (b' ∈ th.unread ↔ b' ∈ th0.unread)

theorem Thread.OnlyBlock.refl (th : Thread) (b : Nat) : th.OnlyBlock b th := ⟨rfl, fun _ _ => rfl, fun _ _ => Iff.rfl⟩

/-- The state has a thread so changed. -/
def State.OnlyBlock (s : State) (t : Nat) (th0 : Thread) (b : Nat) : Prop := ∃ th, s.thread? t = some th ∧ th0.OnlyBlock b th

section OnlyBlock

variable {s s' : State} {e : Env} {th0 : Thread} {b : Nat}

theorem State.OnlyBlock.mod (h : s.OnlyBlock e.t th0 b) {f : Thread → Thread}
    (hf : ∀ th : Thread, th.OnlyBlock b (f th)) : (s.modThread e.t f).OnlyBlock e.t th0 b := by
  obtain ⟨th, hth, hr, hregs, hun⟩ := h
  obtain ⟨hr', hregs', hun'⟩ := hf th
  refine ⟨f th, by rw [thread?_modThread, if_pos rfl, hth]; rfl, ?_, fun r hb => (hregs' r hb).trans (hregs r hb),
    fun b' hb => (hun' b' hb).trans (hun b' hb)⟩
  rw [hr', hr]

theorem fetchBlock_onlyBlock (h : s.OnlyBlock e.t th0 b) (p : Phys) :
    (fetchBlock s e b p).OnlyBlock e.t th0 b := by
  unfold fetchBlock
  split
  · exact h
  · refine h.mod fun th => ⟨rfl, fun r hr => ?_, fun b' hb' => List.mem_erase_of_ne hb'⟩
    have hset : ∀ (v : Nat) (xs : List Nat) (m : List (Nat × Word)), (∀ i ∈ xs, i < 8) →
        findD (xs.foldl (fun m i => putD 0 m (8 * b + i) (BitVec.ofNat 32 (v / 2 ^ (32 * i)))) m) r.toNat 0 =
          findD m r.toNat 0 := fun v xs => by
      induction xs with
      | nil => exact fun _ _ => rfl
      | cons i xs ih =>
        intro m hi
        have h8 := hi i List.mem_cons_self
        rw [List.foldl_cons, ih _ fun j hj => hi j (List.mem_cons_of_mem i hj), findD_putD, if_neg (by omega)]
    exact hset _ _ _ fun i hi => List.mem_range.mp hi

theorem shareReg_onlyBlock (h : s.OnlyBlock e.t th0 b) {r : Reg} (hr : blockOf r = b) (p : Phys) :
    (shareReg s e r p).OnlyBlock e.t th0 b := by
  unfold shareReg
  split
  · refine State.OnlyBlock.mod (e := e) (s := { s with free := s.free + 1 }) h fun th => ⟨rfl, fun q hq => ?_, fun _ _ => Iff.rfl⟩
    have hne : q.toNat ≠ r.toNat := fun hqr => hq (by rw [hqr]; exact hr)
    exact (findD_putD _ _ _ _ _).trans (if_neg hne)
  · exact h

theorem bindSlot_onlyBlock (h : s.OnlyBlock e.t th0 b) {n bc : Nat} (hs : bindSlot s e n bc = .ok s') :
    s'.OnlyBlock e.t th0 b := by
  obtain ⟨th, hth, hr, hregs, hun⟩ := h
  simp only [bindSlot, hth] at hs
  split at hs
  · cases hs
    exact ⟨th, hth, hr, hregs, hun⟩
  · split at hs
    · cases hs
    · cases hs
      exact ⟨_, thread?_setThread_self _ _ _, by rw [hr], hregs, hun⟩

theorem xlatChk_ok {va : Nat} {n : Need} {k : Phys → Chk} (h : xlatChk s e va n k = .ok s') :
    ∃ p, e.xlat s va n = .ok p ∧ k p = .ok s' := by
  unfold xlatChk at h
  split at h
  · exact ⟨_, ‹_›, h⟩
  · cases h
  · cases h
  · cases h

/-- What a passed check of a register has done: nothing at the lane; its block's words taken, and a value found in a
shared word, at a slice; and with a proxy slot bound at a bank core. -/
theorem checkReg_ok {r : Reg} (h : checkReg s e r = .ok s') :
    s' = s ∨ ∃ p, s' = shareReg (fetchBlock s e (blockOf r) p) e r p ∨
      ∃ bc, bindSlot (shareReg (fetchBlock s e (blockOf r) p) e r p) e (blockOf r) bc = .ok s' := by
  unfold checkReg at h
  dsimp only at h
  split at h
  · split at h <;> cases h
    exact .inl rfl
  · cases h
  · split at h
    · cases h
    · obtain ⟨p, -, hp⟩ := xlatChk_ok h
      cases hp
      exact .inr ⟨p, .inl rfl⟩
  · split at h
    · cases h
    · obtain ⟨p, -, hp⟩ := xlatChk_ok h
      split at hp
      · cases hp
      · exact .inr ⟨p, .inr ⟨_, hp⟩⟩

theorem checkReg_onlyBlock (h : s.OnlyBlock e.t th0 b) {r : Reg} (hr : blockOf r = b)
    (hs : checkReg s e r = .ok s') : s'.OnlyBlock e.t th0 b := by
  have hread : ∀ p, (shareReg (fetchBlock s e (blockOf r) p) e r p).OnlyBlock e.t th0 b := fun p =>
    shareReg_onlyBlock (hr ▸ fetchBlock_onlyBlock h p) hr p
  obtain rfl | ⟨p, rfl | ⟨bc, hbind⟩⟩ := checkReg_ok hs
  · exact h
  · exact hread p
  · exact bindSlot_onlyBlock (hread p) hbind

theorem checkRegs_cons {r : Reg} {rs : List Reg} (h : checkRegs s e (r :: rs) = .ok s') :
    ∃ s1, checkReg s e r = .ok s1 ∧ checkRegs s1 e rs = .ok s' := by
  unfold checkRegs at h
  split at h
  · exact ⟨_, ‹_›, h⟩
  · rename_i hne
    exact absurd h (hne s')

theorem checkRegs_onlyBlock (h : s.OnlyBlock e.t th0 b) {rs : List Reg} (hr : ∀ r ∈ rs, blockOf r = b)
    (hs : checkRegs s e rs = .ok s') : s'.OnlyBlock e.t th0 b := by
  induction rs generalizing s with
  | nil =>
    cases hs
    exact h
  | cons r rs ih =>
    obtain ⟨s1, h1, h2⟩ := checkRegs_cons hs
    exact ih (checkReg_onlyBlock h (hr r List.mem_cons_self) h1) (fun q hq => hr q (List.mem_cons_of_mem r hq)) h2

/-- A passed check of a new place has bound a proxy slot at most. -/
theorem checkPlace_ok {c : BitVec 4} {reloc : Bool} (h : checkPlace s e b c reloc = .ok s') :
    s' = s ∨ ∃ bc, bindSlot s e b bc = .ok s' := by
  unfold checkPlace at h
  dsimp only at h
  split at h
  · cases h
  split at h
  · cases h
  split at h
  · cases h
    exact .inl rfl
  split at h
  · cases h
  split at h
  · split at h
    · cases h
    · split at h
      · obtain ⟨p, -, hp⟩ := xlatChk_ok h
        cases hp
        exact .inr ⟨_, ‹_›⟩
      · rename_i hne
        exact absurd h (hne s')
  · obtain ⟨p, -, hp⟩ := xlatChk_ok h
    cases hp
    exact .inl rfl

theorem checkPlace_onlyBlock (h : s.OnlyBlock e.t th0 b) {c : BitVec 4} {reloc : Bool}
    (hs : checkPlace s e b c reloc = .ok s') : s'.OnlyBlock e.t th0 b := by
  obtain rfl | ⟨bc, hbind⟩ := checkPlace_ok hs
  · exact h
  · exact bindSlot_onlyBlock h hbind

theorem spillCheck_ok (h : spillCheck s e b = .ok s') : s' = s := by
  unfold spillCheck at h
  dsimp only at h
  split at h
  · obtain ⟨p, -, hp⟩ := xlatChk_ok h
    cases hp
    rfl
  · cases h
    rfl

end OnlyBlock

theorem blockOf_ofNat {b i : Nat} (hb : b < 32) (hi : i < 8) : blockOf (BitVec.ofNat 8 (8 * b + i)) = b := by
  simp only [blockOf, BitVec.toNat_ofNat]
  omega

theorem blockOf_of_mem_blockRegs {b : Nat} (hb : b < 32) {r : Reg} (h : r ∈ blockRegs b) : blockOf r = b := by
  obtain ⟨i, hi, rfl⟩ := List.mem_map.mp h
  exact blockOf_ofNat hb (List.mem_range.mp hi)

theorem checkReloc_ok {s s' : State} {e : Env} {b : Nat} {c : BitVec 4} (h : checkReloc s e b c = .ok s') :
    ∃ s1, checkPlace s e b c true = .ok s1 ∧
      (s' = s1 ∨ (placeOfCode (codeOfBlock e.th.ctx.pmap b)).far = true ∧ checkRegs s1 e (blockRegs b) = .ok s') := by
  unfold checkReloc at h
  split at h
  · refine ⟨_, ‹_›, ?_⟩
    split at h
    · exact .inr ⟨‹_›, h⟩
    · cases h
      exact .inl rfl
  · rename_i hne
    exact absurd h (hne s')

theorem checkReloc_onlyBlock {s s' : State} {e : Env} {th0 : Thread} {b : Nat} {c : BitVec 4} (hb : b < 32)
    (h : s.OnlyBlock e.t th0 b) (hs : checkReloc s e b c = .ok s') : s'.OnlyBlock e.t th0 b := by
  obtain ⟨s1, h1, rfl | ⟨-, h2⟩⟩ := checkReloc_ok hs
  · exact checkPlace_onlyBlock h h1
  · exact checkRegs_onlyBlock (checkPlace_onlyBlock h h1) (fun r => blockOf_of_mem_blockRegs hb) h2

/-! Shared words (R102). -/

section Shared

variable {s s' : State}

theorem walkFrom_congr (hd : s'.dram = s.dram) (hl : s'.l2 = s.l2) (fuel level table va : Nat) :
    walkFrom s' fuel level table va = walkFrom s fuel level table va := by
  have hr : ∀ pa n, homeRead s' pa n = homeRead s pa n := fun pa n => by
    simp only [homeRead, homeLine, dramLine, hd, hl]
  induction fuel generalizing level table with
  | zero => rfl
  | succ fuel ih => simp only [walkFrom, hr, ih]

theorem xlat_congr (hd : s'.dram = s.dram) (hl : s'.l2 = s.l2) (ha : s'.atc = s.atc) (e : Env) (va : Nat) (n : Need) :
    e.xlat s' va n = e.xlat s va n := by
  simp only [Env.xlat, translate, walk, walkFrom_congr hd hl, atcFind, ha]

theorem mem_or_of_mem {α : Type} {m : List (Nat × α)} {k : Nat} {w : α} {x : Nat × α} (h : x ∈ m) :
    x ∈ put m k w ∨ x.1 = k ∧ find? m k = some x.2 := by
  induction m with
  | nil => cases h
  | cons y m ih => grind [put, find?]

/-- A word shared in one state is shared in another with the same memory in which the threads have the same contexts. -/
theorem sharesWord_mono (hd : s'.dram = s.dram) (hl : s'.l2 = s.l2) (ha : s'.atc = s.atc)
    (hmem : ∀ v ∈ s.threads, ∃ w ∈ s'.threads, w.1 = v.1 ∧ w.2.exited = v.2.exited)
    (henv : ∀ v e, s.env v = some e → ∃ th, s'.env v = some { e with th := th } ∧ th.ctx = e.th.ctx) {u b tgt pa : Nat}
    (h : sharesWord s u b tgt pa = true) : sharesWord s' u b tgt pa = true := by
  obtain ⟨v, hv, h⟩ := List.any_eq_true.mp h
  obtain ⟨w, hw, hk, hex⟩ := hmem v hv
  refine List.any_eq_true.mpr ⟨w, hw, ?_⟩
  rw [hk, hex]
  cases he : s.env v.1 with
  | none => simp [he] at h
  | some e =>
    obtain ⟨th, hth, hctx⟩ := henv v.1 e he
    have hxl : ∀ va n, Env.xlat { e with th := th } s' va n = e.xlat s va n := fun va n => xlat_congr hd hl ha e va n
    simp only [he] at h
    simp only [hth, hxl, hctx]
    exact h

/-- Words that are shared stay so. -/
def KeepsShared (s s' : State) : Prop := ∀ u b tgt pa, sharesWord s u b tgt pa = true → sharesWord s' u b tgt pa = true

/-- A change of a thread's registers, unread blocks or proxy slots keeps them. -/
theorem keepsShared_setThread {t : Nat} {x y : Thread} (ht : s.thread? t = some x) (hc : y.ctx = x.ctx)
    (hx : y.exited = x.exited) : KeepsShared s (s.setThread t y) := by
  have hmem : ∀ v ∈ s.threads, ∃ w ∈ (s.setThread t y).threads, w.1 = v.1 ∧ w.2.exited = v.2.exited := fun v hv => by
    obtain h | ⟨rfl, hf⟩ := mem_or_of_mem (k := t) (w := y) hv
    · exact ⟨v, h, rfl, rfl⟩
    · cases ht.symm.trans hf
      exact ⟨(v.1, y), mem_of_find? (find?_put_self _ _ _), rfl, hx⟩
  refine fun u b tgt pa => sharesWord_mono (s := s) (s' := s.setThread t y) rfl rfl rfl hmem fun v e he => ?_
  by_cases hv : v = t
  · subst hv
    cases ht.symm.trans (thread?_of_env he)
    exact ⟨y, env_setThread he y, hc⟩
  · exact ⟨e.th, (env_setThread_ne _ hv).trans he, rfl⟩

/-- So does a step of the free values or of the counts of proxy slots. -/
theorem keepsShared_counters (s : State) (free : Nat) (slots : List (Nat × Nat)) :
    KeepsShared s { s with free := free, slots := slots } := fun _ _ _ _ =>
  sharesWord_mono rfl rfl rfl (fun v hv => ⟨v, hv, rfl, rfl⟩) fun _ e he => ⟨e.th, he, rfl⟩

theorem KeepsShared.trans {s'' : State} (h : KeepsShared s s') (h' : KeepsShared s' s'') : KeepsShared s s'' :=
  fun u b tgt pa hs => h' u b tgt pa (h u b tgt pa hs)

theorem shareReg_keepsShared (s : State) (e : Env) (r : Reg) (p : Phys) : KeepsShared s (shareReg s e r p) := by
  unfold shareReg
  split
  · refine (keepsShared_counters s (s.free + 1) s.slots).trans ?_
    cases hth : s.thread? e.t with
    | none =>
      unfold State.thread? at hth
      simp only [State.modThread, adjust, hth]
      exact fun _ _ _ _ h => h
    | some x =>
      rw [modThread_of_thread? (s := { s with free := s.free + 1 }) hth]
      exact keepsShared_setThread (s := { s with free := s.free + 1 }) hth rfl rfl
  · exact fun _ _ _ _ h => h

theorem bindSlot_keepsShared {e : Env} {b bc : Nat} (hs : bindSlot s e b bc = .ok s') : KeepsShared s s' := by
  unfold bindSlot at hs
  split at hs
  · cases hs
    exact fun _ _ _ _ h => h
  · rename_i th hth
    split at hs
    · cases hs
      exact fun _ _ _ _ h => h
    · split at hs <;> cases hs
      exact (keepsShared_counters s s.free _).trans (keepsShared_setThread (t := e.t) hth rfl rfl)

section Unshared

variable {e : Env} {b : Nat} (hu : b ∉ e.th.unread)
include hu

theorem fetchBlock_read (s : State) (p : Phys) : fetchBlock s e b p = s := by
  simp [fetchBlock, hu]

theorem checkReg_keepsShared {r : Reg} (hr : blockOf r = b) (hs : checkReg s e r = .ok s') : KeepsShared s s' := by
  obtain rfl | ⟨p, rfl | ⟨bc, hbind⟩⟩ := checkReg_ok hs
  · exact fun _ _ _ _ h => h
  · rw [hr, fetchBlock_read hu]
    exact shareReg_keepsShared s e r p
  · rw [hr, fetchBlock_read hu] at hbind
    exact (shareReg_keepsShared s e r p).trans (bindSlot_keepsShared hbind)

theorem checkRegs_keepsShared {rs : List Reg} (hr : ∀ r ∈ rs, blockOf r = b) (hs : checkRegs s e rs = .ok s') :
    KeepsShared s s' := by
  induction rs generalizing s with
  | nil =>
    cases hs
    exact fun _ _ _ _ h => h
  | cons r rs ih =>
    obtain ⟨s1, h1, h2⟩ := checkRegs_cons hs
    exact (checkReg_keepsShared hu (hr r List.mem_cons_self) h1).trans
      (ih (fun q hq => hr q (List.mem_cons_of_mem r hq)) h2)

end Unshared

/-- Of the state's thread only the proxy slots may have changed. -/
def State.OnlySlots (s : State) (t : Nat) (th0 : Thread) : Prop := ∃ bound, s.thread? t = some { th0 with bound := bound }

theorem bindSlot_onlySlots {e : Env} {th0 : Thread} {b bc : Nat} (h : s.OnlySlots e.t th0)
    (hs : bindSlot s e b bc = .ok s') : s'.OnlySlots e.t th0 := by
  obtain ⟨bound, hth⟩ := h
  simp only [bindSlot, hth] at hs
  split at hs
  · cases hs
    exact ⟨bound, hth⟩
  · split at hs <;> cases hs
    exact ⟨_, thread?_setThread_self _ _ _⟩

/-- Registers of a block whose words are its own are read as they stand (R102). -/
theorem checkRegs_onlySlots {e : Env} {th0 : Thread} {b : Nat} (hu : b ∉ e.th.unread) (h : s.OnlySlots e.t th0)
    {rs : List Reg} (hr : ∀ r ∈ rs, blockOf r = b) (hs : checkRegs s e rs = .ok s')
    (hun : ∀ tgt pa, sharesWord s' e.t b tgt pa = false) : s'.OnlySlots e.t th0 := by
  induction rs generalizing s with
  | nil =>
    cases hs
    exact h
  | cons r rs ih =>
    have hs0 : ∀ tgt pa, sharesWord s e.t b tgt pa = false := fun tgt pa => by
      have hk := checkRegs_keepsShared hu hr hs e.t b tgt pa
      simpa [hun] using hk
    obtain ⟨s1, h1, h2⟩ := checkRegs_cons hs
    have hread : ∀ p, shareReg (fetchBlock s e (blockOf r) p) e r p = s := fun p => by
      rw [hr r List.mem_cons_self, fetchBlock_read hu, shareReg, hr r List.mem_cons_self]
      simp [hs0]
    refine ih ?_ (fun q hq => hr q (List.mem_cons_of_mem r hq)) h2
    obtain rfl | ⟨p, rfl | ⟨bc, hbind⟩⟩ := checkReg_ok h1
    · exact h
    · rwa [hread p]
    · rw [hread p] at hbind
      exact bindSlot_onlySlots h hbind

theorem checkReloc_onlySlots {e : Env} {b : Nat} {c : BitVec 4} (hb : b < 32) (hu : b ∉ e.th.unread)
    (hth : s.thread? e.t = some e.th) (hs : checkReloc s e b c = .ok s')
    (hun : ∀ tgt pa, sharesWord s' e.t b tgt pa = false) : s'.OnlySlots e.t e.th := by
  have h0 : s.OnlySlots e.t e.th := ⟨e.th.bound, hth⟩
  obtain ⟨s1, h1, h2⟩ := checkReloc_ok hs
  have hs1 : s1.OnlySlots e.t e.th := by
    obtain rfl | ⟨bc, hbind⟩ := checkPlace_ok h1
    · exact h0
    · exact bindSlot_onlySlots h0 hbind
  obtain rfl | ⟨-, hregs⟩ := h2
  · exact hs1
  · exact checkRegs_onlySlots hu hs1 (fun r => blockOf_of_mem_blockRegs hb) hregs hun

end Shared

end Sys2Proof.Machine
end

section
/-! SUPPORT and the obligation of places and anchors (R98 to R103, R111, R121 to R123, R325): a block placed anew, and the
three units. -/

namespace Sys2Proof.Machine

/-! The names of a block written (R93, R121). -/

/-- Each name of a block with a value by its place in the block. -/
def blockWrites (b : Nat) (f : Nat → Word) : List (Reg × Word) := (List.range 8).map fun i => (BitVec.ofNat 8 (8 * b + i), f i)

theorem lastWrite_of_only {ws : List (Reg × Word)} {r : Reg} {v : Word} (h : (r, v) ∈ ws)
    (hv : ∀ w, (r, w) ∈ ws → w = v) : lastWrite ws r = some v := by
  unfold lastWrite
  cases hf : ws.reverse.find? (fun w => w.1 == r) with
  | none => simpa using List.find?_eq_none.mp hf (r, v) (List.mem_reverse.mpr h)
  | some x =>
    obtain ⟨q, w⟩ := x
    obtain rfl : q = r := by simpa using List.find?_some hf
    exact congrArg some (hv w (List.mem_reverse.mp (List.mem_of_find?_eq_some hf)))

theorem lastWrite_blockWrites {b : Nat} (hb : b < 32) (f : Nat → Word) (r : Reg) :
    lastWrite (blockWrites b f) r = if r.toNat / 8 = b then some (f (r.toNat % 8)) else none := by
  have hname : ∀ i, i < 8 → (BitVec.ofNat 8 (8 * b + i) = r ↔ r.toNat / 8 = b ∧ r.toNat % 8 = i) := fun i hi => by
    rw [← reg_toNat_inj, BitVec.toNat_ofNat]
    omega
  split
  · rename_i hr
    refine lastWrite_of_only (List.mem_map.mpr ⟨r.toNat % 8, ?_, ?_⟩) fun w hw => ?_
    · exact List.mem_range.mpr (Nat.mod_lt _ (by decide))
    · rw [(hname _ (Nat.mod_lt _ (by decide))).mpr ⟨hr, rfl⟩]
    · obtain ⟨i, hi, hiw⟩ := List.mem_map.mp hw
      obtain ⟨h1, h2⟩ := Prod.mk.inj hiw
      obtain ⟨-, rfl⟩ := (hname i (List.mem_range.mp hi)).mp h1
      exact h2.symm
  · rename_i hr
    refine lastWrite_eq_none fun w hw hwr => ?_
    obtain ⟨i, hi, rfl⟩ := List.mem_map.mp hw
    exact hr ((hname i (List.mem_range.mp hi)).mp hwr).1

/-! A block placed anew (R121, R122). -/

/-- The values of a block at a place: as given, 0 where the code names no place. -/
def placedValue (c : BitVec 4) (f : Nat → Word) (i : Nat) : Word := if placeOfCode c = .unmapped then 0 else f i

/-- The thread with a block's values written. -/
def withBlock (th : Thread) (b : Nat) (c : BitVec 4) (f : Nat → Word) : Thread :=
  { th.writes false th.nextSeq (blockWrites b (placedValue c f)) with unread := th.unread.erase b }

/-- Its context past the unit that has placed the block. -/
def placeNext (th : Thread) (b : Nat) (c : BitVec 4) (f : Nat → Word) : Ctx :=
  { (withBlock th b c f).ctx.advance 1 with pmap := setCode (withBlock th b c f).ctx.pmap b c }

theorem placeWrites_eq (b : Nat) (c : BitVec 4) (f : Nat → Word) :
    (if placeOfCode c == .unmapped then (blockRegs b).map (fun r => (r, (0 : Word)))
      else (blockRegs b).zip ((List.range 8).map f)) = blockWrites b (placedValue c f) := by
  unfold blockWrites placedValue
  by_cases h : placeOfCode c = .unmapped
  · simp only [h, beq_self_eq_true, if_true]
    exact List.map_map
  · simp only [beq_iff_eq, h, if_false]
    exact List.zip_map'

/-- Proxy slots that back no block any longer released, as a unit commits that has placed one (R103, R111). -/
def freeUnbacked (s : State) (t : Nat) : State :=
  match s.env t with
  | none => s
  | some e => freeSlots s e.t (backedBy s e)

theorem freeUnbacked_thread? {s : State} {t : Nat} {th : Thread} (h : s.thread? t = some th) :
    ∃ bound, (freeUnbacked s t).thread? t = some { th with bound := bound } := by
  unfold freeUnbacked
  split
  · exact ⟨th.bound, h⟩
  · rename_i e he
    rw [env_t he]
    simp only [freeSlots, h]
    exact ⟨_, thread?_setThread_self s t _⟩

/-- The unit where it stands in the window: its proxy slots go as it commits. -/
def placeUnit (th : Thread) (b : Nat) (c : BitVec 4) (f : Nat → Word) : WUnit :=
  { WUnit.start th with undo := th.undoOf false (blockWrites b (placedValue c f)), act := .slots }

section Place

variable {s : State} {e : Env} {th : Thread} (hth : s.thread? e.t = some th) (b : Nat) (c : BitVec 4) (f : Nat → Word)
include hth

theorem spillBlock_thread? : (spillBlock s e b).thread? e.t = some th := by
  rw [State.thread?, spillBlock_threads]
  exact hth

/-- Behind older units the unit stands in the window. -/
theorem placeBlock_busy (hw : th.window ≠ []) : placeBlock s e b c ((List.range 8).map f) = (spillBlock s e b).setThread e.t
    ((withBlock th b c f).enter (spillBlock s e b).clk (placeUnit th b c f) (placeNext th b c f)) := by
  unfold placeBlock
  simp only [spillBlock_thread? hth b, placeWrites_eq]
  exact if_pos (by simpa using hw)

/-- With none it commits at once. -/
theorem placeBlock_idle (hw : th.window = []) : placeBlock s e b c ((List.range 8).map f) = freeUnbacked
    ((spillBlock s e b).setThread e.t ((withBlock th b c f).issued (spillBlock s e b).clk (placeNext th b c f))) e.t := by
  unfold placeBlock
  simp only [spillBlock_thread? hth b, placeWrites_eq]
  exact if_neg (by simp [hw])

end Place

theorem enter_eq (th : Thread) (clk : Nat) (u : WUnit) (next : Ctx) :
    th.enter clk u next = { th.issued clk next with window := th.window ++ [u] } := rfl

theorem issued_window (th : Thread) (clk : Nat) (next : Ctx) : (th.issued clk next).window = th.window := rfl

theorem withBlock_eq (th : Thread) (b : Nat) (c : BitVec 4) (f : Nat → Word) : withBlock th b c f = { th with
    regs := (withBlock th b c f).regs
    ctx := { th.ctx with fwd := (withBlock th b c f).ctx.fwd }
    unread := th.unread.erase b } := by
  unfold withBlock
  rw [writes_eq]

theorem stored_withBlock {th : Thread} {b : Nat} (hb : b < 32) (c : BitVec 4) (f : Nat → Word) (r : Reg) :
    (withBlock th b c f).stored r = if r.toNat / 8 = b then placedValue c f (r.toNat % 8) else th.stored r := by
  unfold withBlock
  generalize hx : th.writes false th.nextSeq (blockWrites b (placedValue c f)) = x
  change x.stored r = _
  rw [← hx, stored_writes, lastWrite_blockWrites hb]
  split <;> rfl

/-- What the unit leaves of a thread that its checks have changed in the block alone. -/
theorem placed_of_thread {t : State} {e : Env} {th x : Thread} {b : Nat} {c : BitVec 4} {f : Nat → Word} (hb : b < 32)
    (h : e.th.OnlyBlock b th) {clk : Nat} (hx : (withBlock th b c f).issued clk (placeNext th b c f) = x)
    {w : List WUnit} {bound : List Nat} (ht : t.thread? e.t = some { x with window := w, bound := bound })
    (hw : if e.th.window = [] then w = [] else
      ∃ u, w = e.th.window ++ [u] ∧ u.done = true ∧ u.act = .slots ∧ u.before = e.th.ctx) :
    Placed t e b c f { x with window := w, bound := bound } := by
  obtain ⟨hrest, hregs, hun⟩ := h
  have hctx : x.ctx = { e.th.ctx.past 1 with
      pmap := setCode e.th.ctx.pmap b c, fwd := (withBlock th b c f).ctx.fwd } := by
    rw [← hx, issued_eq]
    unfold placeNext
    rw [withBlock_eq, hrest]
    rfl
  have hunread : x.unread = th.unread.erase b := by rw [← hx]; rfl
  have hstored : ∀ r, x.stored r = (withBlock th b c f).stored r := fun r => by rw [← hx]; rfl
  refine ⟨fun b' hb' => ?_, ht, ?_, fun b' hb' => ?_, fun r => ?_, hw, ?_⟩
  · rw [hunread, List.mem_erase_of_ne hb', hun b' hb']
  · rw [hctx]
    rfl
  · rw [hctx, ← codeOfBlock_toNat, ← codeOfBlock_toNat, codeOfBlock_setCode _ _ _ _ hb']
    split <;> rfl
  · change x.stored r = _
    rw [hstored, stored_withBlock hb]
    split
    · simp only [placedValue, placeOfCode_unmapped, ite_not]
    · exact hregs r ‹_›
  · dsimp only
    rw [hctx, ← hx, issued_eq, withBlock_eq, hrest]

theorem placeBlock_placed {s : State} {e : Env} {b : Nat} (hb : b < 32) (h : s.OnlyBlock e.t e.th b) (c : BitVec 4)
    (f : Nat → Word) : ∃ th, Placed (placeBlock s e b c ((List.range 8).map f)) e b c f th := by
  obtain ⟨th, hth, honly⟩ := h
  have hwin : th.window = e.th.window := by rw [honly.rest]
  have hwb : (withBlock th b c f).window = e.th.window := by rw [withBlock_eq, hwin]
  have hbefore : (placeUnit th b c f).before = e.th.ctx := by rw [honly.rest]; rfl
  by_cases hw : e.th.window = []
  · rw [placeBlock_idle hth b c f (hwin.trans hw)]
    have hxw := issued_window (withBlock th b c f) (spillBlock s e b).clk (placeNext th b c f)
    generalize hx : (withBlock th b c f).issued (spillBlock s e b).clk (placeNext th b c f) = x at hxw ⊢
    obtain ⟨bound, ht⟩ := freeUnbacked_thread? (thread?_setThread_self (spillBlock s e b) e.t x)
    exact ⟨_, placed_of_thread hb honly hx ht (by rw [if_pos hw, hxw, hwb, hw])⟩
  · rw [placeBlock_busy hth b c f (hwin ▸ hw), enter_eq, hwb]
    generalize hx : (withBlock th b c f).issued (spillBlock s e b).clk (placeNext th b c f) = x
    refine ⟨_, placed_of_thread hb honly hx (thread?_setThread_self _ _ _) ?_⟩
    rw [if_neg hw]
    exact ⟨placeUnit th b c f, rfl, rfl, rfl, hbefore⟩

/-! The three units. -/

theorem anch_of_ready {s s1 : State} {c : Ctl} {an : BitVec 8} {xa : Reg} {e : Env} (h : Ready s .queued c [xa, xa + 1] s1 e)
    (ha : Arrived e [xa, xa + 1]) : exec (.anch c an xa) s =
    if pairNat e.th.read xa % 32 ≠ 0 then .next (raiseTrap s1 e.t (trapOf 0x03 (pairNat e.th.read xa % 2 ^ 57)))
    else if namesAnchor e.th.ctx.pmap an.toNat then .next (raiseTrap s1 e.t (trapOf 0x0B (7 + 2 ^ 8 * an.toNat)))
    else if pairNat e.th.read xa < e.arenaBase ∨ e.arenaBase + e.arenaSize < pairNat e.th.read xa + 1024 then
      .next (raiseTrap s1 e.t (trapOf 0x0B (2 + 2 ^ 8 * an.toNat)))
    else .next (Gone s1 e { e.th.ctx.past 1 with
      anc := putD 0 e.th.ctx.anc an.toNat (BitVec.ofNat 64 (pairNat e.th.read xa))
      aset := e.th.ctx.aset ||| (1#4 <<< an.toNat) }) := by
  refine (gather_of_ready h ha 1 _).trans ?_
  simp only [read64_toNat, settleCtx_eq s1 (rfl : e.th.window = e.th.window), gone_eq, bne_iff_ne, Bool.or_eq_true,
    decide_eq_true_eq]
  rfl

section Traps

variable {s : State} {c : Ctl} {b pl : BitVec 8} {e : Env} (h : Passes s .queued c e) {ti : TrapInfo}
include h

theorem place_trap (hc : checkPlace s e b.toNat (BitVec.ofNat 4 pl.toNat) false = .trap ti) :
    exec (.place c b pl) s = .next (raiseTrap s e.t ti) := by
  rw [exec_place, execPlace, unit_of_passes h]
  simp only [extractLsb'_code, hc, Chk.andThen]

theorem reloc_trap (hc : checkPlace s e b.toNat (BitVec.ofNat 4 pl.toNat) true = .trap ti) :
    exec (.reloc c b pl) s = .next (raiseTrap s e.t ti) := by
  rw [exec_reloc, execReloc, unit_of_passes h]
  simp only [extractLsb'_code, checkReloc, hc]

end Traps

section Effects

variable {s s0 s1 : State} {c : Ctl} {b pl : BitVec 8} {e : Env} (h : Passes s .queued c e) (hb : b.toNat < 32)
  (hp : ∀ r : Reg, r.toNat / 8 = b.toNat → r ∉ e.th.pending) (hw : spillWaits s e b.toNat = false)
include h hb hp hw

omit h hw in
theorem blockRegs_not_pending : (blockRegs b.toNat).any (fun r => e.th.pending.contains r) = false := by
  simp only [List.any_eq_false, List.contains_iff_mem]
  exact fun r hr => hp r (blockOf_of_mem_blockRegs hb hr)

theorem place_of_checked (hc : checkPlace s e b.toNat (BitVec.ofNat 4 pl.toNat) false = .ok s0)
    (hs : spillCheck s0 e b.toNat = .ok s1) : exec (.place c b pl) s =
    .next (placeBlock s1 e b.toNat (BitVec.ofNat 4 pl.toNat) ((List.range 8).map fun _ => 0)) := by
  rw [exec_place, execPlace, unit_of_passes h]
  simp only [extractLsb'_code, hc, Chk.andThen, hs, blockRegs_not_pending hb hp, hw]
  rfl

theorem reloc_of_checked {th : Thread} (hc : checkReloc s e b.toNat (BitVec.ofNat 4 pl.toNat) = .ok s1)
    (hth : s1.thread? e.t = some th) : exec (.reloc c b pl) s =
    .next (placeBlock s1 e b.toNat (BitVec.ofNat 4 pl.toNat) ((List.range 8).map fun i =>
      if placeOfCode (codeOfBlock e.th.ctx.pmap b.toNat) = .unmapped then 0 else th.read (BitVec.ofNat 8 (8 * b.toNat + i)))) := by
  rw [exec_reloc, execReloc, unit_of_passes h]
  simp only [extractLsb'_code, hc, blockRegs_not_pending hb hp, hw, hth, beq_iff_eq]
  rfl

end Effects

/-- The place of a block's first name is the block's. -/
theorem place_firstName (ctx : Ctx) {b : Nat} (hb : b < 32) :
    ctx.place (BitVec.ofNat 8 (8 * b)) = placeOfCode (codeOfBlock ctx.pmap b) :=
  congrArg (fun b => placeOfCode (codeOfBlock ctx.pmap b)) (blockOf_ofNat (i := 0) hb (by decide))

/-- Settles O23: the units run their checks in the order of the rules, and a passed check leaves the thread as it was but for
the block itself, its unread mark and the proxy slots; the placed block is then the last write of each of its names. -/
theorem placesAndAnchors : Obligations.PlacesAndAnchors := by
  unfold Obligations.PlacesAndAnchors
  refine ⟨fun s s1 c an xa e h ha => ?anch, fun s c b pl e h hb => ?traps, fun s s0 s1 c b pl e h hb hp hw =>
    ⟨fun hc hs => ?place, fun hc => ?reloc⟩⟩
  case anch =>
    have hn := namesAnchor_iff e.th.ctx.pmap an.toNat
    intro v named inside
    rw [anch_of_ready h ha]
    refine ⟨fun hv => if_pos hv, fun hv hn' => ?_, fun hv hn' hi => ?_, fun hv hn' hi => ?_⟩
    · rw [if_neg (not_not_intro hv), if_pos (hn.mpr hn')]
    · rw [if_neg (not_not_intro hv), if_neg (mt hn.mp hn'), if_pos (by omega)]
    · rw [if_neg (not_not_intro hv), if_neg (mt hn.mp hn'), if_neg (by omega)]
  case traps =>
    have ht : s.thread? e.t = some e.th := env_t h.env ▸ thread?_of_env h.env
    intro code k far a outside locked place reloc
    have hplace : (false = true → ¬e.locked b.toNat code) := nofun
    refine ⟨fun h0 hu => ⟨?_, ?_⟩, fun h0 hl => ?_, fun hf ho => ⟨?_, fun hl => ?_⟩, fun p hc ho hw =>
      ⟨fun hp => ⟨?_, fun hl => ?_⟩, fun hp ht1 hb1 hs => ⟨?_, fun hl => ?_⟩⟩⟩
    · exact place_trap h (checkPlace_budget h0 hu)
    · exact reloc_trap h (checkPlace_budget h0 hu)
    · exact reloc_trap h (checkPlace_locked h0 hl)
    · exact place_trap h (checkPlace_outside hplace hf ho)
    · exact reloc_trap h (checkPlace_outside (fun _ => hl) hf ho)
    · exact place_trap h (checkPlace_beyond hplace hc ho hw hp)
    · exact reloc_trap h (checkPlace_beyond (fun _ => hl) hc ho hw hp)
    · exact place_trap h (checkPlace_full hplace hc ho hw hp ht1 ht hb1 hs)
    · exact reloc_trap h (checkPlace_full (fun _ => hl) hc ho hw hp ht1 ht hb1 hs)
  case place =>
    have ht : s.thread? e.t = some e.th := env_t h.env ▸ thread?_of_env h.env
    have honly := checkPlace_onlyBlock ⟨e.th, ht, .refl (b := b.toNat) e.th⟩ hc
    obtain rfl := spillCheck_ok hs
    obtain ⟨th, hth⟩ := placeBlock_placed hb honly (BitVec.ofNat 4 pl.toNat) fun _ => 0
    exact ⟨_, th, place_of_checked h hb hp hw hc hs, hth⟩
  case reloc =>
    have ht : s.thread? e.t = some e.th := env_t h.env ▸ thread?_of_env h.env
    obtain ⟨th1, hth1, honly⟩ := checkReloc_onlyBlock hb ⟨e.th, ht, .refl (b := b.toNat) e.th⟩ hc
    obtain ⟨th, hth⟩ := placeBlock_placed hb ⟨th1, hth1, honly⟩ (BitVec.ofNat 4 pl.toNat) _
    refine ⟨_, th, _, reloc_of_checked h hb hp hw hc hth1, hth, fun hun hu i _ => ?_⟩
    obtain ⟨bound, hb1⟩ := checkReloc_onlySlots hb hu ht hc hun
    rw [place_firstName _ hb]
    cases hth1.symm.trans hb1
    rfl

end Sys2Proof.Machine
end

section
/-! SUPPORT and the refutation of launch events (R101, R127, R244): a team whose far blocks hold preloaded values while
their backing words do not translate. -/

namespace Sys2Proof.Machine

open Sys2Proof.Tests

/-! A team that would become resident (R127, R244). -/

/-- The state with a launch's next team in place, before its backing words are written (R127). -/
def teamPlaced (s : State) (lid core slot c0 : Nat) (l : Launch) (ws : List Word) : State :=
  (installTeam (acquire s core) core slot c0 (startTeam lid core c0 l.nextTeam l) l
    ((List.range (32 * l.ngrp)).map fun tid => startThread l l.nextTeam tid ws none)).modLaunch lid
    fun l => { l with nextTeam := l.nextTeam + 1 }

/-- A team whose parameters are read stays where some backing word of its threads cannot be written. -/
theorem teamResident_of_backing {s : State} {lid core slot c0 : Nat} {l : Launch} {vs : List Nat}
    (hl : find? s.launches lid = some l) (hslot : freeTeamSlot (s.core core) = some slot) (hwaits : l.waitsRoom = true)
    (hserves : coreServes s core l = true) (hroom : roomFor s core c0 l = true) (hfirst : otherFirst s core l = false)
    (hvs : devValues s (dieOf core) l.asp 4 l.param l.npre = .ok vs)
    (hback : backingFree (teamPlaced s lid core slot c0 l (vs.map (BitVec.ofNat 32))) (core * 4 + slot) (32 * l.ngrp) = false) :
    exec (.teamResident lid core c0) s = s.stall := by
  change execTeamResident lid core c0 s = _
  simp only [execTeamResident, withLaunch, hl, hslot, hwaits, hserves, hroom, hfirst, Bool.not_true, Bool.or_self, hvs,
    Bool.false_eq_true, if_false]
  exact if_neg (by rw [← teamPlaced, hback]; decide)

/-! A launch whose arena is not mapped. -/

/-- Its plan backs block 0 of its threads at a slice, by the first page of its arena, at 0x40000000; one parameter, at
0x4000, is preloaded into register 0 (R127). -/
def arenaLaunch : Launch :=
  laSet 0x20 0x10008 (laSet 0x28 0x4000 (laSet 0x30 0x40000000 (laSet 0x38 1 (laSet 0x68 4 (laSet 0x78 1 la2)))))

/-- Core 1 has room for a team of it. The page table maps the first GiB alone, where the parameter reads 7. -/
def arenaUnmapped : State := { stRoom arenaLaunch with dram := benchMemory [] 7 }

/-- Whether a read has found some values. -/
def valuesAre (x : Dev (List Nat)) (vs : List Nat) : Bool := match x with | .ok ws => ws == vs | _ => false

theorem of_valuesAre {x : Dev (List Nat)} {vs : List Nat} (h : valuesAre x vs = true) : x = .ok vs := by
  cases x with
  | ok ws => exact congrArg Dev.ok (by simpa [valuesAre] using h)
  | bad => cases h
  | wait => cases h

theorem arenaUnmapped_values :
    devValues arenaUnmapped (dieOf 1) arenaLaunch.asp 4 arenaLaunch.param arenaLaunch.npre = .ok [7] :=
  of_valuesAre (by decide +kernel)

/-- Register 0 of thread 0 holds 7, which its backing word, at 0x40000000, has to take: the address does not translate (R101). -/
theorem arenaUnmapped_backing :
    backingFree (teamPlaced arenaUnmapped 0 1 0 0 arenaLaunch [7]) 4 (32 * arenaLaunch.ngrp) = false := by decide +kernel

/-- Refutes O51: its clause on `teamResident` asks that a team become resident wherever its parameters can be read and no
launch goes first. Nothing in it asks that the arena be mapped, and where it is not, a preloaded far block keeps the team
waiting. -/
theorem not_launchEvents : ¬ Obligations.LaunchEvents := by
  unfold Obligations.LaunchEvents
  rintro ⟨hresident, -⟩
  have hserves : coreServes arenaUnmapped 1 arenaLaunch = true := by decide +kernel
  have hroom : roomFor arenaUnmapped 1 0 arenaLaunch = true := by decide +kernel
  have hfirst : otherFirst arenaUnmapped 1 arenaLaunch = false := by decide +kernel
  obtain ⟨-, -, hstart⟩ := hresident arenaUnmapped 0 1 0 0 arenaLaunch [7] rfl rfl rfl rfl (by decide +kernel)
    hserves hroom (by decide) rfl nofun
  obtain ⟨t, tm, ht, hlaunch, -⟩ := hstart hfirst rfl (fun x hx a ha => by
    obtain rfl := List.mem_singleton.mp hx
    cases ha) arenaUnmapped_values
  have hstay : exec (.teamResident 0 1 0) arenaUnmapped = arenaUnmapped.stall :=
    teamResident_of_backing rfl rfl (by decide +kernel) hserves hroom hfirst arenaUnmapped_values arenaUnmapped_backing
  obtain rfl := Host.Outcome.next.inj (hstay.symm.trans ht)
  have hnext : arenaLaunch = { arenaLaunch with nextTeam := arenaLaunch.nextTeam + 1 } := Option.some.inj hlaunch
  exact absurd (congrArg Launch.nextTeam hnext) (by decide)

end Sys2Proof.Machine
end
